-- ==== Sys2Proof/Word.lean ====
section
/-! DEFINITION. The word types of the model. Registers and fields are bit vectors, addresses of memory cells are
natural numbers, and byte strings are lists of bytes in increasing address (R2: little-endian). -/

namespace Sys2Proof

/-- One byte. -/
abbrev Byte := BitVec 8
/-- A 16-bit word, such as a status code (R332). -/
abbrev Half := BitVec 16
/-- A 32-bit word: a lane's register. -/
abbrev Word := BitVec 32
/-- A 64-bit word: a register, a count, a handle, an address operand. -/
abbrev Wide := BitVec 64
/-- A string of bytes in increasing address. -/
abbrev Bytes := List Byte
/-- A descriptor or a cache line: 64 bytes, byte 0 in bits [7:0] (R2). -/
abbrev Line := BitVec 512
/-- A finite map from natural numbers, kept in increasing order of its keys without repeats. -/
abbrev NMap (α : Type) := List (Nat × α)

end Sys2Proof
end

