-- ==== Sys2Proof/Syntax.lean ====
section
/-! DEFINITION. The commands of the PSY-9600: one constructor of `Instr` for each row of the table of operations
and events, with the operands its sender gives. Where the spec leaves a choice to the device that is "not an
interface" (which brick a block lands on, R44), the operand carries the choice. -/

namespace Sys2Proof

/-- Where a ring command comes from: a descriptor in flight on a ring, or a descriptor that Gotik issues through
its own queue (R472), naming the partition and address space it acts in. -/
inductive CmdSource where
  | ring (ring : Nat) (serial : Wide)
  | gotik (part asid : Nat) (desc : Line)
  deriving DecidableEq, Repr

/-- The source of a register write (R3, R474). -/
inductive RegSource where
  | option | manager | mgmt | gotik
  | mortar (device : Nat)
  | other
  deriving DecidableEq, Repr

/-- The source of a doorbell write (R298). -/
inductive DbFrom where
  | local
  | device (addr : Nat)
  | queuePair (qp : Nat)
  deriving DecidableEq, Repr

/-- A block of a dispatch in flight: its ring, serial and linear block index. -/
structure BlockRef where
  ring : Nat
  serial : Wide
  block : Nat
  deriving DecidableEq, Repr

/-- SPIR-V scopes (R78). -/
inductive Scope where
  | lane | course | block | cluster | device | fabric
  deriving DecidableEq, Repr

/-- The storage class an access names (R85, R63). -/
inductive StorageClass where
  | buffer | physical | workgroup | clusterLocal | image
  /-- built-in inputs by the number of the BuiltIn (R46, R62, R139), outputs of a pass's courses by location (R145, R151), and
  attachments of a pass by index (R152) -/
  | input | output | inputAttachment
  deriving DecidableEq, Repr

/-- Integer additions of R84. -/
inductive AddKind where
  | add | sub | increment | decrement
  deriving DecidableEq, Repr

/-- Integer minimum and maximum of R84. -/
inductive MinMaxKind where
  | smin | smax | umin | umax
  deriving DecidableEq, Repr

/-- Bitwise atomics of R84. -/
inductive BitKind where
  | band | bor | bxor
  deriving DecidableEq, Repr

/-- An access of a lane to an image (R172 to R174): the virtual addresses of the image descriptor and, for a sampled
read, of the sampler descriptor; the texel, array layer, level and sample; and the FP32 coordinates and level of detail
of a sampled read, with its depth reference. -/
structure ImageArgs where
  desc : Wide
  sampler : Option Wide
  x : Nat
  y : Nat
  layer : Nat
  level : Nat
  sample : Nat
  u : Word
  v : Word
  lod : Word
  ref : Word
  deriving DecidableEq, Repr

/-- What one lane offers to an atomic instruction: thread index in the block, address, operand, comparator, and for a texel of an
image, in place of the address, the arguments of the access. -/
structure LaneAtomic where
  thread : Nat
  addr : Wide
  value : Wide
  compare : Wide
  image : Option ImageArgs
  deriving DecidableEq, Repr

/-- An atomic instruction: its block, its storage class, the operand size in bytes and its lanes in issue order. -/
structure AtomicArgs where
  ref : BlockRef
  cls : StorageClass
  size : Nat
  lanes : List LaneAtomic
  deriving DecidableEq, Repr

/-- What one lane gives to a plain load or store: its thread, the address, the bytes written by a store, for an image the
texel's four words, and the arguments of an image access. -/
structure LaneAccess where
  thread : Nat
  addr : Wide
  data : Bytes
  image : Option ImageArgs
  deriving DecidableEq, Repr

/-- A plain load or store instruction of a path (R81, R235): one access of `size` bytes for each of its lanes. `evict` is the
pond line the device replaces for this access, if any: replacement is not an interface (R202). -/
structure PathAccess where
  ref : BlockRef
  cls : StorageClass
  store : Bool
  size : Nat
  lanes : List LaneAccess
  evict : Option Nat
  deriving DecidableEq, Repr

/-- What an acquire or a release names (R79): its scope and the storage classes that its semantics cover. -/
structure MemOrder where
  scope : Scope
  classes : List StorageClass
  deriving DecidableEq, Repr

/-- A release: the threads that issue it, and what it names. -/
structure ReleaseArgs where
  threads : List Nat
  order : MemOrder
  deriving DecidableEq, Repr

/-- OpBlockMatMulAddSTOLKALOR (R92): the registers of the 32 lanes, lane by lane. `active` lists the lanes of the
issuing path. -/
structure MatArgs where
  ref : BlockRef
  course : Nat
  active : List Nat
  formatA : Nat
  formatB : Nat
  blockLength : Option Nat
  a : List (List Word)
  b : List (List Word)
  c : List (List Word)
  scaleA : List Word
  scaleB : List Word
  deriving DecidableEq, Repr

/-- OpConvertRoundedSTOLKALOR (R116) on one course: the source registers of each active lane. -/
structure ConvArgs where
  ref : BlockRef
  course : Nat
  lanes : List (Nat × List Word)
  source : Nat
  target : Nat
  count : Nat
  rounding : Nat
  overflow : Nat
  /-- 32-bit words of the result (R117) -/
  words : Nat
  deriving DecidableEq, Repr

/-- OpBlockQuantizeSTOLKALOR (R131): one FP32 value for each of the 32 lanes. -/
structure QuantArgs where
  ref : BlockRef
  course : Nat
  active : List Nat
  target : Nat
  blockLength : Nat
  rounding : Nat
  values : List Word
  deriving DecidableEq, Repr

/-- What Gotik's translation decides and the module's words do not show (R51 to R53): the result of SPIR-V validation (the
word offset of the first offending instruction, if any), the registers it needs, the module's own private scratch, the bytes
that each Workgroup and ClusterLocal variable takes in the layout it records, in module order, and the size of the code. -/
structure Translation where
  malformedAt : Option Nat
  regsNeeded : Nat
  scratchBytes : Nat
  layout : List Nat
  codeBytes : Nat
  deriving DecidableEq, Repr

/-- The header of a Mortar frame (R368). -/
structure MortarHdr where
  kind : Nat
  vl : Nat
  lenDw : Nat
  linkSeq : Nat
  dst : Nat
  src : Nat
  op : Nat
  size : Nat
  slot : Nat
  slotGen : Nat
  epoch : Nat
  status : Half
  address : Wide
  deriving DecidableEq, Repr

/-- A Mortar frame: its header, its payload and whether its CRC-32 is right (R367). -/
structure MortarFrame where
  hdr : MortarHdr
  payload : Bytes
  crcOk : Bool
  deriving DecidableEq, Repr

/-- A translated access through a fabric leaf (R389): the requesting ring, if any, and its command; for an access of a
block, its index and thread; and the operation as R368 codes it, with its target, length and payload. -/
structure RemoteAccess where
  ring : Option Nat
  serial : Wide
  block : Option Nat
  thread : Nat
  kind : Nat
  op : Nat
  size : Nat
  device : Nat
  address : Nat
  length : Nat
  payload : Bytes
  deriving DecidableEq, Repr

/-- What Gotik answers on Ethernet-mode ports (R361). -/
inductive NetQuery where
  | arp (targetIp senderIp : Word) (senderMac : BitVec 48)
  | neighbour (target senderIp : BitVec 128) (senderMac : BitVec 48)
  | echo4 (dstIp senderIp : Word) (ident seq : Half) (data : Bytes)
  | echo6 (dstIp senderIp : BitVec 128) (ident seq : Half) (data : Bytes)
  deriving DecidableEq, Repr

/-- PTP messages (R366): Sync with its master and, for a one-step master, its origin time; Follow_Up and
Delay_Resp with their times; Announce; Delay_Req, answered by a boundary clock; and the two kinds not supported. -/
inductive PtpKind where
  | sync (twoStep : Bool) (origin : Nat)
  | followUp (origin : Nat)
  | delayReq
  | delayResp (received : Nat)
  | announce (clockClass : Nat)
  | peerDelay
  | management
  deriving DecidableEq, Repr

/-- A PTP message arriving on a port. -/
structure PtpMsg where
  domain : Nat
  kind : PtpKind
  deriving DecidableEq, Repr

/-- What takes the generator out of LOCKED (R27): no 1PPS edges, no 10 MHz, no usable Sync. `tenMHzBack` is the 10 MHz input there
again: the table has no row for that, and the row of its loss carries it (DESIGN CHOICE, log entry 18). -/
inductive LossCause where
  | pps | tenMHz | tenMHzBack | sync
  deriving DecidableEq, Repr

/-- Wake sources (R421). -/
inductive WakeSource where
  | wakeN
  | signalDetect (port : Nat)
  | tickAlarm
  | deepTimer
  | wakeFrame (port : Nat)
  | inbound (port : Nat)
  | alertFall
  deriving DecidableEq, Repr

/-- One RoCEv2 request (R362 to R364). -/
structure RoceReq where
  qp : Nat
  rkey : Word
  va : Wide
  length : Nat
  data : Bytes
  imm : Word
  srcQpn : BitVec 24
  deriving DecidableEq, Repr

/-- The RoCEv2 atomics (R362). -/
inductive RoceAtomicOp where
  | fetchAdd (value : Wide)
  | compareSwap (compare swap : Wide)
  deriving DecidableEq, Repr

/-- A sample of one extreme pair: its index and two's-complement value, or skipped (R449). -/
structure Sample where
  pair : Nat
  value : Word
  deriving DecidableEq, Repr

/-- One TCK cycle of the TAP: the levels of TMS, TDI and TRST_N (R466). -/
structure TapClock where
  tms : Bool
  tdi : Bool
  trstN : Bool
  deriving DecidableEq, Repr

/-- The result of a unit self-check or of training: the failing unit as `RST_FAULT` names it, or none (R407). -/
abbrev SelfCheck := Option (Nat × Nat)

/-- The commands. The comment of each group names the chapter; each constructor is the row of its mnemonic. -/
inductive Instr where
  -- 13, 14: rings, objects, fences, kernels
  | nop (src : CmdSource)
  | ringCreate (src : CmdSource)
  | ringControlDestroy (src : CmdSource)
  | ringControlRestart (src : CmdSource)
  | ringControlBudget (src : CmdSource)
  | ringDisabledRelease (ring : Nat)
  | objCreate (src : CmdSource)
  | objFree (src : CmdSource)
  | objectEntryFreed (index : Nat)
  | fenceWait (src : CmdSource)
  | fenceWaitSatisfied (ring : Nat) (serial : Wide)
  | waitTimeout (ring : Nat) (serial : Wide)
  | parkedWaitTakesSlot
  | fenceSignal (src : CmdSource)
  | kernelLoad (src : CmdSource)
  | kernelTranslationEnd (index : Nat) (t : Translation)
  -- 03, 04: dispatch, placement, barriers, lane accesses
  | dispatch (src : CmdSource)
  | blockPlace (ref : BlockRef) (bricks : List Nat)
  | brickDrainSelect (ref : BlockRef)
  | blockExit (ref : BlockRef) (threads : List Nat)
  | dispatchComplete (ring : Nat) (serial : Wide)
  | divergentBarrier (ref : BlockRef)
  | watchdog (ref : BlockRef)
  | opControlBarrier (ref : BlockRef) (scope : Scope) (site : Nat) (threads : List Nat)
  | kernelLoadStore (a : PathAccess)
  | memoryRelease (ref : BlockRef) (release : ReleaseArgs)
  | memoryAcquire (ref : BlockRef) (order : MemOrder)
  | atomicLoadStore (store : Bool) (a : AtomicArgs)
  | atomicExchange (a : AtomicArgs)
  | atomicCompareExchange (a : AtomicArgs)
  | atomicIntegerAdd (k : AddKind) (a : AtomicArgs)
  | atomicMinMax (k : MinMaxKind) (a : AtomicArgs)
  | atomicBitwise (k : BitKind) (a : AtomicArgs)
  | atomicFloatAdd (a : AtomicArgs)
  | clusterLocalAccess (a : PathAccess)
  -- 05, 06: matrix, conversion, quantization
  | blockMatMulAdd (m : MatArgs)
  | convertRounded (c : ConvArgs)
  | blockQuantize (q : QuantArgs)
  -- 09: springs
  | springDescriptorStore (ref : BlockRef) (spring offset : Nat) (data : Bytes)
  | springStart (ref : BlockRef) (spring : Nat)
  | springStop (ref : BlockRef) (spring : Nat)
  | springRelease (ref : BlockRef) (spring : Nat) (mask : Byte)
  | springTileFetch (brick spring : Nat)
  | springTileReady (brick spring slot : Nat)
  | springPortBadAccess (ref : BlockRef) (offset size : Nat) (store atomic : Bool)
  -- 07: raster
  | renderPass (src : CmdSource)
  | heapGrowRequest (ring : Nat) (serial : Wide) (frontEnd : Nat)
  | heapGrowGrant (ring : Nat) (serial : Wide) (chunks : Nat)
  | heapGrowTimeout (ring : Nat) (serial : Wide)
  -- 08: composition
  | poseSubmit (src : CmdSource)
  | posePacketUdp (port : Nat) (payload : Bytes)
  | layerPublish (src : CmdSource)
  | poseLatch (stream : Nat)
  | sliceDueEdge (stream : Nat)
  | outgeomCommit (src : RegSource) (stream : Nat)
  | outgeomTakeEffect (stream : Nat)
  | cmatrixCommit (src : RegSource) (stream : Nat)
  | cmatrixTakeEffect (stream : Nat)
  -- 09: maintenance
  | maintainClean (src : CmdSource)
  | maintainInvalidate (src : CmdSource)
  | maintainCleanInvalidate (src : CmdSource)
  | maintenanceOpStart (die : Nat)
  -- 10: translation and faults
  | faultResume (src : CmdSource)
  | xltInvalidate (src : CmdSource)
  | invalidationStart
  | invalidationTimeout
  | invalidationComplete
  | tableWalk (asid part : Nat) (va : Wide) (write atomic execute : Bool) (length : Nat)
  | faultBatchClose (asid : Nat)
  | faultRingRoom (asid : Nat)
  -- 11: compression
  | streamCodecCompress (src : CmdSource)
  | streamCodecDecompress (src : CmdSource)
  | streamJobStart
  | codecRecode (src : CmdSource)
  | codecBlockWriteBack (addr : Nat)
  | codecBlockMerge (addr : Nat) (data : Bytes) (target : Option Nat)
  -- 12: sequence engine
  | step (src : CmdSource)
  | guestPageRequest (pool device pages : Nat)
  | poolcfgCommit (src : RegSource) (pool : Nat)
  | poolcfgTakeEffect (pool : Nat)
  -- 15: partitions
  | abortRing (src : CmdSource)
  | abortPartition (src : CmdSource)
  | preempt (src : CmdSource)
  | preemptSavePoint (ring : Nat)
  | restore (src : CmdSource)
  | autoPreempt (part : Nat)
  | savedBlockRestore (part : Nat) (bricks : List Nat)
  | partcfgCommit (src : RegSource) (part : Nat)
  -- 20: signed commands
  | signedCommandRecorderClear (src : CmdSource)
  | signedCommandMembership (src : CmdSource)
  | signedCommandFirmwareUpdate (src : CmdSource)
  | signedCommandDebugUnlock (src : CmdSource)
  | signedCommandMgmtGrant (src : CmdSource)
  | signedCommandOwnerBind (src : CmdSource)
  -- 13: doorbells, fetch, retirement
  | doorbell (source : DbFrom) (ring : Nat) (value : Wide)
  | descriptorFetch (ring : Nat)
  | commandStart (ring : Nat) (serial : Wide)
  | commandRetire (ring : Nat) (serial : Wide)
  | cqRoom (ring : Nat)
  -- 02: the site tick
  | tickEdge
  | tickCommit (src : RegSource)
  | tickSourceSelect (src : RegSource) (value : Word)
  | ppsEdge
  | lockLost (cause : LossCause)
  | ptpMessage (port : Nat) (m : PtpMsg)
  | ptpSyncSend (port : Nat)
  -- 16: Ethernet mode
  | ethernetFrameReceive (port : Nat) (frame : Bytes) (fcsOk : Bool)
  | arpNdIcmp (port : Nat) (q : NetQuery)
  | roceSend (r : RoceReq)
  | roceRdmaWrite (r : RoceReq)
  | roceRdmaWriteImm (r : RoceReq)
  | roceRdmaRead (r : RoceReq)
  | roceAtomic (r : RoceReq) (op : RoceAtomicOp)
  | roceEcnCe (qp : Nat)
  | roceCnpReceive (qp : Nat)
  | roceRateRecovery (qp : Nat)
  -- 16: Mortar mode
  | mortarRead (port : Nat) (f : MortarFrame)
  | mortarWrite (port : Nat) (f : MortarFrame)
  | mortarAtomic (port : Nat) (f : MortarFrame)
  | mortarResponse (port : Nat) (f : MortarFrame)
  | mortarDoorbell (port : Nat) (f : MortarFrame)
  | mortarFenceSignal (port : Nat) (f : MortarFrame)
  | mortarFenceIncrement (port : Nat) (f : MortarFrame)
  | mortarFenceUpdate (port : Nat) (f : MortarFrame)
  | mortarFenceSubscribe (port : Nat) (f : MortarFrame)
  | mortarFenceUnsubscribe (port : Nat) (f : MortarFrame)
  | mortarFenceEnd (port : Nat) (f : MortarFrame)
  | frameForward (port : Nat) (f : MortarFrame)
  | linkAck (port : Nat) (f : MortarFrame)
  | linkNak (port : Nat) (f : MortarFrame)
  | linkFrameSend (port : Nat)
  | replayTimeout (port : Nat)
  | linkDown (port : Nat)
  | linkUp (port : Nat)
  | opTimeout (slot : Nat)
  | tunnelDatagram (port : Nat) (source : Option Nat) (payload : Bytes)
  | remoteAccessIssue (r : RemoteAccess)
  | heldRemoteRelease (index : Nat)
  -- 17: the fabric domain
  | hello (hop : Nat)
  | helloReceive (hop : Nat) (payload : Bytes)
  | report (hop : Nat) (payload : Bytes)
  | assign (hop : Nat) (payload : Bytes)
  | listReq (hop : Nat) (payload : Bytes)
  | listData (hop : Nat) (payload : Bytes)
  | neighbourLost (hop : Nat)
  | managerElected
  | managerLost
  | sideDecide
  | leaseExpiry
  | rejoin (hop : Nat)
  | wakeFrame (port : Nat) (payload : Bytes)
  -- 18, 22: power input, reset and boot
  | powerOn
  | brownOut (us : Nat) (standby : Bool)
  | overvoltage (mv us : Nat)
  | resetN (lowNs : Nat)
  | rstDeviceReset (src : RegSource) (value : Word)
  | rstPartReset (src : RegSource) (value : Word)
  | rstBlockReset (src : RegSource) (value : Word)
  | fwWatchdog
  | rstWdogKick (src : RegSource)
  | bootPhase0 (fuseOk : Bool)
  | bootPhase1
  | bootPhase2
  | bootPhase3 (check : SelfCheck)
  | dramTrainingEnd (check : SelfCheck)
  -- 19: power
  | pwrTargetSleep (src : RegSource)
  | pwrTargetDeep (src : RegSource)
  | pwrTargetOff (src : RegSource)
  | pwrTargetRun (src : RegSource)
  | powerStateReached (asserted : Option WakeSource)
  | autoIdle
  | idleExit
  | wakeEvent (w : WakeSource)
  | sleepExit
  | deepExit
  | deepTimer
  | domainPowerOn (domain : Nat)
  | dvfsChange (wall : Nat)
  | powerCapMove (meanW meanMv : Nat)
  | capExceeded (meanW meanMv : Nat)
  | thermalForce (meanW hottestC : Nat)
  | thermalTrip (hottestC : Nat)
  -- 09, 11: lake and codec set-up
  | lakeMemWaysChange (src : RegSource) (value : Word)
  | tagInvalidation
  | lakePrefetch (addr : Nat) (brick : Option Nat)
  | cprCwinWrite (src : RegSource) (value : Word)
  | fabPCtrlMode (src : RegSource) (port : Nat) (value : Word)
  -- 20: attestation
  | attestGo (src : RegSource)
  | attestDone
  -- 21: recorder and counters
  | recorderRound
  | recorderWindowEnd
  | extremesSample (samples : List Sample)
  | recCtrlHold (src : RegSource) (hold : Bool)
  | holdExpiry
  | pmcCtrlFreeze (src : RegSource) (value : Word)
  | bwWindowClose (port : Nat)
  | pmcBwWindowWrite (src : RegSource) (value : Word)
  | mirrorWrite (part : Nat)
  -- 00: register writes, and the rest of the table
  | registerWrite (src : RegSource) (offset width : Nat) (value : Wide)
  | standbyRailLoss
  | thermalForceRelease (meanW hottestC : Nat)
  | sharedOperationTimeout (ring : Nat) (serial : Wide)
  | mortarFrameDiscard (port : Nat) (f : MortarFrame)
  | boundaryScan (clocks : List TapClock)
  deriving DecidableEq, Repr

end Sys2Proof
end

