-- ==== Sys2Proof/Decode.lean ====
section
/-! DEFINITION. Words of the table of commands. The table gives no row any bits, so that no word spells a command. -/

namespace Sys2Proof

/-- The command that a word spells by the table's bits: none, for want of rows with bits. -/
def decodeTableWord (_nbits _w : Nat) : Option Instr := none

end Sys2Proof
end

