-- ==== Sys2Proof/Config.lean ====
section
/-! DEFINITION. The free values of the model: what the spec leaves open. Every constant here is opaque: nothing can
evaluate it, so a statement holds whatever its values are. Most take a plain index that the state advances
(`Dev.freeCtr`), so that each use is a fresh value. -/

namespace Sys2Proof

/-- The byte an unwritten cell of undefined memory holds (R55, R252, R411): by generation and address. -/
opaque Config.freeByte (gen addr : Nat) : Byte

/-- An undefined 64-bit value. -/
opaque Config.freeWide (n : Nat) : Wide

/-- An undefined choice among alternatives. -/
opaque Config.freeNat (n : Nat) : Nat

/-- An undefined truth value. -/
opaque Config.freeBool (n : Nat) : Bool

/-- The sets of a lake slice in which the lines of a 256-byte block lie, by its number: set selection is not an interface
(R202). -/
opaque Config.lakeSet (block : Nat) : Nat

/-- The lossless block record a codec would write (R259): a proposal that is taken only where it is one of the
records R259 allows. -/
opaque Config.losslessRecord (n : Nat) : Bytes

/-- The order and grouping of the additions of one matrix element (R105): each number names the two partial sums added
next. -/
opaque Config.matrixOrder (n : Nat) : List Nat

/-- The DEFLATE bytes that the last of a stream's compression jobs would emit, and those that would end its open block (R270): a
proposal that is taken only where it decodes to the input. Each job is its input, level, flush and final. The algorithm is
not given. -/
opaque Config.deflateOut (jobs : List (Bytes × Nat × Bool × Bool)) : Bytes × Bytes

/-- How many input bytes a compression job has used when its output space is full (R268): by the stream's jobs, the last
one with all its input, and the space. -/
opaque Config.deflateTaken (jobs : List (Bytes × Nat × Bool × Bool)) (room : Nat) : Nat

/-- The signature the security block makes over a message with the identity key (R440). -/
opaque Config.identitySign (msg : Bytes) : Bytes

/-- The modulus of the key that a fused key hash names, where only its hash is given (R435). -/
opaque Config.publicKey (hash : Bytes) : Nat

/-- What a fixed-function unit makes of a NaN, by its FP32 code, where it clamps to [0, 1], in units of 2⁻²⁴: the spec states no
value (R168, R186). -/
opaque Config.nanClamp (c : Nat) : Nat

/-- The TDO level of the TAP (IEEE 1149.1 register contents are not given). -/
opaque Config.tdo (n : Nat) : Bool

end Sys2Proof
end

