-- ==== Sys2Proof/Machine/Bits.lean ====
section
/-! DEFINITION. Bit fields, byte order, finite maps and list helpers that every other file of the machine uses. -/

namespace Sys2Proof.Machine

/-- The field `[hi:lo]` of a 64-bit value, in the low bits. -/
def bits (v : Wide) (hi lo : Nat) : Wide := (v >>> lo) &&& ((1 <<< (hi - lo + 1) : Wide) - 1)

/-- The field `[hi:lo]` as a number. -/
def bitsN (v : Wide) (hi lo : Nat) : Nat := (v.toNat >>> lo) % 2 ^ (hi - lo + 1)

/-- Bit `i` of a 64-bit value. -/
def bit (v : Wide) (i : Nat) : Bool := v.getLsbD i

/-- `v` with the field `[hi:lo]` replaced by the low bits of `x`. -/
def setBits (v : Wide) (hi lo : Nat) (x : Wide) : Wide :=
  let m : Wide := ((1 <<< (hi - lo + 1) : Wide) - 1) <<< lo
  (v &&& ~~~m) ||| ((x <<< lo) &&& m)

/-- A truth value as a 64-bit 0 or 1. -/
def ofBool (b : Bool) : Wide := if b then 1 else 0

/-- Bit `i` of a natural number. -/
def nbit (v i : Nat) : Bool := v.testBit i

/-- The number of bits set among the low `n` bits of `v`. -/
def popcount (v : Nat) (n : Nat) : Nat := ((List.range n).filter (fun i => v.testBit i)).length

/-- The bits set among the low `n` bits of `v`, in increasing order. -/
def setBitsOf (v : Nat) (n : Nat) : List Nat := (List.range n).filter (fun i => v.testBit i)

/-- Little-endian value of a byte string (R2). -/
def leNat : Bytes → Nat
  | [] => 0
  | b :: bs => b.toNat + 256 * leNat bs

/-- `n` bytes of `v`, least significant first (R2). -/
def leBytes : Nat → Nat → Bytes
  | 0, _ => []
  | n + 1, v => BitVec.ofNat 8 v :: leBytes n (v / 256)

/-- Big-endian value of a byte string (standard protocol headers, R2). -/
def beNat (bs : Bytes) : Nat := leNat bs.reverse

/-- `n` bytes of `v`, most significant first. -/
def beBytes (n v : Nat) : Bytes := (leBytes n v).reverse

/-- Bytes `[o, o + n)` of a byte string; bytes beyond its end read as zero. -/
def slice (bs : Bytes) (o n : Nat) : Bytes :=
  let t := (bs.drop o).take n
  t ++ List.replicate (n - t.length) 0

/-- Little-endian field of a byte string: `n` bytes at offset `o`. -/
def leAt (bs : Bytes) (o n : Nat) : Nat := leNat (slice bs o n)

/-- Big-endian field of a byte string: `n` bytes at offset `o`. -/
def beAt (bs : Bytes) (o n : Nat) : Nat := beNat (slice bs o n)

/-- A 64-bit little-endian field. -/
def wideAt (bs : Bytes) (o : Nat) : Wide := BitVec.ofNat 64 (leAt bs o 8)

/-- `bs` with the bytes at offset `o` replaced by `d`, as far as `bs` reaches. -/
def splice (bs : Bytes) (o : Nat) (d : Bytes) : Bytes :=
  bs.take o ++ (d.take (bs.length - o)) ++ bs.drop (o + d.length)

/-- The 64 bytes of a descriptor, byte 0 in bits [7:0]. -/
def lineBytes (l : Line) : Bytes := leBytes 64 l.toNat

/-- A descriptor from its bytes. -/
def lineOf (bs : Bytes) : Line := BitVec.ofNat 512 (leNat bs)

/-- The bits `[8·o + hi : 8·o + lo]` of a descriptor, as the descriptor tables count them (offset, bits). -/
def dfield (l : Line) (o hi lo : Nat) : Nat := (l.toNat >>> (8 * o + lo)) % 2 ^ (hi - lo + 1)

/-- A 64-bit field of a descriptor at byte offset `o`. -/
def dwide (l : Line) (o : Nat) : Wide := BitVec.ofNat 64 (l.toNat >>> (8 * o))

/-- Value of a two's-complement field of `w` bits. -/
def signed (w : Nat) (v : Nat) : Int := (BitVec.ofNat w v).toInt

/-- Rounds up to a multiple of `n`. -/
def roundUp (v n : Nat) : Nat := (v + n - 1) / n * n

/-- Rounds up a quotient. -/
def ceilDiv (v n : Nat) : Nat := (v + n - 1) / n

/-- An ASCII string as bytes. -/
def ascii (s : String) : Bytes := s.toList.map (fun c => BitVec.ofNat 8 c.toNat)

/-- Saturating increment of a counter of `w` bits by `n` (counters stop at all ones). -/
def satAdd (w v n : Nat) : Nat := min (v + n) (2 ^ w - 1)

/-! Finite maps. -/

/-- The value at a key. -/
def NMap.get? {α : Type} (m : NMap α) (k : Nat) : Option α :=
  match m with
  | [] => none
  | (k', v) :: t => if k' = k then some v else NMap.get? t k

/-- The value at a key, or a default. -/
def NMap.getD {α : Type} (m : NMap α) (k : Nat) (d : α) : α := (NMap.get? m k).getD d

/-- Sets the value at a key, keeping the keys in increasing order. -/
def NMap.set {α : Type} (m : NMap α) (k : Nat) (v : α) : NMap α :=
  match m with
  | [] => [(k, v)]
  | (k', v') :: t =>
    if k < k' then (k, v) :: (k', v') :: t
    else if k = k' then (k, v) :: t
    else (k', v') :: NMap.set t k v

/-- Removes a key. -/
def NMap.erase {α : Type} (m : NMap α) (k : Nat) : NMap α := m.filter (fun e => e.1 ≠ k)

/-- Changes the value at a key that is present. -/
def NMap.modify {α : Type} (m : NMap α) (k : Nat) (f : α → α) : NMap α :=
  m.map (fun e => if e.1 = k then (e.1, f e.2) else e)

/-- Keys strictly rising. -/
def NMap.rising {α : Type} : NMap α → Bool
  | [] => true
  | (k, _) :: t => t.all (fun e => decide (k < e.1)) && NMap.rising t

/-! Lists. -/

/-- Element at an index or a default. -/
def nth {α : Type} (l : List α) (i : Nat) (d : α) : α := (l[i]?).getD d

/-- Replaces the element at an index. -/
def setNth {α : Type} (l : List α) (i : Nat) (x : α) : List α := l.set i x

/-- Changes the element at an index. -/
def modNth {α : Type} (l : List α) (i : Nat) (f : α → α) : List α := l.modify i f

/-- The element with the least measure, the first of several. -/
def minBy {α : Type} (f : α → Nat) : List α → Option α
  | [] => none
  | x :: t =>
    match minBy f t with
    | none => some x
    | some y => if f x ≤ f y then some x else some y

/-- Inserts before the first element that does not come before `x`. -/
def insertBy {α : Type} (le : α → α → Bool) (x : α) : List α → List α
  | [] => [x]
  | y :: t => if le x y then x :: y :: t else y :: insertBy le x t

/-- A list in order; equal elements keep their order. -/
def sortBy {α : Type} (le : α → α → Bool) (l : List α) : List α := l.foldr (insertBy le) []

/-- Sum of a list of naturals. -/
def sumN (l : List Nat) : Nat := l.foldl (· + ·) 0

/-- Splits `[a, a + n)` into pieces that do not cross a multiple of `c`; `fuel` bounds the number of pieces. -/
def chunksAt (c : Nat) : Nat → Nat → Nat → List (Nat × Nat)
  | 0, _, _ => []
  | fuel + 1, a, n =>
    if n = 0 then []
    else
      let k := min n (c - a % c)
      (a, k) :: chunksAt c fuel (a + k) (n - k)

/-- Pieces of `[a, a + n)` that do not cross a multiple of `c`. -/
def pieces (c a n : Nat) : List (Nat × Nat) := chunksAt c (n / c + 2) a n

/-- Transfers of at most `c` bytes that cover `[a, a + n)` from its first byte. -/
def transfersOf (c : Nat) : Nat → Nat → Nat → List (Nat × Nat)
  | 0, _, _ => []
  | fuel + 1, a, n => if n = 0 then [] else (a, min n c) :: transfersOf c fuel (a + min n c) (n - min n c)

/-- Transfers of at most `c` bytes. -/
def transfers (c a n : Nat) : List (Nat × Nat) := transfersOf c (n / c + 1) a n

end Sys2Proof.Machine
end

