-- ==== Sys2Proof/Machine/Check.lean ====
section
/-! DEFINITION. Check values and digests: CRC-16 (R253), CRC-32 (R194), Adler-32 (RFC 1950), XXH64 (RFC 8878) and
SHA-256 (FIPS 180-4), with RSASSA-PSS verification over it (RFC 8017). -/

namespace Sys2Proof.Machine

/-- One bit step of CRC-16 with polynomial 0x1021, most significant bit first. -/
def crc16Bit (c : Nat) : Nat := if c ≥ 0x8000 then ((c * 2) ^^^ 0x1021) % 65536 else (c * 2) % 65536

/-- One byte of CRC-16 (R253). -/
def crc16Byte (c : Nat) (b : Byte) : Nat :=
  let x := c ^^^ (b.toNat * 256)
  crc16Bit (crc16Bit (crc16Bit (crc16Bit (crc16Bit (crc16Bit (crc16Bit (crc16Bit x)))))))

/-- CRC-16 of a byte string: initial value 0xFFFF, no final XOR (R253). -/
def crc16 (bs : Bytes) : Nat := bs.foldl crc16Byte 0xFFFF

/-- One bit step of the reflected CRC-32. -/
def crc32Bit (c : Nat) : Nat := if c % 2 = 1 then (c / 2) ^^^ 0xEDB88320 else c / 2

/-- One byte of CRC-32. -/
def crc32Byte (c : Nat) (b : Byte) : Nat :=
  crc32Bit (crc32Bit (crc32Bit (crc32Bit (crc32Bit (crc32Bit (crc32Bit (crc32Bit (c ^^^ b.toNat))))))))

/-- CRC-32 continued from a running value (before the final XOR, 0xFFFFFFFF at the start). -/
def crc32Run (c : Nat) (bs : Bytes) : Nat := bs.foldl crc32Byte c

/-- CRC-32 of a byte string: reflected, initial value and final XOR all ones (R194). -/
def crc32 (bs : Bytes) : Nat := crc32Run 0xFFFFFFFF bs ^^^ 0xFFFFFFFF

/-- Adler-32 of a byte string continued from a running value (1 at the start). -/
def adler32Run (v : Nat) (bs : Bytes) : Nat :=
  let r := bs.foldl (fun (ab : Nat × Nat) b =>
    let a := (ab.1 + b.toNat) % 65521
    (a, (ab.2 + a) % 65521)) (v % 65536, v / 65536)
  r.1 + 65536 * r.2

/-! XXH64. -/

def xxP1 : Wide := 0x9E3779B185EBCA87#64
def xxP2 : Wide := 0xC2B2AE3D27D4EB4F#64
def xxP3 : Wide := 0x165667B19E3779F9#64
def xxP4 : Wide := 0x85EBCA77C2B2AE63#64
def xxP5 : Wide := 0x27D4EB2F165667C5#64

/-- One lane round of XXH64. -/
def xxRound (acc inp : Wide) : Wide := ((acc + inp * xxP2).rotateLeft 31) * xxP1

/-- Merges a lane into the accumulator. -/
def xxMerge (acc v : Wide) : Wide := (acc ^^^ xxRound 0 v) * xxP1 + xxP4

/-- Consumes 32-byte stripes; `fuel` bounds their number. -/
def xxStripes : Nat → Bytes → Wide → Wide → Wide → Wide → Wide × Wide × Wide × Wide × Bytes
  | 0, bs, a, b, c, d => (a, b, c, d, bs)
  | fuel + 1, bs, a, b, c, d =>
    if bs.length < 32 then (a, b, c, d, bs)
    else xxStripes fuel (bs.drop 32) (xxRound a (wideAt bs 0)) (xxRound b (wideAt bs 8)) (xxRound c (wideAt bs 16))
      (xxRound d (wideAt bs 24))

/-- Consumes the 8-byte words of the tail. -/
def xxWords : Nat → Bytes → Wide → Wide × Bytes
  | 0, bs, h => (h, bs)
  | fuel + 1, bs, h =>
    if bs.length < 8 then (h, bs)
    else xxWords fuel (bs.drop 8) (((h ^^^ xxRound 0 (wideAt bs 0)).rotateLeft 27) * xxP1 + xxP4)

/-- XXH64 of a byte string with seed 0. -/
def xxh64 (bs : Bytes) : Wide :=
  let len := bs.length
  let r := xxStripes (len / 32) bs (xxP1 + xxP2) xxP2 0 (0 - xxP1)
  let h : Wide :=
    if len ≥ 32 then
      let h := r.1.rotateLeft 1 + r.2.1.rotateLeft 7 + r.2.2.1.rotateLeft 12 + r.2.2.2.1.rotateLeft 18
      xxMerge (xxMerge (xxMerge (xxMerge h r.1) r.2.1) r.2.2.1) r.2.2.2.1
    else xxP5
  let h := h + BitVec.ofNat 64 len
  let w := xxWords 4 r.2.2.2.2 h
  let h := w.1
  let t := w.2
  let h4 := if t.length ≥ 4 then
      (((h ^^^ (BitVec.ofNat 64 (leAt t 0 4) * xxP1)).rotateLeft 23) * xxP2 + xxP3, t.drop 4)
    else (h, t)
  let h := h4.2.foldl (fun h b => ((h ^^^ (BitVec.ofNat 64 b.toNat * xxP5)).rotateLeft 11) * xxP1) h4.1
  let h := (h ^^^ (h >>> 33)) * xxP2
  let h := (h ^^^ (h >>> 29)) * xxP3
  h ^^^ (h >>> 32)

/-! SHA-256 (FIPS 180-4), as two recurrences: of its eight working words, four are the last values of one sequence and four
those of the other. -/

/-- Word `i` of `n` words of 32 bits that one number holds, the first one highest. -/
def packedWord (v n i : Nat) : Word := BitVec.ofNat 32 (v / 2 ^ (32 * (n - 1 - i)))

/-- The sixty-four constants of SHA-256, sixteen to a number. -/
def shaConstants : List Word :=
  [0x428a2f9871374491b5c0fbcfe9b5dba53956c25b59f111f1923f82a4ab1c5ed5d807aa9812835b01243185be550c7dc372be5d7480deb1fe9bdc06a7c19bf174,
   0xe49b69c1efbe47860fc19dc6240ca1cc2de92c6f4a7484aa5cb0a9dc76f988da983e5152a831c66db00327c8bf597fc7c6e00bf3d5a7914706ca635114292967,
   0x27b70a852e1b21384d2c6dfc53380d13650a7354766a0abb81c2c92e92722c85a2bfe8a1a81a664bc24b8b70c76c51a3d192e819d6990624f40e3585106aa070,
   0x19a4c1161e376c082748774c34b0bcb5391c0cb34ed8aa4a5b9cca4f682e6ff3748f82ee78a5636f84c878148cc7020890befffaa4506cebbef9a3f7c67178f2].flatMap (fun v => (List.range 16).map (packedWord v 16))

/-- The two sequences of working words, each with its latest value first. -/
abbrev ShaPair := List Word × List Word

/-- The initial hash value. -/
def shaInit : ShaPair :=
  ((List.range 4).map (packedWord 0x6a09e667bb67ae853c6ef372a54ff53a 4), (List.range 4).map (packedWord 0x510e527f9b05688c1f83d9ab5be0cd19 4))

/-- The exclusive or of rotations of a word. -/
def shaTurns (x : Word) (ns : List Nat) : Word := ns.foldl (fun y n => y ^^^ x.rotateRight n) 0

/-- The message schedule one word longer; the latest word comes first. -/
def shaLonger (ws : List Word) : List Word :=
  let y := nth ws 1 0
  let z := nth ws 14 0
  ((shaTurns y [17, 19] ^^^ (y >>> 10)) + nth ws 6 0 + (shaTurns z [7, 18] ^^^ (z >>> 3)) + nth ws 15 0) :: ws

/-- The schedule of a 64-byte block in order. -/
def shaSchedule (b : Bytes) : List Word :=
  (Nat.repeat shaLonger 48 ((List.range 16).reverse.map (fun i => BitVec.ofNat 32 (beAt b (4 * i) 4)))).reverse

/-- The next value of each sequence, given a word of the schedule with its constant added. -/
def shaTurn (s : ShaPair) (w : Word) : ShaPair :=
  match s with
  | ([p0, p1, p2, p3], [q0, q1, q2, q3]) =>
    let t := w + q3 + shaTurns q0 [6, 11, 25] + (q2 ^^^ (q0 &&& (q1 ^^^ q2)))
    ([t + shaTurns p0 [2, 13, 22] + ((p0 &&& (p1 ||| p2)) ||| (p1 &&& p2)), p0, p1, p2], [p3 + t, q0, q1, q2])
  | other => other

/-- The hash value after one block more. -/
def shaFold (s : ShaPair) (b : Bytes) : ShaPair :=
  let r := (List.zipWith (· + ·) shaConstants (shaSchedule b)).foldl shaTurn s
  (List.zipWith (· + ·) s.1 r.1, List.zipWith (· + ·) s.2 r.2)

/-- A message with a one bit, zeros and its length in bits behind it, in whole blocks. -/
def shaPadded (m : Bytes) : Bytes :=
  m ++ (0x80 :: List.replicate ((119 - m.length % 64) % 64) 0) ++ beBytes 8 (8 * m.length)

/-- SHA-256 of a byte string, 32 bytes. -/
def sha256 (m : Bytes) : Bytes :=
  let p := shaPadded m
  let r := (List.range (p.length / 64)).foldl (fun s i => shaFold s (slice p (64 * i) 64)) shaInit
  (r.1 ++ r.2).flatMap (fun w => beBytes 4 w.toNat)

/-! RSASSA-PSS with SHA-256, MGF1-SHA-256 and a 32-byte salt. -/

/-- Modular power by the bits of the exponent, least significant first; `fuel` bounds their number. -/
def powMod : Nat → Nat → Nat → Nat → Nat → Nat
  | 0, _, _, _, acc => acc
  | fuel + 1, b, e, n, acc =>
    if e = 0 then acc
    else powMod fuel (b * b % n) (e / 2) n (if e % 2 = 1 then acc * b % n else acc)

/-- MGF1 with SHA-256. -/
def mgf1 (seed : Bytes) (len : Nat) : Bytes :=
  ((List.range (ceilDiv len 32)).flatMap (fun i => sha256 (seed ++ beBytes 4 i))).take len

/-- EMSA-PSS verification of an encoded message of `emBits` bits (RFC 8017, 9.1.2). -/
def pssVerifyEm (mHash em : Bytes) (emBits salt : Nat) : Bool :=
  let emLen := ceilDiv emBits 8
  if emLen < 32 + salt + 2 then false
  else if em.getLast? ≠ some 0xbc then false
  else
    let dbLen := emLen - 33
    let masked := em.take dbLen
    let h := (em.drop dbLen).take 32
    let topBits := 8 * emLen - emBits
    let db0 := (masked.zip (mgf1 h dbLen)).map (fun x => x.1 ^^^ x.2)
    let clear : Byte := BitVec.ofNat 8 (2 ^ (8 - topBits) - 1)
    let db := match db0 with
      | [] => []
      | b :: t => (b &&& clear) :: t
    let top := match masked with
      | [] => (0 : Byte)
      | b :: _ => b &&& ~~~clear
    if top ≠ 0 then false
    else
      let ps := dbLen - salt - 1
      if (db.take ps).any (fun b => b ≠ 0) || nth db ps 0 ≠ 0x01 then false
      else sha256 (List.replicate 8 0 ++ mHash ++ db.drop (ps + 1)) = h

/-- RSASSA-PSS verification: modulus `n` of `bits` bits, public exponent `e`, signature bytes most significant first. -/
def pssVerify (n e bits salt : Nat) (msg sig : Bytes) : Bool :=
  let s := beNat sig
  if n = 0 ∨ s ≥ n then false
  else
    let m := powMod (e.log2 + 1) s e n 1
    pssVerifyEm (sha256 msg) (beBytes (ceilDiv (bits - 1) 8) m) (bits - 1) salt

end Sys2Proof.Machine
end

