-- ==== Sys2Proof/Machine/Numeric.lean ====
section
/-! DEFINITION. Number formats and rounding (chapter 06): exact values as rationals, decoding of every format, rounding
by mode, the conversion matrix, FP32 arithmetic rounded once, E8M0 scales and block quantization. -/

namespace Sys2Proof.Machine

/-- A decoded value: NaN, an infinity, or a finite value with its sign kept on zero; `num / den` is the magnitude. -/
inductive FVal where
  | nan
  | inf (neg : Bool)
  | fin (neg : Bool) (num den : Nat)
  deriving DecidableEq, Repr

/-- How a format uses its largest exponent field (R110). -/
inductive FmtKind where
  /-- infinities and NaNs in the all-ones exponent -/
  | ieee
  /-- E4M3: no infinity, one NaN code per sign -/
  | e4m3
  /-- neither -/
  | plain
  deriving DecidableEq, Repr

/-- A floating-point format of R110. -/
structure Fmt where
  ebits : Nat
  mbits : Nat
  bias : Nat
  kind : FmtKind
  deriving DecidableEq, Repr

def Fmt.fp32 : Fmt := ⟨8, 23, 127, .ieee⟩
def Fmt.fp16 : Fmt := ⟨5, 10, 15, .ieee⟩
def Fmt.bf16 : Fmt := ⟨8, 7, 127, .ieee⟩
def Fmt.e4m3 : Fmt := ⟨4, 3, 7, .e4m3⟩
def Fmt.e5m2 : Fmt := ⟨5, 2, 15, .ieee⟩
def Fmt.e2m3 : Fmt := ⟨2, 3, 1, .plain⟩
def Fmt.e3m2 : Fmt := ⟨3, 2, 3, .plain⟩
def Fmt.e2m1 : Fmt := ⟨2, 1, 1, .plain⟩

/-- Width in bits. -/
def Fmt.width (f : Fmt) : Nat := 1 + f.ebits + f.mbits

/-- Magnitude code of the largest finite value (R110). -/
def Fmt.maxCode (f : Fmt) : Nat :=
  match f.kind with
  | .ieee => (2 ^ f.ebits - 1) * 2 ^ f.mbits - 1
  | .e4m3 => 2 ^ (f.ebits + f.mbits) - 2
  | .plain => 2 ^ (f.ebits + f.mbits) - 1

/-- The canonical NaN (R111). -/
def Fmt.nanCode (f : Fmt) : Nat :=
  match f.kind with
  | .ieee => (2 ^ f.ebits - 1) * 2 ^ f.mbits + 2 ^ (f.mbits - 1)
  | .e4m3 => 2 ^ (f.ebits + f.mbits) - 1
  | .plain => 0

/-- The sign bit, in place. -/
def Fmt.sign (f : Fmt) (neg : Bool) : Nat := if neg then 2 ^ (f.ebits + f.mbits) else 0

/-- The code of an infinity; for a format without one, the value R126 puts in its place under IEEE overflow. -/
def Fmt.infCode (f : Fmt) (neg : Bool) : Nat :=
  match f.kind with
  | .ieee => f.sign neg + (2 ^ f.ebits - 1) * 2 ^ f.mbits
  | .e4m3 => f.nanCode
  | .plain => f.sign neg + f.maxCode

/-- Numerator and denominator of 2^k. -/
def pow2 (k : Int) : Nat × Nat := if k < 0 then (1, 2 ^ k.natAbs) else (2 ^ k.natAbs, 1)

/-- The magnitude `m × 2^k` as a value. -/
def FVal.scaled (neg : Bool) (m : Nat) (k : Int) : FVal :=
  let p := pow2 k
  .fin neg (m * p.1) p.2

/-- Decodes a code of the format (R110). -/
def Fmt.decode (f : Fmt) (c : Nat) : FVal :=
  let neg := c.testBit (f.ebits + f.mbits)
  let e := (c / 2 ^ f.mbits) % 2 ^ f.ebits
  let m := c % 2 ^ f.mbits
  let special : Bool := match f.kind with
    | .ieee => e = 2 ^ f.ebits - 1
    | .e4m3 => e = 2 ^ f.ebits - 1 && m = 2 ^ f.mbits - 1
    | .plain => false
  if special then (if f.kind = .ieee ∧ m = 0 then .inf neg else .nan)
  else if e = 0 then .scaled neg m (1 - f.bias - f.mbits)
  else .scaled neg (2 ^ f.mbits + m) ((e : Int) - f.bias - f.mbits)

/-- ⌊log2 (num / den)⌋ for positive num and den. -/
def floorLog2 (num den : Nat) : Int :=
  let k : Int := (num.log2 : Int) - (den.log2 : Int)
  let p := pow2 k
  if p.1 * den ≤ num * p.2 then k else k - 1

/-- Rounding modes of R116. -/
inductive Rounding where
  | nearestEven | towardZero | stochastic
  deriving DecidableEq, Repr

/-- Overflow modes of R116; DEFAULT resolves by target (R124). -/
inductive Overflow where
  | saturate | ieee
  deriving DecidableEq, Repr

/-- Whether a magnitude `q + rem / den` rounds up to `q + 1` (R119 to R121); `r` is the draw. -/
def roundsUp (mode : Rounding) (r q rem den : Nat) : Bool :=
  match mode with
  | .nearestEven => 2 * rem > den || (2 * rem = den && q % 2 = 1)
  | .towardZero => false
  | .stochastic => rem * 65536 + r * den ≥ 65536 * den

/-- Round to nearest, ties to the even integer. -/
def rneN (num den : Nat) : Nat :=
  let q := num / den
  if roundsUp .nearestEven 0 q (num % den) den then q + 1 else q

/-- Magnitude code of a positive `num / den`, without a bound on the exponent. -/
def Fmt.roundMag (f : Fmt) (mode : Rounding) (r num den : Nat) : Nat :=
  let emin : Int := 1 - f.bias
  let e := max (floorLog2 num den) emin
  let u := pow2 (e - f.mbits)
  let n := num * u.2
  let d := den * u.1
  let q := n / d
  let q' := if roundsUp mode r q (n % d) d then q + 1 else q
  (e - emin).toNat * 2 ^ f.mbits + q'

/-- The magnitude of a magnitude code, read without the special codes. -/
def Fmt.magOf (f : Fmt) (c : Nat) : Nat × Nat :=
  let e := c / 2 ^ f.mbits
  let m := c % 2 ^ f.mbits
  let p := if e = 0 then pow2 (1 - f.bias - f.mbits) else pow2 ((e : Int) - f.bias - f.mbits)
  ((if e = 0 then m else 2 ^ f.mbits + m) * p.1, p.2)

/-- Rounds a value to the format (R119 to R127). -/
def Fmt.round (f : Fmt) (mode : Rounding) (ov : Overflow) (r : Nat) (v : FVal) : Nat :=
  match v with
  | .nan => f.nanCode
  | .inf neg => if ov = .saturate then f.sign neg + f.maxCode else f.infCode neg
  | .fin neg num den =>
    if num = 0 then f.sign neg
    else
      let mx := f.magOf f.maxCode
      if num * mx.2 ≤ mx.1 * den then f.sign neg + f.roundMag mode r num den
      else if ov = .saturate then f.sign neg + f.maxCode
      else if mode = .towardZero then f.sign neg + f.maxCode
      else
        -- the threshold max + ½ ulp of R124, where ulp is the spacing at the top binade
        let next := f.magOf (f.maxCode + 1)
        -- 2·x ≥ max + (max + ulp)
        if 2 * num * mx.2 * next.2 ≥ (mx.1 * next.2 + next.1 * mx.2) * den then f.infCode neg
        else f.sign neg + f.maxCode

/-- Round to nearest even with IEEE overflow: the rounding of arithmetic (R115). -/
def Fmt.rne (f : Fmt) (v : FVal) : Nat := f.round .nearestEven .ieee 0 v

/-- Negation of a value. -/
def FVal.neg : FVal → FVal
  | .nan => .nan
  | .inf n => .inf (!n)
  | .fin n a b => .fin (!n) a b

/-- Exact product (R107). -/
def FVal.mul : FVal → FVal → FVal
  | .nan, _ => .nan
  | _, .nan => .nan
  | .inf n, .inf m => .inf (n != m)
  | .inf n, .fin m a _ => if a = 0 then .nan else .inf (n != m)
  | .fin n a _, .inf m => if a = 0 then .nan else .inf (n != m)
  | .fin n a b, .fin m c d => .fin (n != m) (a * c) (b * d)

/-- Exact sum; an exact zero sum is +0 unless both operands are −0 (R107). -/
def FVal.add : FVal → FVal → FVal
  | .nan, _ => .nan
  | _, .nan => .nan
  | .inf n, .inf m => if n = m then .inf n else .nan
  | .inf n, .fin _ _ _ => .inf n
  | .fin _ _ _, .inf m => .inf m
  | .fin n a b, .fin m c d =>
    let x : Int := (if n then -1 else 1) * ((a * d : Nat) : Int)
    let y : Int := (if m then -1 else 1) * ((c * b : Nat) : Int)
    let z := x + y
    if z = 0 then .fin (n && m && a = 0 && c = 0) 0 (b * d)
    else .fin (z < 0) z.natAbs (b * d)

/-- Compares two finite or infinite values: the sign of `x − y`, with +0 greater than −0 (R135). -/
def FVal.lt (x y : FVal) : Bool :=
  match x, y with
  | .nan, _ => false
  | _, .nan => false
  | .inf n, .inf m => n && !m
  | .inf n, .fin _ _ _ => n
  | .fin _ _ _, .inf m => !m
  | .fin n a b, .fin m c d =>
    if a = 0 ∧ c = 0 then n && !m
    else
      let u : Int := (if n then -1 else 1) * ((a * d : Nat) : Int)
      let v : Int := (if m then -1 else 1) * ((c * b : Nat) : Int)
      u < v

/-- Maximum of R134 and R135: a NaN operand gives the NaN. -/
def FVal.max (x y : FVal) : FVal :=
  match x, y with
  | .nan, _ => .nan
  | _, .nan => .nan
  | x, y => if x.lt y then y else x

/-- Minimum of R134 and R135. -/
def FVal.min (x y : FVal) : FVal :=
  match x, y with
  | .nan, _ => .nan
  | _, .nan => .nan
  | x, y => if x.lt y then x else y

/-- An integer as a value. -/
def FVal.ofInt (i : Int) : FVal := .fin (i < 0) i.natAbs 1

/-- FP32 addition, rounded once (R115, R89). -/
def f32Add (a b : Nat) : Nat := Fmt.fp32.rne ((Fmt.fp32.decode a).add (Fmt.fp32.decode b))

/-- FP16 addition, rounded once to FP16 (R115, R89). -/
def f16Add (a b : Nat) : Nat := Fmt.fp16.rne ((Fmt.fp16.decode a).add (Fmt.fp16.decode b))

/-- The formats of R93 and R116 by their encoding. -/
inductive NumFmt where
  | flt (f : Fmt)
  | int (signed : Bool) (w : Nat)
  | e8m0
  deriving DecidableEq, Repr

/-- Encodings 0 to 13 of R116 (0 to 10 are those of R93). -/
def NumFmt.ofCode : Nat → Option NumFmt
  | 0 => some (.flt .fp16)
  | 1 => some (.flt .bf16)
  | 2 => some (.flt .e4m3)
  | 3 => some (.flt .e5m2)
  | 4 => some (.flt .e2m3)
  | 5 => some (.flt .e3m2)
  | 6 => some (.flt .e2m1)
  | 7 => some (.int true 8)
  | 8 => some (.int false 8)
  | 9 => some (.int true 4)
  | 10 => some (.int false 4)
  | 11 => some (.flt .fp32)
  | 12 => some (.int true 32)
  | 13 => some .e8m0
  | _ => none

/-- Element width in bits. -/
def NumFmt.width : NumFmt → Nat
  | .flt f => f.width
  | .int _ w => w
  | .e8m0 => 8

/-- Value of an E8M0 code: 2^(s − 127), or NaN for 0xFF (R112). -/
def e8m0Val (s : Nat) : FVal := if s = 255 then .nan else .scaled false 1 ((s : Int) - 127)

/-- Value of an element code. -/
def NumFmt.decode (n : NumFmt) (c : Nat) : FVal :=
  match n with
  | .flt f => f.decode c
  | .int true w => .ofInt (signed w c)
  | .int false w => .fin false (c % 2 ^ w) 1
  | .e8m0 => e8m0Val (c % 256)

/-- Range of an integer format (R112). -/
def intRange (sgn : Bool) (w : Nat) : Int × Int :=
  if sgn then (-(2 ^ (w - 1) : Nat), ((2 ^ (w - 1) - 1 : Nat) : Int)) else (0, ((2 ^ w - 1 : Nat) : Int))

/-- Saturates an integer to the format's range, as a code. -/
def intSat (sgn : Bool) (w : Nat) (i : Int) : Nat :=
  let r := intRange sgn w
  let j := max r.1 (min r.2 i)
  (BitVec.ofInt w j).toNat

/-- A value converted to an integer format (R125). -/
def toInt (sgn : Bool) (w : Nat) (mode : Rounding) (r : Nat) (v : FVal) : Nat :=
  match v with
  | .nan => 0
  | .inf neg => intSat sgn w (if neg then (intRange sgn w).1 else (intRange sgn w).2)
  | .fin neg num den =>
    let q := num / den
    let q' : Nat := if roundsUp mode r q (num % den) den then q + 1 else q
    intSat sgn w (if neg then -(q' : Int) else q')

/-- FP32 to E8M0: the largest power of two not above x, clamped; 0xFF for zero, negative, infinite or NaN (R130). -/
def toE8M0 (v : FVal) : Nat :=
  match v with
  | .fin false num den => if num = 0 then 255 else (max 0 (min 254 (floorLog2 num den + 127))).toNat
  | _ => 255

/-- The overflow mode that applies (R124): 0 DEFAULT, 1 SATURATE, 2 IEEE. -/
def Overflow.resolve (code : Nat) (target : NumFmt) : Overflow :=
  if code = 1 then .saturate
  else if code = 2 then .ieee
  else if target = .flt .fp32 ∨ target = .flt .fp16 ∨ target = .flt .bf16 then .ieee
  else .saturate

/-- One element of the conversion matrix (R129, R130). Equal formats are copied unchanged; INT8 to INT8 and the like
are "S" cells, which keep every value in range. DESIGN CHOICE (log entry 113): an infinity that a wider source holds in an "E" cell
under Overflow SATURATE becomes the largest finite value of its sign, as R124's table says of an infinity; R129 says only that
every value of such a cell converts exactly. -/
def convertElem (src tgt : NumFmt) (mode : Rounding) (ov : Overflow) (r code : Nat) : Nat :=
  if src = tgt then code % 2 ^ tgt.width
  else match tgt with
    | .flt f => f.round mode ov r (src.decode code)
    | .int s w => toInt s w mode r (src.decode code)
    | .e8m0 => toE8M0 (src.decode code)

/-- Whether the conversion matrix of R129 gives the pair. -/
def convertible (src tgt : NumFmt) : Bool :=
  match src, tgt with
  | .e8m0, .e8m0 => true
  | .e8m0, t => t = .flt .fp32
  | s, .e8m0 => s = .flt .fp32
  | _, _ => true

/-- Field `i` of width `w` of a bit stream held in 32-bit registers (R102, R117). -/
def streamGet (regs : List Word) (w i : Nat) : Nat :=
  let v := regs.foldr (fun r acc => r.toNat + 2 ^ 32 * acc) 0
  (v >>> (w * i)) % 2 ^ w

/-- A bit stream of fields of width `w`, in 32-bit registers, at least `words` of them; bits above the last field are zero
(R117). -/
def streamPut (w words : Nat) (fields : List Nat) : List Word :=
  let v := fields.foldr (fun x acc => x % 2 ^ w + 2 ^ w * acc) 0
  (List.range (max words (ceilDiv (w * fields.length) 32))).map (fun k => BitVec.ofNat 32 (v >>> (32 * k)))

/-- Word `j` of draw `c` (R122). -/
def srWord (seed : Wide) (n q : Nat) (c : Nat) (j : Nat) : Wide :=
  let x : Wide := BitVec.ofNat 64 n <<< 46 ||| BitVec.ofNat 64 q <<< 44 ||| BitVec.ofNat 64 c <<< 3 ||| BitVec.ofNat 64 j
  let z := seed + 0x9E3779B97F4A7C15#64 * x
  let z := (z ^^^ (z >>> 30)) * 0xBF58476D1CE4E5B9#64
  let z := (z ^^^ (z >>> 27)) * 0x94D049BB133111EB#64
  z ^^^ (z >>> 31)

/-- The 16-bit draw of lane `l` at counter value `c` on quadrant `q` of brick `n` (R122). -/
def draw (seed : Wide) (n q c l : Nat) : Nat :=
  bitsN (srWord seed n q (c % 2 ^ 41) (l / 4)) (16 * (l % 4) + 15) (16 * (l % 4))

/-- emax of R132 for the formats OpBlockQuantizeSTOLKALOR takes. -/
def quantEmax (code : Nat) : Int := match code with
  | 2 => 8
  | 3 => 15
  | 4 => 2
  | 5 => 4
  | _ => 2

/-- Quantizes one block of FP32 values with their draws: the shared scale and the element codes (R132, R133). -/
def quantizeBlock (fmtCode : Nat) (f : Fmt) (mode : Rounding) (vals : List (FVal × Nat)) : Nat × List Nat :=
  let finite := vals.all (fun v => match v.1 with | .fin _ _ _ => true | _ => false)
  if !finite then (255, vals.map (fun _ => 0))
  else
    let mags : List (Nat × Nat) := vals.map (fun v => match v.1 with | .fin _ a b => (a, b) | _ => (0, 1))
    let big := mags.foldl (fun m x => if m.1 * x.2 < x.1 * m.2 then x else m) (0, 1)
    if big.1 = 0 then (127, vals.map (fun v => f.round mode .saturate v.2 v.1))
    else
      let e : Int := max (-127) (min 127 (floorLog2 big.1 big.2 - quantEmax fmtCode))
      let p := pow2 e
      ((e + 127).toNat, vals.map (fun v => match v.1 with
        | .fin n a b => f.round mode .saturate v.2 (.fin n (a * p.2) (b * p.1))
        | _ => 0))

/-- Sum of a list of FP32 terms in list order, each addition rounded (one of the orders of R105). -/
def f32Sum (c : FVal) (ts : List FVal) : FVal :=
  ts.foldl (fun acc t => Fmt.fp32.decode (Fmt.fp32.rne (acc.add t))) c

end Sys2Proof.Machine
end

