-- ==== Sys2Proof/Machine/Codec.lean ====
section
/-! DEFINITION. The inline fixed-ratio codec (chapter 11): block records, their decoding, the lossless search and the
quantized encodings. -/

namespace Sys2Proof.Machine

/-- Field `i` of width `d` of a packed bit stream that starts at byte `s` (the block record). -/
def packedGet (rec : Bytes) (s d i : Nat) : Nat := (leNat (rec.drop s) >>> (d * i)) % 2 ^ d

/-- Packs fields of width `d` into bytes. -/
def packBits (d : Nat) (fields : List Nat) : Bytes :=
  let v := fields.foldr (fun x acc => x % 2 ^ d + 2 ^ d * acc) 0
  leBytes (ceilDiv (d * fields.length) 8) v

/-- Whether the stream bits after `used` bits from byte `s` on are zero. -/
def tailZero (rec : Bytes) (s used : Nat) : Bool := (leNat (rec.drop s) >>> used) = 0

/-- The element format of a lossy profile or QUANT_FLOAT type (R258, R262). -/
def quantFmt : Nat → Option Fmt
  | 1 => some .fp16
  | 2 => some .bf16
  | 3 => some .fp32
  | _ => none

/-- Decodes a CONST record. -/
def decodeConst (e : Nat) (rec : Bytes) : Option Bytes :=
  if (slice rec 1 3).any (· ≠ 0) ∨ (slice rec 8 (e - 8)).any (· ≠ 0) then none
  else some ((List.replicate 64 (slice rec 4 4)).flatten)

/-- Decodes a BASEDELTA record. -/
def decodeBaseDelta (e : Nat) (rec : Bytes) : Option Bytes :=
  let b1 := leAt rec 1 1
  let wcode := b1 % 4
  let c := if b1.testBit 2 then 4 else 1
  let d := leAt rec 2 1
  let w := 8 * 2 ^ wcode
  let n := 2048 / w
  let bases := (List.range 4).map (fun k => leAt rec (4 + 4 * k) 4)
  if wcode = 3 ∨ b1 ≥ 8 ∨ d > 32 ∨ leAt rec 3 1 ≠ 0 then none
  else if 160 + n * d > 8 * e then none
  else if (List.range 4).any (fun k => if k < c then nth bases k 0 ≥ 2 ^ w else nth bases k 0 ≠ 0) then none
  else if !tailZero rec 20 (n * d) then none
  else some ((List.range n).flatMap (fun i =>
    leBytes (w / 8) ((nth bases (i % c) 0 + packedGet rec 20 d i) % 2 ^ w)))

/-- Decodes a QUANT_U8 record. -/
def decodeQuantU8 (e : Nat) (rec : Bytes) : Option Bytes :=
  let q := leAt rec 1 1
  let lo := (List.range 4).map (fun c => leAt rec (4 + c) 1)
  let hi := (List.range 4).map (fun c => leAt rec (8 + c) 1)
  if q = 0 ∨ q > 3 ∨ leAt rec 2 2 ≠ 0 ∨ 96 + 256 * q > 8 * e then none
  else if (lo.zip hi).any (fun x => x.1 > x.2) then none
  else if !tailZero rec 12 (256 * q) then none
  else some ((List.range 256).map (fun i =>
    let l := nth lo (i % 4) 0
    let h := nth hi (i % 4) 0
    BitVec.ofNat 8 (l + rneN ((h - l) * packedGet rec 12 q i) (2 ^ q - 1))))

/-- One decoded element of QUANT_FLOAT. -/
def quantFloatElem (f : Fmt) (q x code : Nat) : Nat :=
  if code = 2 ^ (q - 1) then f.nanCode
  else
    let k := signed q code
    let p := pow2 ((x : Int) - 127)
    f.rne (.fin (k < 0) (k.natAbs * p.1) p.2)

/-- Decodes a QUANT_FLOAT record. -/
def decodeQuantFloat (e : Nat) (rec : Bytes) : Option Bytes :=
  match quantFmt (leAt rec 1 1) with
  | none => none
  | some f =>
    let q := leAt rec 2 1
    let x := leAt rec 3 1
    let n := 2048 / f.width
    if q = 0 ∨ x = 255 ∨ 32 + n * q > 8 * e then none
    else if !tailZero rec 4 (n * q) then none
    else some ((List.range n).flatMap (fun i => leBytes (f.width / 8) (quantFloatElem f q x (packedGet rec 4 q i))))

/-- Decodes a block record of `e` bytes; `none` for a bad record (R258). -/
def decodeRecord (e : Nat) (rec : Bytes) : Option Bytes :=
  match leAt rec 0 1 with
  | 0 => decodeConst e rec
  | 1 => decodeBaseDelta e rec
  | 2 => decodeQuantU8 e rec
  | 3 => decodeQuantFloat e rec
  | _ => none

/-- The CONST record that decodes to the block, if there is one. -/
def encodeConst (e : Nat) (x : Bytes) : Option Bytes :=
  let p := x.take 4
  if (List.replicate 64 p).flatten = x then some (slice ([0, 0, 0, 0] ++ p) 0 e) else none

/-- Inserts a number into a sorted list. -/
def insertN (v : Nat) : List Nat → List Nat
  | [] => [v]
  | y :: t => if v ≤ y then v :: y :: t else y :: insertN v t

/-- Sorts a list of numbers. -/
def sortN (l : List Nat) : List Nat := l.foldl (fun acc v => insertN v acc) []

/-- The base from which every value lies within the shortest arc modulo `2^w`, and that arc's length. -/
def arcOf (w : Nat) (vals : List Nat) : Nat × Nat :=
  let s := sortN vals
  match s with
  | [] => (0, 0)
  | a :: t =>
    let last := nth s (s.length - 1) a
    -- gap before each value, going round
    let gaps : List (Nat × Nat) := (a, a + 2 ^ w - last) :: ((s.zip t).map (fun p => (p.2, p.2 - p.1)))
    let best := gaps.foldl (fun m g => if g.2 > m.2 then g else m) (a, 0)
    (best.1, 2 ^ w - best.2)

/-- Largest delta width that fits (R258). -/
def maxDelta (e w : Nat) : Nat := min 32 ((8 * e - 160) / (2048 / w))

/-- The least delta width, up to `m`, that holds the spans. -/
def leastDelta : Nat → Nat → Option Nat
  | 0, span => if span = 0 then some 0 else none
  | m + 1, span => match leastDelta m span with
    | some d => some d
    | none => if span < 2 ^ (m + 1) then some (m + 1) else none

/-- A BASEDELTA record of the given element width and number of bases that decodes to the block, if there is one. -/
def encodeBaseDelta (e : Nat) (x : Bytes) (wcode c : Nat) : Option Bytes :=
  let w := 8 * 2 ^ wcode
  let n := 2048 / w
  let elems := (List.range n).map (fun i => leAt x (i * w / 8) (w / 8))
  let arcs := (List.range c).map (fun k =>
    arcOf w ((List.range (n / c)).map (fun j => nth elems (c * j + k) 0)))
  let span := arcs.foldl (fun m a => max m a.2) 0
  match leastDelta (maxDelta e w) span with
  | none => none
  | some d =>
    let bases := (List.range 4).flatMap (fun k => leBytes 4 (nth (arcs.map (·.1)) k 0))
    let deltas := (List.range n).map (fun i => (nth elems i 0 + 2 ^ w - (nth arcs (i % c) (0, 0)).1) % 2 ^ w)
    let b1 := wcode + (if c = 4 then 4 else 0)
    some (slice ([1, BitVec.ofNat 8 b1, BitVec.ofNat 8 d, 0] ++ bases ++ packBits d deltas) 0 e)

/-- A lossless record of the block, if any exists (R259, step 1). -/
def losslessRecord (e : Nat) (x : Bytes) : Option Bytes :=
  match encodeConst e x with
  | some r => some r
  | none =>
    [(0, 1), (0, 4), (1, 1), (1, 4), (2, 1), (2, 4)].findSome? (fun p => encodeBaseDelta e x p.1 p.2)

/-- The QUANT_U8 record of the block (R260). -/
def encodeQuantU8 (e : Nat) (x : Bytes) : Bytes :=
  let q := if e = 128 then 3 else 1
  let chan := fun (c : Nat) => (List.range 64).map (fun j => leAt x (4 * j + c) 1)
  let lo := (List.range 4).map (fun c => (chan c).foldl min 255)
  let hi := (List.range 4).map (fun c => (chan c).foldl max 0)
  let code := fun (i : Nat) =>
    let l := nth lo (i % 4) 0
    let h := nth hi (i % 4) 0
    let v := leAt x i 1
    let dist := fun (k : Nat) =>
      let y := l + rneN ((h - l) * k) (2 ^ q - 1)
      if y ≥ v then y - v else v - y
    (minBy dist (List.range (2 ^ q))).getD 0
  let b := fun (n : Nat) => BitVec.ofNat 8 n
  slice ([2, b q, 0, 0] ++ lo.map b ++ hi.map b ++ packBits q ((List.range 256).map code)) 0 e

/-- The QUANT_FLOAT record of the block for a type (R261). -/
def encodeQuantFloat (e : Nat) (typ : Nat) (f : Fmt) (x : Bytes) : Bytes :=
  let n := 2048 / f.width
  let q := (8 * e - 32) / n
  let elems := (List.range n).map (fun i => f.decode (leAt x (i * f.width / 8) (f.width / 8)))
  let big := elems.foldl (fun (m : Nat × Nat) v => match v with
    | .fin _ a b => if m.1 * b < a * m.2 then (a, b) else m
    | _ => m) (0, 1)
  let xb : Nat := if big.1 = 0 then 0x7F
    else (max (-127) (min 127 (floorLog2 big.1 big.2 - ((q : Int) - 2))) + 127).toNat
  let p := pow2 ((xb : Int) - 127)
  let lim := 2 ^ (q - 1) - 1
  let code := fun (v : FVal) => match v with
    | .nan => 2 ^ (q - 1)
    | .inf neg => (BitVec.ofInt q (if neg then -(lim : Int) else lim)).toNat
    | .fin neg a b =>
      let k := min lim (rneN (a * p.2) (b * p.1))
      (BitVec.ofInt q (if neg then -(k : Int) else k)).toNat
  let b := fun (k : Nat) => BitVec.ofNat 8 k
  slice ([3, b typ, b q, b xb] ++ packBits q (elems.map code)) 0 e

/-- Encodes a block in a record of `e` bytes under a lossy profile, with the codec's own choice of lossless record
(`n` indexes the free choice): the record and whether it is lossy (R259). -/
def encodeBlock (e profile n : Nat) (x : Bytes) : Bytes × Bool :=
  match losslessRecord e x with
  | some r =>
    let p := Config.losslessRecord n
    (if p.length = e ∧ leAt p 0 1 ≤ 1 ∧ decodeRecord e p = some x then p else r, false)
  | none =>
    let r := match quantFmt profile with
      | some f => encodeQuantFloat e profile f x
      | none => encodeQuantU8 e x
    (r, decodeRecord e r ≠ some x)

/-- Size of the stored record for a side-record mode: RAW keeps 256 bytes (R252). -/
def modeBytes : Nat → Nat
  | 1 => 128
  | 2 => 64
  | _ => 256

/-- Decodes a stored slot by its side record: the 256 bytes and whether the record was bad (R254, R258). -/
def decodeSlot (side : Nat) (slot : Bytes) : Bytes × Bool :=
  let mode := (side / 65536) % 4
  if mode = 0 then (slice slot 0 256, false)
  else if mode = 3 then (List.replicate 256 0, true)
  else
    let e := modeBytes mode
    match decodeRecord e (slot.take e) with
    | some x => (x, false)
    | none => (List.replicate 256 0, true)

/-- The stored bytes and the side record for a block written in a target mode; RAW keeps the crc field out of use
(R251, R255). -/
def encodeSlot (mode profile n : Nat) (x : Bytes) : Bytes × Nat × Bool :=
  if mode = 1 ∨ mode = 2 then
    let r := encodeBlock (modeBytes mode) profile n x
    (r.1, crc16 x + 65536 * mode + (if r.2 then 2 ^ 18 else 0), r.2)
  else (x, 0, false)

end Sys2Proof.Machine
end

