-- ==== Sys2Proof/Machine/Regs.lean ====
section
/-! DEFINITION. The set-up register window: every register of the register tables of chapters 01 to 21, with its
offset in the window (R20), its width, its fields, their access codes (R8), reset values (R10) and Kept through
values (R11). A register array is one entry with a count and a stride. -/

namespace Sys2Proof.Machine

/-- Access codes of R8. -/
inductive Access where
  | ro | rw | wo | w1c | w1s | rwl
  deriving DecidableEq, Repr

/-- Kept through values of R11. -/
inductive Kept where
  | none | block | partition | device | deep | off
  deriving DecidableEq, Repr

/-- The deepest event of the ladder a field survives, as its depth: block reset is 1, partition reset 2, device
reset 3, DEEP 4, OFF 5; cold reset is 6 and clears every field (R10, R11). -/
def Kept.depth : Kept → Nat
  | .none => 0 | .block => 1 | .partition => 2 | .device => 3 | .deep => 4 | .off => 5

/-- What a write outside the stated values does (R7 and the field's own chapter). -/
inductive WriteRule where
  /-- every encoding is taken -/
  | any
  /-- a value outside keeps the previous value (R7) -/
  | range (lo hi : Nat)
  /-- a value below is set to the bound -/
  | atLeast (lo : Nat)
  /-- a value outside is set to the nearer bound -/
  | clamp (lo hi : Nat)
  /-- a lock bit: writing 0 to it when set has no effect (R9) -/
  | lock
  /-- REC_WINDOW.window_ms: 0 sets 1, above 60,000 keeps (R448) -/
  | window
  /-- PMC_SEL.event: an event of R453, otherwise kept -/
  | event
  deriving DecidableEq, Repr

/-- One field of a register. -/
structure FieldDef where
  name : String
  hi : Nat
  lo : Nat
  acc : Access
  reset : Nat
  kept : Kept
  rule : WriteRule
  /-- HW: the value read is computed from hardware state -/
  hw : Bool
  deriving DecidableEq, Repr

/-- One register, or an array of `count` registers `stride` bytes apart. -/
structure RegDef where
  name : String
  off : Nat
  width : Nat
  count : Nat
  stride : Nat
  reset : Nat
  fields : List FieldDef
  deriving DecidableEq, Repr

/-- A field of a register array, for the operations that read and write it by name. -/
structure Fld where
  off : Nat
  stride : Nat
  hi : Nat
  lo : Nat
  /-- the reset value of the whole register -/
  regReset : Nat
  deriving DecidableEq, Repr

/-- Window offset of element `i`. -/
def Fld.at (f : Fld) (i : Nat) : Nat := f.off + i * f.stride

/-- Window offset of element `i` of a register. -/
def RegDef.at (r : RegDef) (i : Nat) : Nat := r.off + i * r.stride


/-- GLB_ID, 01 R21. -/
def Reg.GLB_ID : RegDef := ⟨"GLB_ID", 0x0, 32, 1, 0x0, 0x9600b101, [
   ⟨"part_number", 31, 16, .ro, 0x9600, .off, .any, false⟩,
   ⟨"stepping", 15, 8, .ro, 0xb1, .off, .any, false⟩,
   ⟨"record_version", 7, 0, .ro, 0x1, .off, .any, false⟩]⟩
def Fld.GLB_ID_part_number : Fld := ⟨0x0, 0x0, 31, 16, 0x9600b101⟩
def Fld.GLB_ID_stepping : Fld := ⟨0x0, 0x0, 15, 8, 0x9600b101⟩
def Fld.GLB_ID_record_version : Fld := ⟨0x0, 0x0, 7, 0, 0x9600b101⟩

/-- GLB_VENDOR, 01 R21. -/
def Reg.GLB_VENDOR : RegDef := ⟨"GLB_VENDOR", 0x4, 32, 1, 0x0, 0x4c4b5453, [
   ⟨"vendor_code", 31, 0, .ro, 0x4c4b5453, .off, .any, false⟩]⟩
def Fld.GLB_VENDOR_vendor_code : Fld := ⟨0x4, 0x0, 31, 0, 0x4c4b5453⟩

/-- GLB_SIZE_COMPUTE, 01 R21. -/
def Reg.GLB_SIZE_COMPUTE : RegDef := ⟨"GLB_SIZE_COMPUTE", 0x8, 32, 1, 0x0, 0x204080c, [
   ⟨"lanes_per_course", 27, 20, .ro, 0x20, .off, .any, false⟩,
   ⟨"quadrants_per_brick", 19, 16, .ro, 0x4, .off, .any, false⟩,
   ⟨"bricks_per_wall", 15, 8, .ro, 0x8, .off, .any, false⟩,
   ⟨"walls", 7, 0, .ro, 0xc, .off, .any, false⟩]⟩
def Fld.GLB_SIZE_COMPUTE_lanes_per_course : Fld := ⟨0x8, 0x0, 27, 20, 0x204080c⟩
def Fld.GLB_SIZE_COMPUTE_quadrants_per_brick : Fld := ⟨0x8, 0x0, 19, 16, 0x204080c⟩
def Fld.GLB_SIZE_COMPUTE_bricks_per_wall : Fld := ⟨0x8, 0x0, 15, 8, 0x204080c⟩
def Fld.GLB_SIZE_COMPUTE_walls : Fld := ⟨0x8, 0x0, 7, 0, 0x204080c⟩

/-- GLB_SIZE_STORE, 01 R21. -/
def Reg.GLB_SIZE_STORE : RegDef := ⟨"GLB_SIZE_STORE", 0xc, 32, 1, 0x0, 0x80100, [
   ⟨"pond_kib", 19, 10, .ro, 0x200, .off, .any, false⟩,
   ⟨"regfile_kib", 9, 0, .ro, 0x100, .off, .any, false⟩]⟩
def Fld.GLB_SIZE_STORE_pond_kib : Fld := ⟨0xc, 0x0, 19, 10, 0x80100⟩
def Fld.GLB_SIZE_STORE_regfile_kib : Fld := ⟨0xc, 0x0, 9, 0, 0x80100⟩

/-- GLB_SIZE_LAKE, 01 R21. -/
def Reg.GLB_SIZE_LAKE : RegDef := ⟨"GLB_SIZE_LAKE", 0x10, 32, 1, 0x0, 0x9100810, [
   ⟨"other_sram_mib", 31, 24, .ro, 0x9, .off, .any, false⟩,
   ⟨"lake_ways", 23, 16, .ro, 0x10, .off, .any, false⟩,
   ⟨"slice_mib", 15, 8, .ro, 0x8, .off, .any, false⟩,
   ⟨"lake_slices", 7, 0, .ro, 0x10, .off, .any, false⟩]⟩
def Fld.GLB_SIZE_LAKE_other_sram_mib : Fld := ⟨0x10, 0x0, 31, 24, 0x9100810⟩
def Fld.GLB_SIZE_LAKE_lake_ways : Fld := ⟨0x10, 0x0, 23, 16, 0x9100810⟩
def Fld.GLB_SIZE_LAKE_slice_mib : Fld := ⟨0x10, 0x0, 15, 8, 0x9100810⟩
def Fld.GLB_SIZE_LAKE_lake_slices : Fld := ⟨0x10, 0x0, 7, 0, 0x9100810⟩

/-- GLB_SIZE_DRAM, 01 R21. -/
def Reg.GLB_SIZE_DRAM : RegDef := ⟨"GLB_SIZE_DRAM", 0x14, 32, 1, 0x0, 0x1820186, [
   ⟨"pc_groups", 27, 20, .ro, 0x18, .off, .any, false⟩,
   ⟨"pc_per_stack", 19, 12, .ro, 0x20, .off, .any, false⟩,
   ⟨"stack_gib", 11, 4, .ro, 0x18, .off, .any, false⟩,
   ⟨"stacks", 3, 0, .ro, 0x6, .off, .any, false⟩]⟩
def Fld.GLB_SIZE_DRAM_pc_groups : Fld := ⟨0x14, 0x0, 27, 20, 0x1820186⟩
def Fld.GLB_SIZE_DRAM_pc_per_stack : Fld := ⟨0x14, 0x0, 19, 12, 0x1820186⟩
def Fld.GLB_SIZE_DRAM_stack_gib : Fld := ⟨0x14, 0x0, 11, 4, 0x1820186⟩
def Fld.GLB_SIZE_DRAM_stacks : Fld := ⟨0x14, 0x0, 3, 0, 0x1820186⟩

/-- GLB_SIZE_IO, 01 R21. -/
def Reg.GLB_SIZE_IO : RegDef := ⟨"GLB_SIZE_IO", 0x18, 32, 1, 0x0, 0x1040408, [
   ⟨"flash_gib", 27, 20, .ro, 0x10, .off, .any, false⟩,
   ⟨"pose_streams", 19, 12, .ro, 0x40, .off, .any, false⟩,
   ⟨"output_streams", 11, 4, .ro, 0x40, .off, .any, false⟩,
   ⟨"ports", 3, 0, .ro, 0x8, .off, .any, false⟩]⟩
def Fld.GLB_SIZE_IO_flash_gib : Fld := ⟨0x18, 0x0, 27, 20, 0x1040408⟩
def Fld.GLB_SIZE_IO_pose_streams : Fld := ⟨0x18, 0x0, 19, 12, 0x1040408⟩
def Fld.GLB_SIZE_IO_output_streams : Fld := ⟨0x18, 0x0, 11, 4, 0x1040408⟩
def Fld.GLB_SIZE_IO_ports : Fld := ⟨0x18, 0x0, 3, 0, 0x1040408⟩

/-- GLB_SIZE_CLOCK, 01 R21. -/
def Reg.GLB_SIZE_CLOCK : RegDef := ⟨"GLB_SIZE_CLOCK", 0x1c, 32, 1, 0x0, 0xfa2586a4, [
   ⟨"io_mhz", 31, 22, .ro, 0x3e8, .off, .any, false⟩,
   ⟨"lake_mhz", 21, 11, .ro, 0x4b0, .off, .any, false⟩,
   ⟨"brick_p0_mhz", 10, 0, .ro, 0x6a4, .off, .any, false⟩]⟩
def Fld.GLB_SIZE_CLOCK_io_mhz : Fld := ⟨0x1c, 0x0, 31, 22, 0xfa2586a4⟩
def Fld.GLB_SIZE_CLOCK_lake_mhz : Fld := ⟨0x1c, 0x0, 21, 11, 0xfa2586a4⟩
def Fld.GLB_SIZE_CLOCK_brick_p0_mhz : Fld := ⟨0x1c, 0x0, 10, 0, 0xfa2586a4⟩

/-- GLB_SIZE_LIMITS, 01 R21. -/
def Reg.GLB_SIZE_LIMITS : RegDef := ⟨"GLB_SIZE_LIMITS", 0x20, 64, 1, 0x0, 0xee8310d8510a, [
   ⟨"partitions_m1", 47, 45, .ro, 0x7, .off, .any, false⟩,
   ⟨"log2_fabric_ops", 44, 40, .ro, 0xe, .off, .any, false⟩,
   ⟨"log2_local_txn", 39, 35, .ro, 0x10, .off, .any, false⟩,
   ⟨"log2_queue_pairs", 34, 30, .ro, 0xc, .off, .any, false⟩,
   ⟨"log2_fabric_fences", 29, 25, .ro, 0x8, .off, .any, false⟩,
   ⟨"log2_sequences", 24, 20, .ro, 0xd, .off, .any, false⟩,
   ⟨"log2_fences", 19, 15, .ro, 0x10, .off, .any, false⟩,
   ⟨"log2_handles", 14, 10, .ro, 0x14, .off, .any, false⟩,
   ⟨"log2_addr_spaces", 9, 5, .ro, 0x8, .off, .any, false⟩,
   ⟨"log2_rings", 4, 0, .ro, 0xa, .off, .any, false⟩]⟩
def Fld.GLB_SIZE_LIMITS_partitions_m1 : Fld := ⟨0x20, 0x0, 47, 45, 0xee8310d8510a⟩
def Fld.GLB_SIZE_LIMITS_log2_fabric_ops : Fld := ⟨0x20, 0x0, 44, 40, 0xee8310d8510a⟩
def Fld.GLB_SIZE_LIMITS_log2_local_txn : Fld := ⟨0x20, 0x0, 39, 35, 0xee8310d8510a⟩
def Fld.GLB_SIZE_LIMITS_log2_queue_pairs : Fld := ⟨0x20, 0x0, 34, 30, 0xee8310d8510a⟩
def Fld.GLB_SIZE_LIMITS_log2_fabric_fences : Fld := ⟨0x20, 0x0, 29, 25, 0xee8310d8510a⟩
def Fld.GLB_SIZE_LIMITS_log2_sequences : Fld := ⟨0x20, 0x0, 24, 20, 0xee8310d8510a⟩
def Fld.GLB_SIZE_LIMITS_log2_fences : Fld := ⟨0x20, 0x0, 19, 15, 0xee8310d8510a⟩
def Fld.GLB_SIZE_LIMITS_log2_handles : Fld := ⟨0x20, 0x0, 14, 10, 0xee8310d8510a⟩
def Fld.GLB_SIZE_LIMITS_log2_addr_spaces : Fld := ⟨0x20, 0x0, 9, 5, 0xee8310d8510a⟩
def Fld.GLB_SIZE_LIMITS_log2_rings : Fld := ⟨0x20, 0x0, 4, 0, 0xee8310d8510a⟩

/-- GLB_UNIT_PRESENT, 01 R21. -/
def Reg.GLB_UNIT_PRESENT : RegDef := ⟨"GLB_UNIT_PRESENT", 0x28, 64, 1, 0x0, 0xfffffffffff, [
   ⟨"geometry_mask", 43, 42, .ro, 0x3, .off, .any, false⟩,
   ⟨"port_mask", 41, 34, .ro, 0xff, .off, .any, false⟩,
   ⟨"stack_mask", 33, 28, .ro, 0x3f, .off, .any, false⟩,
   ⟨"slice_mask", 27, 12, .ro, 0xffff, .off, .any, false⟩,
   ⟨"wall_mask", 11, 0, .ro, 0xfff, .off, .any, false⟩]⟩
def Fld.GLB_UNIT_PRESENT_geometry_mask : Fld := ⟨0x28, 0x0, 43, 42, 0xfffffffffff⟩
def Fld.GLB_UNIT_PRESENT_port_mask : Fld := ⟨0x28, 0x0, 41, 34, 0xfffffffffff⟩
def Fld.GLB_UNIT_PRESENT_stack_mask : Fld := ⟨0x28, 0x0, 33, 28, 0xfffffffffff⟩
def Fld.GLB_UNIT_PRESENT_slice_mask : Fld := ⟨0x28, 0x0, 27, 12, 0xfffffffffff⟩
def Fld.GLB_UNIT_PRESENT_wall_mask : Fld := ⟨0x28, 0x0, 11, 0, 0xfffffffffff⟩

/-- GLB_POWER_LIMITS, 01 R21. -/
def Reg.GLB_POWER_LIMITS : RegDef := ⟨"GLB_POWER_LIMITS", 0x30, 32, 1, 0x0, 0x208a292c, [
   ⟨"cap_default_w", 29, 20, .ro, 0x208, .off, .any, false⟩,
   ⟨"cap_max_w", 19, 10, .ro, 0x28a, .off, .any, false⟩,
   ⟨"cap_min_w", 9, 0, .ro, 0x12c, .off, .any, false⟩]⟩
def Fld.GLB_POWER_LIMITS_cap_default_w : Fld := ⟨0x30, 0x0, 29, 20, 0x208a292c⟩
def Fld.GLB_POWER_LIMITS_cap_max_w : Fld := ⟨0x30, 0x0, 19, 10, 0x208a292c⟩
def Fld.GLB_POWER_LIMITS_cap_min_w : Fld := ⟨0x30, 0x0, 9, 0, 0x208a292c⟩

/-- TICK_SOURCE, 02 R25. -/
def Reg.TICK_SOURCE : RegDef := ⟨"TICK_SOURCE", 0x100000, 32, 1, 0x0, 0x0, [
   ⟨"ptp_port", 6, 4, .rw, 0x0, .partition, .any, false⟩,
   ⟨"source", 1, 0, .rw, 0x0, .partition, (.range 0 2), false⟩]⟩
def Fld.TICK_SOURCE_ptp_port : Fld := ⟨0x100000, 0x0, 6, 4, 0x0⟩
def Fld.TICK_SOURCE_source : Fld := ⟨0x100000, 0x0, 1, 0, 0x0⟩

/-- TICK_PERIOD_NS, 02 R24. -/
def Reg.TICK_PERIOD_NS : RegDef := ⟨"TICK_PERIOD_NS", 0x100008, 32, 1, 0x0, 0xf4240, [
   ⟨"period_ns", 25, 0, .rw, 0xf4240, .partition, .any, false⟩]⟩
def Fld.TICK_PERIOD_NS_period_ns : Fld := ⟨0x100008, 0x0, 25, 0, 0xf4240⟩

/-- TICK_PHASE_NS, 02 R24. -/
def Reg.TICK_PHASE_NS : RegDef := ⟨"TICK_PHASE_NS", 0x10000c, 32, 1, 0x0, 0x0, [
   ⟨"phase_ns", 25, 0, .rw, 0x0, .partition, .any, false⟩]⟩
def Fld.TICK_PHASE_NS_phase_ns : Fld := ⟨0x10000c, 0x0, 25, 0, 0x0⟩

/-- TICK_ADMIT, 02 R24. -/
def Reg.TICK_ADMIT : RegDef := ⟨"TICK_ADMIT", 0x100010, 32, 1, 0x0, 0x384, [
   ⟨"admit_permille", 9, 0, .rw, 0x384, .partition, .any, false⟩]⟩
def Fld.TICK_ADMIT_admit_permille : Fld := ⟨0x100010, 0x0, 9, 0, 0x384⟩

/-- TICK_COMMIT, 02 R31. -/
def Reg.TICK_COMMIT : RegDef := ⟨"TICK_COMMIT", 0x100014, 32, 1, 0x0, 0x0, [
   ⟨"commit", 0, 0, .wo, 0x0, .none, .any, false⟩]⟩
def Fld.TICK_COMMIT_commit : Fld := ⟨0x100014, 0x0, 0, 0, 0x0⟩

/-- TICK_COMMIT_STATUS, 02 R32. -/
def Reg.TICK_COMMIT_STATUS : RegDef := ⟨"TICK_COMMIT_STATUS", 0x100018, 32, 1, 0x0, 0x0, [
   ⟨"pending", 8, 8, .ro, 0x0, .partition, .any, false⟩,
   ⟨"reason", 3, 1, .ro, 0x0, .partition, .any, false⟩,
   ⟨"error", 0, 0, .w1c, 0x0, .partition, .any, false⟩]⟩
def Fld.TICK_COMMIT_STATUS_pending : Fld := ⟨0x100018, 0x0, 8, 8, 0x0⟩
def Fld.TICK_COMMIT_STATUS_reason : Fld := ⟨0x100018, 0x0, 3, 1, 0x0⟩
def Fld.TICK_COMMIT_STATUS_error : Fld := ⟨0x100018, 0x0, 0, 0, 0x0⟩

/-- TICK_STEP_LIMIT, 02 R29. -/
def Reg.TICK_STEP_LIMIT : RegDef := ⟨"TICK_STEP_LIMIT", 0x10001c, 32, 1, 0x0, 0x3e8, [
   ⟨"step_limit_ns", 25, 0, .rw, 0x3e8, .partition, .any, false⟩]⟩
def Fld.TICK_STEP_LIMIT_step_limit_ns : Fld := ⟨0x10001c, 0x0, 25, 0, 0x3e8⟩

/-- TICK_STATUS, 02 R29. -/
def Reg.TICK_STATUS : RegDef := ⟨"TICK_STATUS", 0x100020, 32, 1, 0x0, 0x0, [
   ⟨"step_count", 31, 16, .ro, 0x0, .partition, .any, false⟩,
   ⟨"lock_state", 1, 0, .ro, 0x0, .partition, .any, true⟩]⟩
def Fld.TICK_STATUS_step_count : Fld := ⟨0x100020, 0x0, 31, 16, 0x0⟩
def Fld.TICK_STATUS_lock_state : Fld := ⟨0x100020, 0x0, 1, 0, 0x0⟩

/-- TICK_PHASE_ERR, 02 R29. -/
def Reg.TICK_PHASE_ERR : RegDef := ⟨"TICK_PHASE_ERR", 0x100024, 32, 1, 0x0, 0x0, [
   ⟨"phase_err_ns", 31, 0, .ro, 0x0, .partition, .any, false⟩]⟩
def Fld.TICK_PHASE_ERR_phase_err_ns : Fld := ⟨0x100024, 0x0, 31, 0, 0x0⟩

/-- TICK_COUNT, 02 R25. -/
def Reg.TICK_COUNT : RegDef := ⟨"TICK_COUNT", 0x100028, 64, 1, 0x0, 0x0, [
   ⟨"count", 63, 0, .ro, 0x0, .partition, .any, false⟩]⟩
def Fld.TICK_COUNT_count : Fld := ⟨0x100028, 0x0, 63, 0, 0x0⟩

/-- TICK_ALARM, 02 R41. -/
def Reg.TICK_ALARM : RegDef := ⟨"TICK_ALARM", 0x100030, 64, 1, 0x0, 0xffffffffffffffff, [
   ⟨"alarm_count", 63, 0, .rw, 0xffffffffffffffff, .partition, .any, false⟩]⟩
def Fld.TICK_ALARM_alarm_count : Fld := ⟨0x100030, 0x0, 63, 0, 0xffffffffffffffff⟩

/-- BRK_STATUS, 03 R66. -/
def Reg.BRK_STATUS : RegDef := ⟨"BRK_STATUS", 0x200000, 32, 96, 0x1000, 0x100000, [
   ⟨"idle", 20, 20, .ro, 0x1, .none, .any, true⟩,
   ⟨"split_changing", 19, 19, .ro, 0x0, .none, .any, true⟩,
   ⟨"pond_split", 18, 16, .ro, 0x0, .none, .any, true⟩,
   ⟨"blocks_resident", 13, 8, .ro, 0x0, .none, .any, true⟩,
   ⟨"courses_resident", 6, 0, .ro, 0x0, .none, .any, true⟩]⟩
def Fld.BRK_STATUS_idle : Fld := ⟨0x200000, 0x1000, 20, 20, 0x100000⟩
def Fld.BRK_STATUS_split_changing : Fld := ⟨0x200000, 0x1000, 19, 19, 0x100000⟩
def Fld.BRK_STATUS_pond_split : Fld := ⟨0x200000, 0x1000, 18, 16, 0x100000⟩
def Fld.BRK_STATUS_blocks_resident : Fld := ⟨0x200000, 0x1000, 13, 8, 0x100000⟩
def Fld.BRK_STATUS_courses_resident : Fld := ⟨0x200000, 0x1000, 6, 0, 0x100000⟩

/-- BRK_QUAD_COURSES, 03 R66. -/
def Reg.BRK_QUAD_COURSES : RegDef := ⟨"BRK_QUAD_COURSES", 0x200004, 32, 96, 0x1000, 0x0, [
   ⟨"q3_courses", 28, 24, .ro, 0x0, .none, .any, true⟩,
   ⟨"q2_courses", 20, 16, .ro, 0x0, .none, .any, true⟩,
   ⟨"q1_courses", 12, 8, .ro, 0x0, .none, .any, true⟩,
   ⟨"q0_courses", 4, 0, .ro, 0x0, .none, .any, true⟩]⟩
def Fld.BRK_QUAD_COURSES_q3_courses : Fld := ⟨0x200004, 0x1000, 28, 24, 0x0⟩
def Fld.BRK_QUAD_COURSES_q2_courses : Fld := ⟨0x200004, 0x1000, 20, 16, 0x0⟩
def Fld.BRK_QUAD_COURSES_q1_courses : Fld := ⟨0x200004, 0x1000, 12, 8, 0x0⟩
def Fld.BRK_QUAD_COURSES_q0_courses : Fld := ⟨0x200004, 0x1000, 4, 0, 0x0⟩

/-- BRK_QUAD_REGS, 03 R66. -/
def Reg.BRK_QUAD_REGS : RegDef := ⟨"BRK_QUAD_REGS", 0x200008, 32, 96, 0x1000, 0x0, [
   ⟨"q3_reg_kib", 30, 24, .ro, 0x0, .none, .any, true⟩,
   ⟨"q2_reg_kib", 22, 16, .ro, 0x0, .none, .any, true⟩,
   ⟨"q1_reg_kib", 14, 8, .ro, 0x0, .none, .any, true⟩,
   ⟨"q0_reg_kib", 6, 0, .ro, 0x0, .none, .any, true⟩]⟩
def Fld.BRK_QUAD_REGS_q3_reg_kib : Fld := ⟨0x200008, 0x1000, 30, 24, 0x0⟩
def Fld.BRK_QUAD_REGS_q2_reg_kib : Fld := ⟨0x200008, 0x1000, 22, 16, 0x0⟩
def Fld.BRK_QUAD_REGS_q1_reg_kib : Fld := ⟨0x200008, 0x1000, 14, 8, 0x0⟩
def Fld.BRK_QUAD_REGS_q0_reg_kib : Fld := ⟨0x200008, 0x1000, 6, 0, 0x0⟩

/-- BRK_LS_OOR, 03 R64. -/
def Reg.BRK_LS_OOR : RegDef := ⟨"BRK_LS_OOR", 0x20000c, 32, 96, 0x1000, 0x0, [
   ⟨"oor_count", 31, 0, .ro, 0x0, .none, .any, false⟩]⟩
def Fld.BRK_LS_OOR_oor_count : Fld := ⟨0x20000c, 0x1000, 31, 0, 0x0⟩

/-- BRK_STALL_LIMIT, 03 R66. -/
def Reg.BRK_STALL_LIMIT : RegDef := ⟨"BRK_STALL_LIMIT", 0x200010, 32, 96, 0x1000, 0x1000000, [
   ⟨"stall_limit", 31, 0, .rw, 0x1000000, .partition, (.atLeast 4096), false⟩]⟩
def Fld.BRK_STALL_LIMIT_stall_limit : Fld := ⟨0x200010, 0x1000, 31, 0, 0x1000000⟩

/-- RAS_GROW_RESERVE, 07 R156. -/
def Reg.RAS_GROW_RESERVE : RegDef := ⟨"RAS_GROW_RESERVE", 0x300000, 32, 8, 0x4, 0x0, [
   ⟨"reserve_chunks", 16, 0, .rw, 0x0, .device, (.range 0 65536), false⟩]⟩
def Fld.RAS_GROW_RESERVE_reserve_chunks : Fld := ⟨0x300000, 0x4, 16, 0, 0x0⟩

/-- RAS_GROW_FREE, 07 R156. -/
def Reg.RAS_GROW_FREE : RegDef := ⟨"RAS_GROW_FREE", 0x300020, 32, 8, 0x4, 0x0, [
   ⟨"free_chunks", 16, 0, .ro, 0x0, .device, .any, true⟩]⟩
def Fld.RAS_GROW_FREE_free_chunks : Fld := ⟨0x300020, 0x4, 16, 0, 0x0⟩

/-- RAS_PARTIAL_COUNT, 07 R156. -/
def Reg.RAS_PARTIAL_COUNT : RegDef := ⟨"RAS_PARTIAL_COUNT", 0x300040, 64, 1, 0x0, 0x0, [
   ⟨"count", 63, 0, .ro, 0x0, .partition, .any, false⟩]⟩
def Fld.RAS_PARTIAL_COUNT_count : Fld := ⟨0x300040, 0x0, 63, 0, 0x0⟩

/-- RAS_HEAP_EXHAUSTED_COUNT, 07 R156. -/
def Reg.RAS_HEAP_EXHAUSTED_COUNT : RegDef := ⟨"RAS_HEAP_EXHAUSTED_COUNT", 0x300048, 64, 1, 0x0, 0x0, [
   ⟨"count", 63, 0, .ro, 0x0, .partition, .any, false⟩]⟩
def Fld.RAS_HEAP_EXHAUSTED_COUNT_count : Fld := ⟨0x300048, 0x0, 63, 0, 0x0⟩

/-- RAS_HEAP_LOW_COUNT, 07 R155. -/
def Reg.RAS_HEAP_LOW_COUNT : RegDef := ⟨"RAS_HEAP_LOW_COUNT", 0x300050, 64, 1, 0x0, 0x0, [
   ⟨"count", 63, 0, .ro, 0x0, .partition, .any, false⟩]⟩
def Fld.RAS_HEAP_LOW_COUNT_count : Fld := ⟨0x300050, 0x0, 63, 0, 0x0⟩

/-- RAS_FLAG_MISMATCH, 07 R164. -/
def Reg.RAS_FLAG_MISMATCH : RegDef := ⟨"RAS_FLAG_MISMATCH", 0x300058, 64, 1, 0x0, 0x0, [
   ⟨"count", 63, 0, .ro, 0x0, .partition, .any, false⟩]⟩
def Fld.RAS_FLAG_MISMATCH_count : Fld := ⟨0x300058, 0x0, 63, 0, 0x0⟩

/-- RAS_DESC_ERROR, 07 R174. -/
def Reg.RAS_DESC_ERROR : RegDef := ⟨"RAS_DESC_ERROR", 0x300060, 64, 1, 0x0, 0x0, [
   ⟨"count", 63, 0, .ro, 0x0, .partition, .any, false⟩]⟩
def Fld.RAS_DESC_ERROR_count : Fld := ⟨0x300060, 0x0, 63, 0, 0x0⟩

/-- RAS_FE_STATUS, 07 R156. -/
def Reg.RAS_FE_STATUS : RegDef := ⟨"RAS_FE_STATUS", 0x300068, 32, 1, 0x0, 0x0, [
   ⟨"fe1_stalled", 3, 3, .ro, 0x0, .none, .any, true⟩,
   ⟨"fe0_stalled", 2, 2, .ro, 0x0, .none, .any, true⟩,
   ⟨"fe1_busy", 1, 1, .ro, 0x0, .none, .any, true⟩,
   ⟨"fe0_busy", 0, 0, .ro, 0x0, .none, .any, true⟩]⟩
def Fld.RAS_FE_STATUS_fe1_stalled : Fld := ⟨0x300068, 0x0, 3, 3, 0x0⟩
def Fld.RAS_FE_STATUS_fe0_stalled : Fld := ⟨0x300068, 0x0, 2, 2, 0x0⟩
def Fld.RAS_FE_STATUS_fe1_busy : Fld := ⟨0x300068, 0x0, 1, 1, 0x0⟩
def Fld.RAS_FE_STATUS_fe0_busy : Fld := ⟨0x300068, 0x0, 0, 0, 0x0⟩

/-- CMP_POSE_UDP, 08 R177. -/
def Reg.CMP_POSE_UDP : RegDef := ⟨"CMP_POSE_UDP", 0x400000, 32, 1, 0x0, 0x0, [
   ⟨"udp_port", 15, 0, .rw, 0x0, .device, .any, false⟩]⟩
def Fld.CMP_POSE_UDP_udp_port : Fld := ⟨0x400000, 0x0, 15, 0, 0x0⟩

/-- CMP_POSE_MAX_AGE, 08 R180. -/
def Reg.CMP_POSE_MAX_AGE : RegDef := ⟨"CMP_POSE_MAX_AGE", 0x400004, 32, 1, 0x0, 0x1312d00, [
   ⟨"max_age_ns", 31, 0, .rw, 0x1312d00, .device, .any, false⟩]⟩
def Fld.CMP_POSE_MAX_AGE_max_age_ns : Fld := ⟨0x400004, 0x0, 31, 0, 0x1312d00⟩

/-- CMP_POSE_REJECT, 08 R178. -/
def Reg.CMP_POSE_REJECT : RegDef := ⟨"CMP_POSE_REJECT", 0x400008, 64, 1, 0x0, 0x0, [
   ⟨"count", 63, 0, .ro, 0x0, .device, .any, false⟩]⟩
def Fld.CMP_POSE_REJECT_count : Fld := ⟨0x400008, 0x0, 63, 0, 0x0⟩

/-- CMP_POSE_OLD, 08 R178. -/
def Reg.CMP_POSE_OLD : RegDef := ⟨"CMP_POSE_OLD", 0x400010, 64, 1, 0x0, 0x0, [
   ⟨"count", 63, 0, .ro, 0x0, .device, .any, false⟩]⟩
def Fld.CMP_POSE_OLD_count : Fld := ⟨0x400010, 0x0, 63, 0, 0x0⟩

/-- CMP_S_CTRL, 08 R197. -/
def Reg.CMP_S_CTRL : RegDef := ⟨"CMP_S_CTRL", 0x410000, 32, 64, 0x100, 0x0, [
   ⟨"layer_count", 29, 25, .rw, 0x0, .partition, (.range 0 16), false⟩,
   ⟨"transfer", 24, 23, .rw, 0x0, .partition, (.range 0 2), false⟩,
   ⟨"out_format", 22, 19, .rw, 0x0, .partition, (.range 0 3), false⟩,
   ⟨"pose_slot", 18, 13, .rw, 0x0, .partition, .any, false⟩,
   ⟨"asid", 12, 5, .rw, 0x0, .partition, .any, false⟩,
   ⟨"part", 4, 2, .rw, 0x0, .partition, .any, false⟩,
   ⟨"fallback_en", 1, 1, .rw, 0x0, .partition, .any, false⟩,
   ⟨"enable", 0, 0, .rw, 0x0, .partition, .any, false⟩]⟩
def Fld.CMP_S_CTRL_layer_count : Fld := ⟨0x410000, 0x100, 29, 25, 0x0⟩
def Fld.CMP_S_CTRL_transfer : Fld := ⟨0x410000, 0x100, 24, 23, 0x0⟩
def Fld.CMP_S_CTRL_out_format : Fld := ⟨0x410000, 0x100, 22, 19, 0x0⟩
def Fld.CMP_S_CTRL_pose_slot : Fld := ⟨0x410000, 0x100, 18, 13, 0x0⟩
def Fld.CMP_S_CTRL_asid : Fld := ⟨0x410000, 0x100, 12, 5, 0x0⟩
def Fld.CMP_S_CTRL_part : Fld := ⟨0x410000, 0x100, 4, 2, 0x0⟩
def Fld.CMP_S_CTRL_fallback_en : Fld := ⟨0x410000, 0x100, 1, 1, 0x0⟩
def Fld.CMP_S_CTRL_enable : Fld := ⟨0x410000, 0x100, 0, 0, 0x0⟩

/-- CMP_S_SIZE, 08 R197. -/
def Reg.CMP_S_SIZE : RegDef := ⟨"CMP_S_SIZE", 0x410004, 32, 64, 0x100, 0x100010, [
   ⟨"height", 29, 16, .rw, 0x10, .partition, .any, false⟩,
   ⟨"width", 13, 0, .rw, 0x10, .partition, .any, false⟩]⟩
def Fld.CMP_S_SIZE_height : Fld := ⟨0x410004, 0x100, 29, 16, 0x100010⟩
def Fld.CMP_S_SIZE_width : Fld := ⟨0x410004, 0x100, 13, 0, 0x100010⟩

/-- CMP_S_STRIDE, 08 R197. -/
def Reg.CMP_S_STRIDE : RegDef := ⟨"CMP_S_STRIDE", 0x410008, 32, 64, 0x100, 0x100, [
   ⟨"stride", 31, 0, .rw, 0x100, .partition, .any, false⟩]⟩
def Fld.CMP_S_STRIDE_stride : Fld := ⟨0x410008, 0x100, 31, 0, 0x100⟩

/-- CMP_S_SLICE, 08 R175. -/
def Reg.CMP_S_SLICE : RegDef := ⟨"CMP_S_SLICE", 0x41000c, 32, 64, 0x100, 0x104010, [
   ⟨"max_fetch", 25, 20, .rw, 0x1, .partition, .any, false⟩,
   ⟨"slice_ticks", 19, 14, .rw, 0x1, .partition, .any, false⟩,
   ⟨"slice_rows", 13, 0, .rw, 0x10, .partition, .any, false⟩]⟩
def Fld.CMP_S_SLICE_max_fetch : Fld := ⟨0x41000c, 0x100, 25, 20, 0x104010⟩
def Fld.CMP_S_SLICE_slice_ticks : Fld := ⟨0x41000c, 0x100, 19, 14, 0x104010⟩
def Fld.CMP_S_SLICE_slice_rows : Fld := ⟨0x41000c, 0x100, 13, 0, 0x104010⟩

/-- CMP_S_FRAME, 08 R33. -/
def Reg.CMP_S_FRAME : RegDef := ⟨"CMP_S_FRAME", 0x410010, 32, 64, 0x100, 0x1, [
   ⟨"frame_offset", 31, 16, .rw, 0x0, .partition, .any, false⟩,
   ⟨"frame_period", 15, 0, .rw, 0x1, .partition, (.range 1 65535), false⟩]⟩
def Fld.CMP_S_FRAME_frame_offset : Fld := ⟨0x410010, 0x100, 31, 16, 0x1⟩
def Fld.CMP_S_FRAME_frame_period : Fld := ⟨0x410010, 0x100, 15, 0, 0x1⟩

/-- CMP_S_LEAD, 08 R176. -/
def Reg.CMP_S_LEAD : RegDef := ⟨"CMP_S_LEAD", 0x410014, 32, 64, 0x100, 0xf424, [
   ⟨"lead_ns", 25, 0, .rw, 0xf424, .partition, .any, false⟩]⟩
def Fld.CMP_S_LEAD_lead_ns : Fld := ⟨0x410014, 0x100, 25, 0, 0xf424⟩

/-- CMP_S_OUT_BASE, 08 R189. -/
def Reg.CMP_S_OUT_BASE : RegDef := ⟨"CMP_S_OUT_BASE", 0x410018, 64, 64, 0x100, 0x0, [
   ⟨"value", 63, 0, .rw, 0x0, .partition, .any, false⟩]⟩
def Fld.CMP_S_OUT_BASE_value : Fld := ⟨0x410018, 0x100, 63, 0, 0x0⟩

/-- CMP_S_REC_BASE, 08 R191. -/
def Reg.CMP_S_REC_BASE : RegDef := ⟨"CMP_S_REC_BASE", 0x410020, 64, 64, 0x100, 0x0, [
   ⟨"value", 63, 0, .rw, 0x0, .partition, .any, false⟩]⟩
def Fld.CMP_S_REC_BASE_value : Fld := ⟨0x410020, 0x100, 63, 0, 0x0⟩

/-- CMP_S_SIG_TABLE, 08 R193. -/
def Reg.CMP_S_SIG_TABLE : RegDef := ⟨"CMP_S_SIG_TABLE", 0x410028, 64, 64, 0x100, 0x0, [
   ⟨"value", 63, 0, .rw, 0x0, .partition, .any, false⟩]⟩
def Fld.CMP_S_SIG_TABLE_value : Fld := ⟨0x410028, 0x100, 63, 0, 0x0⟩

/-- CMP_S_FENCE, 08 R191. -/
def Reg.CMP_S_FENCE : RegDef := ⟨"CMP_S_FENCE", 0x410030, 64, 64, 0x100, 0x0, [
   ⟨"value", 63, 0, .rw, 0x0, .partition, .any, false⟩]⟩
def Fld.CMP_S_FENCE_value : Fld := ⟨0x410030, 0x100, 63, 0, 0x0⟩

/-- CMP_S_COMMIT, 08 R197. -/
def Reg.CMP_S_COMMIT : RegDef := ⟨"CMP_S_COMMIT", 0x410038, 32, 64, 0x100, 0x0, [
   ⟨"cmatrix", 1, 1, .wo, 0x0, .none, .any, false⟩,
   ⟨"outgeom", 0, 0, .wo, 0x0, .none, .any, false⟩]⟩
def Fld.CMP_S_COMMIT_cmatrix : Fld := ⟨0x410038, 0x100, 1, 1, 0x0⟩
def Fld.CMP_S_COMMIT_outgeom : Fld := ⟨0x410038, 0x100, 0, 0, 0x0⟩

/-- CMP_S_COMMIT_STATUS, 08 R197. -/
def Reg.CMP_S_COMMIT_STATUS : RegDef := ⟨"CMP_S_COMMIT_STATUS", 0x41003c, 32, 64, 0x100, 0x0, [
   ⟨"lead_clamped", 10, 10, .ro, 0x0, .partition, .any, false⟩,
   ⟨"cmatrix_pending", 9, 9, .ro, 0x0, .partition, .any, false⟩,
   ⟨"outgeom_pending", 8, 8, .ro, 0x0, .partition, .any, false⟩,
   ⟨"reason", 4, 1, .ro, 0x0, .partition, .any, false⟩,
   ⟨"error", 0, 0, .w1c, 0x0, .partition, .any, false⟩]⟩
def Fld.CMP_S_COMMIT_STATUS_lead_clamped : Fld := ⟨0x41003c, 0x100, 10, 10, 0x0⟩
def Fld.CMP_S_COMMIT_STATUS_cmatrix_pending : Fld := ⟨0x41003c, 0x100, 9, 9, 0x0⟩
def Fld.CMP_S_COMMIT_STATUS_outgeom_pending : Fld := ⟨0x41003c, 0x100, 8, 8, 0x0⟩
def Fld.CMP_S_COMMIT_STATUS_reason : Fld := ⟨0x41003c, 0x100, 4, 1, 0x0⟩
def Fld.CMP_S_COMMIT_STATUS_error : Fld := ⟨0x41003c, 0x100, 0, 0, 0x0⟩

/-- CMP_S_CM_0, 08 R187. -/
def Reg.CMP_S_CM_0 : RegDef := ⟨"CMP_S_CM_0", 0x410040, 32, 64, 0x100, 0x4000, [
   ⟨"val_odd", 31, 16, .rw, 0x0, .partition, .any, false⟩,
   ⟨"val_even", 15, 0, .rw, 0x4000, .partition, .any, false⟩]⟩
def Fld.CMP_S_CM_0_val_odd : Fld := ⟨0x410040, 0x100, 31, 16, 0x4000⟩
def Fld.CMP_S_CM_0_val_even : Fld := ⟨0x410040, 0x100, 15, 0, 0x4000⟩

/-- CMP_S_CM_1, 08 R187. -/
def Reg.CMP_S_CM_1 : RegDef := ⟨"CMP_S_CM_1", 0x410044, 32, 64, 0x100, 0x0, [
   ⟨"val_odd", 31, 16, .rw, 0x0, .partition, .any, false⟩,
   ⟨"val_even", 15, 0, .rw, 0x0, .partition, .any, false⟩]⟩
def Fld.CMP_S_CM_1_val_odd : Fld := ⟨0x410044, 0x100, 31, 16, 0x0⟩
def Fld.CMP_S_CM_1_val_even : Fld := ⟨0x410044, 0x100, 15, 0, 0x0⟩

/-- CMP_S_CM_2, 08 R187. -/
def Reg.CMP_S_CM_2 : RegDef := ⟨"CMP_S_CM_2", 0x410048, 32, 64, 0x100, 0x40000000, [
   ⟨"val_odd", 31, 16, .rw, 0x4000, .partition, .any, false⟩,
   ⟨"val_even", 15, 0, .rw, 0x0, .partition, .any, false⟩]⟩
def Fld.CMP_S_CM_2_val_odd : Fld := ⟨0x410048, 0x100, 31, 16, 0x40000000⟩
def Fld.CMP_S_CM_2_val_even : Fld := ⟨0x410048, 0x100, 15, 0, 0x40000000⟩

/-- CMP_S_CM_3, 08 R187. -/
def Reg.CMP_S_CM_3 : RegDef := ⟨"CMP_S_CM_3", 0x41004c, 32, 64, 0x100, 0x0, [
   ⟨"val_odd", 31, 16, .rw, 0x0, .partition, .any, false⟩,
   ⟨"val_even", 15, 0, .rw, 0x0, .partition, .any, false⟩]⟩
def Fld.CMP_S_CM_3_val_odd : Fld := ⟨0x41004c, 0x100, 31, 16, 0x0⟩
def Fld.CMP_S_CM_3_val_even : Fld := ⟨0x41004c, 0x100, 15, 0, 0x0⟩

/-- CMP_S_CM_4, 08 R187. -/
def Reg.CMP_S_CM_4 : RegDef := ⟨"CMP_S_CM_4", 0x410050, 32, 64, 0x100, 0x0, [
   ⟨"val_odd", 31, 16, .rw, 0x0, .partition, .any, false⟩,
   ⟨"val_even", 15, 0, .rw, 0x0, .partition, .any, false⟩]⟩
def Fld.CMP_S_CM_4_val_odd : Fld := ⟨0x410050, 0x100, 31, 16, 0x0⟩
def Fld.CMP_S_CM_4_val_even : Fld := ⟨0x410050, 0x100, 15, 0, 0x0⟩

/-- CMP_S_CM_5, 08 R187. -/
def Reg.CMP_S_CM_5 : RegDef := ⟨"CMP_S_CM_5", 0x410054, 32, 64, 0x100, 0x4000, [
   ⟨"val_odd", 31, 16, .rw, 0x0, .partition, .any, false⟩,
   ⟨"val_even", 15, 0, .rw, 0x4000, .partition, .any, false⟩]⟩
def Fld.CMP_S_CM_5_val_odd : Fld := ⟨0x410054, 0x100, 31, 16, 0x4000⟩
def Fld.CMP_S_CM_5_val_even : Fld := ⟨0x410054, 0x100, 15, 0, 0x4000⟩

/-- CMP_S_RANGE_0, 08 R187. -/
def Reg.CMP_S_RANGE_0 : RegDef := ⟨"CMP_S_RANGE_0", 0x410058, 32, 64, 0x100, 0xff0000, [
   ⟨"hi", 25, 16, .rw, 0xff, .partition, .any, false⟩,
   ⟨"lo", 9, 0, .rw, 0x0, .partition, .any, false⟩]⟩
def Fld.CMP_S_RANGE_0_hi : Fld := ⟨0x410058, 0x100, 25, 16, 0xff0000⟩
def Fld.CMP_S_RANGE_0_lo : Fld := ⟨0x410058, 0x100, 9, 0, 0xff0000⟩

/-- CMP_S_RANGE_1, 08 R187. -/
def Reg.CMP_S_RANGE_1 : RegDef := ⟨"CMP_S_RANGE_1", 0x41005c, 32, 64, 0x100, 0xff0000, [
   ⟨"hi", 25, 16, .rw, 0xff, .partition, .any, false⟩,
   ⟨"lo", 9, 0, .rw, 0x0, .partition, .any, false⟩]⟩
def Fld.CMP_S_RANGE_1_hi : Fld := ⟨0x41005c, 0x100, 25, 16, 0xff0000⟩
def Fld.CMP_S_RANGE_1_lo : Fld := ⟨0x41005c, 0x100, 9, 0, 0xff0000⟩

/-- CMP_S_RANGE_2, 08 R187. -/
def Reg.CMP_S_RANGE_2 : RegDef := ⟨"CMP_S_RANGE_2", 0x410060, 32, 64, 0x100, 0xff0000, [
   ⟨"hi", 25, 16, .rw, 0xff, .partition, .any, false⟩,
   ⟨"lo", 9, 0, .rw, 0x0, .partition, .any, false⟩]⟩
def Fld.CMP_S_RANGE_2_hi : Fld := ⟨0x410060, 0x100, 25, 16, 0xff0000⟩
def Fld.CMP_S_RANGE_2_lo : Fld := ⟨0x410060, 0x100, 9, 0, 0xff0000⟩

/-- CMP_S_SERIAL, 08 R191. -/
def Reg.CMP_S_SERIAL : RegDef := ⟨"CMP_S_SERIAL", 0x410068, 64, 64, 0x100, 0x0, [
   ⟨"count", 63, 0, .ro, 0x0, .partition, .any, false⟩]⟩
def Fld.CMP_S_SERIAL_count : Fld := ⟨0x410068, 0x100, 63, 0, 0x0⟩

/-- CMP_S_OVERRUN, 08 R190. -/
def Reg.CMP_S_OVERRUN : RegDef := ⟨"CMP_S_OVERRUN", 0x410070, 64, 64, 0x100, 0x0, [
   ⟨"count", 63, 0, .ro, 0x0, .partition, .any, false⟩]⟩
def Fld.CMP_S_OVERRUN_count : Fld := ⟨0x410070, 0x100, 63, 0, 0x0⟩

/-- CMP_S_MISMATCH, 08 R195. -/
def Reg.CMP_S_MISMATCH : RegDef := ⟨"CMP_S_MISMATCH", 0x410078, 64, 64, 0x100, 0x0, [
   ⟨"count", 63, 0, .ro, 0x0, .partition, .any, false⟩]⟩
def Fld.CMP_S_MISMATCH_count : Fld := ⟨0x410078, 0x100, 63, 0, 0x0⟩

/-- CMP_S_STALE, 08 R180. -/
def Reg.CMP_S_STALE : RegDef := ⟨"CMP_S_STALE", 0x410080, 64, 64, 0x100, 0x0, [
   ⟨"count", 63, 0, .ro, 0x0, .partition, .any, false⟩]⟩
def Fld.CMP_S_STALE_count : Fld := ⟨0x410080, 0x100, 63, 0, 0x0⟩

/-- CMP_S_SIG_SKIP, 08 R193. -/
def Reg.CMP_S_SIG_SKIP : RegDef := ⟨"CMP_S_SIG_SKIP", 0x410088, 64, 64, 0x100, 0x0, [
   ⟨"count", 63, 0, .ro, 0x0, .partition, .any, false⟩]⟩
def Fld.CMP_S_SIG_SKIP_count : Fld := ⟨0x410088, 0x100, 63, 0, 0x0⟩

/-- MEM_PREFETCH_MODE, 09 R206. -/
def Reg.MEM_PREFETCH_MODE : RegDef := ⟨"MEM_PREFETCH_MODE", 0x500000, 32, 1, 0x0, 0x1, [
   ⟨"mode", 1, 0, .rw, 0x1, .partition, (.range 0 2), false⟩]⟩
def Fld.MEM_PREFETCH_MODE_mode : Fld := ⟨0x500000, 0x0, 1, 0, 0x1⟩

/-- MEM_LAKE_MEM_WAYS, 09 R204. -/
def Reg.MEM_LAKE_MEM_WAYS : RegDef := ⟨"MEM_LAKE_MEM_WAYS", 0x500008, 32, 1, 0x0, 0xffff, [
   ⟨"way_mask", 15, 0, .rw, 0xffff, .partition, .any, false⟩]⟩
def Fld.MEM_LAKE_MEM_WAYS_way_mask : Fld := ⟨0x500008, 0x0, 15, 0, 0xffff⟩

/-- MEM_LAKE_STATUS, 09 R205. -/
def Reg.MEM_LAKE_STATUS : RegDef := ⟨"MEM_LAKE_STATUS", 0x50000c, 32, 1, 0x0, 0x1, [
   ⟨"way_convert", 1, 1, .ro, 0x0, .none, .any, true⟩,
   ⟨"tag_init", 0, 0, .ro, 0x1, .none, .any, true⟩]⟩
def Fld.MEM_LAKE_STATUS_way_convert : Fld := ⟨0x50000c, 0x0, 1, 1, 0x1⟩
def Fld.MEM_LAKE_STATUS_tag_init : Fld := ⟨0x50000c, 0x0, 0, 0, 0x1⟩

/-- MEM_MAINT_STATUS, 09 R213. -/
def Reg.MEM_MAINT_STATUS : RegDef := ⟨"MEM_MAINT_STATUS", 0x500010, 32, 2, 0x4, 0x0, [
   ⟨"queued", 12, 8, .ro, 0x0, .none, .any, true⟩,
   ⟨"busy", 0, 0, .ro, 0x0, .none, .any, true⟩]⟩
def Fld.MEM_MAINT_STATUS_queued : Fld := ⟨0x500010, 0x4, 12, 8, 0x0⟩
def Fld.MEM_MAINT_STATUS_busy : Fld := ⟨0x500010, 0x4, 0, 0, 0x0⟩

/-- MEM_SIDE_HITS, 09 R208. -/
def Reg.MEM_SIDE_HITS : RegDef := ⟨"MEM_SIDE_HITS", 0x500020, 64, 1, 0x0, 0x0, [
   ⟨"count", 63, 0, .ro, 0x0, .partition, .any, false⟩]⟩
def Fld.MEM_SIDE_HITS_count : Fld := ⟨0x500020, 0x0, 63, 0, 0x0⟩

/-- MEM_SIDE_DROPS, 09 R208. -/
def Reg.MEM_SIDE_DROPS : RegDef := ⟨"MEM_SIDE_DROPS", 0x500028, 64, 1, 0x0, 0x0, [
   ⟨"count", 63, 0, .ro, 0x0, .partition, .any, false⟩]⟩
def Fld.MEM_SIDE_DROPS_count : Fld := ⟨0x500028, 0x0, 63, 0, 0x0⟩

/-- MEM_SPRING_ERR, 09 R215. -/
def Reg.MEM_SPRING_ERR : RegDef := ⟨"MEM_SPRING_ERR", 0x500030, 64, 1, 0x0, 0x0, [
   ⟨"count", 63, 0, .ro, 0x0, .partition, .any, false⟩]⟩
def Fld.MEM_SPRING_ERR_count : Fld := ⟨0x500030, 0x0, 63, 0, 0x0⟩

/-- XLT_INV_TIMEOUT, 10 R246. -/
def Reg.XLT_INV_TIMEOUT : RegDef := ⟨"XLT_INV_TIMEOUT", 0x600000, 32, 1, 0x0, 0x186a0, [
   ⟨"timeout_ns", 31, 0, .rw, 0x186a0, .partition, (.atLeast 1000), false⟩]⟩
def Fld.XLT_INV_TIMEOUT_timeout_ns : Fld := ⟨0x600000, 0x0, 31, 0, 0x186a0⟩

/-- XLT_BATCH_WINDOW, 10 R239. -/
def Reg.XLT_BATCH_WINDOW : RegDef := ⟨"XLT_BATCH_WINDOW", 0x600004, 32, 1, 0x0, 0x7d0, [
   ⟨"window_ns", 15, 0, .rw, 0x7d0, .partition, (.atLeast 100), false⟩]⟩
def Fld.XLT_BATCH_WINDOW_window_ns : Fld := ⟨0x600004, 0x0, 15, 0, 0x7d0⟩

/-- XLT_INV_STATUS, 10 R246. -/
def Reg.XLT_INV_STATUS : RegDef := ⟨"XLT_INV_STATUS", 0x600008, 32, 1, 0x0, 0x0, [
   ⟨"queued", 13, 8, .ro, 0x0, .none, .any, true⟩,
   ⟨"busy", 0, 0, .ro, 0x0, .none, .any, true⟩]⟩
def Fld.XLT_INV_STATUS_queued : Fld := ⟨0x600008, 0x0, 13, 8, 0x0⟩
def Fld.XLT_INV_STATUS_busy : Fld := ⟨0x600008, 0x0, 0, 0, 0x0⟩

/-- XLT_FAULTS, 10 R238. -/
def Reg.XLT_FAULTS : RegDef := ⟨"XLT_FAULTS", 0x600010, 64, 1, 0x0, 0x0, [
   ⟨"count", 63, 0, .ro, 0x0, .partition, .any, false⟩]⟩
def Fld.XLT_FAULTS_count : Fld := ⟨0x600010, 0x0, 63, 0, 0x0⟩

/-- XLT_REFAULTS, 10 R242. -/
def Reg.XLT_REFAULTS : RegDef := ⟨"XLT_REFAULTS", 0x600018, 64, 1, 0x0, 0x0, [
   ⟨"count", 63, 0, .ro, 0x0, .partition, .any, false⟩]⟩
def Fld.XLT_REFAULTS_count : Fld := ⟨0x600018, 0x0, 63, 0, 0x0⟩

/-- XLT_INV_TERMINATED, 10 R246. -/
def Reg.XLT_INV_TERMINATED : RegDef := ⟨"XLT_INV_TERMINATED", 0x600020, 64, 1, 0x0, 0x0, [
   ⟨"count", 63, 0, .ro, 0x0, .partition, .any, false⟩]⟩
def Fld.XLT_INV_TERMINATED_count : Fld := ⟨0x600020, 0x0, 63, 0, 0x0⟩

/-- XLT_FRING_STALLS, 10 R240. -/
def Reg.XLT_FRING_STALLS : RegDef := ⟨"XLT_FRING_STALLS", 0x600028, 64, 1, 0x0, 0x0, [
   ⟨"count", 63, 0, .ro, 0x0, .partition, .any, false⟩]⟩
def Fld.XLT_FRING_STALLS_count : Fld := ⟨0x600028, 0x0, 63, 0, 0x0⟩

/-- XLT_AS_CTRL, 10 R224. -/
def Reg.XLT_AS_CTRL : RegDef := ⟨"XLT_AS_CTRL", 0x610000, 32, 256, 0x40, 0x20, [
   ⟨"fring_log2", 6, 2, .rw, 0x8, .partition, (.range 8 16), false⟩,
   ⟨"delegate", 1, 1, .rw, 0x0, .partition, .any, false⟩,
   ⟨"enable", 0, 0, .rw, 0x0, .partition, .any, false⟩]⟩
def Fld.XLT_AS_CTRL_fring_log2 : Fld := ⟨0x610000, 0x40, 6, 2, 0x20⟩
def Fld.XLT_AS_CTRL_delegate : Fld := ⟨0x610000, 0x40, 1, 1, 0x20⟩
def Fld.XLT_AS_CTRL_enable : Fld := ⟨0x610000, 0x40, 0, 0, 0x20⟩

/-- XLT_AS_ROOT, 10 R227. -/
def Reg.XLT_AS_ROOT : RegDef := ⟨"XLT_AS_ROOT", 0x610008, 64, 256, 0x40, 0x0, [
   ⟨"root", 39, 16, .rw, 0x0, .partition, .any, false⟩]⟩
def Fld.XLT_AS_ROOT_root : Fld := ⟨0x610008, 0x40, 39, 16, 0x0⟩

/-- XLT_AS_FRING, 10 R237. -/
def Reg.XLT_AS_FRING : RegDef := ⟨"XLT_AS_FRING", 0x610010, 64, 256, 0x40, 0x0, [
   ⟨"base", 39, 6, .rw, 0x0, .partition, .any, false⟩]⟩
def Fld.XLT_AS_FRING_base : Fld := ⟨0x610010, 0x40, 39, 6, 0x0⟩

/-- XLT_AS_FENCE, 10 R239. -/
def Reg.XLT_AS_FENCE : RegDef := ⟨"XLT_AS_FENCE", 0x610018, 64, 256, 0x40, 0x0, [
   ⟨"fence", 63, 0, .rw, 0x0, .partition, .any, false⟩]⟩
def Fld.XLT_AS_FENCE_fence : Fld := ⟨0x610018, 0x40, 63, 0, 0x0⟩

/-- XLT_AS_PROD, 10 R239. -/
def Reg.XLT_AS_PROD : RegDef := ⟨"XLT_AS_PROD", 0x610020, 64, 256, 0x40, 0x0, [
   ⟨"batch", 63, 32, .ro, 0x0, .partition, .any, false⟩,
   ⟨"index", 31, 0, .ro, 0x0, .partition, .any, false⟩]⟩
def Fld.XLT_AS_PROD_batch : Fld := ⟨0x610020, 0x40, 63, 32, 0x0⟩
def Fld.XLT_AS_PROD_index : Fld := ⟨0x610020, 0x40, 31, 0, 0x0⟩

/-- XLT_AS_CONS, 10 R242. -/
def Reg.XLT_AS_CONS : RegDef := ⟨"XLT_AS_CONS", 0x610028, 64, 256, 0x40, 0x0, [
   ⟨"batch", 63, 32, .ro, 0x0, .partition, .any, false⟩,
   ⟨"index", 31, 0, .ro, 0x0, .partition, .any, false⟩]⟩
def Fld.XLT_AS_CONS_batch : Fld := ⟨0x610028, 0x40, 63, 32, 0x0⟩
def Fld.XLT_AS_CONS_index : Fld := ⟨0x610028, 0x40, 31, 0, 0x0⟩

/-- XLT_AS_STATUS, 10 R239. -/
def Reg.XLT_AS_STATUS : RegDef := ⟨"XLT_AS_STATUS", 0x610030, 32, 256, 0x40, 0x0, [
   ⟨"open_records", 16, 8, .ro, 0x0, .none, .any, true⟩,
   ⟨"batch_open", 1, 1, .ro, 0x0, .none, .any, true⟩,
   ⟨"ring_full", 0, 0, .ro, 0x0, .none, .any, true⟩]⟩
def Fld.XLT_AS_STATUS_open_records : Fld := ⟨0x610030, 0x40, 16, 8, 0x0⟩
def Fld.XLT_AS_STATUS_batch_open : Fld := ⟨0x610030, 0x40, 1, 1, 0x0⟩
def Fld.XLT_AS_STATUS_ring_full : Fld := ⟨0x610030, 0x40, 0, 0, 0x0⟩

/-- CPR_CWIN, 11 R272. -/
def Reg.CPR_CWIN : RegDef := ⟨"CPR_CWIN", 0x700000, 32, 1, 0x0, 0x0, [
   ⟨"cwin_error", 16, 16, .w1c, 0x0, .partition, .any, false⟩,
   ⟨"size_gib", 15, 8, .rw, 0x0, .partition, (.range 0 144), false⟩,
   ⟨"base_gib", 7, 0, .rw, 0x0, .partition, (.range 0 143), false⟩]⟩
def Fld.CPR_CWIN_cwin_error : Fld := ⟨0x700000, 0x0, 16, 16, 0x0⟩
def Fld.CPR_CWIN_size_gib : Fld := ⟨0x700000, 0x0, 15, 8, 0x0⟩
def Fld.CPR_CWIN_base_gib : Fld := ⟨0x700000, 0x0, 7, 0, 0x0⟩

/-- CPR_SIDE_BASE, 11 R250. -/
def Reg.CPR_SIDE_BASE : RegDef := ⟨"CPR_SIDE_BASE", 0x700008, 64, 1, 0x0, 0x0, [
   ⟨"side_base", 39, 16, .rw, 0x0, .partition, .any, false⟩]⟩
def Fld.CPR_SIDE_BASE_side_base : Fld := ⟨0x700008, 0x0, 39, 16, 0x0⟩

/-- CPR_LOSSY, 11 R262. -/
def Reg.CPR_LOSSY : RegDef := ⟨"CPR_LOSSY", 0x700010, 64, 1, 0x0, 0x0, [
   ⟨"profiles", 47, 0, .rw, 0x0, .partition, .any, false⟩]⟩
def Fld.CPR_LOSSY_profiles : Fld := ⟨0x700010, 0x0, 47, 0, 0x0⟩

/-- CPR_STREAM_STATUS, 11 R268. -/
def Reg.CPR_STREAM_STATUS : RegDef := ⟨"CPR_STREAM_STATUS", 0x700018, 32, 1, 0x0, 0x0, [
   ⟨"queued", 14, 8, .ro, 0x0, .none, .any, true⟩,
   ⟨"running", 3, 0, .ro, 0x0, .none, .any, true⟩]⟩
def Fld.CPR_STREAM_STATUS_queued : Fld := ⟨0x700018, 0x0, 14, 8, 0x0⟩
def Fld.CPR_STREAM_STATUS_running : Fld := ⟨0x700018, 0x0, 3, 0, 0x0⟩

/-- CPR_CODEC_LOSSY, 11 R262. -/
def Reg.CPR_CODEC_LOSSY : RegDef := ⟨"CPR_CODEC_LOSSY", 0x700020, 64, 1, 0x0, 0x0, [
   ⟨"count", 63, 0, .ro, 0x0, .partition, .any, false⟩]⟩
def Fld.CPR_CODEC_LOSSY_count : Fld := ⟨0x700020, 0x0, 63, 0, 0x0⟩

/-- CPR_CODEC_BAD, 11 R258. -/
def Reg.CPR_CODEC_BAD : RegDef := ⟨"CPR_CODEC_BAD", 0x700028, 64, 1, 0x0, 0x0, [
   ⟨"count", 63, 0, .ro, 0x0, .partition, .any, false⟩]⟩
def Fld.CPR_CODEC_BAD_count : Fld := ⟨0x700028, 0x0, 63, 0, 0x0⟩

/-- CPR_STREAM_IN, 11 R267. -/
def Reg.CPR_STREAM_IN : RegDef := ⟨"CPR_STREAM_IN", 0x700030, 64, 1, 0x0, 0x0, [
   ⟨"count", 63, 0, .ro, 0x0, .partition, .any, false⟩]⟩
def Fld.CPR_STREAM_IN_count : Fld := ⟨0x700030, 0x0, 63, 0, 0x0⟩

/-- CPR_STREAM_OUT, 11 R267. -/
def Reg.CPR_STREAM_OUT : RegDef := ⟨"CPR_STREAM_OUT", 0x700038, 64, 1, 0x0, 0x0, [
   ⟨"count", 63, 0, .ro, 0x0, .partition, .any, false⟩]⟩
def Fld.CPR_STREAM_OUT_count : Fld := ⟨0x700038, 0x0, 63, 0, 0x0⟩

/-- SEQ_P_CTRL, 12 R289. -/
def Reg.SEQ_P_CTRL : RegDef := ⟨"SEQ_P_CTRL", 0x801000, 32, 8, 0x100, 0x200000, [
   ⟨"max_rows", 23, 11, .rw, 0x400, .partition, .any, false⟩,
   ⟨"row_pages_m1", 10, 5, .rw, 0x0, .partition, .any, false⟩,
   ⟨"suspend_policy", 1, 1, .rw, 0x0, .partition, .any, false⟩,
   ⟨"enable", 0, 0, .rw, 0x0, .partition, .any, false⟩]⟩
def Fld.SEQ_P_CTRL_max_rows : Fld := ⟨0x801000, 0x100, 23, 11, 0x200000⟩
def Fld.SEQ_P_CTRL_row_pages_m1 : Fld := ⟨0x801000, 0x100, 10, 5, 0x200000⟩
def Fld.SEQ_P_CTRL_suspend_policy : Fld := ⟨0x801000, 0x100, 1, 1, 0x200000⟩
def Fld.SEQ_P_CTRL_enable : Fld := ⟨0x801000, 0x100, 0, 0, 0x200000⟩

/-- SEQ_P_TOKENS, 12 R289. -/
def Reg.SEQ_P_TOKENS : RegDef := ⟨"SEQ_P_TOKENS", 0x801004, 32, 8, 0x100, 0x100, [
   ⟨"row_tokens", 16, 0, .rw, 0x100, .partition, .any, false⟩]⟩
def Fld.SEQ_P_TOKENS_row_tokens : Fld := ⟨0x801004, 0x100, 16, 0, 0x100⟩

/-- SEQ_P_SEQS, 12 R273. -/
def Reg.SEQ_P_SEQS : RegDef := ⟨"SEQ_P_SEQS", 0x801008, 32, 8, 0x100, 0x0, [
   ⟨"seq_count", 29, 16, .rw, 0x0, .partition, .any, false⟩,
   ⟨"seq_base", 12, 0, .rw, 0x0, .partition, .any, false⟩]⟩
def Fld.SEQ_P_SEQS_seq_count : Fld := ⟨0x801008, 0x100, 29, 16, 0x0⟩
def Fld.SEQ_P_SEQS_seq_base : Fld := ⟨0x801008, 0x100, 12, 0, 0x0⟩

/-- SEQ_P_PAGES, 12 R273. -/
def Reg.SEQ_P_PAGES : RegDef := ⟨"SEQ_P_PAGES", 0x80100c, 32, 8, 0x100, 0x0, [
   ⟨"pages", 21, 0, .rw, 0x0, .partition, .any, false⟩]⟩
def Fld.SEQ_P_PAGES_pages : Fld := ⟨0x80100c, 0x100, 21, 0, 0x0⟩

/-- SEQ_P_BASE, 12 R273. -/
def Reg.SEQ_P_BASE : RegDef := ⟨"SEQ_P_BASE", 0x801010, 64, 8, 0x100, 0x0, [
   ⟨"base", 39, 16, .rw, 0x0, .partition, .any, false⟩]⟩
def Fld.SEQ_P_BASE_base : Fld := ⟨0x801010, 0x100, 39, 16, 0x0⟩

/-- SEQ_P_LIST, 12 R274. -/
def Reg.SEQ_P_LIST : RegDef := ⟨"SEQ_P_LIST", 0x801018, 64, 8, 0x100, 0x0, [
   ⟨"base", 39, 16, .rw, 0x0, .partition, .any, false⟩]⟩
def Fld.SEQ_P_LIST_base : Fld := ⟨0x801018, 0x100, 39, 16, 0x0⟩

/-- SEQ_P_PEER, 12 R281. -/
def Reg.SEQ_P_PEER : RegDef := ⟨"SEQ_P_PEER", 0x801020, 32, 8, 0x100, 0x0, [
   ⟨"peer_pool", 14, 12, .rw, 0x0, .partition, .any, false⟩,
   ⟨"peer_device", 11, 0, .rw, 0x0, .partition, .any, false⟩]⟩
def Fld.SEQ_P_PEER_peer_pool : Fld := ⟨0x801020, 0x100, 14, 12, 0x0⟩
def Fld.SEQ_P_PEER_peer_device : Fld := ⟨0x801020, 0x100, 11, 0, 0x0⟩

/-- SEQ_P_GUEST_MAX, 12 R282. -/
def Reg.SEQ_P_GUEST_MAX : RegDef := ⟨"SEQ_P_GUEST_MAX", 0x801024, 32, 8, 0x100, 0x0, [
   ⟨"guest_max", 21, 0, .rw, 0x0, .partition, .any, false⟩]⟩
def Fld.SEQ_P_GUEST_MAX_guest_max : Fld := ⟨0x801024, 0x100, 21, 0, 0x0⟩

/-- SEQ_P_COMMIT, 12 R289. -/
def Reg.SEQ_P_COMMIT : RegDef := ⟨"SEQ_P_COMMIT", 0x801028, 32, 8, 0x100, 0x0, [
   ⟨"commit", 0, 0, .wo, 0x0, .none, .any, false⟩]⟩
def Fld.SEQ_P_COMMIT_commit : Fld := ⟨0x801028, 0x100, 0, 0, 0x0⟩

/-- SEQ_P_COMMIT_STATUS, 12 R289. -/
def Reg.SEQ_P_COMMIT_STATUS : RegDef := ⟨"SEQ_P_COMMIT_STATUS", 0x80102c, 32, 8, 0x100, 0x0, [
   ⟨"pending", 8, 8, .ro, 0x0, .partition, .any, false⟩,
   ⟨"reason", 4, 1, .ro, 0x0, .partition, .any, false⟩,
   ⟨"error", 0, 0, .w1c, 0x0, .partition, .any, false⟩]⟩
def Fld.SEQ_P_COMMIT_STATUS_pending : Fld := ⟨0x80102c, 0x100, 8, 8, 0x0⟩
def Fld.SEQ_P_COMMIT_STATUS_reason : Fld := ⟨0x80102c, 0x100, 4, 1, 0x0⟩
def Fld.SEQ_P_COMMIT_STATUS_error : Fld := ⟨0x80102c, 0x100, 0, 0, 0x0⟩

/-- SEQ_P_FREE, 12 R289. -/
def Reg.SEQ_P_FREE : RegDef := ⟨"SEQ_P_FREE", 0x801030, 32, 8, 0x100, 0x0, [
   ⟨"count", 21, 0, .ro, 0x0, .partition, .any, true⟩]⟩
def Fld.SEQ_P_FREE_count : Fld := ⟨0x801030, 0x100, 21, 0, 0x0⟩

/-- SEQ_P_GUEST, 12 R282. -/
def Reg.SEQ_P_GUEST : RegDef := ⟨"SEQ_P_GUEST", 0x801034, 32, 8, 0x100, 0x0, [
   ⟨"count", 21, 0, .ro, 0x0, .partition, .any, true⟩]⟩
def Fld.SEQ_P_GUEST_count : Fld := ⟨0x801034, 0x100, 21, 0, 0x0⟩

/-- SEQ_P_STEPS, 12 R285. -/
def Reg.SEQ_P_STEPS : RegDef := ⟨"SEQ_P_STEPS", 0x801038, 64, 8, 0x100, 0x0, [
   ⟨"count", 63, 0, .ro, 0x0, .partition, .any, false⟩]⟩
def Fld.SEQ_P_STEPS_count : Fld := ⟨0x801038, 0x100, 63, 0, 0x0⟩

/-- SEQ_P_SUSPENDS, 12 R281. -/
def Reg.SEQ_P_SUSPENDS : RegDef := ⟨"SEQ_P_SUSPENDS", 0x801040, 64, 8, 0x100, 0x0, [
   ⟨"count", 63, 0, .ro, 0x0, .partition, .any, false⟩]⟩
def Fld.SEQ_P_SUSPENDS_count : Fld := ⟨0x801040, 0x100, 63, 0, 0x0⟩

/-- SEQ_P_DEFERS, 12 R280. -/
def Reg.SEQ_P_DEFERS : RegDef := ⟨"SEQ_P_DEFERS", 0x801048, 64, 8, 0x100, 0x0, [
   ⟨"count", 63, 0, .ro, 0x0, .partition, .any, false⟩]⟩
def Fld.SEQ_P_DEFERS_count : Fld := ⟨0x801048, 0x100, 63, 0, 0x0⟩

/-- SEQ_P_RESUMES, 12 R283. -/
def Reg.SEQ_P_RESUMES : RegDef := ⟨"SEQ_P_RESUMES", 0x801050, 64, 8, 0x100, 0x0, [
   ⟨"count", 63, 0, .ro, 0x0, .partition, .any, false⟩]⟩
def Fld.SEQ_P_RESUMES_count : Fld := ⟨0x801050, 0x100, 63, 0, 0x0⟩

/-- SEQ_P_FALLBACKS, 12 R282. -/
def Reg.SEQ_P_FALLBACKS : RegDef := ⟨"SEQ_P_FALLBACKS", 0x801058, 64, 8, 0x100, 0x0, [
   ⟨"count", 63, 0, .ro, 0x0, .partition, .any, false⟩]⟩
def Fld.SEQ_P_FALLBACKS_count : Fld := ⟨0x801058, 0x100, 63, 0, 0x0⟩

/-- SEQ_P_LOST, 12 R283. -/
def Reg.SEQ_P_LOST : RegDef := ⟨"SEQ_P_LOST", 0x801060, 64, 8, 0x100, 0x0, [
   ⟨"count", 63, 0, .ro, 0x0, .partition, .any, false⟩]⟩
def Fld.SEQ_P_LOST_count : Fld := ⟨0x801060, 0x100, 63, 0, 0x0⟩

/-- SEQ_ENT_A, 12 R275. -/
def Reg.SEQ_ENT_A : RegDef := ⟨"SEQ_ENT_A", 0x840000, 64, 8192, 0x20, 0x0, [
   ⟨"length", 63, 32, .ro, 0x0, .partition, .any, true⟩,
   ⟨"rows", 31, 19, .ro, 0x0, .partition, .any, true⟩,
   ⟨"pool", 18, 16, .ro, 0x0, .partition, .any, true⟩,
   ⟨"priority", 15, 12, .ro, 0x0, .partition, .any, true⟩,
   ⟨"lossy", 8, 8, .ro, 0x0, .partition, .any, true⟩,
   ⟨"held", 7, 6, .ro, 0x0, .partition, .any, true⟩,
   ⟨"state", 2, 0, .ro, 0x0, .partition, .any, true⟩]⟩
def Fld.SEQ_ENT_A_length : Fld := ⟨0x840000, 0x20, 63, 32, 0x0⟩
def Fld.SEQ_ENT_A_rows : Fld := ⟨0x840000, 0x20, 31, 19, 0x0⟩
def Fld.SEQ_ENT_A_pool : Fld := ⟨0x840000, 0x20, 18, 16, 0x0⟩
def Fld.SEQ_ENT_A_priority : Fld := ⟨0x840000, 0x20, 15, 12, 0x0⟩
def Fld.SEQ_ENT_A_lossy : Fld := ⟨0x840000, 0x20, 8, 8, 0x0⟩
def Fld.SEQ_ENT_A_held : Fld := ⟨0x840000, 0x20, 7, 6, 0x0⟩
def Fld.SEQ_ENT_A_state : Fld := ⟨0x840000, 0x20, 2, 0, 0x0⟩

/-- SEQ_ENT_B, 12 R275. -/
def Reg.SEQ_ENT_B : RegDef := ⟨"SEQ_ENT_B", 0x840008, 64, 8192, 0x20, 0x0, [
   ⟨"stamp", 63, 16, .ro, 0x0, .partition, .any, true⟩,
   ⟨"peer_device", 15, 4, .ro, 0x0, .partition, .any, true⟩,
   ⟨"peer_pool", 3, 1, .ro, 0x0, .partition, .any, true⟩]⟩
def Fld.SEQ_ENT_B_stamp : Fld := ⟨0x840008, 0x20, 63, 16, 0x0⟩
def Fld.SEQ_ENT_B_peer_device : Fld := ⟨0x840008, 0x20, 15, 4, 0x0⟩
def Fld.SEQ_ENT_B_peer_pool : Fld := ⟨0x840008, 0x20, 3, 1, 0x0⟩

/-- SEQ_ENT_C, 12 R275. -/
def Reg.SEQ_ENT_C : RegDef := ⟨"SEQ_ENT_C", 0x840010, 64, 8192, 0x20, 0x0, [
   ⟨"pages_local", 18, 0, .ro, 0x0, .partition, .any, true⟩]⟩
def Fld.SEQ_ENT_C_pages_local : Fld := ⟨0x840010, 0x20, 18, 0, 0x0⟩

/-- SUB_WATCH, 13 R315. -/
def Reg.SUB_WATCH : RegDef := ⟨"SUB_WATCH", 0x900000, 32, 1, 0x0, 0x0, [
   ⟨"parked", 16, 6, .ro, 0x0, .none, .any, true⟩,
   ⟨"slots_busy", 5, 0, .ro, 0x0, .none, .any, true⟩]⟩
def Fld.SUB_WATCH_parked : Fld := ⟨0x900000, 0x0, 16, 6, 0x0⟩
def Fld.SUB_WATCH_slots_busy : Fld := ⟨0x900000, 0x0, 5, 0, 0x0⟩

/-- SUB_TABLES, 13 R304. -/
def Reg.SUB_TABLES : RegDef := ⟨"SUB_TABLES", 0x900008, 64, 1, 0x0, 0x0, [
   ⟨"fabric_slots", 46, 38, .ro, 0x0, .partition, .any, true⟩,
   ⟨"fences", 37, 21, .ro, 0x0, .partition, .any, true⟩,
   ⟨"handles", 20, 0, .ro, 0x0, .partition, .any, true⟩]⟩
def Fld.SUB_TABLES_fabric_slots : Fld := ⟨0x900008, 0x0, 46, 38, 0x0⟩
def Fld.SUB_TABLES_fences : Fld := ⟨0x900008, 0x0, 37, 21, 0x0⟩
def Fld.SUB_TABLES_handles : Fld := ⟨0x900008, 0x0, 20, 0, 0x0⟩

/-- SUB_FENCE_LOWER, 13 R309. -/
def Reg.SUB_FENCE_LOWER : RegDef := ⟨"SUB_FENCE_LOWER", 0x900010, 64, 1, 0x0, 0x0, [
   ⟨"count", 63, 0, .ro, 0x0, .partition, .any, false⟩]⟩
def Fld.SUB_FENCE_LOWER_count : Fld := ⟨0x900010, 0x0, 63, 0, 0x0⟩

/-- SUB_FENCE_TERMINAL, 13 R310. -/
def Reg.SUB_FENCE_TERMINAL : RegDef := ⟨"SUB_FENCE_TERMINAL", 0x900018, 64, 1, 0x0, 0x0, [
   ⟨"count", 63, 0, .ro, 0x0, .partition, .any, false⟩]⟩
def Fld.SUB_FENCE_TERMINAL_count : Fld := ⟨0x900018, 0x0, 63, 0, 0x0⟩

/-- SUB_DB_REJECT, 13 R298. -/
def Reg.SUB_DB_REJECT : RegDef := ⟨"SUB_DB_REJECT", 0x900020, 64, 1, 0x0, 0x0, [
   ⟨"count", 63, 0, .ro, 0x0, .partition, .any, false⟩]⟩
def Fld.SUB_DB_REJECT_count : Fld := ⟨0x900020, 0x0, 63, 0, 0x0⟩

/-- SUB_DB_STALE, 13 R298. -/
def Reg.SUB_DB_STALE : RegDef := ⟨"SUB_DB_STALE", 0x900028, 64, 1, 0x0, 0x0, [
   ⟨"count", 63, 0, .ro, 0x0, .partition, .any, false⟩]⟩
def Fld.SUB_DB_STALE_count : Fld := ⟨0x900028, 0x0, 63, 0, 0x0⟩

/-- SUB_CQ_STALLS, 13 R303. -/
def Reg.SUB_CQ_STALLS : RegDef := ⟨"SUB_CQ_STALLS", 0x900030, 64, 1, 0x0, 0x0, [
   ⟨"count", 63, 0, .ro, 0x0, .partition, .any, false⟩]⟩
def Fld.SUB_CQ_STALLS_count : Fld := ⟨0x900030, 0x0, 63, 0, 0x0⟩

/-- SUB_PARKED_WAITS, 13 R315. -/
def Reg.SUB_PARKED_WAITS : RegDef := ⟨"SUB_PARKED_WAITS", 0x900038, 64, 1, 0x0, 0x0, [
   ⟨"count", 63, 0, .ro, 0x0, .partition, .any, false⟩]⟩
def Fld.SUB_PARKED_WAITS_count : Fld := ⟨0x900038, 0x0, 63, 0, 0x0⟩

/-- SUB_R_CFG, 13 R292. -/
def Reg.SUB_R_CFG : RegDef := ⟨"SUB_R_CFG", 0x910000, 64, 1024, 0x40, 0x0, [
   ⟨"cq_log2", 41, 37, .ro, 0x0, .block, .any, true⟩,
   ⟨"db_id", 36, 25, .ro, 0x0, .block, .any, true⟩,
   ⟨"db_source", 24, 23, .ro, 0x0, .block, .any, true⟩,
   ⟨"cq_mode", 22, 21, .ro, 0x0, .block, .any, true⟩,
   ⟨"class", 20, 19, .ro, 0x0, .block, .any, true⟩,
   ⟨"partition", 18, 16, .ro, 0x0, .block, .any, true⟩,
   ⟨"asid", 15, 8, .ro, 0x0, .block, .any, true⟩,
   ⟨"size_log2", 4, 0, .ro, 0x0, .block, .any, true⟩]⟩
def Fld.SUB_R_CFG_cq_log2 : Fld := ⟨0x910000, 0x40, 41, 37, 0x0⟩
def Fld.SUB_R_CFG_db_id : Fld := ⟨0x910000, 0x40, 36, 25, 0x0⟩
def Fld.SUB_R_CFG_db_source : Fld := ⟨0x910000, 0x40, 24, 23, 0x0⟩
def Fld.SUB_R_CFG_cq_mode : Fld := ⟨0x910000, 0x40, 22, 21, 0x0⟩
def Fld.SUB_R_CFG_class : Fld := ⟨0x910000, 0x40, 20, 19, 0x0⟩
def Fld.SUB_R_CFG_partition : Fld := ⟨0x910000, 0x40, 18, 16, 0x0⟩
def Fld.SUB_R_CFG_asid : Fld := ⟨0x910000, 0x40, 15, 8, 0x0⟩
def Fld.SUB_R_CFG_size_log2 : Fld := ⟨0x910000, 0x40, 4, 0, 0x0⟩

/-- SUB_R_BASE, 13 R299. -/
def Reg.SUB_R_BASE : RegDef := ⟨"SUB_R_BASE", 0x910008, 64, 1024, 0x40, 0x0, [
   ⟨"value", 63, 0, .ro, 0x0, .block, .any, true⟩]⟩
def Fld.SUB_R_BASE_value : Fld := ⟨0x910008, 0x40, 63, 0, 0x0⟩

/-- SUB_R_FETCH, 13 R299. -/
def Reg.SUB_R_FETCH : RegDef := ⟨"SUB_R_FETCH", 0x910010, 64, 1024, 0x40, 0x0, [
   ⟨"value", 63, 0, .ro, 0x0, .block, .any, true⟩]⟩
def Fld.SUB_R_FETCH_value : Fld := ⟨0x910010, 0x40, 63, 0, 0x0⟩

/-- SUB_R_DOORBELL, 13 R298. -/
def Reg.SUB_R_DOORBELL : RegDef := ⟨"SUB_R_DOORBELL", 0x910018, 64, 1024, 0x40, 0x0, [
   ⟨"value", 63, 0, .ro, 0x0, .block, .any, true⟩]⟩
def Fld.SUB_R_DOORBELL_value : Fld := ⟨0x910018, 0x40, 63, 0, 0x0⟩

/-- SUB_R_STATUS, 13 R296. -/
def Reg.SUB_R_STATUS : RegDef := ⟨"SUB_R_STATUS", 0x910020, 32, 1024, 0x40, 0x0, [
   ⟨"in_flight", 28, 12, .ro, 0x0, .block, .any, true⟩,
   ⟨"stop_reason", 11, 8, .ro, 0x0, .block, .any, true⟩,
   ⟨"state", 2, 0, .ro, 0x0, .block, .any, true⟩]⟩
def Fld.SUB_R_STATUS_in_flight : Fld := ⟨0x910020, 0x40, 28, 12, 0x0⟩
def Fld.SUB_R_STATUS_stop_reason : Fld := ⟨0x910020, 0x40, 11, 8, 0x0⟩
def Fld.SUB_R_STATUS_state : Fld := ⟨0x910020, 0x40, 2, 0, 0x0⟩

/-- SUB_R_BUDGET, 13 R294. -/
def Reg.SUB_R_BUDGET : RegDef := ⟨"SUB_R_BUDGET", 0x910024, 32, 1024, 0x40, 0x0, [
   ⟨"budget", 31, 0, .ro, 0x0, .block, .any, true⟩]⟩
def Fld.SUB_R_BUDGET_budget : Fld := ⟨0x910024, 0x40, 31, 0, 0x0⟩

/-- PAR_STALE_EPOCH, 15 R350. -/
def Reg.PAR_STALE_EPOCH : RegDef := ⟨"PAR_STALE_EPOCH", 0xa00000, 64, 1, 0x0, 0x0, [
   ⟨"count", 63, 0, .ro, 0x0, .partition, .any, false⟩]⟩
def Fld.PAR_STALE_EPOCH_count : Fld := ⟨0xa00000, 0x0, 63, 0, 0x0⟩

/-- PAR_ABORT_CQ_DROPS, 15 R355. -/
def Reg.PAR_ABORT_CQ_DROPS : RegDef := ⟨"PAR_ABORT_CQ_DROPS", 0xa00008, 64, 1, 0x0, 0x0, [
   ⟨"count", 63, 0, .ro, 0x0, .partition, .any, false⟩]⟩
def Fld.PAR_ABORT_CQ_DROPS_count : Fld := ⟨0xa00008, 0x0, 63, 0, 0x0⟩

/-- PAR_PREEMPTS, 15 R345. -/
def Reg.PAR_PREEMPTS : RegDef := ⟨"PAR_PREEMPTS", 0xa00010, 64, 1, 0x0, 0x0, [
   ⟨"count", 63, 0, .ro, 0x0, .partition, .any, false⟩]⟩
def Fld.PAR_PREEMPTS_count : Fld := ⟨0xa00010, 0x0, 63, 0, 0x0⟩

/-- PAR_P_CTRL, 15 R334. -/
def Reg.PAR_P_CTRL : RegDef := ⟨"PAR_P_CTRL", 0xa01000, 32, 8, 0x100, 0x0, [
   ⟨"auto_preempt", 1, 1, .rw, 0x0, .partition, .any, false⟩,
   ⟨"enable", 0, 0, .rw, 0x0, .partition, .any, false⟩]⟩
def Fld.PAR_P_CTRL_auto_preempt : Fld := ⟨0xa01000, 0x100, 1, 1, 0x0⟩
def Fld.PAR_P_CTRL_enable : Fld := ⟨0xa01000, 0x100, 0, 0, 0x0⟩

/-- PAR_P_MASKS, 15 R334. -/
def Reg.PAR_P_MASKS : RegDef := ⟨"PAR_P_MASKS", 0xa01004, 32, 8, 0x100, 0x0, [
   ⟨"way_mask", 27, 12, .rw, 0x0, .partition, .any, false⟩,
   ⟨"wall_mask", 11, 0, .rw, 0x0, .partition, .any, false⟩]⟩
def Fld.PAR_P_MASKS_way_mask : Fld := ⟨0xa01004, 0x100, 27, 12, 0x0⟩
def Fld.PAR_P_MASKS_wall_mask : Fld := ⟨0xa01004, 0x100, 11, 0, 0x0⟩

/-- PAR_P_GROUPS, 15 R334. -/
def Reg.PAR_P_GROUPS : RegDef := ⟨"PAR_P_GROUPS", 0xa01008, 32, 8, 0x100, 0x0, [
   ⟨"group_mask", 23, 0, .rw, 0x0, .partition, .any, false⟩]⟩
def Fld.PAR_P_GROUPS_group_mask : Fld := ⟨0xa01008, 0x100, 23, 0, 0x0⟩

/-- PAR_P_CRING_CFG, 15 R336. -/
def Reg.PAR_P_CRING_CFG : RegDef := ⟨"PAR_P_CRING_CFG", 0xa0100c, 32, 8, 0x100, 0x6006, [
   ⟨"db_id", 26, 15, .rw, 0x0, .partition, .any, false⟩,
   ⟨"db_source", 14, 13, .rw, 0x3, .partition, .any, false⟩,
   ⟨"asid", 12, 5, .rw, 0x0, .partition, .any, false⟩,
   ⟨"size_log2", 4, 0, .rw, 0x6, .partition, (.range 6 16), false⟩]⟩
def Fld.PAR_P_CRING_CFG_db_id : Fld := ⟨0xa0100c, 0x100, 26, 15, 0x6006⟩
def Fld.PAR_P_CRING_CFG_db_source : Fld := ⟨0xa0100c, 0x100, 14, 13, 0x6006⟩
def Fld.PAR_P_CRING_CFG_asid : Fld := ⟨0xa0100c, 0x100, 12, 5, 0x6006⟩
def Fld.PAR_P_CRING_CFG_size_log2 : Fld := ⟨0xa0100c, 0x100, 4, 0, 0x6006⟩

/-- PAR_P_CRING, 15 R336. -/
def Reg.PAR_P_CRING : RegDef := ⟨"PAR_P_CRING", 0xa01010, 64, 8, 0x100, 0x0, [
   ⟨"value", 63, 0, .rw, 0x0, .partition, .any, false⟩]⟩
def Fld.PAR_P_CRING_value : Fld := ⟨0xa01010, 0x100, 63, 0, 0x0⟩

/-- PAR_P_SAVE, 15 R344. -/
def Reg.PAR_P_SAVE : RegDef := ⟨"PAR_P_SAVE", 0xa01018, 64, 8, 0x100, 0x0, [
   ⟨"save_off", 32, 16, .rw, 0x0, .partition, .any, false⟩]⟩
def Fld.PAR_P_SAVE_save_off : Fld := ⟨0xa01018, 0x100, 32, 16, 0x0⟩

/-- PAR_P_COMMIT, 15 R335. -/
def Reg.PAR_P_COMMIT : RegDef := ⟨"PAR_P_COMMIT", 0xa01020, 32, 8, 0x100, 0x0, [
   ⟨"commit", 0, 0, .wo, 0x0, .none, .any, false⟩]⟩
def Fld.PAR_P_COMMIT_commit : Fld := ⟨0xa01020, 0x100, 0, 0, 0x0⟩

/-- PAR_P_COMMIT_STATUS, 15 R335. -/
def Reg.PAR_P_COMMIT_STATUS : RegDef := ⟨"PAR_P_COMMIT_STATUS", 0xa01024, 32, 8, 0x100, 0x0, [
   ⟨"pending", 8, 8, .ro, 0x0, .partition, .any, false⟩,
   ⟨"reason", 4, 1, .ro, 0x0, .partition, .any, false⟩,
   ⟨"error", 0, 0, .w1c, 0x0, .partition, .any, false⟩]⟩
def Fld.PAR_P_COMMIT_STATUS_pending : Fld := ⟨0xa01024, 0x100, 8, 8, 0x0⟩
def Fld.PAR_P_COMMIT_STATUS_reason : Fld := ⟨0xa01024, 0x100, 4, 1, 0x0⟩
def Fld.PAR_P_COMMIT_STATUS_error : Fld := ⟨0xa01024, 0x100, 0, 0, 0x0⟩

/-- PAR_P_STATUS, 15 R345. -/
def Reg.PAR_P_STATUS : RegDef := ⟨"PAR_P_STATUS", 0xa01028, 32, 8, 0x100, 0x0, [
   ⟨"saved_blocks", 19, 8, .ro, 0x0, .none, .any, true⟩,
   ⟨"aborting", 1, 1, .ro, 0x0, .none, .any, true⟩,
   ⟨"preempting", 0, 0, .ro, 0x0, .none, .any, true⟩]⟩
def Fld.PAR_P_STATUS_saved_blocks : Fld := ⟨0xa01028, 0x100, 19, 8, 0x0⟩
def Fld.PAR_P_STATUS_aborting : Fld := ⟨0xa01028, 0x100, 1, 1, 0x0⟩
def Fld.PAR_P_STATUS_preempting : Fld := ⟨0xa01028, 0x100, 0, 0, 0x0⟩

/-- PAR_R_EPOCH, 15 R349. -/
def Reg.PAR_R_EPOCH : RegDef := ⟨"PAR_R_EPOCH", 0xa10000, 32, 1024, 0x4, 0x0, [
   ⟨"epoch", 15, 0, .ro, 0x0, .block, .any, true⟩]⟩
def Fld.PAR_R_EPOCH_epoch : Fld := ⟨0xa10000, 0x4, 15, 0, 0x0⟩

/-- FAB_ADDR, 17 R377. -/
def Reg.FAB_ADDR : RegDef := ⟨"FAB_ADDR", 0xb00000, 32, 1, 0x0, 0x0, [
   ⟨"addr", 11, 0, .ro, 0x0, .deep, .any, false⟩]⟩
def Fld.FAB_ADDR_addr : Fld := ⟨0xb00000, 0x0, 11, 0, 0x0⟩

/-- FAB_STATE, 17 R380. -/
def Reg.FAB_STATE : RegDef := ⟨"FAB_STATE", 0xb00004, 32, 1, 0x0, 0x0, [
   ⟨"side", 13, 12, .ro, 0x0, .none, .any, false⟩,
   ⟨"role", 11, 10, .ro, 0x0, .none, .any, false⟩]⟩
def Fld.FAB_STATE_side : Fld := ⟨0xb00004, 0x0, 13, 12, 0x0⟩
def Fld.FAB_STATE_role : Fld := ⟨0xb00004, 0x0, 11, 10, 0x0⟩

/-- FAB_MGR, 17 R380. -/
def Reg.FAB_MGR : RegDef := ⟨"FAB_MGR", 0xb00008, 32, 1, 0x0, 0x0, [
   ⟨"manager_addr", 11, 0, .ro, 0x0, .none, .any, false⟩]⟩
def Fld.FAB_MGR_manager_addr : Fld := ⟨0xb00008, 0x0, 11, 0, 0x0⟩

/-- FAB_EPOCH, 17 R394. -/
def Reg.FAB_EPOCH : RegDef := ⟨"FAB_EPOCH", 0xb0000c, 32, 1, 0x0, 0x0, [
   ⟨"domain_epoch", 31, 0, .ro, 0x0, .deep, .any, false⟩]⟩
def Fld.FAB_EPOCH_domain_epoch : Fld := ⟨0xb0000c, 0x0, 31, 0, 0x0⟩

/-- FAB_DISC, 17 R381. -/
def Reg.FAB_DISC : RegDef := ⟨"FAB_DISC", 0xb00010, 32, 1, 0x0, 0x14190c8, [
   ⟨"eligible", 31, 31, .rw, 0x0, .device, .any, false⟩,
   ⟨"manager_timeout", 30, 20, .rw, 0x14, .device, .any, false⟩,
   ⟨"settle", 19, 10, .rw, 0x64, .device, .any, false⟩,
   ⟨"hello_us", 9, 0, .rw, 0xc8, .device, (.range 20 1000), false⟩]⟩
def Fld.FAB_DISC_eligible : Fld := ⟨0xb00010, 0x0, 31, 31, 0x14190c8⟩
def Fld.FAB_DISC_manager_timeout : Fld := ⟨0xb00010, 0x0, 30, 20, 0x14190c8⟩
def Fld.FAB_DISC_settle : Fld := ⟨0xb00010, 0x0, 19, 10, 0x14190c8⟩
def Fld.FAB_DISC_hello_us : Fld := ⟨0xb00010, 0x0, 9, 0, 0x14190c8⟩

/-- FAB_WEIGHT, 17 R392. -/
def Reg.FAB_WEIGHT : RegDef := ⟨"FAB_WEIGHT", 0xb00018, 64, 1, 0x0, 0x0, [
   ⟨"component", 63, 32, .ro, 0x0, .device, .any, false⟩,
   ⟨"total", 31, 0, .ro, 0x0, .device, .any, false⟩]⟩
def Fld.FAB_WEIGHT_component : Fld := ⟨0xb00018, 0x0, 63, 32, 0x0⟩
def Fld.FAB_WEIGHT_total : Fld := ⟨0xb00018, 0x0, 31, 0, 0x0⟩

/-- FAB_LIST_VER, 17 R390. -/
def Reg.FAB_LIST_VER : RegDef := ⟨"FAB_LIST_VER", 0xb00020, 32, 1, 0x0, 0x0, [
   ⟨"list_version", 31, 0, .ro, 0x0, .off, .any, true⟩]⟩
def Fld.FAB_LIST_VER_list_version : Fld := ⟨0xb00020, 0x0, 31, 0, 0x0⟩

/-- FAB_ELECTIONS, 17 R382. -/
def Reg.FAB_ELECTIONS : RegDef := ⟨"FAB_ELECTIONS", 0xb00028, 64, 1, 0x0, 0x0, [
   ⟨"count", 63, 0, .ro, 0x0, .device, .any, false⟩]⟩
def Fld.FAB_ELECTIONS_count : Fld := ⟨0xb00028, 0x0, 63, 0, 0x0⟩

/-- FAB_SPLITS, 17 R392. -/
def Reg.FAB_SPLITS : RegDef := ⟨"FAB_SPLITS", 0xb00030, 64, 1, 0x0, 0x0, [
   ⟨"count", 63, 0, .ro, 0x0, .device, .any, false⟩]⟩
def Fld.FAB_SPLITS_count : Fld := ⟨0xb00030, 0x0, 63, 0, 0x0⟩

/-- FAB_REJOINS, 17 R394. -/
def Reg.FAB_REJOINS : RegDef := ⟨"FAB_REJOINS", 0xb00038, 64, 1, 0x0, 0x0, [
   ⟨"count", 63, 0, .ro, 0x0, .device, .any, false⟩]⟩
def Fld.FAB_REJOINS_count : Fld := ⟨0xb00038, 0x0, 63, 0, 0x0⟩

/-- FAB_NO_ROUTE, 17 R387. -/
def Reg.FAB_NO_ROUTE : RegDef := ⟨"FAB_NO_ROUTE", 0xb00040, 64, 1, 0x0, 0x0, [
   ⟨"count", 63, 0, .ro, 0x0, .device, .any, false⟩]⟩
def Fld.FAB_NO_ROUTE_count : Fld := ⟨0xb00040, 0x0, 63, 0, 0x0⟩

/-- FAB_UNASSIGNED, 17 R384. -/
def Reg.FAB_UNASSIGNED : RegDef := ⟨"FAB_UNASSIGNED", 0xb00048, 64, 1, 0x0, 0x0, [
   ⟨"count", 63, 0, .ro, 0x0, .device, .any, false⟩]⟩
def Fld.FAB_UNASSIGNED_count : Fld := ⟨0xb00048, 0x0, 63, 0, 0x0⟩

/-- FAB_TUN_CTRL, 17 R386. -/
def Reg.FAB_TUN_CTRL : RegDef := ⟨"FAB_TUN_CTRL", 0xb00100, 32, 16, 0x20, 0x1000, [
   ⟨"enable", 16, 16, .rw, 0x0, .device, .any, false⟩,
   ⟨"cost", 15, 8, .rw, 0x10, .device, (.range 1 255), false⟩,
   ⟨"port", 2, 0, .rw, 0x0, .device, .any, false⟩]⟩
def Fld.FAB_TUN_CTRL_enable : Fld := ⟨0xb00100, 0x20, 16, 16, 0x1000⟩
def Fld.FAB_TUN_CTRL_cost : Fld := ⟨0xb00100, 0x20, 15, 8, 0x1000⟩
def Fld.FAB_TUN_CTRL_port : Fld := ⟨0xb00100, 0x20, 2, 0, 0x1000⟩

/-- FAB_TUN_IP_LO, 17 R386. -/
def Reg.FAB_TUN_IP_LO : RegDef := ⟨"FAB_TUN_IP_LO", 0xb00108, 64, 16, 0x20, 0x0, [
   ⟨"ip", 63, 0, .rw, 0x0, .device, .any, false⟩]⟩
def Fld.FAB_TUN_IP_LO_ip : Fld := ⟨0xb00108, 0x20, 63, 0, 0x0⟩

/-- FAB_TUN_IP_HI, 17 R386. -/
def Reg.FAB_TUN_IP_HI : RegDef := ⟨"FAB_TUN_IP_HI", 0xb00110, 64, 16, 0x20, 0x0, [
   ⟨"ip", 63, 0, .rw, 0x0, .device, .any, false⟩]⟩
def Fld.FAB_TUN_IP_HI_ip : Fld := ⟨0xb00110, 0x20, 63, 0, 0x0⟩

/-- FAB_RT, 17 R386. -/
def Reg.FAB_RT : RegDef := ⟨"FAB_RT", 0xb04000, 32, 4096, 0x4, 0x0, [
   ⟨"valid", 31, 31, .rw, 0x0, .deep, .any, false⟩,
   ⟨"pending", 30, 30, .rw, 0x0, .deep, .any, false⟩,
   ⟨"paths_m1", 29, 28, .rw, 0x0, .deep, .any, false⟩,
   ⟨"cost", 27, 20, .rw, 0x0, .deep, .any, false⟩,
   ⟨"hop3", 19, 15, .rw, 0x0, .deep, (.range 0 23), false⟩,
   ⟨"hop2", 14, 10, .rw, 0x0, .deep, (.range 0 23), false⟩,
   ⟨"hop1", 9, 5, .rw, 0x0, .deep, (.range 0 23), false⟩,
   ⟨"hop0", 4, 0, .rw, 0x0, .deep, (.range 0 23), false⟩]⟩
def Fld.FAB_RT_valid : Fld := ⟨0xb04000, 0x4, 31, 31, 0x0⟩
def Fld.FAB_RT_pending : Fld := ⟨0xb04000, 0x4, 30, 30, 0x0⟩
def Fld.FAB_RT_paths_m1 : Fld := ⟨0xb04000, 0x4, 29, 28, 0x0⟩
def Fld.FAB_RT_cost : Fld := ⟨0xb04000, 0x4, 27, 20, 0x0⟩
def Fld.FAB_RT_hop3 : Fld := ⟨0xb04000, 0x4, 19, 15, 0x0⟩
def Fld.FAB_RT_hop2 : Fld := ⟨0xb04000, 0x4, 14, 10, 0x0⟩
def Fld.FAB_RT_hop1 : Fld := ⟨0xb04000, 0x4, 9, 5, 0x0⟩
def Fld.FAB_RT_hop0 : Fld := ⟨0xb04000, 0x4, 4, 0, 0x0⟩

/-- FAB_OP_TIMEOUT, 16 R374. -/
def Reg.FAB_OP_TIMEOUT : RegDef := ⟨"FAB_OP_TIMEOUT", 0xb08000, 32, 1, 0x0, 0x3203e8, [
   ⟨"tunnel_ms", 31, 16, .rw, 0x32, .device, .any, false⟩,
   ⟨"native_us", 15, 0, .rw, 0x3e8, .device, .any, false⟩]⟩
def Fld.FAB_OP_TIMEOUT_tunnel_ms : Fld := ⟨0xb08000, 0x0, 31, 16, 0x3203e8⟩
def Fld.FAB_OP_TIMEOUT_native_us : Fld := ⟨0xb08000, 0x0, 15, 0, 0x3203e8⟩

/-- FAB_TUNNEL, 16 R375. -/
def Reg.FAB_TUNNEL : RegDef := ⟨"FAB_TUNNEL", 0xb08004, 32, 1, 0x0, 0x400000, [
   ⟨"pcp", 24, 22, .rw, 0x1, .device, .any, false⟩,
   ⟨"dscp", 21, 16, .rw, 0x0, .device, .any, false⟩,
   ⟨"udp_port", 15, 0, .rw, 0x0, .device, .any, false⟩]⟩
def Fld.FAB_TUNNEL_pcp : Fld := ⟨0xb08004, 0x0, 24, 22, 0x400000⟩
def Fld.FAB_TUNNEL_dscp : Fld := ⟨0xb08004, 0x0, 21, 16, 0x400000⟩
def Fld.FAB_TUNNEL_udp_port : Fld := ⟨0xb08004, 0x0, 15, 0, 0x400000⟩

/-- FAB_PTP, 16 R366. -/
def Reg.FAB_PTP : RegDef := ⟨"FAB_PTP", 0xb08008, 32, 1, 0x0, 0xd00, [
   ⟨"log_sync", 11, 8, .rw, 0xd, .device, .any, false⟩,
   ⟨"domain", 7, 0, .rw, 0x0, .device, .any, false⟩]⟩
def Fld.FAB_PTP_log_sync : Fld := ⟨0xb08008, 0x0, 11, 8, 0xd00⟩
def Fld.FAB_PTP_domain : Fld := ⟨0xb08008, 0x0, 7, 0, 0xd00⟩

/-- FAB_P_CTRL, 16 R359. -/
def Reg.FAB_P_CTRL : RegDef := ⟨"FAB_P_CTRL", 0xb09000, 32, 8, 0x100, 0x1, [
   ⟨"ptp_master", 16, 16, .rw, 0x0, .device, .any, false⟩,
   ⟨"pfc_mask", 15, 8, .rw, 0x0, .device, .any, false⟩,
   ⟨"mode", 1, 0, .rw, 0x1, .device, (.range 0 2), false⟩]⟩
def Fld.FAB_P_CTRL_ptp_master : Fld := ⟨0xb09000, 0x100, 16, 16, 0x1⟩
def Fld.FAB_P_CTRL_pfc_mask : Fld := ⟨0xb09000, 0x100, 15, 8, 0x1⟩
def Fld.FAB_P_CTRL_mode : Fld := ⟨0xb09000, 0x100, 1, 0, 0x1⟩

/-- FAB_P_STATUS, 16 R359. -/
def Reg.FAB_P_STATUS : RegDef := ⟨"FAB_P_STATUS", 0xb09004, 32, 8, 0x100, 0x10, [
   ⟨"mode_active", 4, 3, .ro, 0x2, .none, .any, true⟩,
   ⟨"link_up", 2, 2, .ro, 0x0, .none, .any, true⟩,
   ⟨"pcs_lock", 1, 1, .ro, 0x0, .none, .any, true⟩,
   ⟨"signal_detect", 0, 0, .ro, 0x0, .none, .any, true⟩]⟩
def Fld.FAB_P_STATUS_mode_active : Fld := ⟨0xb09004, 0x100, 4, 3, 0x10⟩
def Fld.FAB_P_STATUS_link_up : Fld := ⟨0xb09004, 0x100, 2, 2, 0x10⟩
def Fld.FAB_P_STATUS_pcs_lock : Fld := ⟨0xb09004, 0x100, 1, 1, 0x10⟩
def Fld.FAB_P_STATUS_signal_detect : Fld := ⟨0xb09004, 0x100, 0, 0, 0x10⟩

/-- FAB_P_MAC, 16 R360. -/
def Reg.FAB_P_MAC : RegDef := ⟨"FAB_P_MAC", 0xb09008, 64, 8, 0x100, 0x0, [
   ⟨"mac", 47, 0, .ro, 0x0, .off, .any, true⟩]⟩
def Fld.FAB_P_MAC_mac : Fld := ⟨0xb09008, 0x100, 47, 0, 0x0⟩

/-- FAB_P_IPV4, 16 R361. -/
def Reg.FAB_P_IPV4 : RegDef := ⟨"FAB_P_IPV4", 0xb09010, 32, 8, 0x100, 0x0, [
   ⟨"ipv4", 31, 0, .rw, 0x0, .device, .any, false⟩]⟩
def Fld.FAB_P_IPV4_ipv4 : Fld := ⟨0xb09010, 0x100, 31, 0, 0x0⟩

/-- FAB_P_IPV6_LO, 16 R361. -/
def Reg.FAB_P_IPV6_LO : RegDef := ⟨"FAB_P_IPV6_LO", 0xb09018, 64, 8, 0x100, 0x0, [
   ⟨"ipv6", 63, 0, .rw, 0x0, .device, .any, false⟩]⟩
def Fld.FAB_P_IPV6_LO_ipv6 : Fld := ⟨0xb09018, 0x100, 63, 0, 0x0⟩

/-- FAB_P_IPV6_HI, 16 R361. -/
def Reg.FAB_P_IPV6_HI : RegDef := ⟨"FAB_P_IPV6_HI", 0xb09020, 64, 8, 0x100, 0x0, [
   ⟨"ipv6", 63, 0, .rw, 0x0, .device, .any, false⟩]⟩
def Fld.FAB_P_IPV6_HI_ipv6 : Fld := ⟨0xb09020, 0x100, 63, 0, 0x0⟩

/-- FAB_P_FEC_CORR, 16 R358. -/
def Reg.FAB_P_FEC_CORR : RegDef := ⟨"FAB_P_FEC_CORR", 0xb09028, 64, 8, 0x100, 0x0, [
   ⟨"count", 63, 0, .ro, 0x0, .device, .any, false⟩]⟩
def Fld.FAB_P_FEC_CORR_count : Fld := ⟨0xb09028, 0x100, 63, 0, 0x0⟩

/-- FAB_P_FEC_UNCORR, 16 R358. -/
def Reg.FAB_P_FEC_UNCORR : RegDef := ⟨"FAB_P_FEC_UNCORR", 0xb09030, 64, 8, 0x100, 0x0, [
   ⟨"count", 63, 0, .ro, 0x0, .device, .any, false⟩]⟩
def Fld.FAB_P_FEC_UNCORR_count : Fld := ⟨0xb09030, 0x100, 63, 0, 0x0⟩

/-- FAB_P_REPLAYS, 16 R371. -/
def Reg.FAB_P_REPLAYS : RegDef := ⟨"FAB_P_REPLAYS", 0xb09038, 64, 8, 0x100, 0x0, [
   ⟨"count", 63, 0, .ro, 0x0, .device, .any, false⟩]⟩
def Fld.FAB_P_REPLAYS_count : Fld := ⟨0xb09038, 0x100, 63, 0, 0x0⟩

/-- FAB_P_DROPS, 16 R360. -/
def Reg.FAB_P_DROPS : RegDef := ⟨"FAB_P_DROPS", 0xb09040, 64, 8, 0x100, 0x0, [
   ⟨"count", 63, 0, .ro, 0x0, .device, .any, false⟩]⟩
def Fld.FAB_P_DROPS_count : Fld := ⟨0xb09040, 0x100, 63, 0, 0x0⟩

/-- FAB_P_LINK_DOWNS, 16 R372. -/
def Reg.FAB_P_LINK_DOWNS : RegDef := ⟨"FAB_P_LINK_DOWNS", 0xb09048, 64, 8, 0x100, 0x0, [
   ⟨"count", 63, 0, .ro, 0x0, .device, .any, false⟩]⟩
def Fld.FAB_P_LINK_DOWNS_count : Fld := ⟨0xb09048, 0x100, 63, 0, 0x0⟩

/-- FAB_QP_CTRL, 16 R362. -/
def Reg.FAB_QP_CTRL : RegDef := ⟨"FAB_QP_CTRL", 0xb80000, 32, 4096, 0x40, 0x0, [
   ⟨"partition", 31, 29, .rw, 0x0, .partition, .any, false⟩,
   ⟨"port", 28, 26, .rw, 0x0, .partition, .any, false⟩,
   ⟨"asid", 25, 18, .rw, 0x0, .partition, .any, false⟩,
   ⟨"mtu", 17, 15, .rw, 0x0, .partition, (.range 0 4), false⟩,
   ⟨"recv_log2", 14, 11, .rw, 0x0, .partition, (.range 4 12), false⟩,
   ⟨"state", 2, 0, .rw, 0x0, .partition, (.range 0 4), false⟩]⟩
def Fld.FAB_QP_CTRL_partition : Fld := ⟨0xb80000, 0x40, 31, 29, 0x0⟩
def Fld.FAB_QP_CTRL_port : Fld := ⟨0xb80000, 0x40, 28, 26, 0x0⟩
def Fld.FAB_QP_CTRL_asid : Fld := ⟨0xb80000, 0x40, 25, 18, 0x0⟩
def Fld.FAB_QP_CTRL_mtu : Fld := ⟨0xb80000, 0x40, 17, 15, 0x0⟩
def Fld.FAB_QP_CTRL_recv_log2 : Fld := ⟨0xb80000, 0x40, 14, 11, 0x0⟩
def Fld.FAB_QP_CTRL_state : Fld := ⟨0xb80000, 0x40, 2, 0, 0x0⟩

/-- FAB_QP_DEST, 16 R362. -/
def Reg.FAB_QP_DEST : RegDef := ⟨"FAB_QP_DEST", 0xb80008, 64, 4096, 0x40, 0x0, [
   ⟨"start_psn", 47, 24, .rw, 0x0, .partition, .any, false⟩,
   ⟨"dest_qpn", 23, 0, .rw, 0x0, .partition, .any, false⟩]⟩
def Fld.FAB_QP_DEST_start_psn : Fld := ⟨0xb80008, 0x40, 47, 24, 0x0⟩
def Fld.FAB_QP_DEST_dest_qpn : Fld := ⟨0xb80008, 0x40, 23, 0, 0x0⟩

/-- FAB_QP_RIP_LO, 16 R362. -/
def Reg.FAB_QP_RIP_LO : RegDef := ⟨"FAB_QP_RIP_LO", 0xb80010, 64, 4096, 0x40, 0x0, [
   ⟨"remote_ip_low", 63, 0, .rw, 0x0, .partition, .any, false⟩]⟩
def Fld.FAB_QP_RIP_LO_remote_ip_low : Fld := ⟨0xb80010, 0x40, 63, 0, 0x0⟩

/-- FAB_QP_RIP_HI, 16 R362. -/
def Reg.FAB_QP_RIP_HI : RegDef := ⟨"FAB_QP_RIP_HI", 0xb80018, 64, 4096, 0x40, 0x0, [
   ⟨"remote_ip_high", 63, 0, .rw, 0x0, .partition, .any, false⟩]⟩
def Fld.FAB_QP_RIP_HI_remote_ip_high : Fld := ⟨0xb80018, 0x40, 63, 0, 0x0⟩

/-- FAB_QP_RECV, 16 R364. -/
def Reg.FAB_QP_RECV : RegDef := ⟨"FAB_QP_RECV", 0xb80020, 64, 4096, 0x40, 0x0, [
   ⟨"recv_base", 63, 0, .rw, 0x0, .partition, .any, false⟩]⟩
def Fld.FAB_QP_RECV_recv_base : Fld := ⟨0xb80020, 0x40, 63, 0, 0x0⟩

/-- RST_BOOT_STATUS, 18 R402. -/
def Reg.RST_BOOT_STATUS : RegDef := ⟨"RST_BOOT_STATUS", 0xc00000, 32, 1, 0x0, 0x0, [
   ⟨"p2_restarts", 15, 8, .ro, 0x0, .none, .any, false⟩,
   ⟨"halted", 5, 5, .ro, 0x0, .none, .any, true⟩,
   ⟨"image_slot", 4, 4, .ro, 0x0, .none, .any, true⟩,
   ⟨"options_default", 3, 3, .ro, 0x0, .none, .any, true⟩,
   ⟨"phase", 2, 0, .ro, 0x0, .none, .any, true⟩]⟩
def Fld.RST_BOOT_STATUS_p2_restarts : Fld := ⟨0xc00000, 0x0, 15, 8, 0x0⟩
def Fld.RST_BOOT_STATUS_halted : Fld := ⟨0xc00000, 0x0, 5, 5, 0x0⟩
def Fld.RST_BOOT_STATUS_image_slot : Fld := ⟨0xc00000, 0x0, 4, 4, 0x0⟩
def Fld.RST_BOOT_STATUS_options_default : Fld := ⟨0xc00000, 0x0, 3, 3, 0x0⟩
def Fld.RST_BOOT_STATUS_phase : Fld := ⟨0xc00000, 0x0, 2, 0, 0x0⟩

/-- RST_CAUSE, 18 R398. -/
def Reg.RST_CAUSE : RegDef := ⟨"RST_CAUSE", 0xc00004, 32, 1, 0x0, 0x0, [
   ⟨"source", 7, 4, .ro, 0x0, .deep, .any, true⟩,
   ⟨"class", 1, 0, .ro, 0x0, .deep, .any, true⟩]⟩
def Fld.RST_CAUSE_source : Fld := ⟨0xc00004, 0x0, 7, 4, 0x0⟩
def Fld.RST_CAUSE_class : Fld := ⟨0xc00004, 0x0, 1, 0, 0x0⟩

/-- RST_COUNTS, 18 R398. -/
def Reg.RST_COUNTS : RegDef := ⟨"RST_COUNTS", 0xc00008, 64, 1, 0x0, 0x0, [
   ⟨"device", 47, 32, .ro, 0x0, .deep, .any, false⟩,
   ⟨"partition", 31, 16, .ro, 0x0, .deep, .any, false⟩,
   ⟨"block", 15, 0, .ro, 0x0, .deep, .any, false⟩]⟩
def Fld.RST_COUNTS_device : Fld := ⟨0xc00008, 0x0, 47, 32, 0x0⟩
def Fld.RST_COUNTS_partition : Fld := ⟨0xc00008, 0x0, 31, 16, 0x0⟩
def Fld.RST_COUNTS_block : Fld := ⟨0xc00008, 0x0, 15, 0, 0x0⟩

/-- RST_DEVICE_RESET, 18 R398. -/
def Reg.RST_DEVICE_RESET : RegDef := ⟨"RST_DEVICE_RESET", 0xc00010, 32, 1, 0x0, 0x0, [
   ⟨"key", 31, 16, .wo, 0x0, .none, .any, false⟩,
   ⟨"go", 0, 0, .wo, 0x0, .none, .any, false⟩]⟩
def Fld.RST_DEVICE_RESET_key : Fld := ⟨0xc00010, 0x0, 31, 16, 0x0⟩
def Fld.RST_DEVICE_RESET_go : Fld := ⟨0xc00010, 0x0, 0, 0, 0x0⟩

/-- RST_PART_RESET, 18 R408. -/
def Reg.RST_PART_RESET : RegDef := ⟨"RST_PART_RESET", 0xc00014, 32, 1, 0x0, 0x0, [
   ⟨"resetting", 15, 8, .ro, 0x0, .none, .any, true⟩,
   ⟨"start", 7, 0, .w1s, 0x0, .none, .any, false⟩]⟩
def Fld.RST_PART_RESET_resetting : Fld := ⟨0xc00014, 0x0, 15, 8, 0x0⟩
def Fld.RST_PART_RESET_start : Fld := ⟨0xc00014, 0x0, 7, 0, 0x0⟩

/-- RST_BLOCK_RESET, 18 R409. -/
def Reg.RST_BLOCK_RESET : RegDef := ⟨"RST_BLOCK_RESET", 0xc00018, 32, 1, 0x0, 0x0, [
   ⟨"busy", 16, 16, .ro, 0x0, .none, .any, true⟩,
   ⟨"kind", 11, 8, .wo, 0x0, .none, .any, false⟩,
   ⟨"unit", 7, 0, .wo, 0x0, .none, .any, false⟩]⟩
def Fld.RST_BLOCK_RESET_busy : Fld := ⟨0xc00018, 0x0, 16, 16, 0x0⟩
def Fld.RST_BLOCK_RESET_kind : Fld := ⟨0xc00018, 0x0, 11, 8, 0x0⟩
def Fld.RST_BLOCK_RESET_unit : Fld := ⟨0xc00018, 0x0, 7, 0, 0x0⟩

/-- RST_WDOG, 18 R398. -/
def Reg.RST_WDOG : RegDef := ⟨"RST_WDOG", 0xc00020, 32, 1, 0x0, 0x800007d0, [
   ⟨"enable", 31, 31, .rwl, 0x1, .device, .any, false⟩,
   ⟨"lock", 30, 30, .rw, 0x0, .device, .lock, false⟩,
   ⟨"timeout_ms", 15, 0, .rw, 0x7d0, .device, (.atLeast 100), false⟩]⟩
def Fld.RST_WDOG_enable : Fld := ⟨0xc00020, 0x0, 31, 31, 0x800007d0⟩
def Fld.RST_WDOG_lock : Fld := ⟨0xc00020, 0x0, 30, 30, 0x800007d0⟩
def Fld.RST_WDOG_timeout_ms : Fld := ⟨0xc00020, 0x0, 15, 0, 0x800007d0⟩

/-- RST_WDOG_KICK, 18 R398. -/
def Reg.RST_WDOG_KICK : RegDef := ⟨"RST_WDOG_KICK", 0xc00024, 32, 1, 0x0, 0x0, [
   ⟨"kick", 31, 0, .wo, 0x0, .none, .any, false⟩]⟩
def Fld.RST_WDOG_KICK_kick : Fld := ⟨0xc00024, 0x0, 31, 0, 0x0⟩

/-- RST_FAULT, 18 R407. -/
def Reg.RST_FAULT : RegDef := ⟨"RST_FAULT", 0xc00028, 32, 1, 0x0, 0x0, [
   ⟨"phase", 14, 12, .ro, 0x0, .device, .any, false⟩,
   ⟨"kind", 11, 8, .ro, 0x0, .device, .any, false⟩,
   ⟨"unit", 7, 0, .ro, 0x0, .device, .any, false⟩]⟩
def Fld.RST_FAULT_phase : Fld := ⟨0xc00028, 0x0, 14, 12, 0x0⟩
def Fld.RST_FAULT_kind : Fld := ⟨0xc00028, 0x0, 11, 8, 0x0⟩
def Fld.RST_FAULT_unit : Fld := ⟨0xc00028, 0x0, 7, 0, 0x0⟩

/-- RST_FULL_SERVICE, 18 R406. -/
def Reg.RST_FULL_SERVICE : RegDef := ⟨"RST_FULL_SERVICE", 0xc00030, 32, 1, 0x0, 0x0, [
   ⟨"full_ways", 15, 0, .rw, 0x0, .device, .any, false⟩]⟩
def Fld.RST_FULL_SERVICE_full_ways : Fld := ⟨0xc00030, 0x0, 15, 0, 0x0⟩

/-- PWR_CTRL, 19 R416. -/
def Reg.PWR_CTRL : RegDef := ⟨"PWR_CTRL", 0xd00000, 32, 1, 0x0, 0x3280, [
   ⟨"idle_us", 19, 8, .rw, 0x32, .device, (.atLeast 1), false⟩,
   ⟨"auto_idle", 7, 7, .rw, 0x1, .device, .any, false⟩,
   ⟨"target", 2, 0, .wo, 0x0, .none, .any, false⟩]⟩
def Fld.PWR_CTRL_idle_us : Fld := ⟨0xd00000, 0x0, 19, 8, 0x3280⟩
def Fld.PWR_CTRL_auto_idle : Fld := ⟨0xd00000, 0x0, 7, 7, 0x3280⟩
def Fld.PWR_CTRL_target : Fld := ⟨0xd00000, 0x0, 2, 0, 0x3280⟩

/-- PWR_STATUS, 19 R416. -/
def Reg.PWR_STATUS : RegDef := ⟨"PWR_STATUS", 0xd00004, 32, 1, 0x0, 0x0, [
   ⟨"reason", 19, 16, .ro, 0x0, .none, .any, false⟩,
   ⟨"error", 8, 8, .w1c, 0x0, .none, .any, false⟩,
   ⟨"entering", 3, 3, .ro, 0x0, .none, .any, true⟩,
   ⟨"state", 2, 0, .ro, 0x0, .none, .any, true⟩]⟩
def Fld.PWR_STATUS_reason : Fld := ⟨0xd00004, 0x0, 19, 16, 0x0⟩
def Fld.PWR_STATUS_error : Fld := ⟨0xd00004, 0x0, 8, 8, 0x0⟩
def Fld.PWR_STATUS_entering : Fld := ⟨0xd00004, 0x0, 3, 3, 0x0⟩
def Fld.PWR_STATUS_state : Fld := ⟨0xd00004, 0x0, 2, 0, 0x0⟩

/-- PWR_WAKE_EN, 19 R421. -/
def Reg.PWR_WAKE_EN : RegDef := ⟨"PWR_WAKE_EN", 0xd00008, 32, 1, 0x0, 0xb, [
   ⟨"sd_ports", 31, 24, .rw, 0x0, .deep, .any, false⟩,
   ⟨"keep_ports", 23, 16, .rw, 0x0, .deep, .any, false⟩,
   ⟨"deep_timer", 4, 4, .rw, 0x0, .deep, .any, false⟩,
   ⟨"tick_alarm", 3, 3, .rw, 0x1, .deep, .any, false⟩,
   ⟨"alert", 2, 2, .rw, 0x0, .deep, .any, false⟩,
   ⟨"inbound", 1, 1, .rw, 0x1, .deep, .any, false⟩,
   ⟨"wake_n", 0, 0, .rw, 0x1, .deep, .any, false⟩]⟩
def Fld.PWR_WAKE_EN_sd_ports : Fld := ⟨0xd00008, 0x0, 31, 24, 0xb⟩
def Fld.PWR_WAKE_EN_keep_ports : Fld := ⟨0xd00008, 0x0, 23, 16, 0xb⟩
def Fld.PWR_WAKE_EN_deep_timer : Fld := ⟨0xd00008, 0x0, 4, 4, 0xb⟩
def Fld.PWR_WAKE_EN_tick_alarm : Fld := ⟨0xd00008, 0x0, 3, 3, 0xb⟩
def Fld.PWR_WAKE_EN_alert : Fld := ⟨0xd00008, 0x0, 2, 2, 0xb⟩
def Fld.PWR_WAKE_EN_inbound : Fld := ⟨0xd00008, 0x0, 1, 1, 0xb⟩
def Fld.PWR_WAKE_EN_wake_n : Fld := ⟨0xd00008, 0x0, 0, 0, 0xb⟩

/-- PWR_WAKE_CAUSE, 19 R422. -/
def Reg.PWR_WAKE_CAUSE : RegDef := ⟨"PWR_WAKE_CAUSE", 0xd0000c, 32, 1, 0x0, 0x0, [
   ⟨"from_state", 14, 12, .ro, 0x0, .deep, .any, false⟩,
   ⟨"rewake", 8, 8, .ro, 0x0, .deep, .any, false⟩,
   ⟨"cause", 3, 0, .ro, 0x0, .deep, .any, false⟩]⟩
def Fld.PWR_WAKE_CAUSE_from_state : Fld := ⟨0xd0000c, 0x0, 14, 12, 0x0⟩
def Fld.PWR_WAKE_CAUSE_rewake : Fld := ⟨0xd0000c, 0x0, 8, 8, 0x0⟩
def Fld.PWR_WAKE_CAUSE_cause : Fld := ⟨0xd0000c, 0x0, 3, 0, 0x0⟩

/-- PWR_WAKE_PENDING, 19 R421. -/
def Reg.PWR_WAKE_PENDING : RegDef := ⟨"PWR_WAKE_PENDING", 0xd00010, 32, 1, 0x0, 0x0, [
   ⟨"deep_timer", 1, 1, .w1c, 0x0, .deep, .any, false⟩,
   ⟨"tick_alarm", 0, 0, .w1c, 0x0, .deep, .any, false⟩]⟩
def Fld.PWR_WAKE_PENDING_deep_timer : Fld := ⟨0xd00010, 0x0, 1, 1, 0x0⟩
def Fld.PWR_WAKE_PENDING_tick_alarm : Fld := ⟨0xd00010, 0x0, 0, 0, 0x0⟩

/-- PWR_DEEP_TIMER, 19 R421. -/
def Reg.PWR_DEEP_TIMER : RegDef := ⟨"PWR_DEEP_TIMER", 0xd00018, 64, 1, 0x0, 0x0, [
   ⟨"ao_cycles", 47, 0, .rw, 0x0, .deep, .any, false⟩]⟩
def Fld.PWR_DEEP_TIMER_ao_cycles : Fld := ⟨0xd00018, 0x0, 47, 0, 0x0⟩

/-- PWR_CAP, 19 R431. -/
def Reg.PWR_CAP : RegDef := ⟨"PWR_CAP", 0xd00020, 32, 1, 0x0, 0x208, [
   ⟨"cap_error", 31, 31, .w1c, 0x0, .device, .any, false⟩,
   ⟨"cap_w", 9, 0, .rw, 0x208, .device, (.range 300 650), false⟩]⟩
def Fld.PWR_CAP_cap_error : Fld := ⟨0xd00020, 0x0, 31, 31, 0x208⟩
def Fld.PWR_CAP_cap_w : Fld := ⟨0xd00020, 0x0, 9, 0, 0x208⟩

/-- PWR_POWER, 19 R431. -/
def Reg.PWR_POWER : RegDef := ⟨"PWR_POWER", 0xd00024, 32, 1, 0x0, 0x0, [
   ⟨"cap_exceeded", 31, 31, .ro, 0x0, .none, .any, true⟩,
   ⟨"avg_w", 25, 16, .ro, 0x0, .none, .any, true⟩,
   ⟨"now_w", 9, 0, .ro, 0x0, .none, .any, true⟩]⟩
def Fld.PWR_POWER_cap_exceeded : Fld := ⟨0xd00024, 0x0, 31, 31, 0x0⟩
def Fld.PWR_POWER_avg_w : Fld := ⟨0xd00024, 0x0, 25, 16, 0x0⟩
def Fld.PWR_POWER_now_w : Fld := ⟨0xd00024, 0x0, 9, 0, 0x0⟩

/-- PWR_CAP_STEPS, 19 R431. -/
def Reg.PWR_CAP_STEPS : RegDef := ⟨"PWR_CAP_STEPS", 0xd00028, 64, 1, 0x0, 0x0, [
   ⟨"count", 63, 0, .ro, 0x0, .device, .any, false⟩]⟩
def Fld.PWR_CAP_STEPS_count : Fld := ⟨0xd00028, 0x0, 63, 0, 0x0⟩

/-- PWR_CAP_FORCED, 19 R432. -/
def Reg.PWR_CAP_FORCED : RegDef := ⟨"PWR_CAP_FORCED", 0xd00030, 64, 1, 0x0, 0x0, [
   ⟨"count", 63, 0, .ro, 0x0, .device, .any, false⟩]⟩
def Fld.PWR_CAP_FORCED_count : Fld := ⟨0xd00030, 0x0, 63, 0, 0x0⟩

/-- PWR_DOMAIN_EN, 19 R426. -/
def Reg.PWR_DOMAIN_EN : RegDef := ⟨"PWR_DOMAIN_EN", 0xd00038, 64, 1, 0x0, 0xffffffffffff, [
   ⟨"enable", 47, 0, .rw, 0xffffffffffff, .device, .any, false⟩]⟩
def Fld.PWR_DOMAIN_EN_enable : Fld := ⟨0xd00038, 0x0, 47, 0, 0xffffffffffff⟩

/-- PWR_DOMAIN_ON, 19 R426. -/
def Reg.PWR_DOMAIN_ON : RegDef := ⟨"PWR_DOMAIN_ON", 0xd00040, 64, 1, 0x0, 0x0, [
   ⟨"on", 47, 0, .ro, 0x0, .device, .any, true⟩]⟩
def Fld.PWR_DOMAIN_ON_on : Fld := ⟨0xd00040, 0x0, 47, 0, 0x0⟩

/-- PWR_WALL, 19 R430. -/
def Reg.PWR_WALL : RegDef := ⟨"PWR_WALL", 0xd00100, 32, 12, 0x4, 0x4470, [
   ⟨"changing", 16, 16, .ro, 0x0, .none, .any, true⟩,
   ⟨"current", 14, 12, .ro, 0x4, .none, .any, true⟩,
   ⟨"effective", 10, 8, .ro, 0x4, .none, .any, true⟩,
   ⟨"floor", 6, 4, .rw, 0x7, .device, .any, false⟩,
   ⟨"target", 2, 0, .rw, 0x0, .device, .any, false⟩]⟩
def Fld.PWR_WALL_changing : Fld := ⟨0xd00100, 0x4, 16, 16, 0x4470⟩
def Fld.PWR_WALL_current : Fld := ⟨0xd00100, 0x4, 14, 12, 0x4470⟩
def Fld.PWR_WALL_effective : Fld := ⟨0xd00100, 0x4, 10, 8, 0x4470⟩
def Fld.PWR_WALL_floor : Fld := ⟨0xd00100, 0x4, 6, 4, 0x4470⟩
def Fld.PWR_WALL_target : Fld := ⟨0xd00100, 0x4, 2, 0, 0x4470⟩

/-- SEC_STATUS, 20 R440. -/
def Reg.SEC_STATUS : RegDef := ⟨"SEC_STATUS", 0xe00000, 32, 1, 0x0, 0x0, [
   ⟨"cmd_busy", 6, 6, .ro, 0x0, .none, .any, true⟩,
   ⟨"attest_done", 5, 5, .w1c, 0x0, .none, .any, false⟩,
   ⟨"attest_busy", 4, 4, .ro, 0x0, .none, .any, true⟩,
   ⟨"log_overflow", 3, 3, .ro, 0x0, .partition, .any, false⟩,
   ⟨"debug", 2, 1, .ro, 0x0, .partition, .any, false⟩,
   ⟨"owner_bound", 0, 0, .ro, 0x0, .off, .any, true⟩]⟩
def Fld.SEC_STATUS_cmd_busy : Fld := ⟨0xe00000, 0x0, 6, 6, 0x0⟩
def Fld.SEC_STATUS_attest_done : Fld := ⟨0xe00000, 0x0, 5, 5, 0x0⟩
def Fld.SEC_STATUS_attest_busy : Fld := ⟨0xe00000, 0x0, 4, 4, 0x0⟩
def Fld.SEC_STATUS_log_overflow : Fld := ⟨0xe00000, 0x0, 3, 3, 0x0⟩
def Fld.SEC_STATUS_debug : Fld := ⟨0xe00000, 0x0, 2, 1, 0x0⟩
def Fld.SEC_STATUS_owner_bound : Fld := ⟨0xe00000, 0x0, 0, 0, 0x0⟩

/-- SEC_ROLLBACK, 20 R437. -/
def Reg.SEC_ROLLBACK : RegDef := ⟨"SEC_ROLLBACK", 0xe00004, 32, 1, 0x0, 0x0, [
   ⟨"floor", 5, 0, .ro, 0x0, .off, .any, true⟩]⟩
def Fld.SEC_ROLLBACK_floor : Fld := ⟨0xe00004, 0x0, 5, 0, 0x0⟩

/-- SEC_CMD_SEQ, 20 R443. -/
def Reg.SEC_CMD_SEQ : RegDef := ⟨"SEC_CMD_SEQ", 0xe00008, 64, 1, 0x0, 0x0, [
   ⟨"seq", 63, 0, .ro, 0x0, .off, .any, true⟩]⟩
def Fld.SEC_CMD_SEQ_seq : Fld := ⟨0xe00008, 0x0, 63, 0, 0x0⟩

/-- SEC_MGMT_SRC, 20 R444. -/
def Reg.SEC_MGMT_SRC : RegDef := ⟨"SEC_MGMT_SRC", 0xe00010, 64, 1, 0x0, 0x0, [
   ⟨"grants", 47, 0, .ro, 0x0, .partition, .any, false⟩]⟩
def Fld.SEC_MGMT_SRC_grants : Fld := ⟨0xe00010, 0x0, 47, 0, 0x0⟩

/-- SEC_ATTEST_CTRL, 20 R440. -/
def Reg.SEC_ATTEST_CTRL : RegDef := ⟨"SEC_ATTEST_CTRL", 0xe00018, 32, 1, 0x0, 0x0, [
   ⟨"go", 0, 0, .wo, 0x0, .none, .any, false⟩]⟩
def Fld.SEC_ATTEST_CTRL_go : Fld := ⟨0xe00018, 0x0, 0, 0, 0x0⟩

/-- SEC_ATTEST_NONCE, 20 R440. -/
def Reg.SEC_ATTEST_NONCE : RegDef := ⟨"SEC_ATTEST_NONCE", 0xe00020, 64, 4, 0x8, 0x0, [
   ⟨"nonce", 63, 0, .rw, 0x0, .none, .any, false⟩]⟩
def Fld.SEC_ATTEST_NONCE_nonce : Fld := ⟨0xe00020, 0x8, 63, 0, 0x0⟩

/-- SEC_MEAS, 20 R439. -/
def Reg.SEC_MEAS : RegDef := ⟨"SEC_MEAS", 0xe00100, 64, 32, 0x8, 0x0, [
   ⟨"value", 63, 0, .ro, 0x0, .partition, .any, false⟩]⟩
def Fld.SEC_MEAS_value : Fld := ⟨0xe00100, 0x8, 63, 0, 0x0⟩

/-- SEC_LOG_COUNT, 20 R439. -/
def Reg.SEC_LOG_COUNT : RegDef := ⟨"SEC_LOG_COUNT", 0xe00200, 32, 1, 0x0, 0x0, [
   ⟨"count", 31, 0, .ro, 0x0, .partition, .any, false⟩]⟩
def Fld.SEC_LOG_COUNT_count : Fld := ⟨0xe00200, 0x0, 31, 0, 0x0⟩

/-- SEC_CERT_LEN, 20 R434. -/
def Reg.SEC_CERT_LEN : RegDef := ⟨"SEC_CERT_LEN", 0xe00204, 32, 1, 0x0, 0x0, [
   ⟨"owner_len", 28, 16, .ro, 0x0, .off, .any, true⟩,
   ⟨"identity_len", 12, 0, .ro, 0x0, .off, .any, true⟩]⟩
def Fld.SEC_CERT_LEN_owner_len : Fld := ⟨0xe00204, 0x0, 28, 16, 0x0⟩
def Fld.SEC_CERT_LEN_identity_len : Fld := ⟨0xe00204, 0x0, 12, 0, 0x0⟩

/-- SEC_REPORT, 20 R440. -/
def Reg.SEC_REPORT : RegDef := ⟨"SEC_REPORT", 0xe01000, 32, 224, 0x4, 0x0, [
   ⟨"report", 31, 0, .ro, 0x0, .none, .any, false⟩]⟩
def Fld.SEC_REPORT_report : Fld := ⟨0xe01000, 0x4, 31, 0, 0x0⟩

/-- SEC_CERT, 20 R434. -/
def Reg.SEC_CERT : RegDef := ⟨"SEC_CERT", 0xe02000, 32, 1024, 0x4, 0x0, [
   ⟨"identity", 31, 0, .ro, 0x0, .off, .any, true⟩]⟩
def Fld.SEC_CERT_identity : Fld := ⟨0xe02000, 0x4, 31, 0, 0x0⟩

/-- SEC_OWNER_CERT, 20 R444. -/
def Reg.SEC_OWNER_CERT : RegDef := ⟨"SEC_OWNER_CERT", 0xe03000, 32, 1024, 0x4, 0x0, [
   ⟨"owner", 31, 0, .ro, 0x0, .off, .any, true⟩]⟩
def Fld.SEC_OWNER_CERT_owner : Fld := ⟨0xe03000, 0x4, 31, 0, 0x0⟩

/-- SEC_LOG, 20 R439. -/
def Reg.SEC_LOG : RegDef := ⟨"SEC_LOG", 0xe10000, 32, 32768, 0x4, 0x0, [
   ⟨"log", 31, 0, .ro, 0x0, .partition, .any, false⟩]⟩
def Fld.SEC_LOG_log : Fld := ⟨0xe10000, 0x4, 31, 0, 0x0⟩

/-- REC_SEQ, 21 R445. -/
def Reg.REC_SEQ : RegDef := ⟨"REC_SEQ", 0xf00000, 64, 1, 0x0, 0x0, [
   ⟨"seq", 63, 0, .ro, 0x0, .off, .any, false⟩]⟩
def Fld.REC_SEQ_seq : Fld := ⟨0xf00000, 0x0, 63, 0, 0x0⟩

/-- REC_CLEAR_COUNT, 21 R451. -/
def Reg.REC_CLEAR_COUNT : RegDef := ⟨"REC_CLEAR_COUNT", 0xf00008, 64, 1, 0x0, 0x0, [
   ⟨"count", 63, 0, .ro, 0x0, .off, .any, false⟩]⟩
def Fld.REC_CLEAR_COUNT_count : Fld := ⟨0xf00008, 0x0, 63, 0, 0x0⟩

/-- REC_CLEAR_SEQ, 21 R451. -/
def Reg.REC_CLEAR_SEQ : RegDef := ⟨"REC_CLEAR_SEQ", 0xf00010, 64, 1, 0x0, 0x0, [
   ⟨"seq", 63, 0, .ro, 0x0, .off, .any, false⟩]⟩
def Fld.REC_CLEAR_SEQ_seq : Fld := ⟨0xf00010, 0x0, 63, 0, 0x0⟩

/-- REC_CTRL, 21 R450. -/
def Reg.REC_CTRL : RegDef := ⟨"REC_CTRL", 0xf00018, 32, 1, 0x0, 0x0, [
   ⟨"hold", 0, 0, .rw, 0x0, .none, .any, false⟩]⟩
def Fld.REC_CTRL_hold : Fld := ⟨0xf00018, 0x0, 0, 0, 0x0⟩

/-- REC_STATUS, 21 R450. -/
def Reg.REC_STATUS : RegDef := ⟨"REC_STATUS", 0xf0001c, 32, 1, 0x0, 0x0, [
   ⟨"hold_expired", 1, 1, .w1c, 0x0, .none, .any, false⟩,
   ⟨"round", 0, 0, .ro, 0x0, .none, .any, true⟩]⟩
def Fld.REC_STATUS_hold_expired : Fld := ⟨0xf0001c, 0x0, 1, 1, 0x0⟩
def Fld.REC_STATUS_round : Fld := ⟨0xf0001c, 0x0, 0, 0, 0x0⟩

/-- REC_WINDOW, 21 R448. -/
def Reg.REC_WINDOW : RegDef := ⟨"REC_WINDOW", 0xf00020, 32, 1, 0x0, 0x3e8, [
   ⟨"window_ms", 15, 0, .rw, 0x3e8, .device, .window, false⟩]⟩
def Fld.REC_WINDOW_window_ms : Fld := ⟨0xf00020, 0x0, 15, 0, 0x3e8⟩

/-- REC_HIST, 21 R447. -/
def Reg.REC_HIST : RegDef := ⟨"REC_HIST", 0xf01000, 32, 2048, 0x4, 0x0, [
   ⟨"bin", 31, 0, .ro, 0x0, .off, .any, false⟩]⟩
def Fld.REC_HIST_bin : Fld := ⟨0xf01000, 0x4, 31, 0, 0x0⟩

/-- REC_EXT, 21 R449. -/
def Reg.REC_EXT : RegDef := ⟨"REC_EXT", 0xf03000, 64, 128, 0x8, 0x800000007fffffff, [
   ⟨"max", 63, 32, .ro, 0x80000000, .off, .any, false⟩,
   ⟨"min", 31, 0, .ro, 0x7fffffff, .off, .any, false⟩]⟩
def Fld.REC_EXT_max : Fld := ⟨0xf03000, 0x8, 63, 32, 0x800000007fffffff⟩
def Fld.REC_EXT_min : Fld := ⟨0xf03000, 0x8, 31, 0, 0x800000007fffffff⟩

/-- PMC_CTRL, 21 R452. -/
def Reg.PMC_CTRL : RegDef := ⟨"PMC_CTRL", 0x1000000, 32, 1, 0x0, 0x1, [
   ⟨"freeze", 1, 1, .rw, 0x0, .partition, .any, false⟩,
   ⟨"enable", 0, 0, .rw, 0x1, .partition, .any, false⟩]⟩
def Fld.PMC_CTRL_freeze : Fld := ⟨0x1000000, 0x0, 1, 1, 0x1⟩
def Fld.PMC_CTRL_enable : Fld := ⟨0x1000000, 0x0, 0, 0, 0x1⟩

/-- PMC_USER_EN, 21 R456. -/
def Reg.PMC_USER_EN : RegDef := ⟨"PMC_USER_EN", 0x1000004, 32, 1, 0x0, 0x0, [
   ⟨"user_en", 7, 0, .rw, 0x0, .partition, .any, false⟩]⟩
def Fld.PMC_USER_EN_user_en : Fld := ⟨0x1000004, 0x0, 7, 0, 0x0⟩

/-- PMC_BW_WINDOW, 21 R455. -/
def Reg.PMC_BW_WINDOW : RegDef := ⟨"PMC_BW_WINDOW", 0x1000008, 32, 1, 0x0, 0xf4240, [
   ⟨"window_ns", 29, 0, .rw, 0xf4240, .partition, (.clamp 1000 1000000000), false⟩]⟩
def Fld.PMC_BW_WINDOW_window_ns : Fld := ⟨0x1000008, 0x0, 29, 0, 0xf4240⟩

/-- PMC_MIRROR_PERIOD, 21 R456. -/
def Reg.PMC_MIRROR_PERIOD : RegDef := ⟨"PMC_MIRROR_PERIOD", 0x100000c, 32, 1, 0x0, 0x3e8, [
   ⟨"period_us", 19, 0, .rw, 0x3e8, .partition, (.clamp 10 1000000), false⟩]⟩
def Fld.PMC_MIRROR_PERIOD_period_us : Fld := ⟨0x100000c, 0x0, 19, 0, 0x3e8⟩

/-- PMC_P_MIRROR, 21 R456. -/
def Reg.PMC_P_MIRROR : RegDef := ⟨"PMC_P_MIRROR", 0x1000040, 64, 8, 0x8, 0x0, [
   ⟨"mirror_base", 39, 12, .rw, 0x0, .partition, .any, false⟩,
   ⟨"enable", 0, 0, .rw, 0x0, .partition, .any, false⟩]⟩
def Fld.PMC_P_MIRROR_mirror_base : Fld := ⟨0x1000040, 0x8, 39, 12, 0x0⟩
def Fld.PMC_P_MIRROR_enable : Fld := ⟨0x1000040, 0x8, 0, 0, 0x0⟩

/-- PMC_FIX, 21 R454. -/
def Reg.PMC_FIX : RegDef := ⟨"PMC_FIX", 0x1000100, 64, 4, 0x8, 0x0, [
   ⟨"count", 63, 0, .ro, 0x0, .partition, .any, false⟩]⟩
def Fld.PMC_FIX_count : Fld := ⟨0x1000100, 0x8, 63, 0, 0x0⟩

/-- PMC_BW_TX, 21 R455. -/
def Reg.PMC_BW_TX : RegDef := ⟨"PMC_BW_TX", 0x1001000, 64, 8, 0x20, 0x0, [
   ⟨"tx_last", 63, 0, .ro, 0x0, .partition, .any, false⟩]⟩
def Fld.PMC_BW_TX_tx_last : Fld := ⟨0x1001000, 0x20, 63, 0, 0x0⟩

/-- PMC_BW_RX, 21 R455. -/
def Reg.PMC_BW_RX : RegDef := ⟨"PMC_BW_RX", 0x1001008, 64, 8, 0x20, 0x0, [
   ⟨"rx_last", 63, 0, .ro, 0x0, .partition, .any, false⟩]⟩
def Fld.PMC_BW_RX_rx_last : Fld := ⟨0x1001008, 0x20, 63, 0, 0x0⟩

/-- PMC_BW_SERIAL, 21 R455. -/
def Reg.PMC_BW_SERIAL : RegDef := ⟨"PMC_BW_SERIAL", 0x1001010, 64, 8, 0x20, 0x0, [
   ⟨"window_serial", 63, 0, .ro, 0x0, .partition, .any, false⟩]⟩
def Fld.PMC_BW_SERIAL_window_serial : Fld := ⟨0x1001010, 0x20, 63, 0, 0x0⟩

/-- PMC_SEL, 21 R453. -/
def Reg.PMC_SEL : RegDef := ⟨"PMC_SEL", 0x1008000, 64, 256, 0x10, 0x0, [
   ⟨"context", 52, 37, .rw, 0x0, .partition, .any, false⟩,
   ⟨"owner", 36, 34, .rw, 0x0, .partition, .any, false⟩,
   ⟨"unit", 33, 27, .rw, 0x0, .partition, .any, false⟩,
   ⟨"unit_en", 26, 26, .rw, 0x0, .partition, .any, false⟩,
   ⟨"ctx_en", 25, 25, .rw, 0x0, .partition, .any, false⟩,
   ⟨"count_unattributed", 24, 24, .rw, 0x0, .partition, .any, false⟩,
   ⟨"part_mask", 23, 16, .rw, 0x0, .partition, .any, false⟩,
   ⟨"event", 15, 0, .rw, 0x0, .partition, .event, false⟩]⟩
def Fld.PMC_SEL_context : Fld := ⟨0x1008000, 0x10, 52, 37, 0x0⟩
def Fld.PMC_SEL_owner : Fld := ⟨0x1008000, 0x10, 36, 34, 0x0⟩
def Fld.PMC_SEL_unit : Fld := ⟨0x1008000, 0x10, 33, 27, 0x0⟩
def Fld.PMC_SEL_unit_en : Fld := ⟨0x1008000, 0x10, 26, 26, 0x0⟩
def Fld.PMC_SEL_ctx_en : Fld := ⟨0x1008000, 0x10, 25, 25, 0x0⟩
def Fld.PMC_SEL_count_unattributed : Fld := ⟨0x1008000, 0x10, 24, 24, 0x0⟩
def Fld.PMC_SEL_part_mask : Fld := ⟨0x1008000, 0x10, 23, 16, 0x0⟩
def Fld.PMC_SEL_event : Fld := ⟨0x1008000, 0x10, 15, 0, 0x0⟩

/-- PMC_CNT, 21 R452. -/
def Reg.PMC_CNT : RegDef := ⟨"PMC_CNT", 0x1008008, 64, 256, 0x10, 0x0, [
   ⟨"count", 63, 0, .rw, 0x0, .partition, .any, false⟩]⟩
def Fld.PMC_CNT_count : Fld := ⟨0x1008008, 0x10, 63, 0, 0x0⟩

/-- Part 0 of the register table, in window order. -/
def regTable0 : List RegDef := [
  Reg.GLB_ID,
  Reg.GLB_VENDOR,
  Reg.GLB_SIZE_COMPUTE,
  Reg.GLB_SIZE_STORE,
  Reg.GLB_SIZE_LAKE,
  Reg.GLB_SIZE_DRAM,
  Reg.GLB_SIZE_IO,
  Reg.GLB_SIZE_CLOCK,
  Reg.GLB_SIZE_LIMITS,
  Reg.GLB_UNIT_PRESENT,
  Reg.GLB_POWER_LIMITS,
  Reg.TICK_SOURCE,
  Reg.TICK_PERIOD_NS,
  Reg.TICK_PHASE_NS,
  Reg.TICK_ADMIT,
  Reg.TICK_COMMIT,
  Reg.TICK_COMMIT_STATUS,
  Reg.TICK_STEP_LIMIT,
  Reg.TICK_STATUS,
  Reg.TICK_PHASE_ERR,
  Reg.TICK_COUNT,
  Reg.TICK_ALARM,
  Reg.BRK_STATUS,
  Reg.BRK_QUAD_COURSES,
  Reg.BRK_QUAD_REGS,
  Reg.BRK_LS_OOR,
  Reg.BRK_STALL_LIMIT,
  Reg.RAS_GROW_RESERVE,
  Reg.RAS_GROW_FREE,
  Reg.RAS_PARTIAL_COUNT,
  Reg.RAS_HEAP_EXHAUSTED_COUNT,
  Reg.RAS_HEAP_LOW_COUNT,
  Reg.RAS_FLAG_MISMATCH,
  Reg.RAS_DESC_ERROR,
  Reg.RAS_FE_STATUS,
  Reg.CMP_POSE_UDP,
  Reg.CMP_POSE_MAX_AGE,
  Reg.CMP_POSE_REJECT,
  Reg.CMP_POSE_OLD,
  Reg.CMP_S_CTRL]

/-- Part 1 of the register table, in window order. -/
def regTable1 : List RegDef := [
  Reg.CMP_S_SIZE,
  Reg.CMP_S_STRIDE,
  Reg.CMP_S_SLICE,
  Reg.CMP_S_FRAME,
  Reg.CMP_S_LEAD,
  Reg.CMP_S_OUT_BASE,
  Reg.CMP_S_REC_BASE,
  Reg.CMP_S_SIG_TABLE,
  Reg.CMP_S_FENCE,
  Reg.CMP_S_COMMIT,
  Reg.CMP_S_COMMIT_STATUS,
  Reg.CMP_S_CM_0,
  Reg.CMP_S_CM_1,
  Reg.CMP_S_CM_2,
  Reg.CMP_S_CM_3,
  Reg.CMP_S_CM_4,
  Reg.CMP_S_CM_5,
  Reg.CMP_S_RANGE_0,
  Reg.CMP_S_RANGE_1,
  Reg.CMP_S_RANGE_2,
  Reg.CMP_S_SERIAL,
  Reg.CMP_S_OVERRUN,
  Reg.CMP_S_MISMATCH,
  Reg.CMP_S_STALE,
  Reg.CMP_S_SIG_SKIP,
  Reg.MEM_PREFETCH_MODE,
  Reg.MEM_LAKE_MEM_WAYS,
  Reg.MEM_LAKE_STATUS,
  Reg.MEM_MAINT_STATUS,
  Reg.MEM_SIDE_HITS,
  Reg.MEM_SIDE_DROPS,
  Reg.MEM_SPRING_ERR,
  Reg.XLT_INV_TIMEOUT,
  Reg.XLT_BATCH_WINDOW,
  Reg.XLT_INV_STATUS,
  Reg.XLT_FAULTS,
  Reg.XLT_REFAULTS,
  Reg.XLT_INV_TERMINATED,
  Reg.XLT_FRING_STALLS,
  Reg.XLT_AS_CTRL]

/-- Part 2 of the register table, in window order. -/
def regTable2 : List RegDef := [
  Reg.XLT_AS_ROOT,
  Reg.XLT_AS_FRING,
  Reg.XLT_AS_FENCE,
  Reg.XLT_AS_PROD,
  Reg.XLT_AS_CONS,
  Reg.XLT_AS_STATUS,
  Reg.CPR_CWIN,
  Reg.CPR_SIDE_BASE,
  Reg.CPR_LOSSY,
  Reg.CPR_STREAM_STATUS,
  Reg.CPR_CODEC_LOSSY,
  Reg.CPR_CODEC_BAD,
  Reg.CPR_STREAM_IN,
  Reg.CPR_STREAM_OUT,
  Reg.SEQ_P_CTRL,
  Reg.SEQ_P_TOKENS,
  Reg.SEQ_P_SEQS,
  Reg.SEQ_P_PAGES,
  Reg.SEQ_P_BASE,
  Reg.SEQ_P_LIST,
  Reg.SEQ_P_PEER,
  Reg.SEQ_P_GUEST_MAX,
  Reg.SEQ_P_COMMIT,
  Reg.SEQ_P_COMMIT_STATUS,
  Reg.SEQ_P_FREE,
  Reg.SEQ_P_GUEST,
  Reg.SEQ_P_STEPS,
  Reg.SEQ_P_SUSPENDS,
  Reg.SEQ_P_DEFERS,
  Reg.SEQ_P_RESUMES,
  Reg.SEQ_P_FALLBACKS,
  Reg.SEQ_P_LOST,
  Reg.SEQ_ENT_A,
  Reg.SEQ_ENT_B,
  Reg.SEQ_ENT_C,
  Reg.SUB_WATCH,
  Reg.SUB_TABLES,
  Reg.SUB_FENCE_LOWER,
  Reg.SUB_FENCE_TERMINAL,
  Reg.SUB_DB_REJECT]

/-- Part 3 of the register table, in window order. -/
def regTable3 : List RegDef := [
  Reg.SUB_DB_STALE,
  Reg.SUB_CQ_STALLS,
  Reg.SUB_PARKED_WAITS,
  Reg.SUB_R_CFG,
  Reg.SUB_R_BASE,
  Reg.SUB_R_FETCH,
  Reg.SUB_R_DOORBELL,
  Reg.SUB_R_STATUS,
  Reg.SUB_R_BUDGET,
  Reg.PAR_STALE_EPOCH,
  Reg.PAR_ABORT_CQ_DROPS,
  Reg.PAR_PREEMPTS,
  Reg.PAR_P_CTRL,
  Reg.PAR_P_MASKS,
  Reg.PAR_P_GROUPS,
  Reg.PAR_P_CRING_CFG,
  Reg.PAR_P_CRING,
  Reg.PAR_P_SAVE,
  Reg.PAR_P_COMMIT,
  Reg.PAR_P_COMMIT_STATUS,
  Reg.PAR_P_STATUS,
  Reg.PAR_R_EPOCH,
  Reg.FAB_ADDR,
  Reg.FAB_STATE,
  Reg.FAB_MGR,
  Reg.FAB_EPOCH,
  Reg.FAB_DISC,
  Reg.FAB_WEIGHT,
  Reg.FAB_LIST_VER,
  Reg.FAB_ELECTIONS,
  Reg.FAB_SPLITS,
  Reg.FAB_REJOINS,
  Reg.FAB_NO_ROUTE,
  Reg.FAB_UNASSIGNED,
  Reg.FAB_TUN_CTRL,
  Reg.FAB_TUN_IP_LO,
  Reg.FAB_TUN_IP_HI,
  Reg.FAB_RT,
  Reg.FAB_OP_TIMEOUT,
  Reg.FAB_TUNNEL]

/-- Part 4 of the register table, in window order. -/
def regTable4 : List RegDef := [
  Reg.FAB_PTP,
  Reg.FAB_P_CTRL,
  Reg.FAB_P_STATUS,
  Reg.FAB_P_MAC,
  Reg.FAB_P_IPV4,
  Reg.FAB_P_IPV6_LO,
  Reg.FAB_P_IPV6_HI,
  Reg.FAB_P_FEC_CORR,
  Reg.FAB_P_FEC_UNCORR,
  Reg.FAB_P_REPLAYS,
  Reg.FAB_P_DROPS,
  Reg.FAB_P_LINK_DOWNS,
  Reg.FAB_QP_CTRL,
  Reg.FAB_QP_DEST,
  Reg.FAB_QP_RIP_LO,
  Reg.FAB_QP_RIP_HI,
  Reg.FAB_QP_RECV,
  Reg.RST_BOOT_STATUS,
  Reg.RST_CAUSE,
  Reg.RST_COUNTS,
  Reg.RST_DEVICE_RESET,
  Reg.RST_PART_RESET,
  Reg.RST_BLOCK_RESET,
  Reg.RST_WDOG,
  Reg.RST_WDOG_KICK,
  Reg.RST_FAULT,
  Reg.RST_FULL_SERVICE,
  Reg.PWR_CTRL,
  Reg.PWR_STATUS,
  Reg.PWR_WAKE_EN,
  Reg.PWR_WAKE_CAUSE,
  Reg.PWR_WAKE_PENDING,
  Reg.PWR_DEEP_TIMER,
  Reg.PWR_CAP,
  Reg.PWR_POWER,
  Reg.PWR_CAP_STEPS,
  Reg.PWR_CAP_FORCED,
  Reg.PWR_DOMAIN_EN,
  Reg.PWR_DOMAIN_ON,
  Reg.PWR_WALL]

/-- Part 5 of the register table, in window order. -/
def regTable5 : List RegDef := [
  Reg.SEC_STATUS,
  Reg.SEC_ROLLBACK,
  Reg.SEC_CMD_SEQ,
  Reg.SEC_MGMT_SRC,
  Reg.SEC_ATTEST_CTRL,
  Reg.SEC_ATTEST_NONCE,
  Reg.SEC_MEAS,
  Reg.SEC_LOG_COUNT,
  Reg.SEC_CERT_LEN,
  Reg.SEC_REPORT,
  Reg.SEC_CERT,
  Reg.SEC_OWNER_CERT,
  Reg.SEC_LOG,
  Reg.REC_SEQ,
  Reg.REC_CLEAR_COUNT,
  Reg.REC_CLEAR_SEQ,
  Reg.REC_CTRL,
  Reg.REC_STATUS,
  Reg.REC_WINDOW,
  Reg.REC_HIST,
  Reg.REC_EXT,
  Reg.PMC_CTRL,
  Reg.PMC_USER_EN,
  Reg.PMC_BW_WINDOW,
  Reg.PMC_MIRROR_PERIOD,
  Reg.PMC_P_MIRROR,
  Reg.PMC_FIX,
  Reg.PMC_BW_TX,
  Reg.PMC_BW_RX,
  Reg.PMC_BW_SERIAL,
  Reg.PMC_SEL,
  Reg.PMC_CNT]

/-- Every register of the window. -/
def regTable : List RegDef := regTable0 ++ regTable1 ++ regTable2 ++ regTable3 ++ regTable4 ++ regTable5

/-- Whether a window offset is the base of an element of the register. -/
def RegDef.hits (r : RegDef) (off : Nat) : Bool :=
  r.off ≤ off && (if r.stride = 0 then off = r.off else (off - r.off) % r.stride = 0 && (off - r.off) / r.stride < r.count)

/-- The register whose element begins at a window offset, with the element's index. -/
def findReg (off : Nat) : Option (RegDef × Nat) :=
  (regTable.find? (fun r => r.hits off)).map (fun r => (r, if r.stride = 0 then 0 else (off - r.off) / r.stride))

/-- The register that covers a window offset: itself, or the 64-bit register of which it is the upper half. -/
def findRegHalf (off : Nat) : Option (RegDef × Nat × Bool) :=
  match findReg off with
  | some (r, i) => some (r, i, false)
  | none =>
    if off < 4 then none
    else match findReg (off - 4) with
      | some (r, i) => if r.width = 64 then some (r, i, true) else none
      | none => none

end Sys2Proof.Machine
end

