-- ==== Sys2Proof/Machine/State.lean ====
section
/-! DEFINITION. The state of the PSY-9600 as plain data: every register, memory, queue, engine and pin that the spec
names, the queue of waiting commands, and the state after reset. -/

namespace Sys2Proof.Machine

/-! ## Memory -/

/-- A byte memory: listed cells in strictly rising order of address, and what an unlisted cell reads as: zero, or the
free byte of a generation (`Config.freeByte`) where the spec calls the content undefined. -/
structure Store where
  fill : Option Nat
  cells : List Host.Cell
  deriving DecidableEq, Repr

/-- Addresses strictly rising. -/
def risingCells : List Host.Cell → Bool
  | [] => true
  | (a, _) :: t => t.all (fun c => decide (a < c.1)) && risingCells t

/-- The canonical form: strictly rising addresses, and, where unlisted cells read zero, no listed zero. -/
def Store.wf (m : Store) : Bool :=
  risingCells m.cells && (m.fill.isSome || m.cells.all (fun c => c.2 ≠ 0))

/-- A line of the lake (R202, R256): its 64 decoded bytes, whether they are dirty, its way and the target mode of its
compressible block. -/
structure LakeLine where
  data : Bytes
  dirty : Bool
  way : Nat
  mode : Nat
  deriving DecidableEq, Repr

/-- A line of a pond's cache part (R78, R79): bytes with their valid and dirty masks, the target mode of the mapping
through which it was written (R255), and the block that wrote it last. Its key is its global physical address / 64, with
device 0 for this device. -/
structure PondLine where
  data : Bytes
  valid : Wide
  dirty : Wide
  mode : Nat
  owner : Option BlockRef
  deriving DecidableEq, Repr

/-- A line held in a side buffer (R208). -/
structure SideLine where
  line : Nat
  data : Bytes
  deriving DecidableEq, Repr

/-- DRAM, the lake window, the lake and its side buffers. -/
structure MemSt where
  /-- DRAM bytes as stored (R199, R252) -/
  dram : Store
  /-- bytes of the lake window, by way and offset within the way (R204); a way that is not listed reads zero (R205) -/
  window : NMap Store
  /-- cached lines by line number of the local offset (R202) -/
  lake : NMap LakeLine
  /-- side buffer of each slice, oldest first (R208) -/
  side : NMap (List SideLine)
  /-- MEM_LAKE_STATUS.tag_init (R209) -/
  tagInit : Bool
  /-- lines whose demand miss to DRAM has not been followed by its prefetch yet (R206) -/
  missed : List Nat
  deriving DecidableEq, Repr

/-! ## Accesses in progress -/

/-- Where one part of a request stands (R234 to R237): not issued whole, stopped on a fault, issued and awaited, refused
after translation (R232), or complete. -/
inductive PartState where
  | todo | fault | sent | refused | done
  deriving DecidableEq, Repr

/-- One part of a request, which lies in one page (R234): its address and length, the bytes it stores or those it has
received, how many of its bytes have been issued, the transfers outstanding, and where it stands. -/
structure PartRun where
  va : Wide
  len : Nat
  data : Bytes
  issued : Nat
  left : Nat
  state : PartState
  deriving DecidableEq, Repr

/-- Atomic operations of R84. -/
inductive AtomOp where
  | load | store | exchange | cas
  | add (k : AddKind)
  | minMax (k : MinMaxKind)
  | bitwise (k : BitKind)
  | fadd
  deriving DecidableEq, Repr

/-- What an instruction of a path does with memory: a plain load or store, or an atomic on operands of a size. -/
inductive PathOp where
  | load
  | store
  | atomic (op : AtomOp)
  deriving DecidableEq, Repr

/-- One lane of an instruction in progress: the parts of its request, for an atomic its operands, for an image access its
arguments, the bytes it has read so far, by virtual address, and what names its free values, and the value it will get, once
that is known. -/
structure LaneRun where
  thread : Nat
  parts : List PartRun
  atom : Option LaneAtomic
  image : Option ImageArgs
  got : List (Nat × Bytes)
  free : Nat
  value : Option (List Word)
  deriving DecidableEq, Repr

/-- A memory instruction of a path whose requests are not all complete (R235, R237); `remote` is the access of one lane that came
translated (R389). -/
structure PathRun where
  id : Nat
  cls : StorageClass
  op : PathOp
  size : Nat
  remote : Option RemoteAccess
  lanes : List LaneRun
  deriving DecidableEq, Repr

/-- A release that cannot finish yet: the threads that issued it, whose later accesses wait, and its scope (R79). -/
structure HeldRelease where
  threads : List Nat
  scope : Scope
  deriving DecidableEq, Repr

/-! ## Bricks -/

/-- One part of a tile row in flight: tile, row, and the part (R219). -/
structure TilePart where
  tile : Nat
  row : Nat
  part : PartRun
  deriving DecidableEq, Repr

/-- A running tensor-tile stream of a spring (R216 to R222). -/
structure SpringRun where
  ring : Nat
  serial : Wide
  block : Nat
  desc : Bytes
  /-- index of the oldest unreleased tile -/
  head : Nat
  /-- tiles released above `head` -/
  released : List Nat
  /-- tiles whose fetch has been issued and not yet completed -/
  fetching : List Nat
  /-- tiles whose slot is ready -/
  ready : List Nat
  /-- parts of the tiles being fetched, in the order in which they are requested (R218, R219) -/
  parts : List TilePart
  deriving DecidableEq, Repr

/-- A spring: its descriptor bytes, its run while it is owned, and the done bit and head of the last run. -/
structure Spring where
  desc : Bytes
  run : Option SpringRun
  done : Bool
  lastHead : Nat
  deriving DecidableEq, Repr

/-- A lane blocked at a barrier: its thread, the barrier site, its arrival count there, the scope, for how long, in
thousandths of a brick clock, which do not count while a lane of the block waits for a replay (R75), and the limit in brick
clocks that was in force when the stall interval began (R66). -/
structure Blocked where
  thread : Nat
  site : Nat
  count : Nat
  scope : Scope
  stall : Nat
  limit : Nat
  deriving DecidableEq, Repr

/-- A value a lane has received from an instruction of the command set, latest first. -/
structure LaneOut where
  thread : Nat
  value : List Word
  deriving DecidableEq, Repr

/-- What a block runs: a block of a DISPATCH, or one of the one-course blocks of a pass (R45). -/
inductive Stage where
  | compute | vertex | fragment
  deriving DecidableEq, Repr

/-- A block resident on a brick (R43 to R45, R72 to R75). -/
structure Block where
  ring : Nat
  serial : Wide
  index : Nat
  threads : Nat
  /-- start quadrant of R44 -/
  quad : Nat
  regsPerLane : Nat
  lsBase : Nat
  lsBytes : Nat
  /-- rank in its cluster and cluster size; a cluster of one is (0, 1) -/
  rank : Nat
  clusterSize : Nat
  /-- lowest block index of the cluster -/
  clusterBase : Nat
  /-- threads that have exited -/
  exited : List Nat
  /-- arrivals so far: thread, site and count -/
  arrivals : List (Nat × Nat × Nat)
  blocked : List Blocked
  stage : Stage
  /-- helper lanes (R151): their stores and atomics are not performed -/
  helpers : List Nat
  /-- memory instructions in progress, and the number of the next one -/
  paths : List PathRun
  pathNo : Nat
  releases : List HeldRelease
  /-- outputs that lanes of a pass have stored: thread, location and words (R145, R151) -/
  outputs : List (Nat × Nat × List Word)
  out : List LaneOut
  /-- every lane has exited; only its local store is still held (R65) -/
  done : Bool
  deriving DecidableEq, Repr

/-- Local store of a brick that no resident block holds: the tiles of a unit of a pass (R56, R148), or what a block held whose
springs have requests outstanding (R222); the command, the unit or block, and the bytes. -/
structure LsHold where
  ring : Nat
  serial : Wide
  tile : Bool
  index : Nat
  bytes : Nat
  deriving DecidableEq, Repr

/-- A brick. -/
structure Brick where
  split : Nat
  /-- target split while it drains (R56) -/
  drain : Option Nat
  blocks : List Block
  pond : NMap PondLine
  side : List SideLine
  /-- lines of the pond, by key, whose demand miss has not been followed by its prefetch yet (R206) -/
  missed : List Nat
  ls : Store
  springs : List Spring
  holds : List LsHold
  deriving DecidableEq, Repr

/-! ## Rings, commands and objects -/

/-- Ring states (R296). -/
inductive RingState where
  | disabled | running | stopped | aborted | destroying
  deriving DecidableEq, Repr

/-- A pending release signal (R294, R308): the fence's entry and the value. -/
structure Release where
  fence : Nat
  value : Wide
  deriving DecidableEq, Repr

/-- A ring (R292 to R303, R349). -/
structure Ring where
  sizeLog2 : Nat
  asid : Nat
  part : Nat
  cls : Nat
  cqMode : Nat
  dbSource : Nat
  dbId : Nat
  cqLog2 : Nat
  base : Wide
  cqBase : Wide
  cqCons : Wide
  budget : Nat
  fetch : Wide
  doorbell : Wide
  cqProd : Wide
  cqSeen : Wide
  cqStalled : Bool
  state : RingState
  stopReason : Nat
  epoch : Nat
  /-- release signals of its DESTROYs that have not been made (R294) -/
  release : List Release
  /-- brick time used in the current tick, in units of 1 / lcm(1..64) ns (R37) -/
  used : Nat
  /-- the descriptor fetch is stopped on a fault (R237) -/
  fetchFault : Bool
  /-- a PREEMPT saves the ring (R347) -/
  saving : Bool
  /-- parts of a descriptor received from another device: global address and bytes -/
  fetched : List (Nat × Bytes)
  /-- accepted doorbell counts that cover descriptors not yet fetched, with their times, oldest first (R448) -/
  bells : List (Wide × Nat)
  deriving DecidableEq, Repr

/-- Phases of a command: accepted, started, ended with a status and waiting to retire (R300, R302). -/
inductive CmdPhase where
  | accepted | started | ended
  deriving DecidableEq, Repr

/-- A write a command still has to perform: virtual address and bytes, and whether it is a part of a request whose other part
has been performed (R236, R238). -/
structure VWrite where
  va : Wide
  data : Bytes
  partly : Bool
  deriving DecidableEq, Repr

/-- A dispatch in progress (R57 to R60). -/
structure DispatchRun where
  kernel : Nat
  total : Nat
  /-- linear index of the next block to start -/
  next : Nat
  /-- blocks that have exited -/
  exited : Nat
  regsPerLane : Nat
  lsBytes : Nat
  threads : Nat
  grid : Nat × Nat × Nat
  cluster : Nat × Nat × Nat
  split : Nat
  seed : Wide
  /-- argument entries and push constants as read (R58) -/
  args : Bytes
  /-- stochastic-rounding counters of the quadrants that a course of the launch has reached: brick, quadrant and counter (R123) -/
  sr : List (Nat × Nat × Nat)
  /-- an access of its blocks to another device has failed: the status and the block (R83) -/
  remoteFault : Option (Half × Nat)
  deriving DecidableEq, Repr

/-- A vertex after the viewport transform: x and y in 1/256 pixel, and depth (R146). -/
structure RVert where
  x : Int
  y : Int
  z : Rat
  deriving DecidableEq, Repr

/-- A primitive that survives R146: its sequence number and draw, the pieces that clipping left (1 vertex for a point, 2
for a line, 3 for a triangle), a point's size, its facing, its front-end, and the tiles it touches in increasing order. -/
structure RPrim where
  seq : Nat
  draw : Nat
  pieces : List (List RVert)
  size : Rat
  front : Bool
  fe : Nat
  tiles : List Nat
  deriving DecidableEq, Repr

/-- A list segment (R154): its entries (sequence number, record offset / 64) and its link (chunk, segment). -/
structure Seg where
  entries : List (Nat × Nat)
  link : Option (Nat × Nat)
  deriving DecidableEq, Repr

/-- A chunk of the tile-list heap beyond the head table (R153, R154): LIST is kind 1, VERTEX kind 2; `used` counts bytes
of a VERTEX chunk. -/
structure Chunk where
  kind : Nat
  fe : Nat
  flush : Nat
  used : Nat
  segs : List Seg
  deriving DecidableEq, Repr

/-- A lane of a course of a pass as it begins: its inputs, by key (`inBuiltIn`, `inLocation`), and whether it is a helper lane
(R139, R145, R151). -/
structure LaneIn where
  ins : List (Nat × List Word)
  helper : Bool
  deriving DecidableEq, Repr

/-- The fragment of one lane (R149 to R151): its primitive's sequence number and facing, its pixel, its sample when it is
shaded for one, and the samples it may write, each with its depth in FP32. -/
structure Frag where
  seq : Nat
  front : Bool
  x : Nat
  y : Nat
  sample : Option Nat
  cover : List (Nat × Nat)
  deriving DecidableEq, Repr

/-- A course of a pass (R45, R145, R151): the number by which commands name it as a block, its stage and draw, its registers per lane, the
bricks on which it may be placed, whether it has been placed, its lanes, for a fragment course the fragments of the lanes, and what the
lanes have stored (thread, output and words), once all of them have exited. -/
structure Course where
  no : Nat
  stage : Stage
  draw : Nat
  regs : Nat
  bricks : List Nat
  placed : Bool
  lanes : List LaneIn
  frags : List Frag
  outs : Option (List (Nat × Nat × List Word))
  deriving DecidableEq, Repr

/-- A primitive whose vertices are being shaded: its sequence number, front-end, and the course and lane of each corner. -/
structure PrimIn where
  seq : Nat
  fe : Nat
  corners : List (Nat × Nat)
  deriving DecidableEq, Repr

/-- A region being rendered: its column and row, the sample codes of each plane, and the attachments touched (R160). -/
structure RegionSt where
  rx : Nat
  ry : Nat
  codes : List (List Nat)
  touched : List Nat
  deriving DecidableEq, Repr

/-- A unit in a brick's local store (R147 to R151): its number and brick, its regions once they are loaded, the primitives it
has still to rasterize, tile by tile, the draw and the quads of the one in hand that no course holds yet, its course in
progress, and, once it is shaded, the writes left of its store point. -/
structure UnitRun where
  unit : Nat
  brick : Nat
  regions : Option (List RegionSt)
  todo : List (Nat × RPrim)
  draw : Nat
  tile : Nat
  quads : List (List Frag)
  course : Option Nat
  writes : Option (List VWrite)
  deriving DecidableEq, Repr

/-- Where a pass stands: binning, rendering for a partial flush or at its end, or ending with a status. -/
inductive PassPhase where
  | bin
  | render (final : Bool)
  | finish (status : Half)
  deriving DecidableEq, Repr

/-- A primitive that has been listed only in part: its record's place ÷ 64 in the heap once it has one, and the tiles left
(R154, R156). -/
structure PartPrim where
  prim : RPrim
  record : Option Nat
  tiles : List Nat
  deriving DecidableEq, Repr

/-- A RENDER_PASS in progress (R140 to R158): records as read, the next draw and sequence number, the primitives and courses of
the draw in hand, primitives listed, the heap, counts, when a front-end stopped for want of a chunk, the units of a store
point, and the writes left. -/
structure PassRun where
  record : Bytes
  draws : List Bytes
  /-- state blocks and argument bytes of the draws read so far -/
  states : List Bytes
  args : List Bytes
  /-- the bricks of its partition in increasing number, and the local store that a unit's tiles take on one (R147, R148) -/
  bricks : List Nat
  tileBytes : Nat
  phase : PassPhase
  seq : Nat
  prims : List PrimIn
  courses : List Course
  courseNo : Nat
  /-- the primitive being listed, and those listed whole since the last flush -/
  current : Option PartPrim
  listed : List RPrim
  /-- heads: (2 · tile + front-end) ↦ first and last segment -/
  heads : NMap ((Nat × Nat) × (Nat × Nat))
  chunks : List Chunk
  granted : Nat
  peak : Nat
  partials : Nat
  binned : Nat
  /-- primitives listed since the last flush -/
  since : Nat
  armed : Bool
  stalled : Option (Nat × Nat)
  /-- Gotik has been asked for chunks -/
  asked : Bool
  /-- a store point has passed -/
  stored : Bool
  /-- units of the store point that no brick has opened yet, in increasing order, and those that are open -/
  units : List Nat
  opened : List UnitRun
  /-- the head table and chunks as last written to the heap object -/
  image : List VWrite
  /-- writes to the heap object, and to attachments and the statistics record, not yet performed -/
  heapWrites : List VWrite
  writes : List VWrite
  /-- what names its free values: the contents of primitive records, vertex values and fragment values (three numbers) -/
  free : Nat
  /-- an access of its courses to another device has failed (R83) -/
  remoteFault : Option (Half × Nat)
  deriving DecidableEq, Repr

/-- A sequence's table entry (R275): `held` is 0 LOCAL, 1 PACKED or 2 PEER; `pages` are the pages it holds on this
device, row by row, and `guest` the addresses of its guest pages at the peer. -/
structure SeqEnt where
  state : Nat
  pool : Nat
  prio : Nat
  length : Nat
  rows : Nat
  stamp : Nat
  lossy : Bool
  held : Nat
  peerDevice : Nat
  peerPool : Nat
  pages : List Nat
  guest : List Nat
  deriving DecidableEq, Repr

/-- A pool (R273, R275, R282, R285): pages in use, its stamp counter and serial, and the guest pages it holds: peer and
pages. -/
structure Pool where
  used : List Nat
  stamp : Nat
  serial : Wide
  guests : List (Nat × List Nat)
  deriving DecidableEq, Repr

/-- Where a STEP stands (R280). -/
inductive StepPhase where
  | growth | admission | writes
  deriving DecidableEq, Repr

/-- A STEP in progress (R280): its list, statuses and events so far, the pool and entries as they will stand after the
commit, sequences suspended and joined in this step (with whether each was resumed and its prefill), candidates left, the
sequence whose pages move to or from the peer, with whether a response reported an error, and since when the placement of guest
pages has waited because the device is FORMING (R393). -/
structure StepRun where
  list : List Bytes
  statuses : List Half
  events : List (Nat × Half)
  ents : NMap SeqEnt
  pool : Pool
  grow : List Nat
  suspended : List Nat
  joined : List (Nat × Bool × Nat)
  cands : List Nat
  moving : Option Nat
  sent : Nat
  newPages : List Nat
  failed : Bool
  formingSince : Option Nat
  phase : StepPhase
  deriving DecidableEq, Repr

/-- What a started command is doing. -/
inductive RunState where
  | none
  /-- FENCE_WAIT in a watch slot or parked: the edge count at which it times out -/
  | waiting (parked : Bool) (timeoutAt : Option Nat)
  /-- waits for a TRANSLATING kernel (R51) -/
  | kernelWait
  | dispatch (d : DispatchRun)
  /-- KERNEL_LOAD translating: the kernel's entry -/
  | kernelLoad (index : Nat)
  /-- writes left, then the outcome -/
  | writing (left : List VWrite) (status : Half) (detail : Wide) (unit : Nat)
  /-- a MAINTAIN: engines that have not finished (R213) -/
  | maintain (left : List Nat)
  /-- an XLT_INVALIDATE in the queue or running (R246) -/
  | invalidate
  /-- a STREAM_CODEC job waiting or running (R266) -/
  | stream (running : Bool)
  /-- a STREAM_CODEC job writing its output, its state header and its result record -/
  | streamEnd (out head result : List VWrite) (status : Half)
  /-- a fabric fence operation awaiting its home (R316, R317) -/
  | fabricFence (index : Nat)
  /-- a RENDER_PASS in progress -/
  | pass (p : PassRun)
  /-- a STEP in progress -/
  | step (r : StepRun)
  /-- a PREEMPT that drains (R347) -/
  | preempt
  /-- a shared-object operation held while the device is FORMING (R393), since when -/
  | shared (since : Nat)
  deriving DecidableEq, Repr

/-- A command in flight. Ring 1024 is Gotik's own queue (R472). -/
structure Cmd where
  ring : Nat
  serial : Wide
  desc : Line
  part : Nat
  asid : Nat
  cls : Nat
  /-- entries of the handle table it holds one reference to, each (R307) -/
  refs : List Nat
  phase : CmdPhase
  status : Half
  detail : Wide
  unit : Nat
  /-- TICK_COUNT when it was fetched (R38) -/
  tick : Wide
  run : RunState
  /-- stopped on a fault record (R237) -/
  faulted : Bool
  /-- data of remote reads it has received: global address and bytes -/
  remote : List (Nat × Bytes)
  /-- bytes it has read in its present phase, by virtual address: each is read once (R235, R237) -/
  input : List (Nat × Bytes)
  /-- when the doorbell that covered it was accepted, and when it started (R448) -/
  bellAt : Nat
  startAt : Nat
  /-- when it completed, once it has: a cut in that same I/O clock overrides its status (R38, R76) -/
  endAt : Nat
  /-- tick edges passed while it was running (R40) -/
  edges : Nat
  /-- its completion record has been written or dropped, or none is required (R302) -/
  recordDone : Bool
  /-- its completion fence is not signalled: check H1 or H2 of its header failed (R322) -/
  fenceless : Bool
  deriving DecidableEq, Repr

/-- States of a handle entry (R304 to R308). -/
inductive EntryState where
  | live | dying | free | retired
  deriving DecidableEq, Repr

/-- States of a kernel object (R51, R53). -/
inductive KernelState where
  | translating | ready | rejected
  deriving DecidableEq, Repr

/-- What a handle names (R304). -/
inductive Payload where
  | none
  | memory (asid : Nat) (va : Wide) (len : Wide)
  /-- a kernel: state, resource record, entry of its code memory, module and entry-point name as read, and the
  argument entries and push-constant bytes it uses (R58) -/
  | kernel (st : KernelState) (record : Bytes) (code : Nat) (module name : Bytes) (model : Nat) (uses : List Nat) (push : Nat)
  /-- a fence word at a local offset -/
  | fence (off : Nat)
  /-- a mirror: its word, home device, home handle, and LOST (R317) -/
  | mirror (off home : Nat) (handle : Wide) (lost : Bool)
  deriving DecidableEq, Repr

/-- An entry of the handle table. -/
structure Entry where
  gen : Word
  typ : Nat
  state : EntryState
  refs : Nat
  release : Option Release
  payload : Payload
  deriving DecidableEq, Repr

/-- Rings, commands in flight, handles, watch slots and fabric fence slots. -/
structure SubSt where
  rings : NMap Ring
  /-- in order of acceptance -/
  cmds : List Cmd
  entries : NMap Entry
  /-- freed entries in the order in which they became free (R306) -/
  freed : List Nat
  /-- lowest index never allocated -/
  fresh : Nat
  /-- waits in watch slots, and parked waits, oldest first (R315) -/
  slots : List (Nat × Wide)
  parked : List (Nat × Wide)
  /-- export slots: fence entry and the device of each subscription (R316) -/
  exports : NMap (List Nat)
  /-- fence signals held at the closed DRAM wrapper: word, value or increment (R405) -/
  heldSignals : List (Nat × Option Wide)
  /-- signals of the device's own to shared fences that wait while it is FORMING or a route is pending: entry, value, since
  (R389, R393) -/
  heldEntries : List (Nat × Option Wide × Nat)
  /-- references that committed register values hold: register offset and entry (R307) -/
  regRefs : List (Nat × Nat)
  deriving DecidableEq, Repr

/-! ## Translation -/

/-- The stream that a faulting request stops (R237). -/
inductive Stream where
  /-- a part of a lane's request: the block, the instruction's number, the thread and the part's first virtual address -/
  | lane (ref : BlockRef) (path thread : Nat) (va : Wide)
  /-- a part of a tile row of a spring of a block: brick, spring, tile, row and the part's first virtual address -/
  | spring (ref : BlockRef) (brick k tile row : Nat) (va : Wide)
  | cmd (ring : Nat) (serial : Wide)
  | fetch (ring : Nat)
  | none
  deriving DecidableEq, Repr

/-- A fault record (R238) with the stream it stopped. -/
structure FaultRec where
  va : Wide
  len : Nat
  kind : Nat
  level : Nat
  access : Nat
  context : Nat
  engine : Nat
  unit : Nat
  ring : Nat
  part : Nat
  partly : Bool
  stream : Stream
  deriving DecidableEq, Repr

/-- A batch of fault records (R239). -/
structure Batch where
  no : Nat
  recs : List FaultRec
  closed : Bool
  resumed : Bool
  /-- when it closed (R448) -/
  closedAt : Nat
  deriving DecidableEq, Repr

/-- The fault state of an address space (R237 to R242). -/
structure AsSt where
  batch : Nat
  prod : Nat
  cons : Nat
  consBatch : Nat
  batches : List Batch
  openSince : Nat
  /-- streams stopped without a record because the ring is full (R240) -/
  waiting : List FaultRec
  deriving DecidableEq, Repr

/-- A cached translation (R233): address space, first virtual byte, page size and leaf. -/
structure Xlat where
  asid : Nat
  va : Nat
  size : Nat
  leaf : Wide
  deriving DecidableEq, Repr

/-- An invalidation (R245, R246): the virtual range `[lo, hi)`, when it started, and the slots and generations of the
transfers that used an old translation of the range. -/
structure Inval where
  ring : Nat
  serial : Wide
  asid : Nat
  lo : Nat
  hi : Nat
  start : Nat
  old : List (Nat × Nat)
  deriving DecidableEq, Repr

/-- The translation unit. -/
structure XltSt where
  spaces : NMap AsSt
  cache : List Xlat
  queue : List Inval
  running : Option Inval
  deriving DecidableEq, Repr

/-! ## Outstanding fabric operations -/

/-- What an outstanding fabric operation is for. -/
inductive OpUse where
  | cmd
  /-- one transfer of a part of a lane's request: the instruction, the thread, the part's first virtual address, which bytes of
  the response it takes and where they go in the part; and the brick whose pond takes the line, if one does (R78) -/
  | lane (ref : BlockRef) (path thread : Nat) (va : Wide) (skip len off : Nat) (fill : Option Nat)
  /-- one transfer of a part of a tile row of a spring of a block: the part's first virtual address, and where the bytes go in
  the part -/
  | spring (ref : BlockRef) (brick k tile row : Nat) (va : Wide) (off : Nat)
  /-- a line that a pond writes back to its home device, and the block that wrote it (R79) -/
  | pond (brick : Nat) (ref : Option BlockRef)
  /-- a line that a pond prefetches from another device (R206) -/
  | prefetch (brick key : Nat)
  | fenceSignal (entry : Nat)
  | subscribe
  | sequence (ring : Nat) (serial : Wide)
  /-- a piece of a RoCEv2 request whose target is another device (R363) -/
  | roce (qp piece : Nat)
  /-- a write to another device's routing table (R387) -/
  | route
  deriving DecidableEq, Repr

/-- An outstanding fabric operation (R350, R374). -/
structure FabOp where
  slot : Nat
  gen : Nat
  ring : Nat
  serial : Wide
  epoch : Nat
  kind : Nat
  op : Nat
  size : Nat
  device : Nat
  addr : Nat
  len : Nat
  /-- address space and virtual address it was translated from, for R246 -/
  asid : Option Nat
  va : Nat
  use : OpUse
  payload : Bytes
  issued : Nat
  tunnel : Bool
  /-- terminated by an invalidation or an abort: its response is dropped (R247, R354) -/
  dead : Bool
  deriving DecidableEq, Repr

/-! ## Ticks -/

/-- Lock states of the tick generator. -/
inductive LockState where
  | free | acquiring | locked | holdover
  deriving DecidableEq, Repr

/-- The tick generator (R24 to R31, R473). Times are in ns. -/
structure TickGen where
  running : Bool
  t0 : Nat
  /-- the epoch of the grid; `none` until the source gives one -/
  epoch : Int
  lastEdge : Nat
  nextEdge : Nat
  /-- by how much TICK_COUNT advances at the next edge, and whether that edge closes a step -/
  advance : Nat
  stepping : Bool
  /-- phase error still to be slewed -/
  err : Int
  lock : LockState
  good : Nat
  /-- a grid of the selected source is known -/
  anchored : Bool
  /-- FREE was selected: re-anchor at the first edge (R31) -/
  reanchor : Bool
  /-- PTP: TICK_COUNT has been set to the grid index (R25) -/
  numbered : Bool
  lastPps : Option Nat
  tenMHz : Bool
  /-- PTP: the last Sync's receive time and, once known, its origin time; delay request times (R366) -/
  syncRx : Option Nat
  syncOrigin : Option Nat
  delayTx : Option Nat
  pathDelay : Nat
  lastSync : Nat
  /-- when the pending TICKCFG commit was written (R31) -/
  commitAt : Nat
  /-- the alarm has fired since TICK_ALARM was written (R41) -/
  alarmFired : Bool
  deriving DecidableEq, Repr

/-! ## Registers -/

/-- Commit groups (R412 to R414). -/
inductive Group where
  | tick
  | outgeom (stream : Nat)
  | cmatrix (stream : Nat)
  | pool (p : Nat)
  | part (p : Nat)
  deriving DecidableEq, Repr

/-- The register file: values by window offset; an unlisted register holds its Reset value. `committed` and `staged`
are the other two copies of the commit groups' registers. -/
structure RegSt where
  file : NMap Wide
  committed : NMap Wide
  staged : List (Group × NMap Wide)
  deriving DecidableEq, Repr

/-! ## Partitions -/

/-- A saved block (R345, R347): its partition, the record of the partition's own save area that holds it (none when a
RESTORE brought it), the block with its instructions in progress, whose abandoned loads are issued again at the restore, its
local store and its springs. -/
structure SavedBlock where
  part : Nat
  record : Option Nat
  block : Block
  ls : Bytes
  springs : List (Nat × Spring)
  deriving DecidableEq, Repr

/-- What a PREEMPT saved (R341, R342, R347): the first 64 bytes of the header as written, the ring as it was, its commands
and blocks, and what names the bytes of each brick record. -/
structure Save where
  header : Bytes
  ring : Ring
  cmds : List Cmd
  blocks : List SavedBlock
  seeds : List Nat
  deriving DecidableEq, Repr

/-- A running PREEMPT (R347): who saves, and the saved ring. -/
structure Preempting where
  ring : Nat
  serial : Wide
  target : Nat
  deriving DecidableEq, Repr

/-- Partition state beyond the registers. -/
structure ParSt where
  saves : List Save
  saved : List SavedBlock
  preempting : List Preempting
  deriving DecidableEq, Repr

/-! ## Engines -/

/-- A maintenance operation (R210 to R213). -/
structure MaintOp where
  ring : Nat
  serial : Wide
  deriving DecidableEq, Repr

/-- The engine's part of a stream-state object (R266, R267), by the place of the object in the global physical map: byte 4 of its
header, the input bytes consumed and the number of output bytes written over the stream; for compression its jobs (input,
level, flush and final), the output produced and not yet written, and whether the trailer is in it; and whether the stream may
be resumed or has ended. -/
structure StreamSt where
  place : Nat
  kind : Nat
  input : Bytes
  produced : Nat
  jobs : List (Bytes × Nat × Bool × Bool)
  backlog : Bytes
  closed : Bool
  resumable : Bool
  ended : Bool
  deriving DecidableEq, Repr

/-- Maintenance engines and the stream engine. -/
structure EngSt where
  /-- operations of each die, oldest first; the first one is the one that runs -/
  maintQueue : NMap (List MaintOp)
  streams : List StreamSt
  deriving DecidableEq, Repr

/-! ## Composition -/

/-- A pose sample (R177, R178): its PTP time, its unit quaternion and its position, in FP32. -/
structure Pose where
  time : Wide
  orient : List Word
  pos : List Word
  deriving DecidableEq, Repr

/-- A pose slot: its content, when that was accepted, and what it held before that I/O clock (R179). -/
structure PoseSlot where
  pose : Pose
  acceptedAt : Nat
  before : Option Pose
  deriving DecidableEq, Repr

/-- The engine's copy of a layer: the layer descriptor and both image descriptors (R181, R182). -/
structure Layer where
  desc : Bytes
  color : Bytes
  depth : Bytes
  deriving DecidableEq, Repr

/-- A slice between its latch and the outcome at its due edge (R175, R176, R190): its number among the stream's slices and its
position, due TICK_COUNT, the latched pose, whether it is stale, whether it is composed from the fallback layer, its buffer,
an access error, once its rows are composed the writes left, by address, when its last byte was performed, and the time and
count of its due edge once that has come. -/
structure SliceRun where
  no : Nat
  index : Nat
  due : Wide
  pose : Option Pose
  stale : Bool
  fallback : Bool
  buffer : Nat
  error : Option Half
  left : Option (List (Nat × Bytes))
  composed : Option Nat
  edge : Option (Nat × Wide)
  /-- rows written, by number: luma and chroma -/
  luma : NMap Bytes
  chroma : NMap Bytes
  deriving DecidableEq, Repr

/-- A slice that is handed off (R191): its serial, and what is left to write of its record. -/
structure HandOff where
  serial : Wide
  left : List (Nat × Bytes)
  deriving DecidableEq, Repr

/-- An output stream beyond its registers. -/
structure CmpStream where
  /-- layers in force, and published layers that await a slice-0 latch, oldest first: index, layer and time of publication -/
  layers : NMap Layer
  published : List (Nat × Option Layer × Nat)
  lastGood : NMap Nat
  /-- number of the frame, TICK_COUNT at its boundary, and the next slice position to latch -/
  frame : Nat
  boundary : Wide
  next : Nat
  /-- the count whose reaching or passing was the frame's boundary (R33), and how many slices the stream has had -/
  origin : Option Nat
  no : Nat
  cur : Option SliceRun
  /-- slices whose due edges have come and whose outcomes are not decided yet, and hand-offs not finished, oldest first -/
  due : List SliceRun
  handoffs : List HandOff
  /-- the signature table as read at the slice-0 latch: `none` until it is read -/
  sigs : Option (List Bytes)
  luma : NMap Bytes
  chroma : NMap Bytes
  /-- the last frame of the fallback period -/
  fallbackThrough : Option Nat
  /-- times of the pending commits -/
  outgeomAt : Nat
  cmatrixAt : Nat
  /-- parts of remote data received: global address and bytes -/
  remote : List (Nat × Bytes)
  deriving DecidableEq, Repr

/-- Pose slots and output streams. -/
structure CmpSt where
  poses : NMap PoseSlot
  streams : NMap CmpStream
  deriving DecidableEq, Repr

/-- The sequence engine's tables. -/
structure SeqSt where
  ents : NMap SeqEnt
  pools : NMap Pool
  deriving DecidableEq, Repr

/-! ## The fabric -/

/-- Gotik's answers on Ethernet-mode ports (R361): this device's address and MAC address to the one that asked for them,
and echo replies. -/
inductive NetAnswer where
  | arp (ip : Word) (mac : Nat) (toIp : Word) (toMac : BitVec 48)
  | neighbour (ip : BitVec 128) (mac : Nat) (toIp : BitVec 128) (toMac : BitVec 48)
  | echo4 (ip toIp : Word) (ident seq : Half) (data : Bytes)
  | echo6 (ip toIp : BitVec 128) (ident seq : Half) (data : Bytes)
  deriving DecidableEq, Repr

/-- What a port puts on the wire, or a tunnel sends. -/
inductive Wire where
  | mortar (f : MortarFrame)
  | link (nak : Bool) (lastSeq : Nat) (credits : List Nat)
  | net (a : NetAnswer)
  | tunnel (neighbour : Nat) (f : MortarFrame)
  /-- a PTP message (R366) -/
  | ptp (m : PtpMsg)
  deriving DecidableEq, Repr

/-- A port (R357 to R372). -/
structure Port where
  powered : Bool
  modeActive : Nat
  linkUp : Bool
  pcsLock : Bool
  signal : Bool
  /-- next link_seq to send, and frames sent and not acknowledged, oldest first (R371) -/
  txSeq : Nat
  unacked : List MortarFrame
  /-- frames that wait for credits or buffer room, oldest first (R370) -/
  queued : List MortarFrame
  /-- credits consumed and returned, cumulative, for each virtual lane (R370) -/
  used : List Nat
  returned : List Nat
  /-- next expected link_seq, and credits freed at this receiver (R370, R371) -/
  rxSeq : Nat
  freed : List Nat
  framesIn : Nat
  lastLink : Nat
  lastProgress : Nat
  replays : Nat
  /-- when the port last sent a Sync (R366) -/
  lastSync : Nat
  /-- priorities paused by received PFC frames, with the time each pause ends (R360) -/
  paused : List (Nat × Nat)
  /-- what the port has sent, latest first -/
  sent : List Wire
  /-- UDP payloads and frames delivered to Gotik, latest first (R360) -/
  delivered : List Bytes
  deriving DecidableEq, Repr

/-- Answers to a queue pair's peer (R362 to R365). -/
inductive RoceResp where
  | ack
  | nakAccess
  | nakInvalid
  /-- RNR NAK with a timer of 10 µs -/
  | rnr
  | data (bytes : Bytes)
  | cnp
  deriving DecidableEq, Repr

/-- How a forwarded RoCEv2 request is answered: with an acknowledgement, with a receive completion that carries its
immediate value, with the bytes read, or with the old value of an atomic. -/
inductive RoceEnd where
  | ack | imm | bytes | old
  deriving DecidableEq, Repr

/-- A RoCEv2 request that Mortar operations carry on to another device (R363): what it is, its pieces, and those
answered. -/
structure RoceFwd where
  req : RoceReq
  ends : RoceEnd
  pieces : Nat
  got : List (Nat × Bytes)
  deriving DecidableEq, Repr

/-- A queue pair beyond its registers (R364, R365): receive count, send rate in bits per second, the time of its last CNP
sent, since when no CNP has come, and the request that waits for another device. -/
structure QpSt where
  count : Wide
  rate : Nat
  cnpAt : Option Nat
  quietAt : Nat
  fwd : Option RoceFwd
  deriving DecidableEq, Repr

/-- The fields of a HELLO (R380). -/
structure Hello where
  eligible : Bool
  role : Nat
  side : Nat
  outHop : Nat
  addr : Nat
  manager : Nat
  epoch : Nat
  list : Nat
  seq : Nat
  hops : Nat
  digest : Bytes
  best : Bytes
  deriving DecidableEq, Repr

/-- A neighbour: its last HELLO, when that came, and when its manager_seq last advanced (R381). -/
structure Neighbour where
  hello : Hello
  heard : Nat
  seqAt : Nat
  deriving DecidableEq, Repr

/-- A link of a device to a neighbour, as a REPORT lists it: the device's hop code, the cost and the neighbour's digest. -/
structure Adjacency where
  hop : Nat
  cost : Nat
  digest : Bytes
  deriving DecidableEq, Repr

/-- A device known from its REPORTs (R379, R383): digest, address, adjacencies by fragment, and the hop from which its
REPORT came. -/
structure Member where
  digest : Bytes
  addr : Nat
  links : NMap (List Adjacency)
  via : Nat
  /-- left without an address for want of addresses, and counted (R384) -/
  left : Bool
  deriving DecidableEq, Repr

/-- A newer membership list being fetched: its version, the hop it comes from, and its chunks. -/
structure ListFetch where
  version : Nat
  hop : Nat
  chunks : List (Nat × Bytes)
  deriving DecidableEq, Repr

/-- The domain as this device sees it (chapter 17). -/
structure DomSt where
  /-- by hop code -/
  neighbours : NMap Neighbour
  /-- since when the device has been FORMING, if it is (R393) -/
  formingAt : Nat
  /-- highest manager_seq seen, when it last advanced, and when this device, as manager or coordinator, last raised it -/
  seq : Nat
  seqAt : Nat
  seqTick : Nat
  /-- since when this device has been its own best candidate -/
  bestSince : Option Nat
  /-- candidates dropped from the ranking because their manager_seq stopped, with that value -/
  dropped : List (Bytes × Nat)
  /-- HELLOs sent: by hop, when and what -/
  said : NMap (Nat × Bytes)
  members : List Member
  /-- digest of the tiebreaker of the last complete formation, when no list is in force (R391) -/
  tie : Bytes
  /-- a newer membership list being fetched -/
  fetching : Option ListFetch
  /-- routing entries as the manager last wrote them: by 4096 · device + destination (R387) -/
  routes : NMap Nat
  /-- entries of the second pass: device, destination and value -/
  second : List (Nat × Nat × Nat)
  deriving DecidableEq, Repr

/-- Outstanding operations and held requests. -/
structure FabSt where
  dom : DomSt
  /-- since when a routing entry has been pending, and the operations issued under the old entry, by destination (R389) -/
  pendAt : NMap Nat
  olds : NMap (List (Nat × Nat))
  ports : NMap Port
  qps : NMap QpSt
  /-- answers sent on queue pairs, latest first -/
  roceOut : List (Nat × RoceResp)
  /-- datagrams sent through tunnels, latest first (R375) -/
  tunnelled : List Wire
  ops : List FabOp
  /-- next generation of each slot -/
  slotGen : NMap Nat
  /-- remote accesses held on a pending route: the access and since when (R389) -/
  held : List (RemoteAccess × Nat)
  /-- inbound requests held, oldest first, with the time of arrival: at the DRAM wrapper in SLEEP (R424), or while the device
  is FORMING (R393) -/
  inbound : List (Instr × Nat)
  deriving DecidableEq, Repr

/-! ## Boot -/

/-- Boot (R400 to R407). -/
structure BootSt where
  /-- 0 to 4 the phase in progress, 5 FULL, 6 FAULT (R402) -/
  phase : Nat
  halted : Bool
  /-- the boot ROM has started Gotik, from this slot (R437), and the digest of its image -/
  slot : Nat
  imageDigest : Bytes
  securityVersion : Nat
  optionsDefault : Bool
  /-- the isolation wrapper of the DRAM interfaces is open -/
  dramOpen : Bool
  anchor : Nat
  /-- time of the last watchdog kick -/
  kick : Nat
  causeSource : Nat
  causeClass : Nat
  deriving DecidableEq, Repr

/-! ## Power -/

/-- Power states (R415). -/
inductive PState where
  | run | idle | sleep | deep | off
  deriving DecidableEq, Repr

/-- A wall's DVFS state: the point it runs at, the point that power capping sets, and whether a change is in progress
(R429 to R431). -/
structure WallSt where
  current : Nat
  cap : Nat
  changing : Bool
  /-- the change in progress comes from a move of capping, which makes no further move until it has ended (R431) -/
  capping : Bool
  deriving DecidableEq, Repr

/-- What retention SRAM holds through DEEP (R401, R439). -/
structure Retained where
  digest : Bytes
  slot : Nat
  securityVersion : Nat
  optionsDefault : Bool
  /-- the option set: window offset, access width in bytes and value of each write -/
  options : List (Nat × Nat × Wide)
  /-- registers of the measurement log, and log_overflow -/
  meas : NMap Wide
  overflow : Bool
  deriving DecidableEq, Repr

/-- Power (chapter 19). -/
structure PwrSt where
  state : PState
  /-- an entry in progress: its target and W, when the new state takes hold (R419) -/
  entering : Option (PState × Nat)
  /-- an exit from SLEEP or DEEP in progress, since the wake event (R401, R425) -/
  waking : Option Nat
  /-- when the present state took hold -/
  since : Nat
  /-- switched domains that are powered and usable, and those that are powered, with the time they become usable -/
  on : Nat
  powering : NMap Nat
  walls : NMap WallSt
  /-- every wall is forced to P7 (R432) -/
  forced : Bool
  capExceeded : Bool
  avgW : Nat
  nowW : Nat
  /-- time of the last move of capping (R431) -/
  lastMove : Nat
  retained : Option Retained
  deriving DecidableEq, Repr

/-- A report on the console (R400, R465), whose text the spec does not give: boot has entered a phase, the device has halted in
one, or a unit has failed in one (kind and number as in RST_FAULT). -/
inductive ConsoleReport where
  | progress (phase : Nat)
  | halted (phase : Nat)
  | fault (phase kind unit : Nat)
  deriving DecidableEq, Repr

/-- Pins and the power input (chapter 22). -/
structure PinSt where
  /-- the 48 V input in mV, and whether it has been good long enough (R460) -/
  vinMv : Nat
  powerGood : Bool
  standby : Bool
  /-- low level held on WAKE_N -/
  wakeLow : Bool
  /-- ALERT_N pulled low by another driver (R464) -/
  alertLow : Bool
  /-- signal detect of each port -/
  detect : Nat
  /-- THERM_TRIP_N is latched low (R470) -/
  tripped : Bool
  /-- phase 2 is held until the input is good again (R403) -/
  holdPhase2 : Bool
  /-- TAP controller state of IEEE 1149.1, 0 being Test-Logic-Reset, and the TDO level, if it is driven (R466) -/
  tap : Nat
  tdo : Option Bool
  /-- reports written to UART_TX, latest first, and bytes taken from UART_RX, latest first (R465) -/
  console : List ConsoleReport
  uartIn : Bytes
  deriving DecidableEq, Repr

/-! ## Security -/

/-- The security block (R440). -/
structure SecSt where
  /-- snapshot of the report in progress: its bytes before the signature -/
  attesting : Option Bytes
  /-- how the last write of a register through the window was answered: its source, window offset and status (R3) -/
  answer : Option (RegSource × Nat × Half)
  deriving DecidableEq, Repr

/-! ## Recorder and counters -/

/-- The recorder's accumulator (R445), its hold and its windows (R448, R450), and the port bandwidth windows (R455). -/
structure RecSt where
  /-- when the last device reset took effect, since which the fixed counters count (R454) -/
  began : Nat
  /-- pending counts, by 32 · histogram + bin -/
  bins : NMap Nat
  /-- pending minimum and maximum of each pair -/
  ext : NMap (Int × Int)
  /-- time of the write that set hold -/
  holdAt : Nat
  windowAt : Nat
  /-- events of each windowed histogram in the present period -/
  window : NMap Nat
  lastRound : Nat
  lastSample : Nat
  /-- bytes of each port in its present bandwidth window -/
  tx : NMap Nat
  rx : NMap Nat
  /-- when the present window of each port began -/
  bwAt : NMap Nat
  /-- ns for which the lake clock has run since device reset (R454) -/
  lakeNs : Nat
  /-- commands retired and tick edges since device reset (R454) -/
  retired : Nat
  edges : Nat
  lastMirror : NMap Nat
  deriving DecidableEq, Repr

/-! ## Fuses and flash -/

/-- The option block: its signed bytes, signature block included, and the register writes that its body lists as window
offset, width in bytes and value. The body's format is not given by the spec. -/
structure OptionBlock where
  signed : Bytes
  writes : List (Nat × Nat × Wide)
  deriving DecidableEq, Repr

/-- Fuses and flash, which survive every event (R411, R434, R435, R437, R443). -/
structure Nv where
  identityCert : Bytes
  /-- the fuse words: digest of the certificate, key hashes, rollback floor; a blank owner hash is none -/
  identityDigest : Bytes
  vendorKeyHash : Bytes
  /-- the modulus of the vendor's key, which the boot ROM must have beside its hash; the spec gives no value -/
  vendorModulus : Nat
  ownerKeyHash : Option Bytes
  rollback : Nat
  ownerCert : Bytes
  cmdSeq : Wide
  slot0 : Bytes
  slot1 : Bytes
  options : OptionBlock
  libraries : List Bytes
  /-- the adopted membership list, with its signature block (R390, R391) -/
  list : Bytes
  /-- port addresses, from the identity fuses -/
  macs : List Nat
  deriving DecidableEq, Repr

/-! ## The device -/

/-- The device: everything a command can change but fuses, flash and the queue. -/
structure Dev where
  /-- physical time in ns -/
  now : Nat
  /-- the model's own: index of the next free value -/
  freeCtr : Nat
  boot : BootSt
  pwr : PwrSt
  pins : PinSt
  tick : TickGen
  regs : RegSt
  mem : MemSt
  bricks : NMap Brick
  sub : SubSt
  xlt : XltSt
  par : ParSt
  eng : EngSt
  cmp : CmpSt
  seq : SeqSt
  fab : FabSt
  sec : SecSt
  meter : RecSt
  deriving DecidableEq, Repr

/-- The machine: the device, its fuses and flash, and the commands that wait, first in first out. -/
structure State where
  dev : Dev
  nv : Nv
  pending : List Instr
  deriving DecidableEq, Repr

/-- Why a step stops. -/
inductive Fault where
  /-- Raised by OVERVOLTAGE when the 48 V input goes beyond its absolute maximum (R460), where the spec gives no
  behaviour. Safe: the model stops where the part may be destroyed. -/
  | absoluteMaximum
  deriving DecidableEq, Repr

/-- Why the model has no meaning for a command. -/
inductive Refusal where
  /-- Raised by the dispatch for a command without a meaning. Safe: nothing can be proved of it. -/
  | notModelled (mnemonic : String)
  deriving DecidableEq, Repr

/-! ## The state after reset (R401, R404, R411, R473) -/

/-- An empty store whose unlisted cells read zero. -/
def Store.zero : Store := ⟨none, []⟩

/-- The canonical form of memory: DRAM and every listed way are canonical, ways rise strictly, and none that reads zero throughout is
listed. -/
def MemSt.wf (m : MemSt) : Bool :=
  m.dram.wf && NMap.rising m.window && m.window.all (fun e => e.2.wf && decide (e.2 ≠ Store.zero))

/-- An empty store of undefined content. -/
def Store.undefined (gen : Nat) : Store := ⟨some gen, []⟩

/-- A brick that is LS0 and empty, its springs idle. Its local store is undefined until its split changes (R55). -/
def Brick.fresh : Brick :=
  ⟨0, none, [], [], [], [], Store.undefined 0, List.replicate 4 ⟨List.replicate 64 0, none, false, 0⟩, []⟩

/-- The tick generator from T0 on: the FREE grid at the Reset values of TICKCFG (R473). -/
def TickGen.start (t : Nat) : TickGen :=
  { running := true, t0 := t, epoch := t, lastEdge := t, nextEdge := t + 1000000, advance := 1, stepping := false, err := 0
    lock := .free, good := 0, anchored := false, reanchor := false, numbered := false, lastPps := none, tenMHz := true
    syncRx := none, syncOrigin := none, delayTx := none, pathDelay := 0, lastSync := t, commitAt := t
    alarmFired := false }

/-- Boot at its anchor, in phase 0. -/
def BootSt.start (t cls source : Nat) : BootSt :=
  { phase := 0, halted := false, slot := 0, imageDigest := [], securityVersion := 0, optionsDefault := false
    dramOpen := false, anchor := t, kick := t, causeSource := source, causeClass := cls }

/-- The switched domains after reset: all but the port groups, which phase 3 powers (R359, R400). -/
def domainsAtReset : Nat := 0xFF00FFFFFFFF

/-- Power in RUN: every wall at P4 (R404). -/
def PwrSt.start (t : Nat) : PwrSt :=
  { state := .run, entering := none, waking := none, since := t, on := domainsAtReset, powering := [], walls := [], forced := false
    capExceeded := false, avgW := 0, nowW := 0, lastMove := t, retained := none }

/-- The recorder and counters beyond registers after a reset: pending entries are lost, and windows begin anew (R446, R448,
R454, R455). -/
def RecSt.start (t : Nat) : RecSt :=
  { began := t, bins := [], ext := [], holdAt := t, windowAt := t, window := [], lastRound := t, lastSample := t, tx := [], rx := []
    bwAt := (List.range 8).map (fun p => (p, t)), lakeNs := 0, retired := 0, edges := 0, lastMirror := [] }

/-- The domain before any HELLO. -/
def DomSt.start : DomSt :=
  { neighbours := [], formingAt := 0, seq := 0, seqAt := 0, seqTick := 0, bestSince := none, dropped := [], said := [], members := []
    tie := [], fetching := none, routes := [], second := [] }

/-- The fabric side with every port down and nothing outstanding. -/
def FabSt.start : FabSt :=
  { dom := DomSt.start, pendAt := [], olds := [], ports := [], qps := [], roceOut := [], tunnelled := [], ops := []
    slotGen := [], held := [], inbound := [] }

/-- Memory: DRAM undefined, the window zero, tags still to be invalidated (R205, R209, R411). -/
def MemSt.start (dram : Store) : MemSt :=
  { dram := dram, window := [], lake := [], side := [], tagInit := true, missed := [] }

/-- Rings, commands and handles: none. -/
def SubSt.start : SubSt :=
  { rings := [], cmds := [], entries := [], freed := [], fresh := 1, slots := [], parked := [], exports := []
    heldSignals := [], heldEntries := [], regRefs := [] }

/-- Every brick empty, with a local store of undefined content. -/
def bricksAtReset (gen : Nat) : NMap Brick := (List.range 96).map (fun n => (n, { Brick.fresh with ls := Store.undefined (gen + n) }))

/-- The pins of a powered device: 48 V, nothing asserted. -/
def PinSt.start : PinSt :=
  { vinMv := 48000, powerGood := true, standby := true, wakeLow := false, alertLow := false, detect := 0, tripped := false
    holdPhase2 := false, tap := 0, tdo := none, console := [], uartIn := [] }

/-- Fuses and flash of a device to which nothing has been written. -/
def Nv.blank : Nv :=
  { identityCert := [], identityDigest := List.replicate 32 0, vendorKeyHash := List.replicate 32 0
    vendorModulus := Config.publicKey (List.replicate 32 0), ownerKeyHash := none, rollback := 0, ownerCert := [], cmdSeq := 0
    slot0 := [], slot1 := [], options := ⟨[], []⟩, libraries := [], list := [], macs := List.replicate 8 0 }

/-- The device right after the cold reset of a power-on. -/
def Dev.reset : Dev :=
  { now := 0, freeCtr := 98, boot := BootSt.start 0 0 0, pwr := PwrSt.start 0, pins := PinSt.start, tick := TickGen.start 0
    regs := ⟨[], [], []⟩, mem := MemSt.start (Store.undefined 1), bricks := bricksAtReset 2, sub := SubSt.start
    xlt := ⟨[], [], [], none⟩, par := ⟨[], [], []⟩, eng := ⟨[], []⟩, cmp := ⟨[], []⟩, seq := ⟨[], []⟩, fab := FabSt.start
    sec := ⟨none, none⟩, meter := RecSt.start 0 }

/-- The machine right after reset: every register at its Reset value, memory with nothing listed, no command waiting. -/
def State.reset : State := { dev := Dev.reset, nv := Nv.blank, pending := [] }

end Sys2Proof.Machine
end

