-- ==== Sys2Proof/Machine/Fields.lean ====
section
/-! DEFINITION. Status codes (R332), the parts of the device as setters, the fields of the register file and of the
committed sets (R8, R412), counters, and free values. -/

namespace Sys2Proof.Machine

/-! ## Status codes (R332) -/

def Sts.ok : Half := 0x0000
def Sts.staleHandle : Half := 0x0101
def Sts.badDescriptor : Half := 0x0102
def Sts.badObjectType : Half := 0x0103
def Sts.noSlot : Half := 0x0104
def Sts.waitTimeout : Half := 0x0105
def Sts.translationFault : Half := 0x0201
def Sts.permissionFault : Half := 0x0202
def Sts.invalidated : Half := 0x0203
def Sts.aborted : Half := 0x0301
def Sts.tickOverrun : Half := 0x0401
def Sts.budgetRejected : Half := 0x0402
def Sts.heapExhausted : Half := 0x0501
def Sts.divergentBarrier : Half := 0x0601
def Sts.watchdog : Half := 0x0602
def Sts.kernelRejected : Half := 0x0603
def Sts.launchUnfit : Half := 0x0604
def Sts.misalignedAtomic : Half := 0x0605
def Sts.matrixPartialCourse : Half := 0x0606
def Sts.outputFull : Half := 0x0701
def Sts.expansionLimit : Half := 0x0702
def Sts.checkMismatch : Half := 0x0703
def Sts.formatError : Half := 0x0704
def Sts.deferredMemory : Half := 0x0801
def Sts.suspendedMemory : Half := 0x0802
def Sts.lengthLimit : Half := 0x0803
def Sts.seqLost : Half := 0x0804
def Sts.partitioned : Half := 0x0901
def Sts.staleEpoch : Half := 0x0902
def Sts.isolated : Half := 0x0A01
def Sts.signatureMismatch : Half := 0x0B01
def Sts.authFailed : Half := 0x0C01

/-! ## Parts of the device -/

/-- The device with another lake. -/
def Dev.withLake (d : Dev) (x : NMap LakeLine) : Dev := { d with mem := { d.mem with lake := x } }
/-- The device with other DRAM bytes. -/
def Dev.withDram (d : Dev) (x : Store) : Dev := { d with mem := { d.mem with dram := x } }
/-- The device with other window bytes. -/
def Dev.withWindow (d : Dev) (x : NMap Store) : Dev := { d with mem := { d.mem with window := x } }
/-- The device with other lake side buffers. -/
def Dev.withSide (d : Dev) (x : NMap (List SideLine)) : Dev := { d with mem := { d.mem with side := x } }
/-- The device with other rings. -/
def Dev.withRings (d : Dev) (x : NMap Ring) : Dev := { d with sub := { d.sub with rings := x } }
/-- The device with other commands in flight. -/
def Dev.withCmds (d : Dev) (x : List Cmd) : Dev := { d with sub := { d.sub with cmds := x } }
/-- The device with another handle table. -/
def Dev.withEntries (d : Dev) (x : NMap Entry) : Dev := { d with sub := { d.sub with entries := x } }
/-- The device with other watch slots and parked waits. -/
def Dev.withWatch (d : Dev) (s p : List (Nat × Wide)) : Dev := { d with sub := { d.sub with slots := s, parked := p } }

/-- The device with other outstanding fabric operations. -/
def Dev.withOps (d : Dev) (x : List FabOp) : Dev := { d with fab := { d.fab with ops := x } }
/-- The device with other address-space fault states. -/
def Dev.withSpaces (d : Dev) (x : NMap AsSt) : Dev := { d with xlt := { d.xlt with spaces := x } }

/-! ## Registers -/

/-- The value of a register of the window by its offset and its Reset value. -/
def RegSt.get (r : RegSt) (off reset : Nat) : Wide := NMap.getD r.file off (BitVec.ofNat 64 reset)

/-- The committed value of a register of a commit group. -/
def RegSt.cget (r : RegSt) (off reset : Nat) : Wide := NMap.getD r.committed off (BitVec.ofNat 64 reset)

/-- Stores a register value; the Reset value is not listed, so that equal files are equal data. -/
def RegSt.put (r : RegSt) (off reset : Nat) (v : Wide) : RegSt :=
  { r with file := if v = BitVec.ofNat 64 reset then NMap.erase r.file off else NMap.set r.file off v }

/-- A field of element `i` of a register, as a 64-bit value. -/
def Dev.fldW (d : Dev) (f : Fld) (i : Nat) : Wide := bits (d.regs.get (f.at i) f.regReset) f.hi f.lo

/-- A field of element `i` of a register, as a number. -/
def Dev.fld (d : Dev) (f : Fld) (i : Nat) : Nat := bitsN (d.regs.get (f.at i) f.regReset) f.hi f.lo

/-- A committed field (R412). -/
def Dev.cfld (d : Dev) (f : Fld) (i : Nat) : Nat := bitsN (d.regs.cget (f.at i) f.regReset) f.hi f.lo

/-- A committed field, as a 64-bit value. -/
def Dev.cfldW (d : Dev) (f : Fld) (i : Nat) : Wide := bits (d.regs.cget (f.at i) f.regReset) f.hi f.lo

/-- Sets a field of element `i`. -/
def Dev.setFld (d : Dev) (f : Fld) (i : Nat) (v : Wide) : Dev :=
  { d with regs := d.regs.put (f.at i) f.regReset (setBits (d.regs.get (f.at i) f.regReset) f.hi f.lo v) }

/-- Adds `n` to a counter field, which stops at all ones. -/
def Dev.bump (d : Dev) (f : Fld) (i n : Nat) : Dev :=
  d.setFld f i (BitVec.ofNat 64 (satAdd (f.hi - f.lo + 1) (d.fld f i) n))

/-- TICK_COUNT. -/
def Dev.tickCount (d : Dev) : Wide := d.fldW Fld.TICK_COUNT_count 0

/-- The device's own fabric address (R377). -/
def Dev.addr (d : Dev) : Nat := d.fld Fld.FAB_ADDR_addr 0

/-! ## Free values -/

/-- The index of a fresh free value, and the device after taking it. -/
def Dev.fresh (d : Dev) : Nat × Dev := (d.freeCtr, { d with freeCtr := d.freeCtr + 1 })

end Sys2Proof.Machine
end

