-- ==== Sys2Proof/Machine/Measure.lean ====
section
/-! DEFINITION. What the device records of itself: histogram entries into the recorder's accumulator (R445, R447), counts
of performance events under the filters of a counter (R452, R453), the passing of time, and the register fields that an
event of the ladder clears (R10, R11). -/

namespace Sys2Proof.Machine

/-- The device with another recorder state. -/
def Dev.withMeter (d : Dev) (x : RecSt) : Dev := { d with meter := x }

/-- The bin of a histogram entry (R447). -/
def binOf (v : Nat) : Nat := if v = 0 then 0 else min 31 (Nat.log2 v + 1)

/-- Makes one histogram entry: the pending count of its bin rises and stops at all ones (R445, R447). -/
def Dev.hist (d : Dev) (h v : Nat) : Dev :=
  let k := 32 * h + binOf v
  d.withMeter { d.meter with bins := NMap.set d.meter.bins k (satAdd 32 (NMap.getD d.meter.bins k 0) 1) }

/-- Adds events of a windowed histogram to its present period (R448). -/
def Dev.windowEvent (d : Dev) (h n : Nat) : Dev :=
  d.withMeter { d.meter with window := NMap.set d.meter.window h (NMap.getD d.meter.window h 0 + n) }

/-- Listed events (R453) with the number of units of their filter. -/
def pmcEvents : List (Nat × Nat) :=
  [(0x0001, 96), (0x0002, 96), (0x0003, 96), (0x0004, 96), (0x0005, 96), (0x0010, 96), (0x0011, 96), (0x0012, 16),
    (0x0013, 16), (0x0020, 6), (0x0021, 6), (0x0022, 0), (0x0030, 0), (0x0031, 0), (0x0040, 0), (0x0041, 0), (0x0042, 0),
    (0x0050, 2), (0x0051, 12), (0x0060, 64), (0x0061, 64), (0x0070, 0), (0x0071, 0), (0x0080, 8), (0x0090, 8), (0x0091, 8),
    (0x00A0, 0)]

/-- What an event is attributed to (R453). -/
structure Attr where
  part : Option Nat
  context : Option Nat
  unit : Option Nat
  deriving DecidableEq, Repr

/-- An event without a ring. -/
def Attr.free (unit : Option Nat) : Attr := ⟨Option.none, Option.none, unit⟩

/-- Whether a counter with this PMC_SEL value counts the event (R453). -/
def selMatches (sel : Wide) (event : Nat) (a : Attr) : Bool :=
  bitsN sel 15 0 = event
    && (match a.part with
        | some p => bit sel (16 + p)
        | Option.none => bit sel 24)
    && (!bit sel 25 || a.context = some (bitsN sel 52 37))
    && (!bit sel 26 || a.unit = some (bitsN sel 33 27))

/-- Whether the counters count (R452). -/
def Dev.counting (d : Dev) : Bool := d.fld Fld.PMC_CTRL_enable 0 = 1 && d.fld Fld.PMC_CTRL_freeze 0 = 0

/-- Counts `n` occurrences of an event in every counter that selects it while counting is on (R452, R453). -/
def Dev.count (d : Dev) (event n : Nat) (a : Attr) : Dev :=
  if d.counting then
    let f := Fld.PMC_SEL_event
    (d.regs.file.filter (fun e => f.off ≤ e.1 && e.1 < f.off + 256 * f.stride && (e.1 - f.off) % f.stride = 0
      && selMatches e.2 event a)).foldl (fun d e => d.bump Fld.PMC_CNT_count ((e.1 - f.off) / f.stride) n) d
  else d

/-- Every side buffer of the lake and the ponds is lost, as at each reset and power state change (R208). -/
def Dev.loseSides (d : Dev) : Dev :=
  { d with mem := { d.mem with side := [] }, bricks := d.bricks.map (fun (e : Nat × Brick) => (e.1, { e.2 with side := [] })) }

/-- An event that IDLE does not outlast: the device is in RUN again, and nothing is lost (R417) but the side buffers (R208). -/
def Dev.leaveIdle (d : Dev) : Dev :=
  if d.pwr.state = .idle then { d.loseSides with pwr := { d.pwr with state := .run, since := d.now } } else d

/-! ## Events of the ladder -/

/-- The value of a register with every field that survives only shallower events than `depth` at its Reset value; depth
1 is a block reset, 6 a cold reset (R10, R11). -/
def RegDef.cleared (r : RegDef) (depth : Nat) (v : Wide) : Wide :=
  r.fields.foldl (fun v f => if f.kept.depth < depth then setBits v f.hi f.lo (BitVec.ofNat 64 f.reset) else v) v

/-- The register of an offset, if one begins there. -/
def regAt (off : Nat) : Option RegDef := (findReg off).map (·.1)

/-- Clears the fields of every register whose offset satisfies a test, in one copy of the registers. -/
def clearFile (depth : Nat) (p : Nat → Bool) (m : NMap Wide) : NMap Wide :=
  m.filterMap (fun e =>
    if p e.1 then match regAt e.1 with
      | some r =>
        let v := r.cleared depth e.2
        if v = BitVec.ofNat 64 r.reset then Option.none else some (e.1, v)
      | Option.none => Option.none
    else some e)

/-- An event of a depth clears fields of the register file and of the committed copies, and discards pending commits of
the groups whose fields it clears (R11, R414). -/
def RegSt.clear (r : RegSt) (depth : Nat) (p : Nat → Bool) : RegSt :=
  { file := clearFile depth p r.file, committed := clearFile depth p r.committed,
    staged := r.staged.filter (fun g => !(g.2.any (fun e => p e.1 && (match regAt e.1 with
      | some x => x.fields.any (fun f => f.kept.depth < depth)
      | Option.none => false)))) }

/-- Every register. -/
def everywhere (_ : Nat) : Bool := true

end Sys2Proof.Machine
end

