-- ==== Sys2Proof/Machine/Ops.lean ====
section
/-! DEFINITION. The named operations over memory: the local address map (R199), byte stores, the lake and its lines
(R202, R203, R256), reads and writes at the home slice, doorbells (R298), and commands in flight. -/

namespace Sys2Proof.Machine

/-! ## Byte stores -/

/-- What an unlisted cell reads as. -/
def Store.unlisted (m : Store) (a : Nat) : Byte :=
  match m.fill with
  | none => 0
  | some g => Config.freeByte g a

/-- Looks up a cell in a rising list. -/
def cellAt : List Host.Cell → Nat → Option Byte
  | [], _ => none
  | (k, v) :: t, a => if k = a then some v else if a < k then none else cellAt t a

/-- One byte of a store. -/
def Store.get (m : Store) (a : Nat) : Byte := (cellAt m.cells a).getD (m.unlisted a)

/-- Lists a cell at its place in a rising list. -/
def putCell (a : Nat) (v : Byte) : List Host.Cell → List Host.Cell
  | [] => [(a, v)]
  | (k, w) :: t => if a < k then (a, v) :: (k, w) :: t else if a = k then (a, v) :: t else (k, w) :: putCell a v t

/-- Unlists a cell. -/
def dropCell (a : Nat) : List Host.Cell → List Host.Cell
  | [] => []
  | (k, w) :: t => if a = k then t else if a < k then (k, w) :: t else (k, w) :: dropCell a t

/-- Writes one byte; where unlisted cells read zero, a zero is not listed. -/
def Store.set (m : Store) (a : Nat) (v : Byte) : Store :=
  { m with cells := if m.fill.isNone ∧ v = 0 then dropCell a m.cells else putCell a v m.cells }

/-- Reads `n` bytes. -/
def Store.read (m : Store) (a : Nat) : Nat → Bytes
  | 0 => []
  | n + 1 => m.get a :: m.read (a + 1) n

/-- Writes bytes in increasing address. -/
def Store.write (m : Store) (a : Nat) : Bytes → Store
  | [] => m
  | b :: bs => (m.set a b).write (a + 1) bs

/-! ## The local address map (R199) -/

/-- What a local offset names. -/
inductive Region where
  | dram (a : Nat)
  | window (o : Nat)
  | doorbell (ring o : Nat)
  | spring (o : Nat)
  | regs (o : Nat)
  | reserved
  deriving DecidableEq, Repr

/-- Bytes of DRAM: 144 GiB. -/
def dramSize : Nat := 0x2400000000

/-- The local map of R199. -/
def regionOf (a : Nat) : Region :=
  if a < dramSize then .dram a
  else if 0xFE00000000 ≤ a ∧ a < 0xFE08000000 then .window (a - 0xFE00000000)
  else if 0xFE40000000 ≤ a ∧ a < 0xFE44000000 then .doorbell ((a - 0xFE40000000) / 65536) (a % 65536)
  else if 0xFE80000000 ≤ a ∧ a < 0xFE80010000 then .spring (a - 0xFE80000000)
  else if 0xFFFC000000 ≤ a ∧ a < 0x10000000000 then .regs (a - 0xFFFC000000)
  else .reserved

/-- Pseudo-channel group of a DRAM offset (R201). -/
def groupOf (a : Nat) : Nat := a / 0x180000000

/-- Home pseudo-channel of a DRAM offset (R201). -/
def channelOf (a : Nat) : Nat := 8 * groupOf a + ((a / 2048 % 8) ^^^ (a / 256 % 8))

/-- Home die of a DRAM offset (R201). -/
def dieOf (a : Nat) : Nat := if groupOf a < 12 then 0 else 1

/-- Home lake slice of a DRAM offset (R201). -/
def sliceOf (a : Nat) : Nat := 8 * dieOf a + ((a / 256 % 8) ^^^ (a / 131072 % 8))

/-- The partition that owns a pseudo-channel group: the enabled one whose committed group_mask has it (R334). -/
def Dev.groupOwner (d : Dev) (g : Nat) : Option Nat :=
  (List.range 8).find? (fun p =>
    d.cfld Fld.PAR_P_CTRL_enable p = 1 && (d.cfld Fld.PAR_P_GROUPS_group_mask p).testBit g)

/-- Ways in memory mode (R204). -/
def Dev.memWays (d : Dev) : Nat := d.fld Fld.MEM_LAKE_MEM_WAYS_way_mask 0

/-- Who asks for memory: the partition of the ring it acts for and the command's context, if there is one (R203, R453), and
the compute die on which it stands; none is the I/O die (R15, R16). -/
structure Asker where
  part : Option Nat
  ctx : Option Nat
  die : Option Nat
  deriving DecidableEq, Repr

/-- Traffic of the I/O die without a ring. -/
def Asker.none : Asker := ⟨Option.none, Option.none, Option.none⟩

/-- An engine of the I/O die that acts for a partition. -/
def Asker.io (part : Option Nat) : Asker := ⟨part, Option.none, Option.none⟩

/-- Attribution of an event that an asker causes (R453). -/
def Asker.attr (q : Asker) (unit : Option Nat) : Attr := ⟨q.part, q.ctx, unit⟩

/-- `n` bytes move between an asker and a die: those that cross the bridge count (R16, R17, R453). -/
def Dev.bridged (d : Dev) (q : Asker) (die n : Nat) : Dev :=
  match q.die with
  | some x => if x = die then d else d.count 0x0022 n (q.attr Option.none)
  | Option.none => d

/-- `n` bytes move at the stack of a DRAM offset (R15, R453). -/
def Dev.moved (d : Dev) (q : Asker) (write : Bool) (a n : Nat) : Dev :=
  d.count (if write then 0x0021 else 0x0020) n (q.attr (some (groupOf a / 4)))

/-- The ways in which a fill may allocate (R203): those of the requesting ring's partition; for traffic without a ring
those of the partition that owns the address's group, or else those that no partition holds. -/
def Dev.allocWays (d : Dev) (q : Asker) (a : Nat) : Nat :=
  let of := fun p => d.cfld Fld.PAR_P_MASKS_way_mask p
  let m := match q.part with
    | some p => of p
    | none => match d.groupOwner (groupOf a) with
      | some p => of p
      | none => 0xFFFF &&& (0xFFFF ^^^
          (List.range 8).foldl (fun acc p => if d.cfld Fld.PAR_P_CTRL_enable p = 1 then acc ||| of p else acc) 0)
  m &&& (0xFFFF ^^^ d.memWays)

/-- The lowest way of a mask. -/
def lowestWay (m : Nat) : Option Nat := (List.range 16).find? (fun w => m.testBit w)

/-! ## The compressible window (R249 to R257) -/

/-- First byte and size of the compressible window, when it is enabled (R249). -/
def Dev.cwin (d : Dev) : Option (Nat × Nat) :=
  let n := d.fld Fld.CPR_CWIN_size_gib 0
  if n = 0 then none else some (d.fld Fld.CPR_CWIN_base_gib 0 * 2 ^ 30, n * 2 ^ 30)

/-- Whether a DRAM offset lies in the compressible window. -/
def Dev.inCwin (d : Dev) (a : Nat) : Bool :=
  match d.cwin with
  | none => false
  | some (b, n) => b ≤ a && a < b + n

/-- Local offset of the side record of the block at `a` (R250). -/
def Dev.sideAddr (d : Dev) (a : Nat) : Nat :=
  let b := d.fld Fld.CPR_CWIN_base_gib 0 * 2 ^ 30
  d.fld Fld.CPR_SIDE_BASE_side_base 0 * 65536 + 4 * ((a - b) / 256)

/-- A line as the home slice holds it, not decoded: from the lake, or else from DRAM. -/
def Dev.lineRaw (d : Dev) (line : Nat) : Bytes :=
  match NMap.get? d.mem.lake line with
  | some l => l.data
  | none => d.mem.dram.read (64 * line) 64

/-- Writes part of a line that is not a compressible block, in the lake if it is held there, else in DRAM. -/
def Dev.lineStore (d : Dev) (line off : Nat) (bs : Bytes) : Dev :=
  match NMap.get? d.mem.lake line with
  | some l => d.withLake (NMap.set d.mem.lake line { l with data := splice l.data off bs, dirty := true })
  | none => d.withDram (d.mem.dram.write (64 * line + off) bs)

/-- The side record of the block that holds a DRAM offset (R250, R251). -/
def Dev.sideRec (d : Dev) (a : Nat) : Nat :=
  let s := d.sideAddr a
  leAt (d.lineRaw (s / 64)) (s % 64) 4

/-- Writes a side record. -/
def Dev.setSide (d : Dev) (a v : Nat) : Dev :=
  let s := d.sideAddr a
  d.lineStore (s / 64) (s % 64) (leBytes 4 v)

/-- The lines of the block at `b`. -/
def blockLines (b : Nat) : List Nat := (List.range 4).map (fun i => b / 64 + i)

/-- Whether the lake holds the four lines of the block at `b`. -/
def Dev.blockHeld (d : Dev) (b : Nat) : Bool := (blockLines b).all (fun l => (NMap.get? d.mem.lake l).isSome)

/-- The decoded 256 bytes of the block at `b`, and whether decoding met a bad record (R254, R256). Lines that the lake held
singly when the window came to cover them are newer than DRAM. -/
def Dev.blockData (d : Dev) (b : Nat) : Bytes × Bool :=
  if d.blockHeld b then ((blockLines b).flatMap (fun l => d.lineRaw l), false)
  else
    let r := decodeSlot (d.sideRec b) (d.mem.dram.read b 256)
    ((blockLines b).flatMap (fun l => match NMap.get? d.mem.lake l with
      | some x => x.data
      | none => slice r.1 (64 * l - b) 64), r.2)

/-- Stores a block in DRAM in a target mode: its record and side record (R255, R259). -/
def Dev.storeBlock (d : Dev) (q : Asker) (b mode : Nat) (x : Bytes) : Dev :=
  let n := d.fresh
  let prof := (d.fld Fld.CPR_LOSSY_profiles 0 / 4 ^ groupOf b) % 4
  let r := encodeSlot mode prof n.1 x
  let d1 := (if mode = 1 ∨ mode = 2 then n.2 else d).moved q true b r.1.length
  let d2 := d1.withDram (d1.mem.dram.write b r.1)
  let d3 := if mode = 0 ∧ (d.sideRec b / 65536) % 4 = 0 then d2 else d2.setSide b r.2.1
  if r.2.2 then d3.bump Fld.CPR_CODEC_LOSSY_count 0 1 else d3

/-- The target mode of a write to a compressible block: of the mapping for a translated write, else that of the side
record, where the reserved mode 3 gives none (R255). -/
def Dev.targetMode (d : Dev) (b : Nat) (mode : Option Nat) : Nat :=
  match mode with
  | some m => m
  | none => let m := (d.sideRec b / 65536) % 4; if m = 3 then 0 else m

/-! ## Home-slice reads and writes -/

/-- Reads bytes of one 64-byte line of DRAM at its home slice, decoded (R16, R254). A bad record counts in
CPR_CODEC_BAD. -/
def Dev.lineRead (d : Dev) (a n : Nat) : Dev × Bytes :=
  if d.inCwin a then
    let b := a / 256 * 256
    let r := d.blockData b
    ((if r.2 then d.bump Fld.CPR_CODEC_BAD_count 0 1 else d), slice r.1 (a - b) n)
  else (d, slice (d.lineRaw (a / 64)) (a % 64) n)

/-- Reads bytes of DRAM at their home slices. -/
def Dev.dramRead (d : Dev) (a n : Nat) : Dev × Bytes :=
  (pieces 64 a n).foldl (fun acc p =>
    let r := acc.1.lineRead p.1 p.2
    (r.1, acc.2 ++ r.2)) (d, [])

/-- A lookup of a line in the lake counts as a hit or a miss of its slice (R453). -/
def Dev.looked (d : Dev) (q : Asker) (line : Nat) : Dev :=
  d.count (if (NMap.get? d.mem.lake line).isSome then 0x0012 else 0x0013) 1 (q.attr (some (sliceOf (64 * line))))

/-- Drops a line from the side buffer of its slice (R208). -/
def Dev.dropSide (d : Dev) (line : Nat) : Dev :=
  d.withSide (NMap.modify d.mem.side (sliceOf (64 * line)) (fun l => l.filter (fun s => s.line ≠ line)))

/-- Accounts for a write to a line: a side-buffer copy of it is dropped, and the lookup counts (R208, R453). -/
def Dev.lineTouched (d : Dev) (q : Asker) (line : Nat) : Dev := (d.dropSide line).looked q line

/-- Writes a held line back to DRAM and marks it clean; a compressible block goes back whole (R256). -/
def Dev.cleanLine (d : Dev) (q : Asker) (line : Nat) : Dev :=
  match NMap.get? d.mem.lake line with
  | none => d
  | some l =>
    if d.inCwin (64 * line) then
      let b := line / 4 * 256
      let ls := blockLines b
      let held := ls.filterMap (fun k => NMap.get? d.mem.lake k)
      if held.any (·.dirty) then
        let mode := match held.find? (·.dirty) with
          | some x => x.mode
          | none => l.mode
        let d := d.storeBlock q b mode (d.blockData b).1
        d.withLake (ls.foldl (fun lk k => NMap.modify lk k (fun l => { l with dirty := false })) d.mem.lake)
      else d
    else if l.dirty then
      ((d.moved q true (64 * line) 64).withDram (d.mem.dram.write (64 * line) l.data)).withLake
        (NMap.set d.mem.lake line { l with dirty := false })
    else d

/-- Discards a held line without write-back; a compressible block goes as a unit (R256). -/
def Dev.dropLine (d : Dev) (line : Nat) : Dev :=
  let ls := if d.inCwin (64 * line) then (List.range 4).map (fun i => line / 4 * 4 + i) else [line]
  d.withLake (d.mem.lake.filter (fun e => !ls.contains e.1))

/-- Set of a line in its slice, of 8,192 (R202). The four lines of a block lie in different sets. -/
def setOf (line : Nat) : Nat := (4 * Config.lakeSet (line / 4) + line % 4) % 8192

/-- Whether two lines share a set of a slice. -/
def sameSet (x y : Nat) : Bool := sliceOf (64 * x) = sliceOf (64 * y) && setOf x = setOf y

/-- Lines that stand in a way in the sets of some lines. -/
def Dev.occupants (d : Dev) (ls : List Nat) (w : Nat) : List Nat :=
  (d.mem.lake.filter (fun e => e.2.way = w && ls.any (fun l => sameSet l e.1))).map (·.1)

/-- Makes room for lines that one fill brings, in a way of a mask: the lowest one that is free in their sets, or else one of
the device's choice, whose lines go back to DRAM first (R202, R203). With no way in the mask there is none. -/
def Dev.makeRoom (d : Dev) (q : Asker) (ls : List Nat) (mask : Nat) : Dev × Option Nat :=
  let ways := setBitsOf mask 16
  match ways.find? (fun w => (d.occupants ls w).isEmpty) with
  | some w => (d, some w)
  | none => match ways with
    | [] => (d, none)
    | w0 :: _ =>
      let n := d.fresh
      let w := nth ways (Config.freeNat n.1 % ways.length) w0
      ((d.occupants ls w).foldl (fun (d : Dev) l => (d.cleanLine q l).dropLine l) n.2, some w)

/-- The way in which an access may put lines that the lake does not hold. -/
def Dev.wayFor (d : Dev) (q : Asker) (cached : Bool) (ls : List Nat) (a : Nat) : Dev × Option Nat :=
  if cached then d.makeRoom q ls (d.allocWays q a) else (d, none)

/-- Bytes of the stored record of a block, by its side record (R252). -/
def Dev.slotBytes (d : Dev) (b : Nat) : Nat := modeBytes (d.sideRec b / 65536 % 4)

/-- Writes bytes of one line outside the compressible window at its home slice: into the lake when the line is held or may
be allocated, else through to DRAM (R203, R208). -/
def Dev.lineWrite (d : Dev) (q : Asker) (cached : Bool) (a : Nat) (bs : Bytes) : Dev :=
  let line := a / 64
  let d := d.lineTouched q line
  match NMap.get? d.mem.lake line with
  | some l => d.withLake (NMap.set d.mem.lake line { l with data := splice l.data (a % 64) bs, dirty := true })
  | none => match d.wayFor q cached [line] a with
    | (d, some w) => (if bs.length < 64 then d.moved q false (64 * line) 64 else d).withLake
        (NMap.set d.mem.lake line ⟨splice (d.mem.dram.read (64 * line) 64) (a % 64) bs, true, w, 0⟩)
    | (d, none) => (d.moved q true a bs.length).withDram (d.mem.dram.write a bs)

/-- Writes bytes of one 256-byte block of the compressible window: merged into the lake's decoded block when it is held or
may be allocated, else decoded, merged and encoded at once (R255, R256). -/
def Dev.blockWrite (d : Dev) (q : Asker) (cached : Bool) (mode : Option Nat) (a : Nat) (bs : Bytes) : Dev :=
  let b := a / 256 * 256
  let ls := blockLines b
  let d := (pieces 64 a bs.length).foldl (fun d p => d.lineTouched q (p.1 / 64)) d
  let r := d.blockData b
  let tm := d.targetMode b mode
  let d := if r.2 then d.bump Fld.CPR_CODEC_BAD_count 0 1 else d
  let d := if d.blockHeld b then d else d.moved q false b (d.slotBytes b)
  let x := splice r.1 (a - b) bs
  let y : Dev × Option Nat := match ls.findSome? (fun k => NMap.get? d.mem.lake k) with
    | some l => (d, some l.way)
    | none => d.wayFor q cached ls a
  match y with
  | (d, some w) =>
    d.withLake ((List.range 4).foldl (fun lk i => NMap.set lk (b / 64 + i) ⟨slice x (64 * i) 64, true, w, tm⟩) d.mem.lake)
  | (d, none) => d.storeBlock q b tm x

/-- Writes bytes of DRAM at their home slices. -/
def Dev.dramWrite (d : Dev) (q : Asker) (cached : Bool) (mode : Option Nat) (a : Nat) (bs : Bytes) : Dev :=
  (pieces 256 a bs.length).foldl (fun d p =>
    let x := slice bs (p.1 - a) p.2
    let d := d.bridged q (dieOf p.1) p.2
    if d.inCwin p.1 then d.blockWrite q cached mode p.1 x
    else (pieces 64 p.1 p.2).foldl (fun d r => d.lineWrite q cached r.1 (slice x (r.1 - p.1) r.2)) d) d

/-- The lines the lake holds that satisfy a test. -/
def Dev.lakeLines (d : Dev) (p : Nat → LakeLine → Bool) : List Nat :=
  (d.mem.lake.filter (fun e => p e.1 e.2)).map (·.1)

/-- Writes back and drops every line of the given ways (R205, R209). -/
def Dev.flushWays (d : Dev) (mask : Nat) : Dev :=
  let ls := d.lakeLines (fun _ l => mask.testBit l.way)
  let d := ls.foldl (fun d l => d.cleanLine Asker.none l) d
  ls.foldl (fun d l => d.dropLine l) d

/-! ## Gates -/

/-- The outcome of an access. -/
inductive Acc where
  /-- performed -/
  | ok
  /-- not performed yet: held at a wrapper, waiting for tags, for a fabric response or for a fault's replay -/
  | wait
  /-- ended with a status -/
  | fail (status : Half)
  deriving DecidableEq, Repr

/-- Whether an access of this device to DRAM proceeds: it waits while tags are invalidated (R209), is held at the closed
wrapper (R405), and completes with ISOLATED in FAULT (R407). -/
def Dev.dramGate (d : Dev) : Acc :=
  if d.boot.phase = 6 then .fail Sts.isolated
  else if !d.boot.dramOpen || d.mem.tagInit then .wait
  else .ok

/-- Whether window bytes `[o, o + n)` may be accessed: their way is in memory mode (R204). The lake stands still in SLEEP (R419,
R424). -/
def Dev.windowGate (d : Dev) (o n : Nat) : Acc :=
  if d.mem.tagInit || d.pwr.state = .sleep then .wait
  else if d.memWays.testBit (o / 2 ^ 23) ∧ d.memWays.testBit ((o + n - 1) / 2 ^ 23) then .ok
  else .fail Sts.permissionFault

/-- The gate of an untranslated access to memory at a local offset. -/
def Dev.memGate (d : Dev) (a : Nat) : Acc :=
  match regionOf a with
  | .dram _ => d.dramGate
  | .window o => d.windowGate o 1
  | _ => .fail Sts.permissionFault

/-! ## Rings and commands -/

/-- A ring that does not exist: DISABLED, every field 0 (SUB registers). -/
def Ring.absent : Ring :=
  ⟨0, 0, 0, 0, 0, 0, 0, 0, 0, 0, 0, 0, 0, 0, 0, 0, false, .disabled, 0, 0, [], 0, false, false, [], []⟩

/-- Ring `i`. -/
def Dev.ring (d : Dev) (i : Nat) : Ring := NMap.getD d.sub.rings i Ring.absent

/-- Replaces ring `i`. -/
def Dev.setRing (d : Dev) (i : Nat) (r : Ring) : Dev := d.withRings (NMap.set d.sub.rings i r)

/-- Changes ring `i`. -/
def Dev.modRing (d : Dev) (i : Nat) (f : Ring → Ring) : Dev := d.setRing i (f (d.ring i))

/-- Encoding of a ring state (R296). -/
def RingState.code : RingState → Nat
  | .disabled => 0 | .running => 1 | .stopped => 2 | .aborted => 3 | .destroying => 4

/-- A ring enters STOPPED with a reason (R301). -/
def Dev.stopRing (d : Dev) (i reason : Nat) : Dev :=
  let r := d.ring i
  if r.state = .running then d.setRing i { r with state := .stopped, stopReason := reason }
  else if r.state = .stopped then d.setRing i { r with stopReason := reason }
  else d

/-- Whether a doorbell source matches the ring's db_source (R298). -/
def Ring.accepts (r : Ring) (src : DbFrom) : Bool :=
  match src with
  | .local => true
  | .device a => r.dbSource = 0 || (r.dbSource = 1 && r.dbId = a)
  | .queuePair q => r.dbSource = 2 && r.dbId = q

/-- A doorbell write of value `t` to ring `i` (R298). -/
def Dev.offer (d : Dev) (src : DbFrom) (i : Nat) (t : Wide) : Dev :=
  let r := d.ring i
  if r.state = .disabled ∨ !r.accepts src ∨ d.boot.phase = 6 then d.bump Fld.SUB_DB_REJECT_count 0 1
  else
    let d := (d.count 0x0042 1 ⟨some r.part, Option.none, Option.none⟩).leaveIdle
    if t.toNat < r.doorbell.toNat then d.bump Fld.SUB_DB_STALE_count 0 1
    else if t.toNat = r.doorbell.toNat then d
    else
    let d := d.setRing i { r with doorbell := t, bells := r.bells ++ [(t, d.now)] }
    if t.toNat - r.fetch.toNat > 2 ^ r.sizeLog2 then
      (if r.state = .running then d.stopRing i 3 else d)
    else d

/-- The number of accepted commands of a ring that have not retired. -/
def Dev.inFlight (d : Dev) (i : Nat) : Nat := (d.sub.cmds.filter (fun c => c.ring = i)).length

/-- SUB_R_STATUS_i as it reads. -/
def Dev.ringStatus (d : Dev) (i : Nat) : Nat :=
  let r := d.ring i
  r.state.code + 256 * r.stopReason + 4096 * d.inFlight i

/-- A read of a doorbell slot (R297): other offsets and widths read zero. -/
def Dev.doorbellRead (d : Dev) (i o n : Nat) : Bytes :=
  let r := d.ring i
  if o = 0 ∧ n = 8 then leBytes 8 r.doorbell.toNat
  else if o = 8 ∧ n = 8 then leBytes 8 r.fetch.toNat
  else if o = 16 ∧ n = 4 then leBytes 4 (d.ringStatus i)
  else List.replicate n 0

/-- A write to a doorbell slot: an 8-byte write at offset 0 offers a count; anything else writes nothing (R297). -/
def Dev.doorbellWrite (d : Dev) (src : DbFrom) (i o : Nat) (bs : Bytes) : Dev :=
  if o = 0 ∧ bs.length = 8 then d.offer src i (BitVec.ofNat 64 (leNat bs)) else d

/-! ## Untranslated local accesses -/

/-- Reads bytes of the lake window; way w backs the bytes from w × 8 MiB on (R204). -/
def Dev.windowRead (d : Dev) (o n : Nat) : Bytes :=
  (pieces (2 ^ 23) o n).flatMap (fun p => (NMap.getD d.mem.window (p.1 / 2 ^ 23) Store.zero).read (p.1 % 2 ^ 23) p.2)

/-- Replaces the content of a way; one that reads zero throughout is not listed. -/
def Dev.setWay (d : Dev) (w : Nat) (s : Store) : Dev :=
  d.withWindow (if s = Store.zero then NMap.erase d.mem.window w else NMap.set d.mem.window w s)

/-- Writes bytes of the lake window. -/
def Dev.windowWriteAt (d : Dev) (o : Nat) (bs : Bytes) : Dev :=
  (pieces (2 ^ 23) o bs.length).foldl (fun d p =>
    let w := p.1 / 2 ^ 23
    d.setWay w ((NMap.getD d.mem.window w Store.zero).write (p.1 % 2 ^ 23) (slice bs (p.1 - o) p.2))) d

/-- Die of a byte of the lake window: that of its slice (R15, R204). -/
def windowDie (o : Nat) : Nat := o / 2 ^ 19 % 16 / 8

/-- Reads local bytes that are DRAM, lake window or doorbell slot; other ranges fail with PERMISSION_FAULT (R200, R215,
R19). -/
def Dev.localRead (d : Dev) (a n : Nat) : Dev × Acc × Bytes :=
  match regionOf a, regionOf (a + n - 1) with
  | .dram a, .dram _ => match d.dramGate with
    | .ok => let r := d.dramRead a n; (r.1, .ok, r.2)
    | g => (d, g, [])
  | .window o, .window _ => match d.windowGate o n with
    | .ok => (d, .ok, d.windowRead o n)
    | g => (d, g, [])
  | .doorbell i o, .doorbell _ _ => (d, .ok, d.doorbellRead i o n)
  | _, _ => (d, .fail Sts.permissionFault, [])

/-- Writes local bytes: `mode` is the compressed mode of the mapping, none for an untranslated write (R255). -/
def Dev.localWrite (d : Dev) (q : Asker) (cached : Bool) (mode : Option Nat) (src : DbFrom) (a : Nat) (bs : Bytes) :
    Dev × Acc :=
  match regionOf a, regionOf (a + bs.length - 1) with
  | .dram a, .dram _ => match d.dramGate with
    | .ok => (d.dramWrite q cached mode a bs, .ok)
    | g => (d, g)
  | .window o, .window _ => match d.windowGate o bs.length with
    | .ok => ((d.windowWriteAt o bs).bridged q (windowDie o) bs.length, .ok)
    | g => (d, g)
  | .doorbell i o, .doorbell _ _ => (d.doorbellWrite src i o bs, .ok)
  | _, _ => (d, .fail Sts.permissionFault)

/-- A demand miss to DRAM is noted where its prefetch follows it: in SIDE mode, with the next line in the same 256-byte block
(R206, R207). -/
def Dev.noteMiss (d : Dev) (line : Nat) : Dev :=
  if d.fld Fld.MEM_PREFETCH_MODE_mode 0 = 1 ∧ line % 4 ≠ 3 then
    { d with mem := { d.mem with missed := d.mem.missed.filter (· ≠ line) ++ [line] } }
  else d

/-- A hit in the side buffer of a slice, by a demand access that puts the line into the lake (R208). -/
def Dev.sideHit (d : Dev) (line : Nat) : Dev × Bool :=
  if (NMap.getD d.mem.side (sliceOf (64 * line)) []).any (fun s => s.line = line) then
    ((d.dropSide line).bump Fld.MEM_SIDE_HITS_count 0 1, true)
  else (d, false)

/-- One line of a demand read: a hit, or a miss that takes the line from the slice's side buffer or from DRAM and, where
a way may be allocated, puts it into the lake; a compressible block comes as a unit (R203, R208, R256). `n` bytes of it are
asked for. -/
def Dev.demandLine (d : Dev) (q : Asker) (cached : Bool) (line n : Nat) : Dev :=
  let a := 64 * line
  let d := (d.looked q line).bridged q (dieOf a) n
  if (NMap.get? d.mem.lake line).isSome ∧ (d.inCwin a = false ∨ d.blockHeld (line / 4 * 256)) then d
  else if d.inCwin a then
    let b := line / 4 * 256
    let ls := blockLines b
    let d := (d.noteMiss line).moved q false b (d.slotBytes b)
    match d.wayFor q cached ls a with
    | (d, none) => d
    | (d, some w) =>
      let r := d.blockData b
      let d := if r.2 then d.bump Fld.CPR_CODEC_BAD_count 0 1 else d
      let mode := d.targetMode b none
      (d.sideHit line).1.withLake (ls.foldl (fun lk k =>
        if (NMap.get? lk k).isSome then lk else NMap.set lk k ⟨slice r.1 (64 * k - b) 64, false, w, mode⟩) d.mem.lake)
  else
    match d.wayFor q cached [line] a with
    | (d, none) => (d.noteMiss line).moved q false a n
    | (d, some w) =>
      let h := d.sideHit line
      let d := if h.2 then h.1 else (h.1.noteMiss line).moved q false a 64
      d.withLake (NMap.set d.mem.lake line ⟨d.mem.dram.read a 64, false, w, 0⟩)

/-- A demand read of local bytes: `cached` tells whether a fill may allocate (R203, R231). -/
def Dev.readAt (d : Dev) (q : Asker) (cached : Bool) (a n : Nat) : Dev × Acc × Bytes :=
  match regionOf a, d.dramGate with
  | .dram a, .ok => ((pieces 64 a n).foldl (fun d p => d.demandLine q cached (p.1 / 64) p.2) d).localRead a n
  | .window o, _ => (d.bridged q (windowDie o) n).localRead a n
  | _, _ => d.localRead a n

/-- The word of a fence, as it stands at its home slice; `none` while it cannot be read (R405). -/
def Dev.wordRead (d : Dev) (off : Nat) : Option Wide :=
  match d.localRead off 8 with
  | (_, .ok, bs) => some (BitVec.ofNat 64 (leNat bs))
  | _ => none

/-! ## Commands in flight -/

/-- The command of a ring with a serial. -/
def Dev.cmd? (d : Dev) (ring : Nat) (serial : Wide) : Option Cmd :=
  d.sub.cmds.find? (fun c => c.ring = ring && c.serial = serial)

/-- Changes a command. -/
def Dev.modCmd (d : Dev) (ring : Nat) (serial : Wide) (f : Cmd → Cmd) : Dev :=
  d.withCmds (d.sub.cmds.map (fun c => if c.ring = ring ∧ c.serial = serial then f c else c))

/-- A free value of `n` bytes, for what the spec leaves open. -/
def Dev.freeBytes (d : Dev) (n : Nat) : Dev × Bytes :=
  let g := d.fresh
  (g.2, (List.range n).map (fun i => Config.freeByte g.1 i))

/-- The number of Gotik's command queue, which is not a ring (R472). -/
def gotikRing : Nat := 1024

/-- A command's opcode. -/
def Cmd.opcode (c : Cmd) : Nat := dfield c.desc 0 7 0

/-- A command's context tag (R290). -/
def Cmd.context (c : Cmd) : Nat := dfield c.desc 2 15 0

/-- Whether a command came from Gotik. -/
def Cmd.gotik (c : Cmd) : Bool := c.ring = gotikRing

/-- The attribution of a command's events. -/
def Cmd.attr (c : Cmd) (unit : Option Nat) : Attr :=
  ⟨if c.gotik then Option.none else some c.part, some c.context, unit⟩

/-- The histogram of a command's time from start to completion, in microseconds (R448). -/
def Cmd.timeHist (c : Cmd) : Option Nat :=
  match c.opcode with
  | 0x58 => some 15
  | 0x61 => some 13
  | 0x60 => some 14
  | _ => Option.none

/-- Ends a started or accepted command with its one status (R330); watch slots it held are freed (R315), and its time
enters its histogram (R448). A command that has already ended keeps its status. -/
def Dev.endCmd (d : Dev) (ring : Nat) (serial : Wide) (status : Half) (detail : Wide) (unit : Nat) : Dev :=
  match d.cmd? ring serial with
  | none => d
  | some c =>
    if c.phase = .ended then d
    else
      let d := d.modCmd ring serial (fun c =>
        { c with
          phase := .ended, status := status, detail := detail, unit := unit, run := .none, faulted := false, input := []
          endAt := d.now })
      let k := (ring, serial)
      let d := d.withWatch (d.sub.slots.filter (· ≠ k)) (d.sub.parked.filter (· ≠ k))
      match c.phase, c.timeHist with
      | .started, some h => d.hist h ((d.now - c.startAt) / 1000)
      | _, _ => d

/-- Sets a command's run state. -/
def Dev.setRun (d : Dev) (ring : Nat) (serial : Wide) (r : RunState) : Dev :=
  d.modCmd ring serial (fun c => { c with run := r })

/-- The unit field when no brick applies (R328). -/
def noUnit : Nat := 0x7F

/-- Brick `n`. -/
def Dev.brick (d : Dev) (n : Nat) : Brick := NMap.getD d.bricks n Brick.fresh

/-- Replaces brick `n`. -/
def Dev.setBrick (d : Dev) (n : Nat) (b : Brick) : Dev := { d with bricks := NMap.set d.bricks n b }

/-- Changes brick `n`. -/
def Dev.modBrick (d : Dev) (n : Nat) (f : Brick → Brick) : Dev := d.setBrick n (f (d.brick n))

/-- Brick clock of each DVFS point, in MHz (R428). -/
def pointMHz (p : Nat) : Nat := nth [1700, 1550, 1400, 1150, 850, 700, 550, 400] p 850

/-- A wall's DVFS state; P4 after reset (R404). -/
def Dev.wall (d : Dev) (w : Nat) : WallSt := NMap.getD d.pwr.walls w ⟨4, 0, false, false⟩

/-- Powers a switched domain; it becomes usable 10 µs later (R427). -/
def Dev.powerUp (d : Dev) (n : Nat) : Dev :=
  if d.pwr.on.testBit n ∨ (NMap.get? d.pwr.powering n).isSome then d
  else { d with pwr := { d.pwr with powering := NMap.set d.pwr.powering n (d.now + 10000) } }

/-- The least common multiple of 1 to 64: brick time is counted in this fraction of a ns, so that the shares of up to 64
resident courses are exact (R37). -/
def brickTimeUnit : Nat := 1182266884102822267511361600

/-- Courses that a block was formed with: one for every 32 threads (R43). -/
def Block.courseCount (b : Block) : Nat := ceilDiv b.threads 32

/-- Courses of a block that hold their slots: those of which a lane has not exited (R42). -/
def Block.liveCourses (b : Block) : List Nat :=
  if b.done then [] else (List.range b.courseCount).filter (fun c =>
    (List.range 32).any (fun i => 32 * c + i < b.threads && !b.exited.contains (32 * c + i)))

/-- Number of a block's resident courses. -/
def Block.courses (b : Block) : Nat := b.liveCourses.length

/-- Whether a part of a lane's request waits for a replay. -/
def LaneRun.faulted (l : LaneRun) : Bool := l.parts.any (fun p => p.state = .fault)

/-- Whether a lane of a path waits for a replay; the path has then stopped (R237). -/
def PathRun.faulted (p : PathRun) : Bool := p.lanes.any LaneRun.faulted

/-- Whether a lane of a block waits for a replay (R75). -/
def Block.awaitsReplay (b : Block) : Bool := b.paths.any PathRun.faulted

/-- One brick for `dt` ns: the stall counts of its blocked lanes run at the wall's brick clock, unless a lane of the block
waits for a replay (R75). -/
def Brick.elapse (b : Brick) (mhz dt : Nat) : Brick :=
  { b with blocks := b.blocks.map (fun x =>
      if x.awaitsReplay then x else { x with blocked := x.blocked.map (fun l => { l with stall := l.stall + mhz * dt }) }) }

/-- The rings with running blocks on a brick, with their resident courses. -/
def Brick.ringCourses (b : Brick) : List (Nat × Nat) :=
  let live := b.blocks.filter (fun x => !x.done)
  ((live.map (·.ring)).eraseDups).map (fun r => (r, sumN ((live.filter (fun x => x.ring = r)).map Block.courses)))

/-- The brick time of `dt` ns on one brick, shared among the rings in proportion to their courses (R37). -/
def Dev.chargeBrick (d : Dev) (b : Brick) (dt : Nat) : Dev :=
  let rc := b.ringCourses
  let total := sumN (rc.map (·.2))
  rc.foldl (fun d x => d.modRing x.1 (fun r => { r with used := r.used + dt * brickTimeUnit * x.2 / total })) d

/-- Attribution of an event of a block on brick `n` (R453). -/
def Dev.blockAttr (d : Dev) (n : Nat) (b : Block) : Attr :=
  match d.cmd? b.ring b.serial with
  | some c => c.attr (some n)
  | none => .free (some n)

/-- What one block on brick `n` counts in some brick clocks: its resident courses, the clocks of its stall interval, and the
instructions that its courses issue, which the model does not follow: at most one each clock for each course (R42, R453). -/
def Dev.blockClocks (d : Dev) (n clocks : Nat) (b : Block) : Dev :=
  let at' := d.blockAttr n b
  let k := b.courses
  if k = 0 ∨ clocks = 0 then d
  else
    let d := d.count 0x0004 (k * clocks) at'
    let d := if b.blocked.isEmpty then d else d.count 0x0005 clocks at'
    let f := d.fresh
    f.2.count 0x0002 (Config.freeNat f.1 % (k * clocks + 1)) at'

/-- What one powered brick counts until `t`, at a clock in MHz. -/
def Dev.brickClocks (d : Dev) (n mhz t : Nat) (b : Brick) : Dev :=
  let clocks := mhz * t / 1000 - mhz * d.now / 1000
  b.blocks.foldl (fun d x => d.blockClocks n clocks x) (d.count 0x0001 clocks (.free (some n)))

/-- The counts of every powered brick until `t`; brick clocks run in RUN only (R433, R453). -/
def Dev.countClocks (d : Dev) (t : Nat) : Dev :=
  if d.pwr.state = .run ∧ d.counting then
    d.bricks.foldl (fun (d : Dev) (e : Nat × Brick) =>
      if d.pwr.on.testBit (e.1 / 8) then d.brickClocks e.1 (pointMHz (d.wall (e.1 / 8)).current) t e.2 else d) d
  else d

/-- Time passes to `t`: brick time and stall counts grow, and the lake clock runs in RUN only (R37, R75, R433, R454). -/
def Dev.advanceTo (d : Dev) (t : Nat) : Dev :=
  if t ≤ d.now then d
  else
    let dt := t - d.now
    let d := d.countClocks t
    let d : Dev := d.bricks.foldl (fun (d : Dev) (e : Nat × Brick) => d.chargeBrick e.2 dt) d
    let d : Dev := { d with bricks := d.bricks.map (fun (e : Nat × Brick) => (e.1, e.2.elapse (pointMHz (d.wall (e.1 / 8)).current) dt)) }
    let d := if d.pwr.state = .run then d.withMeter { d.meter with lakeNs := d.meter.lakeNs + dt } else d
    { d with now := t }

/-- Walls and bricks of a partition, by its committed wall_mask (R334). -/
def Dev.partWalls (d : Dev) (p : Nat) : List Nat := setBitsOf (d.cfld Fld.PAR_P_MASKS_wall_mask p) 12

/-- Bricks of a partition: wall w holds bricks 8w to 8w + 7 (R15). -/
def Dev.partBricks (d : Dev) (p : Nat) : List Nat := (d.partWalls p).flatMap (fun w => (List.range 8).map (8 * w + ·))

/-- Capacity of a partition in brick-microseconds per tick, for a period in ns (R34). -/
def capacity (bricks periodNs permille : Nat) : Nat := bricks * periodNs * permille / 1000000

/-- Capacity of a partition under the committed TICKCFG. -/
def Dev.partCapacity (d : Dev) (p : Nat) : Nat :=
  capacity (d.partBricks p).length (d.cfld Fld.TICK_PERIOD_NS_period_ns 0) (d.cfld Fld.TICK_ADMIT_admit_permille 0)

/-- Rings that exist, with their numbers. -/
def Dev.ringsOf (d : Dev) (p : Nat) : List Nat :=
  (d.sub.rings.filter (fun e => e.2.state ≠ .disabled && e.2.part = p)).map (·.1)

/-- Committed HARD and FIRM budgets of a partition, leaving out one ring (R35). -/
def Dev.committed (d : Dev) (p : Nat) (except : Nat) : Nat :=
  sumN (((d.ringsOf p).filter (fun i => i ≠ except && (d.ring i).cls ≠ 2)).map (fun i => (d.ring i).budget))

/-- The admission of R35 for a budget of ring `i`. -/
def Dev.admits (d : Dev) (p i cls budget : Nat) : Bool :=
  cls = 2 || d.committed p i + budget ≤ d.partCapacity p

end Sys2Proof.Machine
end

