-- ==== Sys2Proof/Machine/Frames.lean ====
section
/-! DEFINITION. Mortar frames and how they leave the device: the header's bytes (R368), virtual lanes (R369), credits
(R370), routes and paths (R386, R388), tunnels (R375) and the outstanding-operation slots (R339, R350, R374, R389). -/

namespace Sys2Proof.Machine

/-- A port that is unpowered: DISABLED with every flag 0 (R359). -/
def Port.idle : Port :=
  ⟨false, 2, false, false, false, 0, [], [], List.replicate 8 0, List.replicate 8 0, 0, List.replicate 8 0, 0, 0, 0, 0, 0, [], [], []⟩

/-- Port `p`. -/
def Dev.port (d : Dev) (p : Nat) : Port := NMap.getD d.fab.ports p Port.idle

/-- Replaces port `p`. -/
def Dev.setPort (d : Dev) (p : Nat) (x : Port) : Dev := { d with fab := { d.fab with ports := NMap.set d.fab.ports p x } }

/-- Changes port `p`. -/
def Dev.modPort (d : Dev) (p : Nat) (f : Port → Port) : Dev := d.setPort p (f (d.port p))

/-- The 24 bytes of a frame's header (R368). -/
def hdrBytes (h : MortarHdr) : Bytes :=
  leBytes 1 (h.kind % 16 + 16 * (h.vl % 8)) ++ leBytes 1 (h.lenDw % 128) ++ leBytes 2 (h.linkSeq % 4096)
    ++ leBytes 4 (h.dst % 4096 + 4096 * (h.src % 4096) + 2 ^ 24 * (h.op % 16) + 2 ^ 28 * (h.size % 4))
    ++ leBytes 4 (h.slot % 16384 + 16384 * (h.slotGen % 4) + 65536 * (h.epoch % 65536))
    ++ leBytes 2 h.status.toNat ++ leBytes 2 0 ++ leBytes 8 h.address.toNat

/-- A frame's header from its 24 bytes (R368). -/
def hdrOfBytes (b : Bytes) : MortarHdr :=
  let w0 := leAt b 0 4
  let w1 := leAt b 4 4
  let w2 := leAt b 8 4
  { kind := w0 % 16, vl := w0 / 16 % 8, lenDw := w0 / 256 % 128, linkSeq := w0 / 65536 % 4096
    dst := w1 % 4096, src := w1 / 4096 % 4096, op := w1 / 2 ^ 24 % 16, size := w1 / 2 ^ 28 % 4
    slot := w2 % 16384, slotGen := w2 / 16384 % 4, epoch := w2 / 65536
    status := BitVec.ofNat 16 (leAt b 12 2), address := wideAt b 16 }

/-- Credits a frame consumes (R370). -/
def frameCredits (f : MortarFrame) : Nat := ceilDiv (24 + f.payload.length + 4) 64

/-- Whether the port may send the frame now: credits of its lane, at most 2,048 unacknowledged frames and 128 KiB of
replay buffer (R370, R371). -/
def Port.canSend (p : Port) (f : MortarFrame) : Bool :=
  let vl := f.hdr.vl
  nth p.used vl 0 + frameCredits f ≤ 512 + nth p.returned vl 0
    && p.unacked.length < 2048
    && sumN (p.unacked.map (fun g => 28 + g.payload.length)) + 28 + f.payload.length ≤ 131072

/-- Sends a frame with the next link_seq and holds it in the replay buffer (R371). -/
def Port.transmit (p : Port) (now : Nat) (f : MortarFrame) : Port :=
  let g := { f with hdr := { f.hdr with linkSeq := p.txSeq } }
  { p with
    txSeq := (p.txSeq + 1) % 4096
    unacked := p.unacked ++ [g]
    used := modNth p.used f.hdr.vl (· + frameCredits f)
    lastProgress := if p.unacked.isEmpty then now else p.lastProgress
    sent := .mortar g :: p.sent }

/-- Order in which waiting frames are served: VL 7, 5, 6, 2 in strict priority, then VL 4, 1, 3, 0 (R369). -/
def vlRank (vl : Nat) : Nat :=
  match vl with
  | 7 => 0 | 5 => 1 | 6 => 2 | 2 => 3 | 4 => 4 | 1 => 5 | 3 => 6 | _ => 7

/-- The first waiting frame of the best-ranked lane that can be sent. -/
def Port.nextQueued (p : Port) : Option MortarFrame :=
  let firsts := (List.range 8).filterMap (fun vl => p.queued.find? (fun f => f.hdr.vl = vl))
  minBy (fun f => vlRank f.hdr.vl) (firsts.filter (fun f => p.canSend f))

/-- Sends waiting frames while credits last; `fuel` bounds their number. -/
def Port.drain (now : Nat) : Nat → Port → Port
  | 0, p => p
  | fuel + 1, p =>
    if !p.linkUp then p
    else match p.nextQueued with
      | none => p
      | some f => Port.drain now fuel ({ p with queued := p.queued.erase f }.transmit now f)

/-- Bytes of a frame on the wire (R367). -/
def frameBytes (f : MortarFrame) : Nat := 28 + f.payload.length

/-- Frame bytes that a port sends count for its counters and its bandwidth window, replays included (R453, R455). -/
def Dev.txBytes (d : Dev) (p n : Nat) : Dev :=
  let d := d.count 0x0090 n (.free (some p))
  d.withMeter { d.meter with tx := NMap.set d.meter.tx p (NMap.getD d.meter.tx p 0 + n) }

/-- Frame bytes that a port receives. -/
def Dev.rxBytes (d : Dev) (p n : Nat) : Dev :=
  let d := d.count 0x0091 n (.free (some p))
  d.withMeter { d.meter with rx := NMap.set d.meter.rx p (NMap.getD d.meter.rx p 0 + n) }

/-- Sends what a port's credits and buffer allow of its waiting frames. -/
def Dev.drainPort (d : Dev) (hop : Nat) : Dev :=
  let p := d.port hop
  let q := Port.drain d.now (p.queued.length + 1) p
  let sent := q.unacked.drop p.unacked.length
  let d := d.setPort hop q
  if sent.isEmpty then d else d.txBytes hop (sumN (sent.map frameBytes))

/-- Hands a frame to a hop: a Mortar-mode port with link_up, or a tunnel neighbour (R379, R386). -/
def Dev.emit (d : Dev) (hop : Nat) (f : MortarFrame) : Dev :=
  if hop < 8 then
    let p := d.port hop
    if p.modeActive = 1 ∧ p.linkUp then (d.setPort hop { p with queued := p.queued ++ [f] }).drainPort hop
    else d
  else if d.fld Fld.FAB_TUN_CTRL_enable (hop - 8) = 1 ∧ d.fld Fld.FAB_TUNNEL_udp_port 0 ≠ 0 then
    { d with fab := { d.fab with tunnelled := .tunnel (hop - 8) { f with hdr := { f.hdr with linkSeq := 0 } } :: d.fab.tunnelled } }
  else d

/-- The hops on which discovery is sent (R379). -/
def Dev.discoveryHops (d : Dev) : List Nat :=
  (List.range 8).filter (fun p => (d.port p).modeActive = 1 && (d.port p).linkUp)
    ++ ((List.range 16).filter (fun k => d.fld Fld.FAB_TUN_CTRL_enable k = 1 && d.fld Fld.FAB_TUNNEL_udp_port 0 ≠ 0)).map (8 + ·)

/-- What the routing table says of a destination (R386, R389). -/
inductive Route where
  | valid (hops : List Nat)
  | pending
  | none
  deriving DecidableEq, Repr

/-- The first hops of a valid entry: where one of them is native, the tunnels among them are not used (R375). -/
def nativeFirst (hops : List Nat) : List Nat := if hops.any (· < 8) then hops.filter (· < 8) else hops

/-- The entry for a destination; those for 0x000, 0xFFF and the device itself are ignored (R386). -/
def Dev.route (d : Dev) (dst : Nat) : Route :=
  if dst = 0 ∨ dst = 0xFFF ∨ dst = d.addr ∨ d.addr = 0 then .none
  else if d.fld Fld.FAB_RT_valid dst = 1 then
    .valid (nativeFirst (([d.fld Fld.FAB_RT_hop0 dst, d.fld Fld.FAB_RT_hop1 dst, d.fld Fld.FAB_RT_hop2 dst,
      d.fld Fld.FAB_RT_hop3 dst]).take (d.fld Fld.FAB_RT_paths_m1 dst + 1)))
  else if d.fld Fld.FAB_RT_pending dst = 1 then .pending
  else .none

/-- The key of R388. -/
def hdrKey (h : MortarHdr) (handleIndex : Nat) : Nat :=
  if h.kind = 5 then h.address.toNat
  else if h.kind = 6 then handleIndex
  else bitsN h.address 39 12

/-- The path a request takes: CRC-32 of (src, dst, vl, key) modulo the number of paths (R388). -/
def pathIndex (src dst vl key paths : Nat) : Nat :=
  crc32 (leBytes 2 src ++ leBytes 2 dst ++ leBytes 2 vl ++ leBytes 6 key) % paths

/-- The hop of a frame among the hops of its route. -/
def frameHop (f : MortarFrame) (hops : List Nat) : Nat :=
  nth hops (pathIndex f.hdr.src f.hdr.dst f.hdr.vl (hdrKey f.hdr (leAt f.payload 0 3)) hops.length) 0

/-- Sends a frame on the path of its destination, when there is a valid route. -/
def Dev.sendFrame (d : Dev) (f : MortarFrame) : Dev :=
  match d.route f.hdr.dst with
  | .valid hops => d.emit (frameHop f hops) f
  | _ => d.bump Fld.FAB_NO_ROUTE_count 0 1

/-- Outstanding-operation slots guaranteed to a partition (R339). -/
def Dev.opShare (d : Dev) (p : Nat) : Nat :=
  if d.cfld Fld.PAR_P_CTRL_enable p = 1 then 16384 * (d.partWalls p).length / 12 else 0

/-- Slots in use by the rings of a partition. -/
def Dev.opsOf (d : Dev) (p : Nat) : Nat := (d.fab.ops.filter (fun o => o.ring < 1024 && (d.ring o.ring).part = p)).length

/-- Whether a request of a partition (or of none) may take a slot without taking another's guaranteed share (R339). -/
def Dev.slotFree (d : Dev) (part : Option Nat) : Bool :=
  let free := 16384 - d.fab.ops.length
  let reserved := sumN ((List.range 8).map (fun q => if part = some q then 0 else d.opShare q - d.opsOf q))
  match part with
  | some p => free > 0 && (d.opsOf p < d.opShare p || free > reserved)
  | none => free > reserved

/-- The lowest slot that no operation holds. -/
def Dev.freeSlot (d : Dev) : Nat :=
  ((List.range (d.fab.ops.length + 1)).find? (fun s => !d.fab.ops.any (fun o => o.slot = s))).getD 0

/-- The virtual lane of a request (R369). -/
def Dev.requestVl (d : Dev) (ring : Nat) (kind : Nat) : Nat :=
  if kind = 5 ∨ kind = 6 then 6
  else if ring ≥ 1024 then 3
  else match (d.ring ring).cls with
    | 0 => 2
    | 1 => 1
    | _ => 0

/-- What an operation asks of another device. -/
structure OpReq where
  ring : Nat
  serial : Wide
  kind : Nat
  op : Nat
  size : Nat
  device : Nat
  addr : Nat
  len : Nat
  asid : Option Nat
  va : Nat
  use : OpUse
  payload : Bytes
  deriving DecidableEq, Repr

/-- Whether requests issued under the entry that a destination had before it became pending are still outstanding (R389). -/
def Dev.oldRequests (d : Dev) (dst : Nat) : Bool :=
  let l := NMap.getD d.fab.olds dst []
  d.fab.ops.any (fun o => !o.dead && l.contains (o.slot, o.gen))

/-- Issues one operation to another device (R389): sent and given a slot when the route is valid and no request of an older
entry is outstanding, waiting while it is pending or no slot is free, and PARTITIONED when there is no route or the entry
has been pending for native_us. -/
def Dev.issue (d : Dev) (q : OpReq) : Dev × Acc :=
  let part := if q.ring < 1024 then some (d.ring q.ring).part else none
  match d.route q.device with
  | .none => (d.bump Fld.FAB_NO_ROUTE_count 0 1, .fail Sts.partitioned)
  | .pending =>
    if d.now ≥ NMap.getD d.fab.pendAt q.device 0 + 1000 * d.fld Fld.FAB_OP_TIMEOUT_native_us 0 then (d, .fail Sts.partitioned)
    else (d, .wait)
  | .valid hops =>
    if !d.slotFree part ∨ d.oldRequests q.device then (d, .wait)
    else
      let s := d.freeSlot
      let g := NMap.getD d.fab.slotGen s 0
      let epoch := if q.ring < 1024 then (d.ring q.ring).epoch else 0
      let h : MortarHdr := {
        kind := q.kind, vl := d.requestVl q.ring q.kind
        lenDw := ceilDiv (if q.kind = 1 then q.len else q.payload.length) 4
        linkSeq := 0, dst := q.device, src := d.addr, op := q.op, size := q.size, slot := s, slotGen := g
        epoch := epoch, status := 0, address := BitVec.ofNat 64 q.addr }
      let f : MortarFrame := ⟨h, q.payload, true⟩
      let hop := frameHop f hops
      let o : FabOp := ⟨s, g, q.ring, q.serial, epoch, q.kind, q.op, q.size, q.device, q.addr, q.len, q.asid, q.va, q.use,
        q.payload, d.now, hop ≥ 8, false⟩
      let d := { d with fab := { d.fab with
        ops := d.fab.ops ++ [o], slotGen := NMap.set d.fab.slotGen s ((g + 1) % 4) } }
      (d.emit hop f, .ok)

/-- Issues a request without a ring whose answer nothing waits for; while it must wait it is held (R389). -/
def Dev.issueKept (d : Dev) (q : OpReq) : Dev :=
  match d.issue q with
  | (d, .wait) => { d with fab := { d.fab with
      held := d.fab.held ++ [(⟨none, 0, none, 0, q.kind, q.op, q.size, q.device, q.addr, q.len, q.payload⟩, d.now)] } }
  | (d, _) => d

/-- Whether a command still has operations outstanding at other devices (R82, R302). -/
def Dev.cmdOps (d : Dev) (ring : Nat) (serial : Wide) : Bool :=
  d.fab.ops.any (fun o => o.ring = ring && o.serial = serial && !o.dead)

/-- The device's side (FAB_STATE): 0 FORMING, 1 OWNING, 2 NON_OWNING (R392). -/
def Dev.side (d : Dev) : Nat := d.fld Fld.FAB_STATE_side 0

end Sys2Proof.Machine
end

