-- ==== Sys2Proof/Machine/Commits.lean ====
section
/-! DEFINITION. Who may write set-up registers (R3), and commit groups: their fields, what a commit stages, and how a staged
set takes effect or is refused (R412 to R414). -/

namespace Sys2Proof.Machine

/-- Whether the management grants hold an address (R444). -/
def Dev.granted (d : Dev) (a : Nat) : Bool :=
  a ≠ 0 && (List.range 4).any (fun i => bitsN (d.fldW Fld.SEC_MGMT_SRC_grants 0) (12 * i + 11) (12 * i) = a)

/-- Whether a device is the current fabric manager. -/
def Dev.isManager (d : Dev) (a : Nat) : Bool := a ≠ 0 && a = d.fld Fld.FAB_MGR_manager_addr 0

/-- Whether a source may write set-up registers (R3, R373). -/
def Dev.mayWrite (d : Dev) (src : RegSource) : Bool :=
  match src with
  | .option => true
  | .manager => true
  | .mgmt => true
  | .mortar a => d.isManager a || d.granted a
  | .gotik => false
  | .other => false

/-- The registers of a commit group with their Reset values (R412). -/
def Group.fields : Group → List (Nat × Nat)
  | .tick => [Reg.TICK_PERIOD_NS, Reg.TICK_PHASE_NS, Reg.TICK_ADMIT].map (fun r => (r.at 0, r.reset))
  | .outgeom s => [Reg.CMP_S_CTRL, Reg.CMP_S_SIZE, Reg.CMP_S_STRIDE, Reg.CMP_S_SLICE, Reg.CMP_S_FRAME, Reg.CMP_S_LEAD,
      Reg.CMP_S_OUT_BASE, Reg.CMP_S_REC_BASE, Reg.CMP_S_SIG_TABLE, Reg.CMP_S_FENCE].map (fun r => (r.at s, r.reset))
  | .cmatrix s => [Reg.CMP_S_CM_0, Reg.CMP_S_CM_1, Reg.CMP_S_CM_2, Reg.CMP_S_CM_3, Reg.CMP_S_CM_4, Reg.CMP_S_CM_5,
      Reg.CMP_S_RANGE_0, Reg.CMP_S_RANGE_1, Reg.CMP_S_RANGE_2].map (fun r => (r.at s, r.reset))
  | .pool p => [Reg.SEQ_P_CTRL, Reg.SEQ_P_TOKENS, Reg.SEQ_P_SEQS, Reg.SEQ_P_PAGES, Reg.SEQ_P_BASE, Reg.SEQ_P_LIST].map
      (fun r => (r.at p, r.reset))
  | .part p => [Reg.PAR_P_CTRL, Reg.PAR_P_MASKS, Reg.PAR_P_GROUPS, Reg.PAR_P_CRING_CFG, Reg.PAR_P_CRING, Reg.PAR_P_SAVE].map
      (fun r => (r.at p, r.reset))

/-- The fields that report a group's pending, reason and error bits, and the element. -/
def Group.status : Group → Fld × Fld × Fld × Nat
  | .tick => (Fld.TICK_COMMIT_STATUS_pending, Fld.TICK_COMMIT_STATUS_reason, Fld.TICK_COMMIT_STATUS_error, 0)
  | .outgeom s => (Fld.CMP_S_COMMIT_STATUS_outgeom_pending, Fld.CMP_S_COMMIT_STATUS_reason, Fld.CMP_S_COMMIT_STATUS_error, s)
  | .cmatrix s => (Fld.CMP_S_COMMIT_STATUS_cmatrix_pending, Fld.CMP_S_COMMIT_STATUS_reason, Fld.CMP_S_COMMIT_STATUS_error, s)
  | .pool p => (Fld.SEQ_P_COMMIT_STATUS_pending, Fld.SEQ_P_COMMIT_STATUS_reason, Fld.SEQ_P_COMMIT_STATUS_error, p)
  | .part p => (Fld.PAR_P_COMMIT_STATUS_pending, Fld.PAR_P_COMMIT_STATUS_reason, Fld.PAR_P_COMMIT_STATUS_error, p)

/-- The staged set of a group, if a commit is pending. -/
def Dev.staged? (d : Dev) (g : Group) : Option (NMap Wide) := (d.regs.staged.find? (fun e => e.1 = g)).map (·.2)

/-- A commit: the shadow set is copied into the staged set, in place of an earlier one, and pending is set (R412). -/
def Dev.stage (d : Dev) (g : Group) : Dev :=
  let set : NMap Wide := g.fields.map (fun f => (f.1, d.regs.get f.1 f.2))
  let d : Dev := { d with regs := { d.regs with staged := d.regs.staged.filter (fun e => e.1 ≠ g) ++ [(g, set)] } }
  d.setFld g.status.1 g.status.2.2.2 1

/-- The committed registers with a staged set in force; Reset values are not listed. -/
def mergeSet (committed set : NMap Wide) (g : Group) : NMap Wide :=
  g.fields.foldl (fun m f => match NMap.get? set f.1 with
    | some v => if v = BitVec.ofNat 64 f.2 then NMap.erase m f.1 else NMap.set m f.1 v
    | none => m) committed

/-- The device as if a staged set were in force: the set against which its rules are checked. -/
def Dev.tryGroup (d : Dev) (g : Group) : Dev :=
  match d.staged? g with
  | some s => { d with regs := { d.regs with committed := mergeSet d.regs.committed s g } }
  | none => d

/-- A staged set leaves and pending clears. -/
def Dev.unstage (d : Dev) (g : Group) : Dev :=
  ({ d with regs := { d.regs with staged := d.regs.staged.filter (fun e => e.1 ≠ g) } } : Dev).setFld g.status.1 g.status.2.2.2 0

/-- A staged set becomes the committed set (R413). -/
def Dev.acceptGroup (d : Dev) (g : Group) : Dev := (d.tryGroup g).unstage g

/-- A staged set is refused: error and reason are recorded and the committed set stays (R413). -/
def Dev.refuseGroup (d : Dev) (g : Group) (reason : Nat) : Dev :=
  let st := g.status
  ((d.unstage g).setFld st.2.2.1 st.2.2.2 1).setFld st.2.1 st.2.2.2 (BitVec.ofNat 64 reason)

/-- A write of 1 to a group's commit bit by a source that may write (R3, R412). -/
def Dev.commitBy (d : Dev) (src : RegSource) (g : Group) : Dev := if d.mayWrite src then d.stage g else d

/-- The first failing rule of a list of (failed, reason). -/
def firstReason (l : List (Bool × Nat)) : Option Nat := (l.find? (fun e => e.1)).map (·.2)

end Sys2Proof.Machine
end

