-- ==== Sys2Proof/Machine/Objects.lean ====
section
/-! DEFINITION. The handle table (R304 to R308), references (R307), fence words and their signals (R309, R310), and
fabric fences (R316 to R318). -/

namespace Sys2Proof.Machine

def typMemory : Nat := 1
def typKernel : Nat := 2
def typFence : Nat := 3
def typFabricFence : Nat := 4

/-- Number of handle entries; index 0 is never allocated (R304). -/
def handleEntries : Nat := 1048576

/-- An entry that has never been allocated. -/
def Entry.unused : Entry := ⟨0, 0, .free, 0, none, .none⟩

/-- Entry `i` of the handle table. -/
def Dev.entry (d : Dev) (i : Nat) : Entry := NMap.getD d.sub.entries i Entry.unused

/-- Replaces entry `i`. -/
def Dev.setEntry (d : Dev) (i : Nat) (e : Entry) : Dev := d.withEntries (NMap.set d.sub.entries i e)

/-- Type, generation and index of a handle (R304). -/
def handleType (h : Wide) : Nat := bitsN h 63 56
def handleGen (h : Wide) : Nat := bitsN h 55 24
def handleIndex (h : Wide) : Nat := bitsN h 23 0

/-- A handle from its parts. -/
def mkHandle (typ : Nat) (gen : Word) (idx : Nat) : Wide :=
  BitVec.ofNat 64 (typ * 2 ^ 56 + gen.toNat * 2 ^ 24 + idx)

/-- Whether a handle is current (R304). -/
def Dev.current (d : Dev) (h : Wide) : Bool :=
  let e := d.entry (handleIndex h)
  handleIndex h < handleEntries && handleIndex h ≠ 0 && e.state = .live && e.typ = handleType h
    && e.gen.toNat = handleGen h

/-- Whether a handle names a FENCE or FABRIC_FENCE. -/
def isFenceHandle (h : Wide) : Bool := handleType h = typFence || handleType h = typFabricFence

/-- The handle of a live entry. -/
def Dev.handleOf (d : Dev) (i : Nat) : Wide := let e := d.entry i; mkHandle e.typ e.gen i

/-- Registered FENCE and FABRIC_FENCE objects (SUB_TABLES.fences). -/
def Dev.fenceCount (d : Dev) : Nat :=
  (d.sub.entries.filter (fun e => (e.2.state = .live || e.2.state = .dying)
    && (e.2.typ = typFence || e.2.typ = typFabricFence))).length

/-- LIVE and DYING entries (SUB_TABLES.handles). -/
def Dev.handleCount (d : Dev) : Nat :=
  (d.sub.entries.filter (fun e => e.2.state = .live || e.2.state = .dying)).length

/-- Fabric fence slots in use: mirrors and exports (R316). -/
def Dev.fabricSlots (d : Dev) : Nat :=
  (d.sub.entries.filter (fun e => (e.2.state = .live || e.2.state = .dying) && e.2.typ = typFabricFence)).length
    + d.sub.exports.length

/-- The entry that the next creation takes: entries never allocated come first, then freed ones in the order in which
they became free (R306). -/
def Dev.nextEntry (d : Dev) : Option Nat :=
  if d.sub.fresh < handleEntries then some d.sub.fresh else d.sub.freed.head?

/-- Allocates the next entry with an object in it and its owner's reference (R306, R307). -/
def Dev.alloc (d : Dev) (typ : Nat) (p : Payload) : Option (Nat × Dev) :=
  match d.nextEntry with
  | none => none
  | some i =>
    let e := d.entry i
    let s := if d.sub.fresh < handleEntries then { d.sub with fresh := d.sub.fresh + 1 }
      else { d.sub with freed := d.sub.freed.drop 1 }
    let d := { d with sub := s }
    some (i, d.setEntry i ⟨e.gen, typ, .live, 1, none, p⟩)

/-- Puts an entry, whose generation has been incremented, back among the free ones; one that was freed with generation
0xFFFF_FFFF, so that the increment wrapped, is retired (R306). -/
def Dev.release (d : Dev) (i : Nat) : Dev :=
  let e := d.entry i
  if e.gen = 0 then d.setEntry i { Entry.unused with state := .retired }
  else
    let d := d.setEntry i { Entry.unused with gen := e.gen }
    { d with sub := { d.sub with freed := d.sub.freed ++ [i] } }

/-- Takes one reference to an entry (R307). -/
def Dev.takeRef (d : Dev) (i : Nat) : Dev := let e := d.entry i; d.setEntry i { e with refs := e.refs + 1 }

/-! ## Fence words -/

/-- The new value of a fence word under a signal, or none when it stays, with the counters that move (R309, R310):
`v` is the value, or none for an increment. -/
def signalValue (word : Wide) (v : Option Wide) : Option Wide :=
  if word = BitVec.allOnes 64 then none
  else match v with
    | none => some (word + 1)
    | some v => if word.toNat < v.toNat then some v else none

/-- Performs a signal on the word at a local offset: whether it changed, and the device. The access is held while the
DRAM wrapper is closed (R405) and dropped in FAULT (R407). -/
def Dev.signalWord (d : Dev) (off : Nat) (v : Option Wide) : Bool × Dev :=
  match d.localRead off 8 with
  | (_, .wait, _) => (false, { d with sub := { d.sub with heldSignals := d.sub.heldSignals ++ [(off, v)] } })
  | (_, .fail _, _) => (false, d)
  | (d1, .ok, bs) =>
    let w : Wide := BitVec.ofNat 64 (leNat bs)
    if w = BitVec.allOnes 64 then (false, d1.bump Fld.SUB_FENCE_TERMINAL_count 0 1)
    else match signalValue w v with
      | some x => (true, (d1.localWrite Asker.none true none .local off (leBytes 8 x.toNat)).1)
      | none => match v with
        | some y => (false, if y.toNat < w.toNat then d1.bump Fld.SUB_FENCE_LOWER_count 0 1 else d1)
        | none => (false, d1)

/-- Fabric fences while the domain is split (R318, R393): performed on the owning side, waiting while FORMING, and
PARTITIONED on the non-owning side. -/
def Dev.sharedGate (d : Dev) : Acc :=
  match d.side with
  | 1 => .ok
  | 0 => .wait
  | _ => .fail Sts.partitioned

/-- Sends a fence's value to its subscribers (R317). -/
def Dev.pushFence (d : Dev) (i : Nat) (off : Nat) : Dev :=
  let v := (d.wordRead off).getD 0
  (NMap.getD d.sub.exports i []).eraseDups.foldl (fun d a =>
    d.issueKept ⟨gotikRing, 0, 6, 2, 2, a, 0, 0, none, 0, .fenceSignal i,
      leBytes 8 (d.handleOf i).toNat ++ leBytes 8 v.toNat⟩) d

/-- A fence word has been changed by a signal that names it by its place: where it is exported, its subscribers get the value
(R312, R317). -/
def Dev.pushWord (d : Dev) (off : Nat) : Dev :=
  (d.sub.exports.map (·.1)).foldl (fun (d : Dev) i => if (d.entry i).payload = .fence off then d.pushFence i off else d) d

/-- Signals the fence of an entry (R309, R317): a FENCE's word here, a FABRIC_FENCE at its home. `use` says what the
operation to the home is for. -/
def Dev.signalEntry (d : Dev) (ring : Nat) (serial : Wide) (i : Nat) (v : Option Wide) : Dev × Acc :=
  match (d.entry i).payload with
  | .fence off =>
    if (NMap.get? d.sub.exports i).isSome then
      match d.sharedGate with
      | .ok => let r := d.signalWord off v; ((if r.1 then r.2.pushFence i off else r.2), .ok)
      | g => (d, g)
    else ((d.signalWord off v).2, .ok)
  | .mirror _ home h lost =>
    if lost then (d, .fail Sts.staleHandle)
    else match d.sharedGate with
      | .ok => d.issue ⟨ring, serial, 6, (if v.isSome then 0 else 1), 2, home, 0, 0, none, 0, .fenceSignal i,
          leBytes 8 h.toNat ++ leBytes 8 (v.getD 0).toNat⟩
      | g => (d, g)
  | _ => (d, .ok)

/-- Ends the fabric side of a freed object: a mirror unsubscribes at its home unless the home has ended its subscription (R308,
R316), and an exported fence ends its subscriptions (R317). -/
def Dev.endFabric (d : Dev) (i : Nat) : Dev :=
  match (d.entry i).payload with
  | .mirror _ home h lost =>
    if lost then d
    else d.issueKept ⟨gotikRing, 0, 6, 4, 2, home, 0, 0, none, 0, .subscribe, leBytes 8 h.toNat ++ leBytes 8 0⟩
  | .fence _ =>
    let subs := (NMap.getD d.sub.exports i []).eraseDups
    let d := subs.foldl (fun d a => d.issueKept ⟨gotikRing, 0, 6, 5, 2, a, 0, 0, none, 0, .subscribe,
      leBytes 8 (d.handleOf i).toNat ++ leBytes 8 0⟩) d
    { d with sub := { d.sub with exports := NMap.erase d.sub.exports i } }
  | _ => d

/-- Drops one reference to each listed entry (R307). -/
def Dev.drop (d : Dev) (refs : List Nat) : Dev :=
  refs.foldl (fun d i => let e := d.entry i; d.setEntry i { e with refs := e.refs - 1 }) d

/-- Entries that an object holds references to: a kernel holds its code memory (R326). -/
def Payload.holds : Payload → List Nat
  | .kernel _ _ code _ _ _ _ _ => [code]
  | _ => []

/-- A DYING entry without references becomes FREE and gives up what its object holds; its release fence is signalled and
then loses its reference. While a shared release fence must wait, nothing happens (R307, R308, R393). -/
def Dev.freeEntry (d : Dev) (i : Nat) : Dev :=
  let e := d.entry i
  if e.state = .dying ∧ e.refs = 0 then
    match e.release with
    | none => (d.release i).drop e.payload.holds
    | some r =>
      match d.signalEntry gotikRing 0 r.fence (some r.value) with
      | (_, .wait) => d
      | (d, _) => (d.release i).drop (e.payload.holds ++ [r.fence])
  else d

/-- Frees an entry at once with its generation incremented: a creation whose result could not be written (R305). -/
def Dev.unmake (d : Dev) (i : Nat) : Dev :=
  let d := d.endFabric i
  let e := d.entry i
  ((d.setEntry i { e with gen := e.gen + 1 }).release i).drop e.payload.holds

/-- A signal of the device's own to the fence of an entry; while it must wait it is held (R389, R393). -/
def Dev.signalKept (d : Dev) (i : Nat) (v : Option Wide) : Dev :=
  match d.signalEntry gotikRing 0 i v with
  | (d, .wait) => { d with sub := { d.sub with heldEntries := d.sub.heldEntries ++ [(i, v, d.now)] } }
  | (d, _) => d

/-- Signals the fence that a handle names, where it is current. -/
def Dev.signalHandle (d : Dev) (h : Wide) (v : Option Wide) : Dev :=
  if d.current h && isFenceHandle h then d.signalKept (handleIndex h) v else d

/-- Held signals are tried again in the order in which they were made; one that has been held for native_us is given up
(R389, R393). -/
def Dev.retrySignals (d : Dev) : Dev :=
  d.sub.heldEntries.foldl (fun (d : Dev) x =>
    match d.signalEntry gotikRing 0 x.1 x.2.1 with
    | (e, .wait) =>
      if x.2.2 + 1000 * d.fld Fld.FAB_OP_TIMEOUT_native_us 0 ≤ d.now then e
      else { e with sub := { e.sub with heldEntries := e.sub.heldEntries ++ [x] } }
    | (e, _) => e) { d with sub := { d.sub with heldEntries := [] } }

/-- The value that a register which names a fence takes holds one reference to it; the value before gives its own up
(R307). -/
def Dev.regRef (d : Dev) (off : Nat) (h : Wide) : Dev :=
  let old := (d.sub.regRefs.filter (fun x => x.1 = off)).map (·.2)
  let rest := d.sub.regRefs.filter (fun x => x.1 ≠ off)
  let d := d.drop old
  if d.current h && isFenceHandle h then
    { d.takeRef (handleIndex h) with sub := { (d.takeRef (handleIndex h)).sub with regRefs := rest ++ [(off, handleIndex h)] } }
  else { d with sub := { d.sub with regRefs := rest } }

/-- Signals the fence that a register's committed value names: the one it holds a reference to (R239, R307). -/
def Dev.signalReg (d : Dev) (off : Nat) (v : Option Wide) : Dev :=
  match d.sub.regRefs.find? (fun x => x.1 = off) with
  | some x => d.signalKept x.2 v
  | none => d

end Sys2Proof.Machine
end

