-- ==== Sys2Proof/Machine/Translate.lean ====
section
/-! DEFINITION. Address translation and faults (chapter 10): table walks, leaf checks, translation caches, fault records
and batches, refusals after translation, and the translated accesses of ring-driven engines. -/

namespace Sys2Proof.Machine

/-- Access kinds of a fault record (R238). -/
def accRead : Nat := 0
def accWrite : Nat := 1
def accAtomic : Nat := 2
def accExecute : Nat := 3

/-- Fault kinds (R238). -/
def kindNotMapped : Nat := 1
def kindPermission : Nat := 2
def kindTableError : Nat := 3

/-- Who makes a translated request. -/
structure Req where
  ring : Nat
  serial : Wide
  /-- partition of the ring; none for Gotik, whose accesses skip the partition check -/
  part : Option Nat
  asid : Nat
  engine : Nat
  unit : Nat
  context : Nat
  /-- compute die on which it stands, none for the I/O die (R16) -/
  die : Option Nat
  stream : Stream
  deriving DecidableEq, Repr

/-- Who asks for memory in a request. -/
def Req.asker (q : Req) : Asker := ⟨q.part, if q.ring < 1024 then some q.context else none, q.die⟩

/-- How a walk ends. -/
inductive Walk where
  | leaf (entry : Wide) (level : Nat)
  | fault (kind level : Nat)
  | wait
  deriving DecidableEq, Repr

/-- log2 of the page a leaf maps at a level (R226). -/
def pageLog2 : Nat → Nat
  | 1 => 30
  | 2 => 21
  | _ => 16

/-- log2 of the size and alignment of the table at a level (R226). -/
def tableLog2 : Nat → Nat
  | 0 => 16
  | 3 => 8
  | _ => 12

/-- Index of a virtual address at a level (R226). -/
def tableIndex (level va : Nat) : Nat :=
  match level with
  | 0 => va / 2 ^ 39 % 8192
  | 1 => va / 2 ^ 30 % 512
  | 2 => va / 2 ^ 21 % 512
  | _ => va / 2 ^ 16 % 32

/-- Whether a valid entry at a level is malformed (R229). -/
def Dev.malformed (d : Dev) (level : Nat) (e : Wide) : Bool :=
  let leaf := bit e 1
  let addr := bitsN e 51 8 * 256
  if bitsN e 63 62 ≠ 0 then true
  else if leaf then
    level = 0 || bitsN e 7 6 = 3 || bitsN e 53 52 = 3 || addr % 2 ^ pageLog2 level ≠ 0
      || (!bit e 5 && bitsN e 51 40 ≠ 0)
      || (bit e 5 && (bitsN e 51 40 = 0 || bitsN e 51 40 = 0xFFF))
      || (bit e 5 && bitsN e 51 40 ≠ d.addr && bitsN e 53 52 ≠ 0)
  else
    level = 3 || bitsN e 7 2 ≠ 0 || bitsN e 61 52 ≠ 0 || bitsN e 51 40 ≠ 0 || addr % 2 ^ tableLog2 (level + 1) ≠ 0

/-- Reads a table entry at the home slice; a table lies in DRAM or in the lake window (R227). -/
def Dev.readEntry (d : Dev) (q : Asker) (a : Nat) : Dev × Acc × Wide :=
  match regionOf a with
  | .dram _ => let r := d.readAt q true a 8; (r.1, r.2.1, BitVec.ofNat 64 (leNat r.2.2))
  | .window _ => let r := d.readAt q true a 8; (r.1, r.2.1, BitVec.ofNat 64 (leNat r.2.2))
  | _ => (d, .fail Sts.permissionFault, 0)

/-- Walks from the table at `base` on a level; `fuel` is the number of levels left (R226 to R229). -/
def Dev.walkFrom (q : Asker) (va : Nat) : Nat → Dev → Nat → Nat → Dev × Walk
  | 0, d, level, _ => (d, .fault kindTableError level)
  | fuel + 1, d, level, base =>
    match d.readEntry q (base + 8 * tableIndex level va) with
    | (d, .wait, _) => (d, .wait)
    | (d, .fail _, _) => (d, .fault kindTableError level)
    | (d, .ok, e) =>
      if !bit e 0 then (d, .fault kindNotMapped level)
      else if d.malformed level e then (d, .fault kindTableError level)
      else if bit e 1 then (d, .leaf e level)
      else Dev.walkFrom q va fuel d (level + 1) (bitsN e 39 8 * 256)

/-- The walk of an address space (R227). -/
def Dev.walk (d : Dev) (q : Asker) (asid va : Nat) : Dev × Walk :=
  Dev.walkFrom q va 4 d 0 (d.fld Fld.XLT_AS_ROOT_root asid * 65536)

/-- The checks of a leaf (R232). Gotik skips the partition check. -/
def leafAllows (part : Option Nat) (access : Nat) (e : Wide) : Bool :=
  (match part with
    | some p => bit e (54 + p)
    | none => true)
  && (if access = accRead then bit e 2
      else if access = accWrite then bit e 3
      else if access = accAtomic then bit e 2 && bit e 3 && bitsN e 53 52 = 0
      else bit e 4)

/-- The cached translation of a page, if the device holds one (R233). -/
def Dev.cached? (d : Dev) (asid va : Nat) : Option Xlat :=
  d.xlt.cache.find? (fun x => x.asid = asid && x.va ≤ va && va < x.va + x.size)

/-- Level of a page size. -/
def sizeLevel (size : Nat) : Nat := if size = 2 ^ 30 then 1 else if size = 2 ^ 21 then 2 else 3

/-- Outcome of a translation. -/
inductive Xl where
  | ok (leaf : Wide) (level : Nat)
  | fault (kind level : Nat)
  /-- an immediate failure, which writes no record (R224) -/
  | fail (status : Half)
  | wait
  deriving DecidableEq, Repr

/-- Translates one virtual address for an access: with a cached leaf when there is one, else by a walk whose leaf is
cached once its checks pass (R232, R233). -/
def Dev.translate (d : Dev) (q : Req) (va : Wide) (access : Nat) : Dev × Xl :=
  let part := q.part
  let asid := q.asid
  if bitsN va 63 52 ≠ 0 then (d.bump Fld.XLT_FAULTS_count 0 1, .fail Sts.translationFault)
  else if d.fld Fld.XLT_AS_CTRL_enable asid = 0 then (d, .fail Sts.translationFault)
  else match d.cached? asid va.toNat with
    | some x =>
      if leafAllows part access x.leaf then (d, .ok x.leaf (sizeLevel x.size)) else (d, .fault kindPermission (sizeLevel x.size))
    | none => match d.walk q.asker asid va.toNat with
      | (d, .wait) => (d, .wait)
      | (d, .fault k l) => (d, .fault k l)
      | (d, .leaf e l) =>
        if leafAllows part access e then
          let size := 2 ^ pageLog2 l
          let x : Xlat := ⟨asid, va.toNat / size * size, size, e⟩
          ({ d with xlt := { d.xlt with cache := d.xlt.cache ++ [x] } }, .ok e l)
        else (d, .fault kindPermission l)

/-- Where an access goes (R230). -/
inductive Target where
  | here (a : Nat)
  | there (device a : Nat)
  deriving DecidableEq, Repr

/-- The physical address of an access through a leaf (R230). -/
def Dev.physical (d : Dev) (leaf : Wide) (level : Nat) (va : Nat) : Target :=
  let sz := 2 ^ pageLog2 level
  let base := bitsN leaf 39 8 * 256 / sz * sz
  let a := base + va % sz
  let dev := bitsN leaf 51 40
  if bit leaf 5 ∧ dev ≠ d.addr then .there dev a else .here a

/-- Whether an access to another device is refused after translation: to its register window, which no leaf may reach, or to
its springs (R19, R215). -/
def farRefused (a : Nat) : Bool :=
  match regionOf a with
  | .regs _ => true
  | .spring _ => true
  | _ => false

/-- log2 of the bytes that one entry covers at a level (R226). -/
def entryLog2 : Nat → Nat
  | 0 => 39
  | 1 => 30
  | 2 => 21
  | _ => 16

/-- How many bytes from a virtual address on lie in its page, as its translation shows it; where the walk found no leaf, in
the region of the entry at which it stopped. -/
def Xl.room (x : Xl) (va : Wide) : Option Nat :=
  match x with
  | .ok _ l => some (2 ^ entryLog2 l - va.toNat % 2 ^ entryLog2 l)
  | .fault _ l => some (2 ^ entryLog2 l - va.toNat % 2 ^ entryLog2 l)
  | _ => none

/-- The parts of a request, which crosses at most one page boundary, with their translations (R234). -/
def Dev.splitRequest (d : Dev) (q : Req) (va : Wide) (n access : Nat) : Dev × List (Wide × Nat × Xl) :=
  let x := d.translate q va access
  match x.2.room va with
  | none => (x.1, [(va, n, x.2)])
  | some k =>
    if n ≤ k then (x.1, [(va, n, x.2)])
    else
      let y := x.1.translate q (va + BitVec.ofNat 64 k) access
      (y.1, [(va, k, x.2), (va + BitVec.ofNat 64 k, n - k, y.2)])

/-- The refusals after translation (R19, R200, R215, R249, R338): true when the access is refused. `brick` tells an
access by a brick, which alone may reach the spring port. -/
def Dev.refused (d : Dev) (part : Option Nat) (brick : Bool) (leaf : Wide) (a : Nat) : Bool :=
  match regionOf a with
  | .dram o =>
    (bitsN leaf 53 52 ≠ 0 && !d.inCwin o)
    || (match part, d.groupOwner (groupOf o) with
        | some p, some q => p ≠ q
        | _, _ => false)
  | .window _ => bitsN leaf 53 52 ≠ 0
  | .doorbell _ _ => bitsN leaf 53 52 ≠ 0
  | .spring _ => !brick || bitsN leaf 53 52 ≠ 0
  | _ => true

/-! ## Fault records and batches (R237 to R240) -/

/-- Fault state of an address space. -/
def AsSt.initial : AsSt := ⟨0, 0, 0, 0, [], 0, []⟩

/-- Fault state of address space `n`. -/
def Dev.space (d : Dev) (n : Nat) : AsSt := NMap.getD d.xlt.spaces n AsSt.initial

/-- Replaces the fault state of an address space. -/
def Dev.setSpace (d : Dev) (n : Nat) (s : AsSt) : Dev := d.withSpaces (NMap.set d.xlt.spaces n s)

/-- Size of a fault ring in records (R237). -/
def Dev.fringSize (d : Dev) (n : Nat) : Nat := 2 ^ d.fld Fld.XLT_AS_CTRL_fring_log2 n

/-- The 32 bytes of a fault record (R238). -/
def FaultRec.bytes (r : FaultRec) (batch index : Nat) (last : Bool) : Bytes :=
  leBytes 8 r.va.toNat ++ leBytes 4 r.len
    ++ leBytes 1 (r.kind + 4 * r.level + 16 * r.access + (if last then 128 else 0)) ++ leBytes 1 index
    ++ leBytes 2 r.context ++ leBytes 4 batch ++ leBytes 1 r.engine ++ leBytes 1 r.unit
    ++ leBytes 2 (if r.ring ≥ 1024 then 0xFFFF else r.ring)
    ++ leBytes 8 (r.part % 8 + (if r.partly then 8 else 0))

/-- The open batch of an address space. -/
def AsSt.open? (s : AsSt) : Option Batch := s.batches.find? (fun b => !b.closed)

/-- Closes the open batch: every record is performed, the last one with its mark, and the fence of XLT_AS_FENCE_n is
signalled with the batch number (R239). Nothing happens while the fault ring's memory cannot be written. -/
def Dev.closeBatch (d : Dev) (n : Nat) : Dev :=
  let s := d.space n
  match s.open? with
  | none => d
  | some b =>
    let base := d.fld Fld.XLT_AS_FRING_base n * 64
    let first := s.prod - b.recs.length
    let k := d.fringSize n
    let idx := List.range b.recs.length
    let writes := (idx.zip b.recs).map (fun p =>
      (base + 32 * ((first + p.1) % k), p.2.bytes b.no p.1 (p.1 + 1 = b.recs.length)))
    match d.memGate (base + 32 * (first % k)) with
    | .wait => d
    | _ =>
      let d := writes.foldl (fun d w => (d.localWrite Asker.none true none .local w.1 w.2).1) d
      let d := d.setSpace n { s with batches := s.batches.map (fun x => if x.no = b.no then { x with closed := true, closedAt := d.now } else x) }
      let d := d.hist 9 b.recs.length
      d.signalReg (Reg.XLT_AS_FENCE.at n) (some (BitVec.ofNat 64 b.no))

/-- Puts a record into the open batch, opening one when there is none, and closes the batch when it is full or the ring
has no room for a further record (R239). -/
def Dev.putRecord (d : Dev) (n : Nat) (r : FaultRec) : Dev :=
  let s := d.space n
  let s : AsSt := match s.open? with
    | some b => { s with batches := s.batches.map (fun x => if x.no = b.no then { x with recs := x.recs ++ [r] } else x) }
    | none => { s with batch := s.batch + 1, openSince := d.now, batches := s.batches ++ [⟨s.batch + 1, [r], false, false, 0⟩] }
  let s : AsSt := { s with prod := s.prod + 1 }
  let d := ((d.setSpace n s).bump Fld.XLT_FAULTS_count 0 1).count 0x0030 1
    ⟨if r.ring < 1024 then some r.part else Option.none, r.context, Option.none⟩
  let full : Bool := match s.open? with
    | some b => decide (b.recs.length ≥ 256)
    | none => false
  if full ∨ s.prod - s.cons ≥ d.fringSize n then d.closeBatch n else d

/-- A faulting request: its record goes into the open batch, or, while the ring is full, its stream stops without a
record and XLT_FRING_STALLS counts it (R237, R240). -/
def Dev.recordFault (d : Dev) (n : Nat) (r : FaultRec) : Dev :=
  let s := d.space n
  let openFull : Bool := match s.open? with
    | some b => decide (b.recs.length ≥ 256)
    | none => false
  if s.prod - s.cons ≥ d.fringSize n ∨ openFull then
    (d.setSpace n { s with waiting := s.waiting ++ [r] }).bump Fld.XLT_FRING_STALLS_count 0 1
  else d.putRecord n r

/-- The record of a request's faulting part. -/
def Req.record (q : Req) (va : Wide) (len kind level access : Nat) (partly : Bool) : FaultRec :=
  ⟨va, len, kind, level, access, q.context, q.engine, q.unit, q.ring, q.part.getD 0, partly, q.stream⟩

/-! ## Accesses of ring-driven engines -/

/-- Outcome of a translated access; a failure names the virtual address it carries in detail (R329). -/
inductive Res where
  | ok
  | wait
  | fail (status : Half) (va : Wide)
  deriving DecidableEq, Repr

/-- Outcome of one part of a request: performed, issued to another device, held up, refused or failed at once, or faulting. -/
inductive PartRes where
  | ok
  | sent
  | wait
  | fail (status : Half)
  | fault (kind level : Nat)
  deriving DecidableEq, Repr

/-- Whether a part of a request has been performed (R238). -/
def PartRes.performed : PartRes → Bool
  | .ok => true
  | .sent => true
  | _ => false

/-- Bytes `[a, a + n)` from a buffer of addressed byte strings, if it has them all; `fuel` bounds the strings used. -/
def bufRead (buf : List (Nat × Bytes)) : Nat → Nat → Nat → Option Bytes
  | 0, _, n => if n = 0 then some [] else none
  | fuel + 1, a, n =>
    if n = 0 then some []
    else match buf.find? (fun e => e.1 ≤ a && a < e.1 + e.2.length) with
      | none => none
      | some e =>
        let k := min n (e.1 + e.2.length - a)
        (bufRead buf fuel (a + k) (n - k)).map (fun t => slice e.2 (a - e.1) k ++ t)

/-- Bytes `[a, a + n)` that a buffer holds. -/
def held (buf : List (Nat × Bytes)) (a n : Nat) : Option Bytes := bufRead buf buf.length a n

/-- Issues the reads of a remote range that are neither received nor outstanding, in whole 4-byte units (R389). -/
def Dev.remoteRead (d : Dev) (q : Req) (buf : List (Nat × Bytes)) (dev a n : Nat) (va : Nat) : Dev × Acc :=
  let lo := a / 4 * 4
  (pieces 256 lo (roundUp (a + n) 4 - lo)).foldl (fun acc p => match acc.2 with
    | .ok =>
      if (held buf (dev * 2 ^ 40 + p.1) p.2).isSome then acc
      else if acc.1.fab.ops.any (fun o => o.ring = q.ring && o.serial = q.serial && o.kind = 1 && o.device = dev && o.addr = p.1
        && !o.dead) then acc
      else acc.1.issue ⟨q.ring, q.serial, 1, 0, 0, dev, p.1, p.2, some q.asid, va + p.1 - a, .cmd, []⟩
    | g => (acc.1, g)) (d, .ok)

/-- Reads one part of a request, which lies in one page; `buf` holds what has come from other devices. -/
def Dev.partRead (d : Dev) (q : Req) (buf : List (Nat × Bytes)) (va : Wide) (n : Nat) (x : Xl) : Dev × PartRes × Bytes :=
  match x with
  | .wait => (d, .wait, [])
  | .fail s => (d, .fail s, [])
  | .fault k l => (d, .fault k l, [])
  | .ok leaf level =>
    match d.physical leaf level va.toNat with
    | .here a =>
      if d.refused q.part false leaf a then (d, .fail Sts.permissionFault, [])
      else match d.readAt q.asker (bitsN leaf 7 6 ≠ 2) a n with
        | (d, .ok, bs) => (d, .ok, bs)
        | (d, .wait, _) => (d, .wait, [])
        | (d, .fail s, _) => (d, .fail s, [])
    | .there dev a =>
      if farRefused a then (d, .fail Sts.permissionFault, [])
      else match held buf (dev * 2 ^ 40 + a) n with
        | some bs => (d, .ok, bs)
        | none => match d.remoteRead q buf dev a n va.toNat with
          | (d, .ok) => (d, .sent, [])
          | (d, .wait) => (d, .wait, [])
          | (d, .fail s) => (d, .fail s, [])

/-- Writes one part of a request, which lies in one page. A remote part is issued as writes whose acknowledgements the
command's retirement waits for (R82, R302). -/
def Dev.partWrite (d : Dev) (q : Req) (va : Wide) (bs : Bytes) (x : Xl) : Dev × PartRes :=
  match x with
  | .wait => (d, .wait)
  | .fail s => (d, .fail s)
  | .fault k l => (d, .fault k l)
  | .ok leaf level =>
    match d.physical leaf level va.toNat with
    | .here a =>
      if d.refused q.part false leaf a then (d, .fail Sts.permissionFault)
      else match d.localWrite q.asker (bitsN leaf 7 6 ≠ 2) (some (bitsN leaf 53 52)) .local a bs with
        | (d, .ok) => (d, .ok)
        | (d, .wait) => (d, .wait)
        | (d, .fail s) => (d, .fail s)
    | .there dev a =>
      let ps := pieces 256 a bs.length
      if farRefused a then (d, .fail Sts.permissionFault)
      else if 16384 < d.fab.ops.length + ps.length then (d, .wait)
      else match ps.foldl (fun (acc : Dev × Acc) p => match acc.2 with
          | .ok => acc.1.issue ⟨q.ring, q.serial, 2, 0, 0, dev, p.1, p.2, some q.asid, va.toNat, .cmd, slice bs (p.1 - a) p.2⟩
          | g => (acc.1, g)) (d, .ok) with
        | (d, .ok) => (d, .sent)
        | (_, .wait) => (d, .wait)
        | (d, .fail s) => (d, .fail s)

/-- Fault records of a stream that name a part and have not been resumed, written or waiting for room: while there is one,
the part is not tried again. -/
def Dev.faultOpen (d : Dev) (asid : Nat) (st : Stream) (va : Wide) (n : Nat) : Bool :=
  let hits := fun (r : FaultRec) => r.stream = st && r.va.toNat < va.toNat + n && va.toNat < r.va.toNat + r.len
  let s := d.space asid
  s.batches.any (fun b => !b.resumed && b.recs.any hits) || s.waiting.any hits

/-- The outcome of a transfer from those of its parts: a failure decides, else anything that is not complete holds it up. -/
def transferRes (ps : List (Wide × Nat × PartRes × Bytes)) : Res :=
  ps.foldl (fun r p => match r, p.2.2.1 with
    | .fail s v, _ => .fail s v
    | _, .fail s => .fail s p.1
    | .wait, _ => .wait
    | .ok, .ok => .ok
    | .ok, _ => .wait) .ok

/-- Records the faults of the parts of a transfer that have none open; a part is marked partial when another part of its
request was performed (R236, R238). -/
def Dev.recordParts (d : Dev) (q : Req) (access : Nat) (partly : Bool) (ps : List (Wide × Nat × PartRes × Bytes)) : Dev :=
  ps.foldl (fun d p => match p.2.2.1 with
    | .fault k l =>
      if d.faultOpen q.asid q.stream p.1 p.2.1 then d
      else d.recordFault q.asid (q.record p.1 p.2.1 k l access
        (partly || ps.any (fun x => x.1 ≠ p.1 && x.2.2.1.performed)))
    | _ => d) d

/-- One transfer of a ring-driven engine that reads (R234, R235): a part that faults is recorded while the other part is
fetched. `buf` holds what has come from other devices and `memo` the parts that are already read, by virtual address; the
parts read now are in the last result. -/
def Dev.transferRead (d : Dev) (q : Req) (buf memo : List (Nat × Bytes)) (va : Wide) (n : Nat) :
    Dev × Res × Bytes × List (Nat × Bytes) :=
  match held memo va.toNat n with
  | some bs => (d, .ok, bs, [])
  | none =>
    let s := d.splitRequest q va n accRead
    let r := s.2.foldl (fun (acc : Dev × List (Wide × Nat × PartRes × Bytes)) p =>
      match held memo p.1.toNat p.2.1 with
      | some bs => (acc.1, acc.2 ++ [(p.1, p.2.1, .ok, bs)])
      | none =>
        let x := acc.1.partRead q buf p.1 p.2.1 p.2.2
        (x.1, acc.2 ++ [(p.1, p.2.1, x.2)])) (s.1, [])
    let got := r.2.filterMap (fun p => if p.2.2.1 = .ok then some (p.1.toNat, p.2.2.2) else none)
    (r.1.recordParts q accRead false r.2, transferRes r.2, r.2.flatMap (fun p => p.2.2.2), got)

/-- One transfer that writes (R236): the parts that do not fault are written; the writes left are those to perform
again. A part of a write whose other part was performed before keeps that mark. -/
def Dev.transferWrite (d : Dev) (q : Req) (w : VWrite) : Dev × Res × List VWrite :=
  let s := d.splitRequest q w.va w.data.length accWrite
  let r := s.2.foldl (fun (acc : Dev × List (Wide × Nat × PartRes × Bytes)) p =>
    let b := slice w.data (p.1 - w.va).toNat p.2.1
    if acc.1.faultOpen q.asid q.stream p.1 p.2.1 then (acc.1, acc.2 ++ [(p.1, p.2.1, .wait, b)])
    else
      let x := acc.1.partWrite q p.1 b p.2.2
      (x.1, acc.2 ++ [(p.1, p.2.1, x.2, b)])) (s.1, [])
  let partly := w.partly || r.2.any (fun x => x.2.2.1.performed)
  let left := r.2.filterMap (fun p => match p.2.2.1 with
    | .wait => some (⟨p.1, p.2.2.2, partly⟩ : VWrite)
    | .fault _ _ => some ⟨p.1, p.2.2.2, partly⟩
    | _ => none)
  (r.1.recordParts q accWrite w.partly r.2, transferRes (r.2.filter (fun p => !p.2.2.1.performed)), left)

/-- Engine codes of R238. -/
def engBrick : Nat := 0
def engSpring : Nat := 1
def engRaster : Nat := 2
def engCompression : Nat := 3
def engSequence : Nat := 4
def engMaintenance : Nat := 5
def engRingFetch : Nat := 6
def engOther : Nat := 7

/-- The request a command makes through its ring's address space, by an engine on a compute die or, with none, on the I/O
die. -/
def Cmd.reqFrom (c : Cmd) (engine : Nat) (die : Option Nat) : Req :=
  ⟨c.ring, c.serial, if c.gotik then none else some c.part, c.asid, engine, 0, c.context, die, .cmd c.ring c.serial⟩

/-- The request of an engine on the I/O die. -/
def Cmd.req (c : Cmd) (engine : Nat) : Req := c.reqFrom engine none

/-- Whether a fault record of a command has not been resumed, written or waiting for room. -/
def Dev.cmdFaulted (d : Dev) (c : Cmd) : Bool :=
  let s := d.space c.asid
  s.batches.any (fun b => !b.resumed && b.recs.any (fun r => r.stream = .cmd c.ring c.serial))
    || s.waiting.any (fun r => r.stream = .cmd c.ring c.serial)

/-- Marks a command stopped on a fault, when its stream has a record or waits for one. -/
def Dev.markFaulted (d : Dev) (c : Cmd) : Dev :=
  if d.cmdFaulted c then d.modCmd c.ring c.serial (fun c => { c with faulted := true }) else d

/-- A command keeps bytes that it has read until its present phase ends (R235, R237). -/
def Dev.keepInput (d : Dev) (c : Cmd) (got : List (Nat × Bytes)) : Dev :=
  if got.isEmpty then d else d.modCmd c.ring c.serial (fun x => { x with input := x.input ++ got })

/-- A command enters a phase that reads memory anew. -/
def Dev.freshInput (d : Dev) (ring : Nat) (serial : Wide) : Dev :=
  d.modCmd ring serial (fun x => { x with input := [], remote := [] })

/-- Reads `n` bytes for a command from a die in transfers of at most 4,096 bytes; the first transfer that does not succeed
stops the command, and what it has read stays read: a replay begins at the transfer that faulted (R234, R235, R237). -/
def Dev.cmdReadFrom (d : Dev) (c : Cmd) (engine : Nat) (die : Option Nat) (va : Wide) (n : Nat) : Dev × Res × Bytes :=
  let c := (d.cmd? c.ring c.serial).getD c
  let r := (transfers 4096 va.toNat n).foldl (fun (acc : Dev × Res × Bytes) t => match acc.2.1 with
    | .ok =>
      let x := acc.1.transferRead (c.reqFrom engine die) c.remote c.input (BitVec.ofNat 64 t.1) t.2
      (x.1.keepInput c x.2.2.2, x.2.1, acc.2.2 ++ x.2.2.1)
    | _ => acc) (d, .ok, [])
  match r.2.1 with
  | .wait => (r.1.markFaulted c, .wait, [])
  | .fail s v => (r.1, .fail s v, [])
  | .ok => r

/-- Reads for a command by an engine of the I/O die. -/
def Dev.cmdRead (d : Dev) (c : Cmd) (engine : Nat) (va : Wide) (n : Nat) : Dev × Res × Bytes := d.cmdReadFrom c engine none va n

/-- Performs the writes of a command in order, in transfers of at most 4,096 bytes, until one does not succeed: the
device, the outcome, and the writes left. -/
def Dev.cmdWritesFrom (c : Cmd) (engine : Nat) (die : Option Nat) : Dev → List VWrite → Dev × Res × List VWrite
  | d, [] => (d, .ok, [])
  | d, w :: ws =>
    let ts := (transfers 4096 w.va.toNat w.data.length).map (fun t =>
      (⟨BitVec.ofNat 64 t.1, slice w.data (t.1 - w.va.toNat) t.2, w.partly⟩ : VWrite))
    let r := ts.foldl (fun (acc : Dev × Res × List VWrite) t => match acc.2.1 with
      | .ok => acc.1.transferWrite (c.reqFrom engine die) t
      | _ => (acc.1, acc.2.1, acc.2.2 ++ [t])) (d, .ok, [])
    match r.2.1 with
    | .ok => Dev.cmdWritesFrom c engine die r.1 ws
    | .wait => (r.1.markFaulted c, .wait, r.2.2 ++ ws)
    | f => (r.1, f, [])

/-- Writes of a command by an engine of the I/O die. -/
def Dev.cmdWrites (c : Cmd) (engine : Nat) (d : Dev) (ws : List VWrite) : Dev × Res × List VWrite :=
  Dev.cmdWritesFrom c engine none d ws

/-- A part of a write that ends under way leaves undefined bytes in memory of this device. -/
def Dev.spoilPart (d : Dev) (q : Req) (free : Nat) (va : Wide) (n : Nat) (x : Xl) : Dev :=
  match x with
  | .ok leaf level => match d.physical leaf level va.toNat with
    | .here _ => (d.partWrite q va ((List.range n).map (fun k => Config.freeByte free (va.toNat + k))) x).1
    | .there _ _ => d
  | _ => d

/-- The memory of writes that a command ends without having made, and that the spec calls undefined then: free bytes, where it can
be reached; nothing faults. -/
def Dev.spoil (d : Dev) (c : Cmd) (engine : Nat) (die : Option Nat) (ws : List VWrite) : Dev :=
  let f := d.fresh
  let q := c.reqFrom engine die
  ws.foldl (fun d w => (transfers 4096 w.va.toNat w.data.length).foldl (fun d t =>
    let s := d.splitRequest q (BitVec.ofNat 64 t.1) t.2 accWrite
    s.2.foldl (fun d p => d.spoilPart q f.1 p.1 p.2.1 p.2.2) s.1) d) f.2

/-- Carries on a command whose writes are in progress; when the last is performed the command ends with its outcome, and
a failing write ends it with that failure. -/
def Dev.drainWrites (d : Dev) (c : Cmd) (engine : Nat) (left : List VWrite) (status : Half) (detail : Wide) (unit : Nat) : Dev :=
  match Dev.cmdWrites c engine d left with
  | (d, .ok, _) => d.endCmd c.ring c.serial status detail unit
  | (d, .wait, l) => d.setRun c.ring c.serial (.writing l status detail unit)
  | (d, .fail s va, _) => d.endCmd c.ring c.serial s va noUnit

end Sys2Proof.Machine
end

