-- ==== Sys2Proof/Machine/Operands.lean ====
section
/-! DEFINITION. Descriptor operands: the common header (R320), and bytes 16 to 63 of every command, field by field as
the descriptor tables give them, with the reserved bits each must keep zero (R7). -/

namespace Sys2Proof.Machine

/-- Mask of descriptor fields, each given as (offset, high, low). -/
def fieldMask (fs : List (Nat × Nat × Nat)) : Nat :=
  fs.foldl (fun m f => m ||| ((2 ^ (f.2.1 - f.2.2 + 1) - 1) <<< (8 * f.1 + f.2.2))) 0

/-- Whether every bit of bytes 16 to 63 outside the given fields is zero (R7). -/
def reservedZero (l : Line) (fs : List (Nat × Nat × Nat)) : Bool :=
  let body := l.toNat / 2 ^ 128
  body &&& fieldMask (fs.map (fun f => (f.1 - 16, f.2))) = body

/-! The common header (R320). -/

def hdrOpcode (l : Line) : Nat := dfield l 0 7 0
def hdrOverlap (l : Line) : Bool := dfield l 1 0 0 = 1
def hdrReserved (l : Line) : Nat := dfield l 1 7 1
def hdrContext (l : Line) : Nat := dfield l 2 15 0
def hdrTag (l : Line) : Nat := dfield l 4 31 0
def hdrFence (l : Line) : Wide := dwide l 8

/-! RING_CREATE (R292). -/

structure RingCreateD where
  ring : Nat
  sizeLog2 : Nat
  asid : Nat
  cls : Nat
  cqMode : Nat
  dbSource : Nat
  cqLog2 : Nat
  dbId : Nat
  budget : Nat
  base : Wide
  cqBase : Wide
  cqCons : Wide
  start : Wide
  deriving DecidableEq, Repr

def ringCreateD (l : Line) : RingCreateD :=
  ⟨dfield l 16 9 0, dfield l 18 4 0, dfield l 19 7 0, dfield l 20 1 0, dfield l 20 3 2, dfield l 20 5 4, dfield l 21 4 0,
    dfield l 22 11 0, dfield l 24 31 0, dwide l 32, dwide l 40, dwide l 48, dwide l 56⟩

def ringCreateFields : List (Nat × Nat × Nat) :=
  [(16, 9, 0), (18, 4, 0), (19, 7, 0), (20, 5, 0), (21, 4, 0), (22, 11, 0), (24, 31, 0), (32, 63, 0), (40, 63, 0),
    (48, 63, 0), (56, 63, 0)]

/-! RING_CONTROL (R294). -/

def rctlRing (l : Line) : Nat := dfield l 16 9 0
def rctlOp (l : Line) : Nat := dfield l 18 1 0
def rctlBudget (l : Line) : Nat := dfield l 20 31 0
def rctlValue (l : Line) : Wide := dwide l 24
def rctlRelease (l : Line) : Wide := dwide l 32
def rctlFields : List (Nat × Nat × Nat) := [(16, 9, 0), (18, 1, 0), (20, 31, 0), (24, 63, 0), (32, 63, 0)]

/-! OBJ_CREATE (R305) and OBJ_FREE (R308). -/

def objType (l : Line) : Nat := dfield l 16 7 0
def objHome (l : Line) : Nat := dfield l 20 11 0
def objVa (l : Line) : Wide := dwide l 24
def objArg (l : Line) : Wide := dwide l 32
def objResult (l : Line) : Wide := dwide l 40
def objFields : List (Nat × Nat × Nat) := [(16, 7, 0), (20, 11, 0), (24, 63, 0), (32, 63, 0), (40, 63, 0)]
def freeHandle (l : Line) : Wide := dwide l 16
def freeFence (l : Line) : Wide := dwide l 24
def freeValue (l : Line) : Wide := dwide l 32
def freeFields : List (Nat × Nat × Nat) := [(16, 63, 0), (24, 63, 0), (32, 63, 0)]

/-! FENCE_WAIT (R313) and FENCE_SIGNAL (R314). -/

def waitFence (l : Line) : Wide := dwide l 16
def waitValue (l : Line) : Wide := dwide l 24
def waitTimeoutTicks (l : Line) : Nat := dfield l 32 31 0
def waitFields : List (Nat × Nat × Nat) := [(16, 63, 0), (24, 63, 0), (32, 31, 0)]
def signalIncrement (l : Line) : Bool := dfield l 32 0 0 = 1
def signalFields : List (Nat × Nat × Nat) := [(16, 63, 0), (24, 63, 0), (32, 0, 0)]

/-! KERNEL_LOAD (R325). -/

def kldModule (l : Line) : Wide := dwide l 16
def kldBytes (l : Line) : Nat := dfield l 24 31 0
def kldModel (l : Line) : Nat := dfield l 28 1 0
def kldEntry (l : Line) : Wide := dwide l 32
def kldResult (l : Line) : Wide := dwide l 40
def kldRecord (l : Line) : Wide := dwide l 48
def kldCode (l : Line) : Wide := dwide l 56
def kldFields : List (Nat × Nat × Nat) :=
  [(16, 63, 0), (24, 31, 0), (28, 1, 0), (32, 63, 0), (40, 63, 0), (48, 63, 0), (56, 63, 0)]

/-! DISPATCH (R57). A cluster dimension y or z of 0 is read as 1 when cluster_x is not 0. -/

structure DispatchD where
  kernel : Wide
  grid : Nat × Nat × Nat
  block : Nat × Nat × Nat
  cluster : Nat × Nat × Nat
  split : Nat
  args : Wide
  scratch : Wide
  seed : Wide
  deriving DecidableEq, Repr

def dispatchD (l : Line) : DispatchD :=
  let cx := dfield l 36 3 0
  let one := fun (v : Nat) => if v = 0 ∧ cx ≠ 0 then 1 else v
  ⟨dwide l 16, (dfield l 24 31 0, dfield l 28 15 0, dfield l 30 15 0),
    (dfield l 32 10 0, dfield l 32 21 11, dfield l 32 28 22), (cx, one (dfield l 36 7 4), one (dfield l 36 11 8)),
    dfield l 36 14 12, dwide l 40, dwide l 48, dwide l 56⟩

def dispatchFields : List (Nat × Nat × Nat) :=
  [(16, 63, 0), (24, 31, 0), (28, 15, 0), (30, 15, 0), (32, 28, 0), (36, 14, 0), (40, 63, 0), (48, 63, 0), (56, 63, 0)]

/-! MAINTAIN (R210) and CODEC_RECODE (R263). -/

def mntBase (l : Line) : Wide := dwide l 16
def mntLength (l : Line) : Wide := dwide l 24
def mntOp (l : Line) : Nat := dfield l 32 1 0
def mntPondOnly (l : Line) : Bool := dfield l 32 2 2 = 1
def mntFields : List (Nat × Nat × Nat) := [(16, 63, 0), (24, 63, 0), (32, 2, 0)]
def recodeFields : List (Nat × Nat × Nat) := [(16, 63, 0), (24, 63, 0), (32, 1, 0)]

/-! FAULT_RESUME (R241) and XLT_INVALIDATE (R245). -/

def frsAsid (l : Line) : Nat := dfield l 16 7 0
def frsBatch (l : Line) : Nat := dfield l 20 31 0
def frsFails (l : Line) (i : Nat) : Bool := dfield l (32 + i / 8) (i % 8) (i % 8) = 1
def frsFields : List (Nat × Nat × Nat) := [(16, 7, 0), (20, 31, 0), (32, 255, 0)]
def invAll (l : Line) : Bool := dfield l 17 0 0 = 1
def invBase (l : Line) : Wide := dwide l 24
def invLength (l : Line) : Wide := dwide l 32
def invFields : List (Nat × Nat × Nat) := [(16, 7, 0), (17, 0, 0), (24, 63, 0), (32, 63, 0)]

/-! STREAM_CODEC (R264). -/

structure StreamD where
  src : Wide
  dst : Wide
  srcLen : Nat
  dstLen : Nat
  state : Wide
  result : Wide
  decompress : Bool
  wrapper : Nat
  resume : Bool
  flush : Bool
  final : Bool
  level : Nat
  maxExpand : Nat
  deriving DecidableEq, Repr

def streamD (l : Line) : StreamD :=
  ⟨dwide l 16, dwide l 24, dfield l 32 31 0, dfield l 36 31 0, dwide l 40, dwide l 48, dfield l 56 0 0 = 1,
    dfield l 56 2 1, dfield l 56 3 3 = 1, dfield l 56 4 4 = 1, dfield l 56 5 5 = 1, dfield l 56 9 6, dfield l 60 15 0⟩

def streamFields : List (Nat × Nat × Nat) :=
  [(16, 63, 0), (24, 63, 0), (32, 31, 0), (36, 31, 0), (40, 63, 0), (48, 63, 0), (56, 9, 0), (60, 15, 0)]

/-! ABORT (R353), PREEMPT (R346) and RESTORE (R352). -/

def abtRing (l : Line) : Nat := dfield l 16 9 0
def abtPartition (l : Line) : Bool := dfield l 18 0 0 = 1
def abtFields : List (Nat × Nat × Nat) := [(16, 9, 0), (18, 0, 0)]
def preRing (l : Line) : Nat := dfield l 16 9 0
def preRemote (l : Line) : Bool := dfield l 18 0 0 = 1
def preSave (l : Line) : Wide := dwide l 24
def preBytes (l : Line) : Nat := dfield l 32 31 0
def preFields : List (Nat × Nat × Nat) := [(16, 9, 0), (18, 0, 0), (24, 63, 0), (32, 31, 0)]
def resRing (l : Line) : Nat := dfield l 16 9 0
def resAsid (l : Line) : Nat := dfield l 18 7 0
def resCount (l : Line) : Nat := dfield l 20 31 0
def resSave (l : Line) : Wide := dwide l 24
def resMap (l : Line) : Wide := dwide l 32
def resFields : List (Nat × Nat × Nat) := [(16, 9, 0), (18, 7, 0), (20, 31, 0), (24, 63, 0), (32, 63, 0)]

/-! SIGNED_COMMAND (R327). -/

def sgnBlock (l : Line) : Wide := dwide l 16
def sgnLength (l : Line) : Nat := dfield l 24 31 0
def sgnFields : List (Nat × Nat × Nat) := [(16, 63, 0), (24, 31, 0)]

/-! Completion records (R328). -/

/-- The 32 bytes of a completion record. -/
def recordBytes (l : Line) (serial : Wide) (status : Half) (detail : Wide) (unit ring : Nat) (tick : Wide) : Bytes :=
  leBytes 8 serial.toNat ++ leBytes 2 status.toNat ++ leBytes 1 (hdrOpcode l)
    ++ leBytes 1 ((if hdrOverlap l then 1 else 0) + 2 * (unit % 128)) ++ leBytes 2 (hdrContext l)
    ++ leBytes 2 (ring % 1024) ++ leBytes 4 (hdrTag l) ++ leBytes 4 (tick.toNat % 2 ^ 32) ++ leBytes 8 detail.toNat

end Sys2Proof.Machine
end

