-- ==== Sys2Proof/Machine/Pond.lean ====
section
/-! DEFINITION. The cache part of a pond (R54, R79, R203): its lines, write-back and invalidation, and a change of
split (R55). A pond line's key is the number of its 64-byte line in the global physical map, with device 0 standing for
this device; lines of other devices' memory are fetched and written back by Mortar operations (R78). -/

namespace Sys2Proof.Machine

/-- Bytes of the local-store part of a split (R54). -/
def splitBytes : Nat → Nat
  | 1 => 131072
  | 2 => 262144
  | 3 => 393216
  | 4 => 458752
  | _ => 0

/-- Lines of the cache part of a split (R54). -/
def splitLines (s : Nat) : Nat := (524288 - splitBytes s) / 64

/-- Runs of set bits of a byte mask: offset and length. -/
def runsOf (m : Wide) : Nat → List (Nat × Nat)
  | 0 => []
  | n + 1 =>
    let i := 63 - n
    if m.getLsbD i then
      match runsOf m n with
      | (o, k) :: t => if o = i + 1 then (i, k + 1) :: t else (i, 1) :: (o, k) :: t
      | [] => [(i, 1)]
    else runsOf m n

/-- The partition whose committed wall_mask has a brick's wall. -/
def Dev.brickPart (d : Dev) (n : Nat) : Option Nat :=
  (List.range 8).find? (fun p => d.cfld Fld.PAR_P_CTRL_enable p = 1 && (d.cfld Fld.PAR_P_MASKS_wall_mask p).testBit (n / 8))

/-- The key of the line of a physical address. -/
def pondKey (device a : Nat) : Nat := (device * 2 ^ 40 + a) / 64

/-- Device and local offset of a line; device 0 is this one. -/
def keyDevice (key : Nat) : Nat := key / 2 ^ 34
def keyOffset (key : Nat) : Nat := key % 2 ^ 34 * 64

/-- Whether a command's traffic is maintenance, which has no ring's ways (R203). -/
def Cmd.maintains (c : Cmd) : Bool := c.opcode = 0x40 || c.opcode = 0x51

/-- Who asks when a pond fetches or writes back a line for a command of a ring. -/
def Dev.pondAsker (d : Dev) (n : Nat) (who : Option (Nat × Wide)) : Asker :=
  match who.bind (fun w => d.cmd? w.1 w.2) with
  | some c => ⟨if c.gotik || c.maintains then none else some c.part, some c.context, some (n / 48)⟩
  | none => ⟨d.brickPart n, none, some (n / 48)⟩

/-- An access of a dispatch or pass to another device fails: it is to end with the status and the block (R83, R347). -/
def Dev.noteFault (d : Dev) (r : BlockRef) (status : Half) : Dev :=
  d.modCmd r.ring r.serial (fun c => match c.run with
    | .dispatch x => { c with run := .dispatch { x with remoteFault := some (x.remoteFault.getD (status, r.block)) } }
    | .pass p => { c with run := .pass { p with remoteFault := some (p.remoteFault.getD (status, r.block)) } }
    | _ => c)

/-- Writes the runs of dirty bytes of one line to its home device: those that are issued become clean, and one that has no
route fails the command that asks, or else the access of the block that wrote the line (R79, R82, R83, R389). -/
def Dev.cleanFar (d : Dev) (n key : Nat) (who : Option (Nat × Wide)) (l : PondLine) : Dev :=
  let w := who.getD ((l.owner.map (fun r => (r.ring, r.serial))).getD (gotikRing, 0))
  (runsOf l.dirty 64).foldl (fun d r =>
    let clean := fun (d : Dev) => d.modBrick n (fun b => { b with
      pond := NMap.modify b.pond key (fun l => { l with dirty := l.dirty &&& ~~~(BitVec.ofNat 64 ((2 ^ r.2 - 1) * 2 ^ r.1)) }) })
    match d.issue ⟨w.1, w.2, 2, 0, 0, keyDevice key, keyOffset key + r.1, r.2, none, 0, .pond n l.owner, slice l.data r.1 r.2⟩ with
    | (d, .ok) => clean d
    | (d, .wait) => d
    | (d, .fail s) => match who, l.owner with
      | some w, _ => (clean d).endCmd w.1 w.2 s (BitVec.ofNat 64 (64 * key + r.1)) noUnit
      | none, some o => (clean d).noteFault o s
      | none, none => clean d) d

/-- Writes one dirty line of a pond to its home slice or home device, for a command if one asks; it stays dirty while its home
cannot be reached (R79, R405). -/
def Dev.cleanPondLine (d : Dev) (n key : Nat) (who : Option (Nat × Wide)) : Dev :=
  match NMap.get? (d.brick n).pond key with
  | none => d
  | some l =>
    if l.dirty = 0 then d
    else if keyDevice key ≠ 0 then d.cleanFar n key who l
    else match d.memGate (64 * key) with
      | .wait => d
      | _ =>
        let q := d.pondAsker n (match who with
          | some w => some w
          | none => l.owner.map (fun r => (r.ring, r.serial)))
        let d := (runsOf l.dirty 64).foldl (fun d r =>
          (d.localWrite q true (some l.mode) .local (64 * key + r.1) (slice l.data r.1 r.2)).1) d
        d.modBrick n (fun b => { b with pond := NMap.set b.pond key { l with dirty := 0 } })

/-- Writes back every dirty line of a pond (R79). -/
def Dev.cleanPond (d : Dev) (n : Nat) : Dev := ((d.brick n).pond.map (·.1)).foldl (fun d k => d.cleanPondLine n k none) d

/-- Whether a pond holds a dirty line. -/
def Brick.pondDirty (b : Brick) : Bool := b.pond.any (fun e => e.2.dirty ≠ 0)

/-- Lines that a pond has asked another device for come no more: what they bring may be older than an acquire (R79, R80). -/
def Dev.dropFills (d : Dev) (n : Nat) : Dev :=
  d.withOps (d.fab.ops.map (fun o => match o.use with
    | .lane r path t va skip len off (some m) => if m = n then { o with use := .lane r path t va skip len off none } else o
    | .prefetch m _ => if m = n then { o with dead := true } else o
    | _ => o))

/-- Invalidates the clean lines of a pond, and the clean bytes of the others, and drops its side buffer (R79, R80, R208). -/
def Dev.invalidatePond (d : Dev) (n : Nat) : Dev :=
  (d.dropFills n).modBrick n (fun b => { b with
    pond := (b.pond.filter (fun e => e.2.dirty ≠ 0)).map (fun e => (e.1, { e.2 with valid := e.2.dirty })), side := [] })

/-- Invalidates every line of a pond, dirty or not. -/
def Dev.dropPond (d : Dev) (n : Nat) : Dev := (d.dropFills n).modBrick n (fun b => { b with pond := [], side := [] })

/-- An empty brick adopts a split: its pond is written back and invalidated, and its local store becomes undefined
(R55). -/
def Dev.adoptSplit (d : Dev) (n split : Nat) : Dev :=
  let d := (d.cleanPond n).dropPond n
  let g := d.fresh
  g.2.modBrick n (fun b => { b with split := split, drain := none, ls := Store.undefined g.1 })

/-- Writes back the ponds of a list of bricks, and says whether all their lines are clean. -/
def Dev.cleanPonds (d : Dev) (ns : List Nat) : Dev × Bool :=
  let d := ns.foldl (fun d n => d.cleanPond n) d
  (d, ns.all (fun n => !(d.brick n).pondDirty))

/-- The bricks a dispatch may have used, whose ponds may hold its stores. -/
def Dev.storeBricks (d : Dev) (c : Cmd) : List Nat :=
  let own := d.bricks.map (fun (e : Nat × Brick) => e.1)
  own.filter (fun n => d.brickPart n = some c.part)

/-- Whether the stores of a command are performed at device scope: for a DISPATCH or a RENDER_PASS the ponds of its partition
are written back, and no operation of it is outstanding (R60, R82, R302). -/
def Dev.storesDone (d : Dev) (c : Cmd) : Dev × Bool :=
  if d.cmdOps c.ring c.serial then (d, false)
  else if c.opcode = 0x21 ∨ c.opcode = 0x30 then
    let r := d.cleanPonds (d.storeBricks c)
    (r.1, r.2 && !r.1.cmdOps c.ring c.serial)
  else (d, true)

/-- A DISPATCH or RENDER_PASS that starts observes the stores of commands whose fences it has waited for: the clean lines of
its partition's ponds go (R91). -/
def Dev.acquireFor (d : Dev) (c : Cmd) : Dev :=
  if c.opcode = 0x21 ∨ c.opcode = 0x30 then (d.storeBricks c).foldl (fun d n => d.invalidatePond n) d else d

end Sys2Proof.Machine
end

