-- ==== Sys2Proof/Machine/Rings.lean ====
section
/-! DEFINITION. Rings: descriptor fetch and acceptance (R299, R300, R320 to R323), start, retirement and completion
records (R300, R302, R303), and the ring commands (R291 to R296, R324). -/

namespace Sys2Proof.Machine

/-! ## Acceptance -/

/-- Listed opcodes (R323). -/
def listedOpcode (n : Nat) : Bool :=
  [0x01, 0x10, 0x11, 0x12, 0x13, 0x14, 0x15, 0x20, 0x21, 0x30, 0x38, 0x39, 0x40, 0x48, 0x49, 0x50, 0x51, 0x58, 0x60, 0x61,
    0x62, 0x70].contains n

/-- Opcodes accepted on control rings or from Gotik only (R323). -/
def controlOpcode (n : Nat) : Bool := [0x10, 0x11, 0x60, 0x61, 0x62, 0x70].contains n

/-- Whether the ring may issue the command: step H4 (R242, R291, R323). A ring from 0 to 7 is the control ring of the
partition of its number. -/
def Dev.mayIssue (d : Dev) (i asid : Nat) (l : Line) : Bool :=
  let op := hdrOpcode l
  if controlOpcode op then i < 8
  else if op = 0x48 ∨ op = 0x49 then dfield l 16 7 0 = asid && d.fld Fld.XLT_AS_CTRL_delegate asid = 1
  else true

/-- A handle that a command names, with the steps of its stale-handle and type checks (R307). -/
structure Need where
  handle : Wide
  stale : Nat
  typ : Nat
  ok : List Nat
  /-- a handle whose index is 0 names nothing and passes -/
  optional : Bool
  /-- a LOST mirror passes: it is being freed -/
  lost : Bool
  deriving DecidableEq, Repr

/-- The handles a command's descriptor names. Those of the draw records of a RENDER_PASS are read later. -/
def needs (l : Line) : List Need :=
  let f := [typFence, typFabricFence]
  match hdrOpcode l with
  | 0x11 => if rctlOp l = 0 then [⟨rctlRelease l, 1, 2, f, true, false⟩] else []
  | 0x13 => [⟨freeHandle l, 1, 0, [], false, true⟩, ⟨freeFence l, 2, 3, f, true, false⟩]
  | 0x14 => [⟨waitFence l, 1, 2, f, false, false⟩]
  | 0x15 => [⟨waitFence l, 1, 2, f, false, false⟩]
  | 0x20 => [⟨kldCode l, 1, 2, [typMemory], false, false⟩]
  | 0x21 => [⟨(dispatchD l).kernel, 1, 2, [typKernel], false, false⟩, ⟨(dispatchD l).scratch, 1, 2, [typMemory], true, false⟩]
  | 0x30 => [⟨dwide l 40, 1, 2, [typMemory], false, false⟩, ⟨dwide l 48, 1, 2, f, true, false⟩]
  | 0x50 => [⟨(streamD l).state, 1, 2, [typMemory], false, false⟩]
  | _ => []

/-- Whether a handle names a mirror that is LOST (R317). -/
def Dev.lost (d : Dev) (h : Wide) : Bool :=
  match (d.entry (handleIndex h)).payload with
  | .mirror _ _ _ l => l
  | _ => false

/-- Whether a named handle may be used: current, and not a LOST mirror (R304, R317). -/
def Dev.usable (d : Dev) (h : Wide) : Bool := d.current h && !d.lost h

/-- The first failing handle check of a command, as its status and step; stale handles come before types (R307). -/
def Dev.needFails (d : Dev) (ns : List Need) : Option (Half × Nat) :=
  let ns := ns.filter (fun n => !(n.optional && n.handle = 0))
  match ns.find? (fun n => !(if n.lost then d.current n.handle else d.usable n.handle)) with
  | some n => some (Sts.staleHandle, n.stale)
  | none => match ns.find? (fun n => !n.ok.isEmpty && !n.ok.contains (handleType n.handle)) with
    | some n => some (Sts.badObjectType, n.typ)
    | none => none

/-- Entries that the checked handles refer to, one reference each. -/
def needRefs (ns : List Need) : List Nat :=
  (ns.filter (fun n => !(n.optional && n.handle = 0))).map (fun n => handleIndex n.handle)

/-- The header checks of R321 in order: status, step of detail, and whether the header fence may be signalled. Gotik's
commands have completion paths of their own and no issuer restriction (R472). -/
def Dev.headerFails (d : Dev) (gotik : Bool) (i asid : Nat) (l : Line) : Option (Half × Nat) :=
  let f := hdrFence l
  if !gotik ∧ f ≠ 0 ∧ !d.usable f then some (Sts.staleHandle, 0xF1)
  else if !gotik ∧ f ≠ 0 ∧ !isFenceHandle f then some (Sts.badObjectType, 0xF2)
  else if !listedOpcode (hdrOpcode l) ∨ hdrReserved l ≠ 0 then some (Sts.badDescriptor, 0xF3)
  else if !gotik ∧ !d.mayIssue i asid l then some (Sts.permissionFault, 0xF4)
  else none

/-- Accepts a descriptor: header checks, then stale-handle and type checks, with the references they take (R300, R307,
R321, R322). The stale-handle and type checks of a RENDER_PASS also cover its draw records and are made with them; here
only its own handles are checked for being current. -/
def Dev.accept (d : Dev) (i : Nat) (serial : Wide) (part asid cls bellAt : Nat) (l : Line) : Dev :=
  let gotik := decide (i = gotikRing)
  let ns := needs l
  let ns := if hdrOpcode l = 0x30 then ns.map (fun n => { n with ok := [] }) else ns
  let fence := if !gotik ∧ hdrFence l ≠ 0 then [handleIndex (hdrFence l)] else []
  let c : Cmd := {
    ring := i, serial := serial, desc := l, part := part, asid := asid, cls := cls, refs := [], phase := .accepted
    status := 0, detail := 0, unit := noUnit, tick := d.tickCount, run := .none, faulted := false, remote := []
    input := [], bellAt := bellAt, startAt := 0, endAt := d.now, edges := 0, recordDone := false, fenceless := false }
  match d.headerFails gotik i asid l with
  | some (st, step) =>
    d.withCmds (d.sub.cmds ++ [{ c with
      phase := .ended, status := st, detail := BitVec.ofNat 64 step, fenceless := step = 0xF1 || step = 0xF2 }])
  | none =>
    match d.needFails ns with
    | some (st, step) =>
      let d := fence.foldl (fun d i => d.takeRef i) d
      d.withCmds (d.sub.cmds ++ [{ c with phase := .ended, status := st, detail := BitVec.ofNat 64 step, refs := fence }])
    | none =>
      let refs := needRefs ns ++ fence
      let d := refs.foldl (fun d i => d.takeRef i) d
      let d := if hdrOpcode l = 0x50 then d.powerUp 31 else d
      d.withCmds (d.sub.cmds ++ [{ c with refs := refs }])

/-! ## Descriptor fetch (R299 to R301) -/

/-- The I/O core runs rings: not while a lower power state is entered or held (R419). -/
def Dev.ringsRun (d : Dev) : Bool := (d.pwr.state = .run || d.pwr.state = .idle) && d.pwr.entering.isNone

/-- Whether ring `i` may read its next descriptor. A count whose serial is still that of a command in flight, after a
RESTART to a lower count, waits. -/
def Dev.mayFetch (d : Dev) (i : Nat) : Bool :=
  let r := d.ring i
  r.state = .running && r.fetch.toNat < r.doorbell.toNat && !r.fetchFault && d.ringsRun
    && (d.cmd? i (r.fetch + 1)).isNone && d.inFlight i < 65536

/-- The time at which the doorbell that covers count `c` was accepted, if it is still known. -/
def Ring.bellTime (r : Ring) (c : Wide) : Option Nat := (r.bells.find? (fun b => c.toNat < b.1.toNat)).map (·.2)

/-- The request of a descriptor fetch. -/
def Ring.fetchReq (r : Ring) (i : Nat) : Req :=
  ⟨i, r.fetch + 1, some r.part, r.asid, engRingFetch, 0, 0, none, .fetch i⟩

/-- Whether a status ends a descriptor fetch as a fault (1) or as an error response (2) (R301). -/
def fetchReason (s : Half) : Nat := if s = Sts.translationFault ∨ s = Sts.permissionFault then 1 else 2

/-- DESCRIPTOR_FETCH: a RUNNING ring reads its next descriptor once and accepts it after its checks (R299, R300). A
stream-compression command powers its domain at acceptance (R426). -/
def Dev.fetchDescriptor (d : Dev) (i : Nat) : Dev :=
  if d.mayFetch i then
    let r := d.ring i
    let va := r.base + BitVec.ofNat 64 (64 * (r.fetch.toNat % 2 ^ r.sizeLog2))
    match d.transferRead (r.fetchReq i) r.fetched [] va 64 with
    | (d, .ok, bs, _) =>
      let l := lineOf bs
      let bell := (r.bellTime r.fetch).getD d.now
      let d := d.modRing i (fun r => { r with
        fetch := r.fetch + 1, fetched := [], bells := r.bells.filter (fun b => (r.fetch + 1).toNat < b.1.toNat) })
      d.accept i (r.fetch + 1) r.part r.asid r.cls bell l
    | (d, .wait, _, _) =>
      let stopped := (d.space r.asid).batches.any (fun b => !b.resumed && b.recs.any (fun x => x.stream = .fetch i))
        || (d.space r.asid).waiting.any (fun x => x.stream = .fetch i)
      if stopped then d.modRing i (fun r => { r with fetchFault := true }) else d
    | (d, .fail s _, _, _) => (d.stopRing i (fetchReason s)).modRing i (fun r => { r with fetched := [] })
  else d

/-! ## Start (R300) -/

/-- The last command of the same ring accepted before this one and still in flight. -/
def Dev.before (d : Dev) (c : Cmd) : Option Cmd :=
  ((d.sub.cmds.takeWhile (fun x => !(x.ring = c.ring && x.serial = c.serial))).filter (fun x => x.ring = c.ring)).getLast?

/-- Whether a started command waits at the head of its ring: a fence wait, or a wait that counts as one, for a translation
(R51) or for room in the queue of an engine (R213, R246, R264). -/
def Cmd.waitsAtHead (c : Cmd) : Bool :=
  c.phase = .started && (match c.opcode with
    | 0x14 => true
    | 0x40 => c.run = .none
    | 0x49 => c.run = .none
    | 0x50 => c.run = .none && !c.faulted
    | _ => c.run = .kernelWait)

/-- Whether the order of R300 lets the command start, or retire when it ended at acceptance. -/
def Dev.mayStart (d : Dev) (c : Cmd) : Bool :=
  match d.before c with
  | none => true
  | some p => hdrOverlap p.desc && p.phase ≠ .accepted && !p.waitsAtHead

/-- COMMAND_START: the command starts when its order allows, unless a PREEMPT saves its ring (R300, R347). The time since
its doorbell enters the queue-latency histogram of its partition (R448). -/
def Dev.startCmd (d : Dev) (i : Nat) (s : Wide) : Dev :=
  match d.cmd? i s with
  | some c =>
    if c.phase = .accepted ∧ d.mayStart c ∧ !(d.ring i).saving then
      ((d.acquireFor c).modCmd i s (fun c => { c with phase := .started, startAt := d.now })).hist (1 + c.part)
        ((d.now - c.bellAt) / 100)
    else d
  | none => d

/-! ## Retirement (R302, R303) -/

/-- Engine of the accesses that a command makes, by its opcode (R238). -/
def Cmd.engine (c : Cmd) : Nat :=
  match c.opcode with
  | 0x30 => engRaster
  | 0x40 => engMaintenance
  | 0x50 => engCompression
  | 0x51 => engCompression
  | 0x58 => engSequence
  | _ => engOther

/-- The request of completion-ring accesses, by the engine of the command (R238). -/
def Cmd.cqReq (c : Cmd) : Req := c.req c.engine

/-- Whether a completion record is required (R292, R302). -/
def Dev.wantsRecord (d : Dev) (c : Cmd) : Bool :=
  match (d.ring c.ring).cqMode with
  | 2 => true
  | 1 => c.status ≠ Sts.ok
  | _ => false

/-- The completion ring fails: its ring stops with CQ_ERROR and the record is dropped (R301). -/
def Dev.cqError (d : Dev) (c : Cmd) : Dev :=
  (d.stopRing c.ring 4).modCmd c.ring c.serial (fun c => { c with recordDone := true })

/-- Reads the consumer count when the ring may be full (R303): whether there is room, or the access waits or fails. -/
def Dev.cqRoom (d : Dev) (c : Cmd) : Dev × Res × Bool :=
  let r := d.ring c.ring
  if r.cqProd.toNat - r.cqSeen.toNat < 2 ^ r.cqLog2 then (d, .ok, true)
  else match d.transferRead c.cqReq c.remote c.input r.cqCons 8 with
    | (d, .ok, bs, _) =>
      let v : Wide := BitVec.ofNat 64 (leNat bs)
      ((d.modRing c.ring (fun r => { r with cqSeen := v })).freshInput c.ring c.serial, .ok, r.cqProd.toNat - v.toNat < 2 ^ r.cqLog2)
    | (d, x, _, got) => ((d.keepInput c got).markFaulted c, x, false)

/-- Step 2 of R302: writes the completion record, unless the completion ring is full, which stalls retirement once
counted (R303). -/
def Dev.writeRecord (d : Dev) (c : Cmd) : Dev :=
  match d.cqRoom c with
  | (d, .fail _ _, _) => d.cqError c
  | (d, .wait, _) => d
  | (d, .ok, false) =>
    if (d.ring c.ring).cqStalled then d
    else (d.modRing c.ring (fun r => { r with cqStalled := true })).bump Fld.SUB_CQ_STALLS_count 0 1
  | (d, .ok, true) =>
    let r := d.ring c.ring
    let va := r.cqBase + BitVec.ofNat 64 (32 * (r.cqProd.toNat % 2 ^ r.cqLog2))
    match d.transferWrite c.cqReq ⟨va, recordBytes c.desc c.serial c.status c.detail c.unit c.ring d.tickCount, false⟩ with
    | (d, .ok, _) =>
      (d.modRing c.ring (fun r => { r with cqProd := r.cqProd + 1, cqStalled := false })).modCmd c.ring c.serial
        (fun c => { c with recordDone := true })
    | (d, .wait, _) => d.markFaulted c
    | (d, .fail _ _, _) => d.cqError c

/-- Steps 3 and 4 of R302: the completion fence is signalled with the serial, unless H1 or H2 failed (R322), and the
references are dropped. A shared fence waits while the device is FORMING (R393). -/
def Dev.finishCmd (d : Dev) (c : Cmd) : Dev :=
  let f := hdrFence c.desc
  let held := decide (handleIndex f ∈ c.refs)
  let r : Dev × Acc :=
    if f = 0 ∨ c.fenceless = true then (d, .ok)
    else if held ∨ (d.usable f ∧ isFenceHandle f) then d.signalEntry gotikRing 0 (handleIndex f) (some c.serial)
    else (d, .ok)
  match r with
  | (_, .wait) => d
  | (d, _) =>
    let d := d.drop c.refs
    let d := d.withCmds (d.sub.cmds.filter (fun x => !(x.ring = c.ring && x.serial = c.serial)))
    let d := d.withMeter { d.meter with retired := d.meter.retired + 1 }
    let d := d.count 0x0040 1 (c.attr Option.none)
    if c.cls ≠ 0 ∧ c.edges > 0 ∧ c.phase = .ended ∧ c.status ≠ Sts.tickOverrun then d.hist 0 c.edges else d

/-- Whether a tick edge cuts a command that has not completed before it: HARD work, and composition commands of every ring (R36,
R38). -/
def Cmd.tickBound (c : Cmd) : Bool := !c.gotik && (c.cls = 0 || c.opcode = 0x38 || c.opcode = 0x39)

/-- Whether a command completed in the I/O clock of a tick edge that has not been taken yet: its status is then that edge's to
decide, before it retires (R38, R76). -/
def Dev.edgeDecides (d : Dev) (c : Cmd) : Bool := c.tickBound && d.tick.running && d.tick.nextEdge ≤ c.endAt

/-- COMMAND_RETIRE: an ended command whose stores are performed retires (R302). -/
def Dev.retireCmd (d : Dev) (i : Nat) (s : Wide) : Dev :=
  match d.cmd? i s with
  | some c =>
    if c.phase = .ended ∧ d.mayStart c ∧ !c.faulted ∧ !d.edgeDecides c then
      match d.storesDone c with
      | (d, false) => d
      | (d, true) =>
        if c.recordDone ∨ !d.wantsRecord c then d.finishCmd c
        else
          let d := d.writeRecord c
          match d.cmd? i s with
          | some c => if c.recordDone ∧ !d.cmdOps i s then d.finishCmd c else d
          | none => d
    else d
  | none => d

/-- CQ_ROOM: the consumer has made room, and the oldest ended command of the ring retires (R303). -/
def Dev.cqResume (d : Dev) (i : Nat) : Dev :=
  match d.sub.cmds.find? (fun c => c.ring = i && c.phase = .ended && !c.recordDone) with
  | some c => if (d.ring i).cqStalled then d.retireCmd i c.serial else d
  | none => d

/-! ## How a command's row finds it -/

/-- Ends a command with a failing check of its own table; NO_SLOT carries a table number instead of a step (R329). -/
def Dev.fail (d : Dev) (c : Cmd) (status : Half) (detail : Nat) : Dev :=
  d.endCmd c.ring c.serial status (BitVec.ofNat 64 detail) noUnit

/-- Ends a command with OK. -/
def Dev.done (d : Dev) (c : Cmd) (detail : Wide) : Dev := d.endCmd c.ring c.serial Sts.ok detail noUnit

/-- Gotik's ended commands leave their queue and drop their references (R472). -/
def Dev.sweepGotik (d : Dev) : Dev :=
  let gone := d.sub.cmds.filter (fun c => c.gotik && c.phase = .ended && !d.cmdOps c.ring c.serial)
  let d := gone.foldl (fun d c => d.drop c.refs) d
  d.withCmds (d.sub.cmds.filter (fun c => !gone.contains c))

/-- The serial of the next command in Gotik's queue. -/
def Dev.gotikSerial (d : Dev) : Wide :=
  BitVec.ofNat 64 (((d.sub.cmds.filter (·.gotik)).map (·.serial.toNat) ++
    (d.fab.ops.filter (fun o => o.ring = gotikRing)).map (·.serial.toNat)).foldl max 0 + 1)

/-- A command of Gotik's queue: the one in flight with the same descriptor, or else a new one, accepted and started
(R472); it ends IDLE (R417). -/
def Dev.gotikCmd (d : Dev) (part asid : Nat) (l : Line) : Dev × Option Cmd :=
  match d.sub.cmds.find? (fun c => c.gotik && c.desc = l && c.part = part && c.asid = asid && c.phase ≠ .ended) with
  | some c => (d, some c)
  | none =>
    let s := d.gotikSerial
    let d := d.leaveIdle.accept gotikRing s part asid 2 d.now l
    let d := d.modCmd gotikRing s (fun c =>
      if c.phase = .accepted then { c with phase := .started, startAt := d.now } else c)
    (d, d.cmd? gotikRing s)

/-- Whether a command is in a state in which its row acts: started, not stopped on a fault. -/
def Cmd.active (c : Cmd) : Bool := c.phase = .started && !c.faulted

/-- Runs `act` on the command of a source when the command is active and is one of this row. -/
def Dev.runRow (d : Dev) (src : CmdSource) (row : Line → Bool) (act : Dev → Cmd → Dev) : Dev :=
  match src with
  | .ring i s => match d.cmd? i s with
    | some c => if c.active && row c.desc && i < 1024 then act d c else d
    | none => d
  | .gotik part asid l =>
    if row l then
      match d.gotikCmd part asid l with
      | (d, some c) => (if c.active then act d c else d).sweepGotik
      | (d, none) => d
    else d

/-- The row of an opcode. -/
def isOp (n : Nat) (l : Line) : Bool := hdrOpcode l = n

/-- NOP: does nothing, once its reserved bits are checked (R324). -/
def Dev.runNop (d : Dev) (c : Cmd) : Dev :=
  if reservedZero c.desc [] then d.done c 0 else d.fail c Sts.badDescriptor 1

/-! ## Ring commands -/

/-- Whether a ring's settings are acceptable: step 2 of R293. -/
def Dev.ringOk (d : Dev) (r : RingCreateD) : Bool :=
  6 ≤ r.sizeLog2 && r.sizeLog2 ≤ 16 && r.cls ≠ 3 && r.cqMode ≠ 3
    && (r.cqMode = 0 || (6 ≤ r.cqLog2 && r.cqLog2 ≤ 16 && r.cqBase.toNat % 32 = 0 && r.cqCons.toNat % 8 = 0))
    && r.base.toNat % 64 = 0 && d.fld Fld.XLT_AS_CTRL_enable r.asid = 1

/-- A new ring in RUNNING with both counts at `start` (R293, R349). -/
def RingCreateD.make (r : RingCreateD) (part : Nat) : Ring :=
  { Ring.absent with
    sizeLog2 := r.sizeLog2, asid := r.asid, part := part, cls := r.cls, cqMode := r.cqMode, dbSource := r.dbSource
    dbId := r.dbId, cqLog2 := r.cqLog2, base := r.base, cqBase := r.cqBase, cqCons := r.cqCons, budget := r.budget
    fetch := r.start, doorbell := r.start, state := .running }

/-- RING_CREATE (R291 to R293). -/
def Dev.runRingCreate (d : Dev) (c : Cmd) : Dev :=
  let r := ringCreateD c.desc
  if !reservedZero c.desc ringCreateFields ∨ !d.ringOk r ∨ (r.ring < 8 ∧ !c.gotik) then d.fail c Sts.badDescriptor 2
  else if (d.ring r.ring).state ≠ .disabled then d.fail c Sts.badDescriptor 3
  else if !d.admits c.part r.ring r.cls r.budget then d.fail c Sts.budgetRejected 4
  else (d.setRing r.ring (r.make c.part)).done c 0

/-- Whether a PREEMPT of a ring is running. -/
def Dev.preempted (d : Dev) (i : Nat) : Bool := d.par.preempting.any (fun p => p.target = i)

/-- Steps 3 and 4 of R295. -/
def Dev.controlFails (d : Dev) (c : Cmd) : Option Nat :=
  let i := rctlRing c.desc
  if rctlOp c.desc = 3 ∨ !reservedZero c.desc rctlFields ∨ (i < 8 ∧ !c.gotik) then some 3
  else if (d.ring i).part ≠ c.part ∨ (d.ring i).state = .disabled then some 4
  else none

/-- RING_CONTROL with op DESTROY (R294, R295); the unlisted op 3 fails here. -/
def Dev.runRingDestroy (d : Dev) (c : Cmd) : Dev :=
  let i := rctlRing c.desc
  let r := d.ring i
  match d.controlFails c with
  | some n => d.fail c Sts.badDescriptor n
  | none =>
    if !(r.state = .running || r.state = .stopped || r.state = .aborted) ∨ d.preempted i then d.fail c Sts.badDescriptor 5
    else
      let f := rctlRelease c.desc
      let rel : List Release := if f = 0 then [] else [⟨handleIndex f, rctlValue c.desc⟩]
      let d := if f = 0 then d else d.takeRef (handleIndex f)
      (d.setRing i { r with state := .destroying, release := r.release ++ rel }).done c 0

/-- RING_CONTROL with op RESTART (R294, R295). -/
def Dev.runRingRestart (d : Dev) (c : Cmd) : Dev :=
  let i := rctlRing c.desc
  let r := d.ring i
  match d.controlFails c with
  | some n => d.fail c Sts.badDescriptor n
  | none =>
    if r.state ≠ .stopped ∨ d.preempted i then d.fail c Sts.badDescriptor 5
    else
      let v := rctlValue c.desc
      (d.setRing i { r with
        fetch := v, doorbell := if v.toNat ≤ r.doorbell.toNat then r.doorbell else v
        state := .running, fetchFault := false, fetched := [] }).done c 0

/-- RING_CONTROL with op BUDGET (R35, R294, R295). -/
def Dev.runRingBudget (d : Dev) (c : Cmd) : Dev :=
  let i := rctlRing c.desc
  let r := d.ring i
  match d.controlFails c with
  | some n => d.fail c Sts.badDescriptor n
  | none =>
    if !(r.state = .running || r.state = .stopped) ∨ d.preempted i then d.fail c Sts.badDescriptor 5
    else if !d.admits r.part i r.cls (rctlBudget c.desc) then d.fail c Sts.budgetRejected 6
    else (d.setRing i { r with budget := rctlBudget c.desc }).done c 0

/-- Makes release signals; each fence loses the reference that its signal held. Those that must wait are left (R294, R393). -/
def Dev.makeReleases (d : Dev) (fs : List Release) : Dev × List Release :=
  fs.foldl (fun (acc : Dev × List Release) f =>
    match acc.1.signalEntry gotikRing 0 f.fence (some f.value) with
    | (_, .wait) => (acc.1, acc.2 ++ [f])
    | (d, _) => (d.drop [f.fence], acc.2)) (d, [])

/-- RING_DISABLED_RELEASE: a DESTROYING ring whose accepted commands have all retired becomes DISABLED, and its release
fence is signalled and loses its reference (R294). A shared release fence waits while the device is FORMING (R393). -/
def Dev.ringReleased (d : Dev) (i : Nat) : Dev :=
  let r := d.ring i
  if r.state = .destroying ∧ d.inFlight i = 0 then
    match d.makeReleases r.release with
    | (d, []) => d.setRing i Ring.absent
    | (d, left) => d.setRing i { r with release := left }
  else d

end Sys2Proof.Machine
end

