-- ==== Sys2Proof/Machine/Domains.lean ====
section
/-! DEFINITION. The switched domains while the device is in RUN (R426, R427): which ones must be on, and what follows when one
is switched. -/

namespace Sys2Proof.Machine

/-- The device with another power state. -/
def Dev.withPwr (d : Dev) (x : PwrSt) : Dev := { d with pwr := x }

/-- Die of a wall (R15). -/
def wallDie (w : Nat) : Nat := if w < 6 then 0 else 1

/-- Walls that enabled partitions own. -/
def Dev.ownedWalls (d : Dev) : List Nat :=
  (List.range 8).flatMap (fun p => if d.cfld Fld.PAR_P_CTRL_enable p = 1 then d.partWalls p else [])

/-- Whether a stream-compression job is accepted and has not ended. -/
def Dev.streamJobs (d : Dev) : Bool := d.sub.cmds.any (fun c => c.opcode = 0x50 && c.phase ≠ .ended)

/-- Whether domain `n` may not be off in RUN (R426). -/
def Dev.domainNeeded (d : Dev) (n : Nat) : Bool :=
  if n < 12 then d.ownedWalls.contains n
  else if n < 28 then true
  else if n < 30 then d.ownedWalls.any (fun w => wallDie w = n - 28)
  else if n = 30 then (List.range 64).any (fun s => d.cfld Fld.CMP_S_CTRL_enable s = 1)
  else if n = 31 then d.streamJobs
  else if n < 40 then false
  else n ≠ 47

/-- Whether domain `n` is to be on: requested, or kept on. -/
def Dev.domainWanted (d : Dev) (n : Nat) : Bool := (d.fldW Fld.PWR_DOMAIN_EN_enable 0).getLsbD n || d.domainNeeded n

/-- The link goes down: the replay buffer and what has not been delivered are discarded, and frames not yet handed to the
port are routed anew (R372). -/
def Dev.linkDown (d : Dev) (hop : Nat) : Dev :=
  let p := d.port hop
  if p.linkUp then
    let d := (d.setPort hop { Port.idle with
      powered := p.powered, modeActive := p.modeActive, signal := p.signal, sent := p.sent, delivered := p.delivered
      lastSync := p.lastSync }).bump Fld.FAB_P_LINK_DOWNS_count hop 1
    (p.queued.filter (fun f => f.hdr.kind ≠ 7)).foldl (fun (d : Dev) f => d.sendFrame f) d
  else d.setPort hop { p with pcsLock := false }

/-- Switches a domain off: the ponds of a wall lose their contents, and a port goes down (R372, R411, R427). -/
def Dev.powerDown (d : Dev) (n : Nat) : Dev :=
  let d := d.withPwr { d.pwr with
    on := if d.pwr.on.testBit n then d.pwr.on - 2 ^ n else d.pwr.on
    powering := NMap.erase d.pwr.powering n }
  if n < 12 then
    (List.range 8).foldl (fun (d : Dev) k =>
      let g := d.fresh
      g.2.setBrick (8 * n + k) { Brick.fresh with ls := Store.undefined g.1 }) d
  else if 32 ≤ n ∧ n < 40 then (d.linkDown (n - 32)).setPort (n - 32) Port.idle
  else d

/-- Switches every domain as R426 gives, in RUN. IDLE switches none (R415), and a lower state has its own column. -/
def Dev.settleDomains (d : Dev) : Dev :=
  if d.boot.phase < 3 ∨ d.boot.phase = 6 ∨ (d.pwr.state ≠ .run ∧ d.pwr.state ≠ .idle) then d
  else
    (List.range 48).foldl (fun (d : Dev) n =>
      let up : Bool := d.pwr.on.testBit n || (NMap.get? d.pwr.powering n).isSome
      if d.domainWanted n then (if up then d else d.powerUp n)
      else if up then d.powerDown n else d) d

/-- A port comes up in the mode that FAB_P_CTRL.mode holds; its link is not up yet (R359). -/
def Dev.portOn (d : Dev) (p : Nat) : Dev :=
  d.setPort p { Port.idle with powered := true, modeActive := d.fld Fld.FAB_P_CTRL_mode p, signal := d.pins.detect.testBit p }

/-- DOMAIN_POWER_ON: a domain that was powered becomes usable 10 µs later, and a port group's port comes up in its mode
(R359, R427). -/
def Dev.domainOn (d : Dev) (n : Nat) : Dev :=
  match NMap.get? d.pwr.powering n with
  | some t =>
    let d := d.advanceTo t
    let d := d.withPwr { d.pwr with
      on := if d.pwr.on.testBit n then d.pwr.on else d.pwr.on + 2 ^ n
      powering := NMap.erase d.pwr.powering n }
    if 32 ≤ n ∧ n < 40 then d.portOn (n - 32) else d
  | none => d

end Sys2Proof.Machine
end

