-- ==== Sys2Proof/Machine/Flags.lean ====
section
/-! DEFINITION. Register fields under a write: access codes (R8), lock bits (R9), values that keep the field (R7), and
accesses by width (R4, R5, R6). A block has no condition flags; its status bits are register fields. -/

namespace Sys2Proof.Machine

/-- The value a field takes when `new` is written over `old` (R7 and the field's chapter). -/
def WriteRule.value (w : WriteRule) (old new : Nat) : Nat :=
  match w with
  | .any => new
  | .range lo hi => if lo ≤ new ∧ new ≤ hi then new else old
  | .atLeast lo => max lo new
  | .clamp lo hi => max lo (min hi new)
  | .lock => if old = 1 then 1 else new
  | .window => if new = 0 then 1 else if new > 60000 then old else new
  | .event => if new = 0 ∨ pmcEvents.any (fun e => e.1 = new) then new else old

/-- One field of a register under a write of `new` to the register holding `old` (R8, R9). -/
def FieldDef.write (f : FieldDef) (locked : Bool) (old new : Wide) : Wide :=
  let put := setBits old f.hi f.lo (BitVec.ofNat 64 (f.rule.value (bitsN old f.hi f.lo) (bitsN new f.hi f.lo)))
  if f.hw then old
  else match f.acc with
    | .ro => old
    | .wo => old
    | .rw => put
    | .rwl => if locked then old else put
    | .w1c => setBits old f.hi f.lo (bits old f.hi f.lo &&& ~~~(bits new f.hi f.lo))
    | .w1s => setBits old f.hi f.lo (bits old f.hi f.lo ||| bits new f.hi f.lo)

/-- Whether a lock bit of the register is set (R9). -/
def RegDef.locked (r : RegDef) (v : Wide) : Bool := r.fields.any (fun f => f.rule = .lock && bitsN v f.hi f.lo = 1)

/-- A whole register under a write. -/
def RegDef.write (r : RegDef) (old new : Wide) : Wide :=
  r.fields.foldl (fun v f => f.write (r.locked old) v new) old

/-- What an access of a width at a window offset reaches: the register, its element, and the value a write of `v` offers,
the half that is not written keeping its value; none where the access has the wrong width or reaches nothing (R4, R5,
R6). -/
def Dev.reach (d : Dev) (off width : Nat) (v : Wide) : Option (RegDef × Nat × Wide) :=
  match findRegHalf off with
  | none => none
  | some (r, i, upper) =>
    let old := d.regs.get (r.at i) r.reset
    if r.width = 64 then
      if width = 8 ∧ !upper then some (r, i, v)
      else if width = 4 then
        some (r, i, if upper then setBits old 63 32 v else setBits old 31 0 v)
      else none
    else if width = 4 ∧ !upper then some (r, i, v)
    else none

/-- A write to a register that has no effect but on its fields (R8). -/
def Dev.regStore (d : Dev) (off width : Nat) (v : Wide) : Dev :=
  match d.reach off width v with
  | some (r, i, new) =>
    { d with regs := d.regs.put (r.at i) r.reset (r.write (d.regs.get (r.at i) r.reset) new) }
  | none => d

end Sys2Proof.Machine
end

