-- ==== Sys2Proof/Machine/Links.lean ====
section
/-! DEFINITION. The link layer of a port: its mode (R359), link frames and credits (R370), acceptance, replay and failure
(R371, R372). -/

namespace Sys2Proof.Machine

/-! ## Receiving -/

/-- Whether a Mortar-mode port takes a frame: the link is up, the CRC right and the sequence number the next one (R371). -/
def Dev.frameGood (d : Dev) (hop : Nat) (f : MortarFrame) : Bool :=
  let p := d.port hop
  p.modeActive = 1 && p.linkUp && f.crcOk && f.hdr.linkSeq = p.rxSeq

/-- A frame accepted in order: the next number is expected and its credits are free again (R370, R371). -/
def Dev.frameTaken (d : Dev) (hop : Nat) (f : MortarFrame) : Dev :=
  (d.modPort hop (fun p => { p with
    rxSeq := (p.rxSeq + 1) % 4096
    freed := modNth p.freed f.hdr.vl (· + frameCredits f)
    framesIn := p.framesIn + 1 })).rxBytes hop (frameBytes f)

/-- Runs an action on a frame that the port accepts. -/
def Dev.onFrame (d : Dev) (hop : Nat) (f : MortarFrame) (act : Dev → Dev) : Dev :=
  if d.frameGood hop f then act (d.frameTaken hop f) else d

/-! ## LINK frames (R370, R371) -/

/-- Sends a LINK frame: the last number received in order and the cumulative credits of each lane. -/
def Dev.sendLink (d : Dev) (hop : Nat) (nak : Bool) : Dev :=
  (d.modPort hop (fun p => { p with
    sent := .link nak ((p.rxSeq + 4095) % 4096) (p.freed.map (· % 65536)) :: p.sent
    framesIn := 0, lastLink := d.now })).txBytes hop 44

/-- LINK_FRAME_SEND: at the latest 1 µs after the last one, or with 64 frames received since (R370). -/
def Dev.linkSend (d : Dev) (hop : Nat) : Dev :=
  let p := d.port hop
  if p.modeActive = 1 ∧ p.linkUp then
    (if p.framesIn ≥ 64 then d else d.advanceTo (p.lastLink + 1000)).sendLink hop false
  else d

/-- MORTAR_FRAME_DISCARD: a frame with a bad CRC or another number is discarded, and a NAK names the last one in order
(R371). -/
def Dev.frameDiscard (d : Dev) (hop : Nat) (f : MortarFrame) : Dev :=
  let p := d.port hop
  if p.modeActive = 1 ∧ p.linkUp ∧ (!f.crcOk ∨ (f.hdr.kind ≠ 8 ∧ f.hdr.linkSeq ≠ p.rxSeq)) then d.sendLink hop true else d

/-- The credit count of a lane after a LINK frame: counts are cumulative modulo 2^16 (R370). -/
def creditsAfter (have_ new : Nat) : Nat := have_ + (new + 65536 - have_ % 65536) % 65536

/-- What a LINK frame acknowledges: frames up to the named one leave the replay buffer, and credits return (R370, R371). -/
def Port.acknowledge (p : Port) (now seq : Nat) (payload : Bytes) : Port :=
  let k := match p.unacked.findIdx? (fun g => g.hdr.linkSeq = seq) with
    | some i => i + 1
    | none => 0
  { p with
    unacked := p.unacked.drop k
    returned := (List.range 8).map (fun vl => creditsAfter (nth p.returned vl 0) (leAt payload (2 * vl) 2))
    lastProgress := if k = 0 then p.lastProgress else now
    replays := if k = 0 then p.replays else 0 }

/-- Whether a LINK frame is taken: the port is up in Mortar mode and the frame is whole. -/
def Dev.linkGood (d : Dev) (hop : Nat) (f : MortarFrame) (op : Nat) : Bool :=
  let p := d.port hop
  p.modeActive = 1 && p.linkUp && f.crcOk && f.hdr.kind = 8 && f.hdr.op = op && f.payload.length = 16

/-- LINK_ACK: acknowledged frames leave the replay buffer, and waiting frames use the credits that return (R370, R371). -/
def Dev.linkAck (d : Dev) (hop : Nat) (f : MortarFrame) : Dev :=
  if d.linkGood hop f 0 then
    ((d.modPort hop (fun p => p.acknowledge d.now (bitsN f.hdr.address 11 0) f.payload)).rxBytes hop 44).drainPort hop
  else d

/-! ## Link failure (R372) -/

/-- LINK_UP: a powered port whose partner speaks its mode reaches link_up, with fresh credits and numbers (R359). -/
def Dev.linkIsUp (d : Dev) (hop : Nat) : Dev :=
  let p := d.port hop
  if p.powered ∧ p.modeActive < 2 ∧ !p.linkUp then
    d.setPort hop { p with
      linkUp := true, pcsLock := true, signal := true, txSeq := 0, rxSeq := 0, unacked := [], queued := []
      used := List.replicate 8 0, returned := List.replicate 8 0, freed := List.replicate 8 0, framesIn := 0
      lastLink := d.now, lastProgress := d.now, replays := 0 }
  else d

/-- Replays every unacknowledged frame; after 16 replays without progress the port goes down instead (R371, R372). -/
def Dev.replay (d : Dev) (hop : Nat) : Dev :=
  let p := d.port hop
  if p.unacked.isEmpty then d
  else if p.replays ≥ 16 then d.linkDown hop
  else
    let d := d.setPort hop { p with
      sent := (p.unacked.map Wire.mortar).reverse ++ p.sent, replays := p.replays + 1, lastProgress := d.now }
    ((d.bump Fld.FAB_P_REPLAYS_count hop 1).windowEvent (40 + hop) 1).txBytes hop (sumN (p.unacked.map frameBytes))

/-- LINK_NAK: the sender replays from the frame after the named one (R371). -/
def Dev.linkNak (d : Dev) (hop : Nat) (f : MortarFrame) : Dev :=
  if d.linkGood hop f 1 then
    (((d.modPort hop (fun p => p.acknowledge d.now (bitsN f.hdr.address 11 0) f.payload)).rxBytes hop 44).replay hop).drainPort hop
  else d

/-- REPLAY_TIMEOUT: 10 µs without progress (R371). -/
def Dev.replayTimeout (d : Dev) (hop : Nat) : Dev :=
  let p := d.port hop
  if p.modeActive = 1 ∧ p.linkUp ∧ !p.unacked.isEmpty then (d.advanceTo (p.lastProgress + 10000)).replay hop else d

/-! ## The mode of a port (R359) -/

/-- A change of mode takes effect at once on a powered port: it goes down, and comes up in the new mode. -/
def Dev.adoptMode (d : Dev) (hop : Nat) : Dev :=
  let m := d.fld Fld.FAB_P_CTRL_mode hop
  let p := d.port hop
  if p.powered ∧ p.modeActive ≠ m then (d.linkDown hop).modPort hop (fun p => { p with modeActive := m }) else d

/-- FAB_P_CTRL_MODE: a write of FAB_P_CTRL (R3, R359). -/
def Dev.portMode (d : Dev) (src : RegSource) (hop : Nat) (value : Word) : Dev :=
  if d.mayWrite src ∧ hop < 8 then (d.regStore (Reg.FAB_P_CTRL.at hop) 4 (value.setWidth 64)).adoptMode hop else d

end Sys2Proof.Machine
end

