-- ==== Sys2Proof/Machine/Fences.lean ====
section
/-! DEFINITION. Objects and fences as ring commands: OBJ_CREATE and OBJ_FREE (R305 to R308), FENCE_WAIT and FENCE_SIGNAL
(R311 to R314), watch slots and parking (R315), fabric fences (R316 to R318), and entries that become free. -/

namespace Sys2Proof.Machine

/-! ## Creation -/

/-- The table that a creation of this type finds exhausted, as NO_SLOT's detail numbers it (R329), or none. -/
def Dev.exhausted (d : Dev) (typ : Nat) : Option Nat :=
  if d.nextEntry.isNone then some 1
  else if (typ = typFence ∨ typ = typFabricFence) ∧ d.fenceCount ≥ 65536 then some 2
  else if typ = typFabricFence ∧ d.fabricSlots ≥ 256 then some 3
  else none

/-- Where a fence word lies (R305): its local offset; `none` inside when it breaks the rules, `none` outside while the
walk waits. -/
def Dev.fenceWordAt (d : Dev) (c : Cmd) (va : Wide) : Option (Dev × Option Nat) :=
  if va.toNat % 8 ≠ 0 then some (d, none)
  else match d.translate (c.req engOther) va accAtomic with
    | (_, .wait) => none
    | (d, .ok leaf level) =>
      match d.physical leaf level va.toNat with
      | .here a =>
        match regionOf a with
        | .dram _ => some (d, if d.refused (if c.gotik then none else some c.part) false leaf a then none else some a)
        | .window o => some (d, if d.windowGate o 8 = .fail Sts.permissionFault then none else some a)
        | _ => some (d, none)
      | .there _ _ => some (d, none)
    | (d, _) => some (d, none)

/-- Carries on the write of a new handle to its result address. A failing write frees the new entry at once (R305). -/
def Dev.writeHandle (d : Dev) (c : Cmd) (i : Nat) (left : List VWrite) : Dev :=
  match Dev.cmdWrites c engOther d left with
  | (d, .ok, _) => d.done c (d.handleOf i)
  | (d, .wait, l) => d.setRun c.ring c.serial (.writing l Sts.ok (d.handleOf i) noUnit)
  | (d, .fail s va, _) => (d.unmake i).endCmd c.ring c.serial s va noUnit

/-- The write of entry `i`'s handle. -/
def Dev.handleWrite (d : Dev) (result : Wide) (i : Nat) : List VWrite := [⟨result, leBytes 8 (d.handleOf i).toNat, false⟩]

/-- Whether the fixed conditions of an OBJ_CREATE hold (R305, R316). -/
def Dev.objOk (d : Dev) (l : Line) : Bool :=
  let t := objType l
  (t = typMemory || t = typFence || t = typFabricFence) && reservedZero l objFields && (objResult l).toNat % 8 = 0
    && (t = typFabricFence || objHome l = 0)
    && (t ≠ typMemory || (1 ≤ (objArg l).toNat && (objArg l).toNat ≤ 2 ^ 52 && (objVa l).toNat + (objArg l).toNat ≤ 2 ^ 52))
    && (t ≠ typFabricFence || (objHome l ≠ 0 && objHome l ≠ 0xFFF && objHome l ≠ d.addr))

/-- Creates the object of an OBJ_CREATE and starts the write of its handle. -/
def Dev.makeObject (d : Dev) (c : Cmd) (typ : Nat) (p : Payload) : Dev :=
  match d.alloc typ p with
  | none => d.fail c Sts.noSlot 1
  | some (i, d) => d.writeHandle c i (d.handleWrite (objResult c.desc) i)

/-- OBJ_CREATE (R305, R306, R316). A FABRIC_FENCE asks its home to subscribe and goes on when the answer arrives. -/
def Dev.runObjCreate (d : Dev) (c : Cmd) : Dev :=
  let l := c.desc
  let t := objType l
  match c.run with
  | .writing left _ detail _ => d.writeHandle c (handleIndex detail) left
  | .fabricFence _ => d
  | _ =>
    if !d.objOk l then d.fail c Sts.badDescriptor 0
    else if t = typMemory then
      match d.exhausted t with
      | some n => d.fail c Sts.noSlot n
      | none => d.makeObject c t (.memory c.asid (objVa l) (objArg l))
    else match d.fenceWordAt c (objVa l) with
      | none => d
      | some (d, none) => d.fail c Sts.badDescriptor 0
      | some (d, some a) =>
        match d.exhausted t with
        | some n => d.fail c Sts.noSlot n
        | none =>
          if t = typFence then
            match d.localWrite Asker.none true none .local a (leBytes 8 (objArg l).toNat) with
            | (_, .wait) => d
            | (d, .fail s) => d.endCmd c.ring c.serial s (BitVec.ofNat 64 a) noUnit
            | (d, .ok) => d.makeObject c t (.fence a)
          else match d.sharedGate with
            | .wait => d.setRun c.ring c.serial (.shared d.now)
            | .fail s => d.endCmd c.ring c.serial s 0 noUnit
            | .ok =>
              match d.issue ⟨c.ring, c.serial, 6, 3, 2, objHome l, 0, 0, none, 0, .subscribe,
                leBytes 8 (objArg l).toNat ++ leBytes 8 0⟩ with
              | (_, .wait) => d
              | (d, .fail s) => d.endCmd c.ring c.serial s 0 noUnit
              | (d, .ok) =>
                match d.alloc t (.mirror a (objHome l) (objArg l) false) with
                | none => d.fail c Sts.noSlot 1
                | some (i, d) => d.setRun c.ring c.serial (.fabricFence i)

/-- Home's answer to a subscription (R316): its value goes into the mirror word and the handle is written; any other
status ends the command and the mirror is gone. -/
def Dev.subscribed (d : Dev) (c : Cmd) (i : Nat) (status : Half) (detail : Nat) (value : Wide) : Dev :=
  let e := d.entry i
  if status ≠ Sts.ok then
    let d := ((d.setEntry i { e with gen := e.gen + 1 }).release i)
    d.endCmd c.ring c.serial status (BitVec.ofNat 64 detail) noUnit
  else match e.payload with
    | .mirror off _ _ _ =>
      let d := (d.localWrite Asker.none true none .local off (leBytes 8 value.toNat)).1
      d.writeHandle c i (d.handleWrite (objResult c.desc) i)
    | _ => d

/-! ## Freeing -/

/-- OBJ_FREE (R308). A handle that another OBJ_FREE has freed since acceptance is no longer current. -/
def Dev.runObjFree (d : Dev) (c : Cmd) : Dev :=
  let l := c.desc
  let h := freeHandle l
  if !d.current h then d.fail c Sts.staleHandle 1
  else if !reservedZero l freeFields then d.fail c Sts.badDescriptor 4
  else
    let i := handleIndex h
    let f := freeFence l
    let d := d.endFabric i
    let e := d.entry i
    let rel : Option Release := if f = 0 then none else some ⟨handleIndex f, freeValue l⟩
    let d := d.setEntry i { e with gen := e.gen + 1, state := .dying, release := rel }
    let d := if f = 0 then d else d.takeRef (handleIndex f)
    (d.drop [i]).done c 0

/-! ## Waits -/

/-- The local offset of the word of a fence or mirror. -/
def Payload.word : Payload → Option Nat
  | .fence off => some off
  | .mirror off _ _ _ => some off
  | _ => Option.none

/-- Whether a wait for `v` on the fence of entry `i` is satisfied (R311); a word that cannot be read satisfies only a wait
for 0 (R405). -/
def Dev.satisfied (d : Dev) (i : Nat) (v : Wide) : Bool :=
  v = 0 || (match (d.entry i).payload.word with
    | some off => match d.wordRead off with
      | some w => v.toNat ≤ w.toNat
      | none => false
    | none => false)

/-- Whether the fence of an entry uses an export slot or a mirror (R318). -/
def Dev.sharedFence (d : Dev) (i : Nat) : Bool :=
  match (d.entry i).payload with
  | .mirror _ _ _ _ => true
  | .fence _ => (NMap.get? d.sub.exports i).isSome
  | _ => false

/-- Whether the home of a mirror can be reached; a fence of this device can. -/
def Dev.homeReachable (d : Dev) (i : Nat) : Bool :=
  match (d.entry i).payload with
  | .mirror _ home _ _ => d.route home ≠ .none
  | _ => true

/-- What a split does to an unsatisfied wait on a shared fence (R318, R393): it goes on, is held, or is PARTITIONED. -/
def Dev.waitGate (d : Dev) (i : Nat) : Acc :=
  if !d.sharedFence i then .ok
  else match d.sharedGate with
    | .ok => if d.homeReachable i then .ok else .fail Sts.partitioned
    | g => g

/-- Puts an unsatisfied wait into a watch slot that no parked wait is to take, or parks it; its timeout counts tick edges from
its start (R313, R315). -/
def Dev.watch (d : Dev) (c : Cmd) : Dev :=
  let t := waitTimeoutTicks c.desc
  let timeout : Option Nat := if t = 0 then none else some (d.meter.edges + t - c.edges)
  let k := (c.ring, c.serial)
  if d.sub.slots.length + d.sub.parked.length < 48 then
    (d.withWatch (d.sub.slots ++ [k]) d.sub.parked).setRun c.ring c.serial (.waiting false timeout)
  else
    ((d.withWatch d.sub.slots (d.sub.parked ++ [k])).setRun c.ring c.serial (.waiting true timeout)).bump
      Fld.SUB_PARKED_WAITS_count 0 1

/-- FENCE_WAIT (R311, R313, R315, R318). -/
def Dev.runFenceWait (d : Dev) (c : Cmd) : Dev :=
  let i := handleIndex (waitFence c.desc)
  match c.run with
  | .waiting _ _ => d
  | _ =>
    if !reservedZero c.desc waitFields then d.fail c Sts.badDescriptor 3
    else if d.lost (d.handleOf i) then d.endCmd c.ring c.serial Sts.staleHandle 0 noUnit
    else if d.satisfied i (waitValue c.desc) then d.done c 0
    else match d.waitGate i with
      | .ok => d.watch c
      | .wait => d.setRun c.ring c.serial (.shared d.now)
      | .fail s => d.endCmd c.ring c.serial s 0 noUnit

/-- Whether the mirror of an entry is LOST (R317). -/
def Dev.lostEntry (d : Dev) (i : Nat) : Bool :=
  match (d.entry i).payload with
  | .mirror _ _ _ l => l
  | _ => false

/-- FENCE_WAIT_SATISFIED: a wait in a watch slot whose word has reached its value proceeds, and one whose mirror is LOST
ends with STALE_HANDLE (R315, R317). -/
def Dev.waitDone (d : Dev) (ring : Nat) (serial : Wide) : Dev :=
  match d.cmd? ring serial with
  | some c => match c.run with
    | .waiting false _ =>
      let i := handleIndex (waitFence c.desc)
      if d.lostEntry i then d.endCmd ring serial Sts.staleHandle 0 noUnit
      else if d.satisfied i (waitValue c.desc) then (d.done c 0).hist 11 ((d.now - c.startAt) / 100)
      else d
    | _ => d
  | none => d

/-- WAIT_TIMEOUT: a wait still unsatisfied at its timeout edge ends with the word's value (R313, R329). A word that
cannot be read has a value the spec does not give. -/
def Dev.waitTimedOut (d : Dev) (ring : Nat) (serial : Wide) : Dev :=
  match d.cmd? ring serial with
  | some c => match c.run with
    | .waiting _ (some t) =>
      let i := handleIndex (waitFence c.desc)
      if d.lostEntry i then d.endCmd ring serial Sts.staleHandle 0 noUnit
      else if d.meter.edges < t ∨ d.satisfied i (waitValue c.desc) then d
      else match (d.entry i).payload.word.bind d.wordRead with
        | some w => d.endCmd ring serial Sts.waitTimeout w noUnit
        | none => let n := d.fresh; n.2.endCmd ring serial Sts.waitTimeout (Config.freeWide n.1) noUnit
    | _ => d
  | none => d

/-- PARKED_WAIT_TAKES_SLOT: the longest-parked wait takes a free watch slot and is examined at once (R315). -/
def Dev.unpark (d : Dev) : Dev :=
  if d.sub.slots.length < 48 then
    match d.sub.parked with
    | [] => d
    | k :: rest =>
      match d.cmd? k.1 k.2 with
      | none => d.withWatch d.sub.slots rest
      | some c =>
        let timeout := match c.run with
          | .waiting _ t => t
          | _ => none
        let d := (d.withWatch (d.sub.slots ++ [k]) rest).setRun k.1 k.2 (.waiting false timeout)
        d.waitDone k.1 k.2
  else d

/-- At a tick edge the parked waits are examined (R315). -/
def Dev.examineParked (d : Dev) : Dev :=
  d.sub.parked.foldl (fun d k => match d.cmd? k.1 k.2 with
    | some c =>
      let i := handleIndex (waitFence c.desc)
      if d.lostEntry i then d.endCmd k.1 k.2 Sts.staleHandle 0 noUnit
      else if d.satisfied i (waitValue c.desc) then (d.done c 0).hist 12 ((d.now - c.startAt) / 1000)
      else d
    | none => d) d

/-! ## Signals -/

/-- FENCE_SIGNAL (R309, R310, R314, R317, R318). A signal through a mirror completes when its home acknowledges it. -/
def Dev.runFenceSignal (d : Dev) (c : Cmd) : Dev :=
  let i := handleIndex (waitFence c.desc)
  match c.run with
  | .fabricFence _ => d
  | _ =>
    if !reservedZero c.desc signalFields then d.fail c Sts.badDescriptor 3
    else
      let v := if signalIncrement c.desc then none else some (waitValue c.desc)
      match d.signalEntry c.ring c.serial i v with
      | (_, .wait) => d.setRun c.ring c.serial (.shared d.now)
      | (d, .fail s) => d.endCmd c.ring c.serial s 0 noUnit
      | (d, .ok) =>
        match (d.entry i).payload with
        | .mirror _ _ _ _ => d.setRun c.ring c.serial (.fabricFence i)
        | _ => d.done c 0

/-- What the device's side or routes do to waits that are pending: those on shared fences that the split cuts off end with
PARTITIONED, unless they are satisfied (R318). -/
def Dev.splitWaits (d : Dev) : Dev :=
  d.sub.cmds.foldl (fun (d : Dev) c => match c.run with
    | .waiting _ _ =>
      let i := handleIndex (waitFence c.desc)
      if d.lostEntry i ∨ d.satisfied i (waitValue c.desc) then d
      else match d.waitGate i with
        | .fail s => d.endCmd c.ring c.serial s 0 noUnit
        | _ => d
    | _ => d) d

/-- SHARED_OPERATION_TIMEOUT: an operation on a shared object, a pending wait among them, that has been held for native_us while
the device is FORMING completes with PARTITIONED (R393). -/
def Dev.sharedTimedOut (d : Dev) (ring : Nat) (serial : Wide) : Dev :=
  match d.cmd? ring serial with
  | some c => match c.run with
    | .shared since =>
      if d.side = 0 then (d.advanceTo (since + 1000 * d.fld Fld.FAB_OP_TIMEOUT_native_us 0)).endCmd ring serial Sts.partitioned 0 noUnit else d
    | .waiting _ _ =>
      let i := handleIndex (waitFence c.desc)
      if d.lostEntry i ∨ d.satisfied i (waitValue c.desc) ∨ d.waitGate i ≠ .wait then d
      else (d.advanceTo (max c.startAt d.fab.dom.formingAt + 1000 * d.fld Fld.FAB_OP_TIMEOUT_native_us 0)).endCmd ring serial
        Sts.partitioned 0 noUnit
    | _ => d
  | none => d

end Sys2Proof.Machine
end

