-- ==== Sys2Proof/Machine/Spirv.lean ====
section
/-! DEFINITION. The SPIR-V intake of KERNEL_LOAD: reading a module's words, and the rules under which it is rejected (R47
to R49, R52, R94 to R96, R118, R128, R139, R326, R471). What full SPIR-V validation and Gotik's code generation decide is
an operand of the translation. Enumerants are those of the Khronos SPIR-V 1.6 specification and of R471, R92, R116 and
R131. -/

namespace Sys2Proof.Machine

/-- An instruction of a module: its word offset, opcode and operand words. -/
structure SpvIns where
  off : Nat
  op : Nat
  a : List Nat
  deriving DecidableEq, Repr

/-- Reasons of R53. -/
def rejMalformed : Nat := 1
def rejVersion : Nat := 2
def rejModel : Nat := 3
def rejCapability : Nat := 4
def rejExtension : Nat := 5
def rejLimit : Nat := 6
def rejNotFound : Nat := 7
def rejAmbiguous : Nat := 8
def rejIncomplete : Nat := 9

/-- The words of a module, least significant byte first. -/
def wordsOf : Nat → Bytes → List Nat
  | 0, _ => []
  | n + 1, bs => leNat (bs.take 4) :: wordsOf n (bs.drop 4)

/-- Splits words into instructions; the second part is the offset of a word count that does not fit. -/
def spvParse : Nat → Nat → List Nat → List SpvIns × Option Nat
  | 0, _, _ => ([], none)
  | _, _, [] => ([], none)
  | fuel + 1, off, w :: ws =>
    let n := w / 65536
    if n = 0 ∨ n > ws.length + 1 then ([], some off)
    else
      let r := spvParse fuel (off + n) (ws.drop (n - 1))
      (⟨off, w % 65536, ws.take (n - 1)⟩ :: r.1, r.2)

/-- A literal string at the start of operand words: its bytes, and the words it takes. -/
def spvString (a : List Nat) : Option (Bytes × Nat) :=
  let bs := a.flatMap (fun w => leBytes 4 w)
  let s := bs.takeWhile (fun b => b ≠ 0)
  if s.length < bs.length then some (s, s.length / 4 + 1) else none

/-- Supported capabilities (R48, R471, R92, R116). -/
def spvCaps : List Nat :=
  [0, 1, 9, 11, 12, 22, 32, 33, 35, 39, 40, 50, 55, 56, 61, 62, 63, 64, 65, 66, 67, 68, 4427, 4433, 4434, 4448, 4449, 4464,
    4467, 5345, 5346, 5347, 6033, 6095, 6510, 6516, 6520]

/-- Supported extensions (R49). -/
def spvExts : List Bytes :=
  ["SPV_KHR_storage_buffer_storage_class", "SPV_KHR_8bit_storage", "SPV_KHR_16bit_storage", "SPV_KHR_physical_storage_buffer",
    "SPV_KHR_vulkan_memory_model", "SPV_KHR_non_semantic_info", "SPV_KHR_float_controls",
    "SPV_STOLKALOR_block_scaled_matrix", "SPV_STOLKALOR_cluster_local", "SPV_STOLKALOR_stochastic_round"].map ascii

/-- An entry point. -/
structure SpvEntry where
  off : Nat
  /-- 0 Vertex, 1 Fragment, 2 GLCompute (R53) -/
  model : Nat
  fn : Nat
  name : Bytes
  deriving DecidableEq, Repr

/-- Execution models accepted, as R53 numbers them (R47). -/
def spvModel : Nat → Option Nat
  | 0 => some 0
  | 4 => some 1
  | 5 => some 2
  | _ => none

/-- The entry points of a module. -/
def spvEntries (is : List SpvIns) : List SpvEntry :=
  is.filterMap (fun i =>
    if i.op = 15 then match spvModel (nth i.a 0 0), spvString (i.a.drop 2) with
      | some m, some (s, _) => some ⟨i.off, m, nth i.a 1 0, s⟩
      | _, _ => none
    else none)

/-- Each instruction with the function it stands in, 0 outside every function. -/
def spvInFn : Nat → List SpvIns → List (Nat × SpvIns)
  | _, [] => []
  | cur, i :: t =>
    let f := if i.op = 54 then nth i.a 1 0 else cur
    (f, i) :: spvInFn (if i.op = 56 then 0 else f) t

/-- Functions that a set of functions reaches by calls. -/
def spvReach (calls : List (Nat × Nat)) : Nat → List Nat → List Nat
  | 0, fs => fs
  | n + 1, fs =>
    let more := (calls.filter (fun c => fs.contains c.1 && !fs.contains c.2)).map (·.2)
    if more.isEmpty then fs else spvReach calls n (fs ++ more.eraseDups)

/-- Functions in the call trees of Vertex and Fragment entry points. -/
def spvGraphics (is : List SpvIns) : List Nat :=
  let fs := spvInFn 0 is
  let calls := fs.filterMap (fun p => if p.2.op = 57 then some (p.1, nth p.2.a 2 0) else none)
  spvReach calls calls.length (((spvEntries is).filter (fun e => e.model ≠ 2)).map (·.fn))

/-- Opcodes without a result type. -/
def spvNoType (op : Nat) : Bool :=
  (2 ≤ op && op ≤ 11) || (14 ≤ op && op ≤ 39) || op = 56 || (62 ≤ op && op ≤ 64) || (71 ≤ op && op ≤ 76) || op = 99
    || op = 224 || op = 225 || op = 228 || (246 ≤ op && op ≤ 255) || op = 317 || op = 4416 || op = 5380

/-- The type of a value. -/
def spvTypeOf (is : List SpvIns) (id : Nat) : Option Nat :=
  (is.find? (fun i => !spvNoType i.op && i.a.length ≥ 2 && nth i.a 1 0 = id)).map (fun i => nth i.a 0 0)

/-- The instruction that declares a type. -/
def spvTypeIns (is : List SpvIns) (t : Nat) : Option SpvIns :=
  is.find? (fun i => 19 ≤ i.op && i.op ≤ 39 && nth i.a 0 0 = t)

/-- A 32-bit specialization operation on constants, by its opcode. -/
def spvFold (op x y z : Nat) : Nat :=
  let m := 2 ^ 32
  let v := match op with
    | 128 => x + y
    | 130 => x + m - y % m
    | 132 => x * y
    | 134 => x / y
    | 137 => x % y
    | 194 => x / 2 ^ (y % 32)
    | 196 => x * 2 ^ (y % 32)
    | 197 => x ||| y
    | 198 => x ^^^ y
    | 199 => x &&& y
    | 126 => m - x % m
    | 200 => m - 1 - x % m
    | 169 => if x = 0 then z else y
    | 170 => if x = y then 1 else 0
    | 171 => if x = y then 0 else 1
    | 172 => if y < x then 1 else 0
    | 174 => if y ≤ x then 1 else 0
    | 176 => if x < y then 1 else 0
    | 178 => if x ≤ y then 1 else 0
    | _ => x
  v % m

/-- The value of an integer or Boolean constant: a specialization constant has its default, since KERNEL_LOAD gives no other;
`fuel` bounds the nesting of specialization operations. -/
def spvConstOf (is : List SpvIns) : Nat → Nat → Nat
  | 0, _ => 0
  | fuel + 1, id =>
    match is.find? (fun i => 41 ≤ i.op && i.op ≤ 52 && nth i.a 1 0 = id) with
    | none => 0
    | some i => match i.op with
      | 41 => 1
      | 43 => nth i.a 2 0
      | 48 => 1
      | 50 => nth i.a 2 0
      | 52 => spvFold (nth i.a 2 0) (spvConstOf is fuel (nth i.a 3 0)) (spvConstOf is fuel (nth i.a 4 0))
          (spvConstOf is fuel (nth i.a 5 0))
      | _ => 0

/-- The value of a constant. -/
def spvConst (is : List SpvIns) (id : Nat) : Nat := spvConstOf is 16 id

/-- Component count and component kind of a type: 0 signed or unsigned 32-bit integer, 1 32-bit unsigned integer, 2 32-bit
float, 3 16-bit float, 9 anything else. A signed integer answers 0, an unsigned one 1. -/
def spvShape (is : List SpvIns) (t : Nat) : Nat × Nat :=
  let scalar := fun (i : SpvIns) =>
    if i.op = 21 ∧ nth i.a 1 0 = 32 then (if nth i.a 2 0 = 0 then 1 else 0)
    else if i.op = 22 ∧ nth i.a 1 0 = 32 then 2
    else if i.op = 22 ∧ nth i.a 1 0 = 16 then 3 else 9
  match spvTypeIns is t with
  | none => (0, 9)
  | some i =>
    if i.op = 23 then
      match spvTypeIns is (nth i.a 1 0) with
      | some c => (nth i.a 2 0, scalar c)
      | none => (0, 9)
    else (1, scalar i)

/-- Whether a value has `n` components of one of the kinds. -/
def spvIs (is : List SpvIns) (id n : Nat) (kinds : List Nat) : Bool :=
  match spvTypeOf is id with
  | some t => let s := spvShape is t; s.1 = n && kinds.contains s.2
  | none => false

/-- Class of a matrix element format (R93): 0 16-bit float, 1 8-bit float, 2 narrow float, 3 8-bit integer, 4 4-bit
integer. -/
def matClass (f : Nat) : Option Nat :=
  match f with
  | 0 => some 0 | 1 => some 0 | 2 => some 1 | 3 => some 1 | 4 => some 2 | 5 => some 2 | 6 => some 2 | 7 => some 3
  | 8 => some 3 | 9 => some 4 | 10 => some 4 | _ => none

/-- Whether two formats may be paired (R94). -/
def matPair (fa fb : Nat) : Bool :=
  match matClass fa, matClass fb with
  | some 0, some 0 => fa = fb
  | some a, some b => a = b
  | _, _ => false

/-- Registers of a fragment of a format in each lane (R97). -/
def matRegs (f : Nat) : Nat := if f = 4 ∨ f = 5 then 6 else 4

/-- Whether a matrix instruction breaks R92 and R94 to R96. -/
def matBad (is : List SpvIns) (i : SpvIns) : Bool :=
  let fa := nth i.a 5 99
  let fb := nth i.a 6 99
  let n := i.a.length
  let acc := if fa ≥ 7 then [0, 1] else [2]
  !(n = 7 || n = 10) || !matPair fa fb
    || (n = 10 && (!(nth i.a 7 0 = 16 || nth i.a 7 0 = 32) || !(matClass fa = some 1 || matClass fa = some 2)
      || !spvIs is (nth i.a 8 0) 1 [1] || !spvIs is (nth i.a 9 0) 1 [1]))
    || !spvIs is (nth i.a 2 0) (matRegs fa) [1] || !spvIs is (nth i.a 3 0) (matRegs fb) [1]
    || !spvIs is (nth i.a 4 0) 8 acc || spvTypeOf is (nth i.a 4 0) ≠ some (nth i.a 0 0)

/-- Whether `n` elements of a format fit an operand of this shape: 1 to 4 unsigned words, or for FP32 and FP16 a scalar or
vector of that type (R116, R118). -/
def convFits (f n : Nat) (s : Nat × Nat) : Bool :=
  match NumFmt.ofCode f with
  | some x => (s.2 = 1 && 1 ≤ s.1 && s.1 ≤ 4 && n * x.width ≤ 32 * s.1)
      || (f = 11 && s.2 = 2 && n ≤ s.1) || (f = 0 && s.2 = 3 && n ≤ s.1)
  | none => false

/-- Whether a rounded conversion breaks R116 and R118. -/
def convBad (is : List SpvIns) (graphics : Bool) (i : SpvIns) : Bool :=
  let sf := nth i.a 3 99
  let tf := nth i.a 4 99
  let n := nth i.a 5 0
  let rnd := nth i.a 6 9
  let ov := nth i.a 7 9
  let intTarget := (7 ≤ tf && tf ≤ 10) || tf = 12
  i.a.length ≠ 8 || n = 0 || n > 32 || rnd > 2 || ov > 2
    || !(match NumFmt.ofCode sf, NumFmt.ofCode tf with
        | some s, some t => convertible s t
        | _, _ => false)
    || (rnd = 2 && (intTarget || tf = 13 || sf = tf))
    || (tf = 13 && sf = 11 && rnd ≠ 1)
    || (ov = 2 && (intTarget || tf = 4 || tf = 5 || tf = 6))
    || (graphics && rnd = 2)
    || !(match spvTypeOf is (nth i.a 2 0) with
        | some t => convFits sf n (spvShape is t)
        | none => false)
    || !convFits tf n (spvShape is (nth i.a 0 0))

/-- Whether a block quantization breaks R118 and R131. -/
def quantBad (is : List SpvIns) (graphics : Bool) (i : SpvIns) : Bool :=
  let tf := nth i.a 3 99
  i.a.length ≠ 6 || tf < 2 || tf > 6 || !(nth i.a 4 0 = 16 || nth i.a 4 0 = 32) || nth i.a 5 9 > 2 || graphics
    || !spvIs is (nth i.a 2 0) 1 [2] || spvShape is (nth i.a 0 0) ≠ (2, 1)

/-- Ids that a decoration of `id` reaches: itself, and the targets of the group that it names. -/
def spvTargets (is : List SpvIns) (id : Nat) : List Nat :=
  id :: (is.filter (fun i => i.op = 74 && nth i.a 0 0 = id)).flatMap (fun i => i.a.drop 1)

/-- Operand of the decoration `dec` of `id`, given to it or to a group it belongs to. -/
def spvDecoration (is : List SpvIns) (id dec : Nat) : Option Nat :=
  (is.find? (fun i => i.op = 71 && nth i.a 1 0 = dec && (spvTargets is (nth i.a 0 0)).contains id)).map (fun i => nth i.a 2 0)

/-- The type that a pointer type or a variable's type points to. -/
def spvPointee (is : List SpvIns) (t : Nat) : Nat :=
  match spvTypeIns is t with
  | some p => if p.op = 32 then nth p.a 2 0 else 0
  | none => 0

/-- Whether a variable is an input with a Location, its own or a member's (R139). -/
def spvLocated (is : List SpvIns) (v : SpvIns) : Bool :=
  v.op = 59 && nth v.a 2 9 = 1 && ((spvDecoration is (nth v.a 1 0) 30).isSome
    || is.any (fun i => i.op = 72 && nth i.a 0 0 = spvPointee is (nth v.a 0 0) && nth i.a 2 0 = 30))

/-- Ids of the scopes that an instruction names: of barriers, atomics, group operations, and memory accesses that make a value
available or visible. -/
def spvScopes (i : SpvIns) : List Nat :=
  let access := fun (k : Nat) =>
    let m := nth i.a k 0
    let o := k + 1 + m / 2 % 2
    (if m.testBit 3 then [nth i.a o 0] else []) ++ (if m.testBit 4 then [nth i.a (o + m / 8 % 2) 0] else [])
  match i.op with
  | 61 => access 3
  | 62 => access 2
  | 63 => access 2
  | 224 => [nth i.a 0 0, nth i.a 1 0]
  | 225 => [nth i.a 0 0]
  | 227 => [nth i.a 3 0]
  | 228 => [nth i.a 1 0]
  | 6035 => [nth i.a 3 0]
  | n => if 229 ≤ n ∧ n ≤ 242 then [nth i.a 3 0] else if 333 ≤ n ∧ n ≤ 366 then [nth i.a 2 0] else []

/-- Whether a scope is one of R78's; the cluster's needs its capability (R471). -/
def spvScopeOk (caps : List Nat) (s : Nat) : Bool := s ≤ 5 || (s = 6512 && caps.contains 6510)

/-- Whether a BuiltIn decoration breaks R471: the cluster's built-ins decorate Input variables of their types, and need the
capability. -/
def spvBuiltBad (is : List SpvIns) (caps : List Nat) (id built : Nat) : Bool :=
  (built = 6514 || built = 6515) && (!caps.contains 6510 || (spvTargets is id).any (fun v =>
    match is.find? (fun i => i.op = 59 && nth i.a 1 0 = v) with
    | some x => nth x.a 2 9 ≠ 1 || spvShape is (spvPointee is (nth x.a 0 0)) ≠ (if built = 6514 then 1 else 3, 1)
    | none => !is.any (fun i => i.op = 73 && nth i.a 0 0 = v)))

/-- Whether a rounding mode other than RTE and RTZ decorates an OpFConvert, itself or through a group (R128). -/
def spvRoundBad (is : List SpvIns) (id mode : Nat) : Bool :=
  mode ≥ 2 && is.any (fun x => x.op = 115 && (spvTargets is id).contains (nth x.a 1 0))

/-- The reason for which one instruction makes its module unacceptable, or none. -/
def spvOffence (is : List SpvIns) (caps graphics : List Nat) (fn : Nat) (i : SpvIns) : Option Nat :=
  let g := graphics.contains fn
  if i.op = 17 then (if spvCaps.contains (nth i.a 0 0) then none else some rejCapability)
  else if i.op = 10 then
    match spvString i.a with
    | some (s, _) => if spvExts.contains s then none else some rejExtension
    | none => some rejMalformed
  else if i.op = 14 then
    (if (nth i.a 0 9 = 0 ∨ nth i.a 0 9 = 5348) ∧ (nth i.a 1 9 = 1 ∨ nth i.a 1 9 = 3) then none else some rejModel)
  else if i.op = 15 then
    (match spvModel (nth i.a 0 99), spvString (i.a.drop 2) with
    | none, _ => some rejModel
    | _, none => some rejMalformed
    | some 0, some (_, n) =>
      if is.any (fun x => spvLocated is x && (i.a.drop (2 + n)).contains (nth x.a 1 0)) then some rejMalformed else none
    | _, _ => none)
  else if i.op = 16 ∧ nth i.a 1 0 = 6513 then
    (if i.a.length = 5 ∧ 1 ≤ nth i.a 2 0 ∧ 1 ≤ nth i.a 3 0 ∧ 1 ≤ nth i.a 4 0 ∧ nth i.a 2 0 * nth i.a 3 0 * nth i.a 4 0 ≤ 8
      then none else some rejMalformed)
  else if i.op = 71 then
    (if (nth i.a 1 0 = 39 ∧ spvRoundBad is (nth i.a 0 0) (nth i.a 2 0)) ∨ (nth i.a 1 0 = 11 ∧ spvBuiltBad is caps (nth i.a 0 0) (nth i.a 2 0))
      then some rejMalformed else none)
  else if i.op = 72 ∧ nth i.a 2 0 = 11 ∧ (nth i.a 3 0 = 6514 ∨ nth i.a 3 0 = 6515) then some rejMalformed
  else if (i.op = 32 ∧ nth i.a 1 0 = 6511) ∨ (i.op = 59 ∧ nth i.a 2 0 = 6511) then
    (if caps.contains 6510 then none else some rejMalformed)
  else if (spvScopes i).any (fun s => !spvScopeOk caps (spvConst is s)) then some rejMalformed
  else if i.op = 6517 then (if !caps.contains 6516 ∨ g ∨ matBad is i then some rejMalformed else none)
  else if i.op = 6521 then (if !caps.contains 6520 ∨ convBad is g i then some rejMalformed else none)
  else if i.op = 6522 then (if !caps.contains 6520 ∨ quantBad is g i then some rejMalformed else none)
  else none

/-- The outcome of the intake checks: a reason with the offset of the first offending instruction, or none. -/
structure Intake where
  reject : Option (Nat × Nat)
  ins : List SpvIns
  deriving DecidableEq, Repr

/-- Reads a module and makes its checks (R47 to R49, R96, R118). Where the header itself is wrong the offset is 0. -/
def spvIntake (m : Bytes) (malformedAt : Option Nat) : Intake :=
  let w := wordsOf (m.length / 4) m
  let ver := nth w 1 0
  if nth w 0 0 ≠ 0x07230203 ∨ w.length < 5 ∨ nth w 4 1 ≠ 0 then ⟨some (rejMalformed, 0), []⟩
  else if ver / 65536 ≠ 1 ∨ ver % 256 ≠ 0 ∨ ver / 256 % 256 > 6 then ⟨some (rejVersion, 0), []⟩
  else
    let p := spvParse w.length 5 (w.drop 5)
    let is := p.1
    let caps := (is.filter (fun i => i.op = 17)).map (fun i => nth i.a 0 0)
    let g := spvGraphics is
    let bad := (spvInFn 0 is).filterMap (fun x => (spvOffence is caps g x.1 x.2).map (fun r => (r, x.2.off)))
      ++ (match p.2 with | some o => [(rejMalformed, o)] | none => [])
      ++ (match malformedAt with | some o => [(rejMalformed, o)] | none => [])
      ++ (if is.any (fun i => i.op = 14) then [] else [(rejMalformed, 0)])
    ⟨minBy (·.2) bad, is⟩

/-- The entry points that a name and a model select (R326). -/
def spvSelect (is : List SpvIns) (name : Bytes) (model : Nat) : List SpvEntry :=
  (spvEntries is).filter (fun e => e.name = name && (model = 0 || e.model + 1 = model))

/-- Operands of an execution mode of a function. -/
def spvMode (is : List SpvIns) (fn mode : Nat) : Option (List Nat) :=
  (is.find? (fun i => i.op = 16 && nth i.a 0 0 = fn && nth i.a 1 0 = mode)).map (fun i => i.a.drop 2)

/-- Ids that an instruction uses as pointers. -/
def spvPointers (i : SpvIns) : List Nat :=
  match i.op with
  | 57 => i.a.drop 3
  | 60 => [nth i.a 2 0]
  | 61 => [nth i.a 2 0]
  | 62 => [nth i.a 0 0, nth i.a 1 0]
  | 63 => [nth i.a 0 0, nth i.a 1 0]
  | 64 => [nth i.a 0 0, nth i.a 1 0]
  | 65 => [nth i.a 2 0]
  | 66 => [nth i.a 2 0]
  | 67 => [nth i.a 2 0]
  | 68 => [nth i.a 2 0]
  | 70 => [nth i.a 2 0]
  | 83 => [nth i.a 2 0]
  | 169 => [nth i.a 3 0, nth i.a 4 0]
  | 228 => [nth i.a 0 0]
  | 245 => i.a.drop 2
  | 6035 => [nth i.a 2 0]
  | n => if 227 ≤ n ∧ n ≤ 242 then [nth i.a 2 0] else []

/-- Instructions of the functions that an entry point's function reaches by calls. -/
def spvBody (is : List SpvIns) (fn : Nat) : List SpvIns :=
  let fs := spvInFn 0 is
  let calls := fs.filterMap (fun p => if p.2.op = 57 then some (p.1, nth p.2.a 2 0) else none)
  let reach := spvReach calls calls.length [fn]
  (fs.filter (fun p => p.1 ≠ 0 && reach.contains p.1)).map (·.2)

/-- Entries of the argument block that an entry point uses: 32 · set + binding of each variable that its functions refer to
(R57, R58). DESIGN CHOICE (log entry 108): a variable of a set above 3 or a binding above 31 has no entry, and nothing is
read for it. -/
def spvUses (is : List SpvIns) (fn : Nat) : List Nat :=
  let used := (spvBody is fn).flatMap spvPointers
  (is.filterMap (fun i =>
    if i.op = 59 ∧ used.contains (nth i.a 1 0) then
      match spvDecoration is (nth i.a 1 0) 34, spvDecoration is (nth i.a 1 0) 33 with
      | some s, some b => if s < 4 ∧ b < 32 then some (32 * s + b) else none
      | _, _ => none
    else none)).eraseDups

/-- Registers of each lane that the widest matrix instruction of an entry point's functions uses: A, B, C and D in one
variable, and scales (R97). -/
def spvMatRegs (is : List SpvIns) (fn : Nat) : Nat :=
  ((spvBody is fn).filter (fun i => i.op = 6517)).foldl (fun m i =>
    max m (matRegs (nth i.a 5 99) + matRegs (nth i.a 6 99) + 8 + (if i.a.length = 10 then 2 else 0))) 0

/-- Operand of a member decoration. -/
def spvMember (is : List SpvIns) (t m dec : Nat) : Option Nat :=
  (is.find? (fun i => i.op = 72 && nth i.a 0 0 = t && nth i.a 1 0 = m && nth i.a 2 0 = dec)).map (fun i => nth i.a 3 0)

/-- Bytes of a matrix of a type with a stride: a column for each column, or in row-major order a row for each row. -/
def spvMatrixSize (is : List SpvIns) (m : SpvIns) (stride : Nat) (rowMajor : Bool) : Nat :=
  let rows := match spvTypeIns is (nth m.a 1 0) with
    | some c => nth c.a 2 0
    | none => 0
  (if rowMajor then rows else nth m.a 2 0) * stride

/-- Size of a type with explicit layout, in bytes, a scalar without layout taking its own; `fuel` bounds its nesting. -/
def spvSize (is : List SpvIns) : Nat → Nat → Nat
  | 0, _ => 0
  | fuel + 1, t =>
    match spvTypeIns is t with
    | none => 0
    | some i => match i.op with
      | 20 => 4
      | 21 => nth i.a 1 0 / 8
      | 22 => nth i.a 1 0 / 8
      | 23 => nth i.a 2 0 * spvSize is fuel (nth i.a 1 0)
      | 24 => nth i.a 2 0 * spvSize is fuel (nth i.a 1 0)
      | 28 => spvConst is (nth i.a 2 0) * (spvDecoration is t 6).getD (spvSize is fuel (nth i.a 1 0))
      | 30 => ((i.a.drop 1).zipIdx.foldl (fun (acc : Nat × Nat) p =>
          let n := match spvMember is t p.2 7, spvTypeIns is p.1 with
            | some stride, some x =>
              if x.op = 24 then spvMatrixSize is x stride (spvMember is t p.2 4).isSome else spvSize is fuel p.1
            | _, _ => spvSize is fuel p.1
          let o := (spvMember is t p.2 35).getD acc.2
          (max acc.1 (o + n), o + n)) (0, 0)).1
      | 32 => 8
      | _ => 0

/-- Size of the PushConstant block, at most 256 bytes (R57). -/
def spvPush (is : List SpvIns) : Nat :=
  match is.find? (fun i => i.op = 59 && nth i.a 2 0 = 9) with
  | some v => match spvTypeIns is (nth v.a 0 0) with
    | some p => min 256 (spvSize is 16 (nth p.a 2 0))
    | none => 0
  | none => 0

/-- The Workgroup and ClusterLocal variables of a module in module order: the word offset of each OpVariable and the bytes its
type takes at least. -/
def spvStorage (is : List SpvIns) : List (Nat × Nat) :=
  (is.filter (fun i => i.op = 59 && (nth i.a 2 9 = 4 || nth i.a 2 9 = 6511))).map (fun i =>
    (i.off, spvSize is 16 (spvPointee is (nth i.a 0 0))))

/-- Bytes of that storage in a layout that gives each variable its bytes, and the first OpVariable at which the running total
passes 448 KiB (R52). -/
def spvStorageIn (vars : List (Nat × Nat)) (layout : List Nat) : Nat × Option Nat :=
  (vars.zipIdx).foldl (fun (acc : Nat × Option Nat) p =>
    let total := acc.1 + max p.1.2 (nth layout p.2 0)
    (total, match acc.2 with
      | some o => some o
      | none => if total > 458752 then some p.1.1 else none)) (0, none)

/-- Whether a module declares a capability. -/
def spvHas (is : List SpvIns) (cap : Nat) : Bool := is.any (fun i => i.op = 17 && nth i.a 0 0 = cap)

end Sys2Proof.Machine
end

