-- ==== Sys2Proof/Machine/Kernels.lean ====
section
/-! DEFINITION. Kernel objects: the resource record (R51 to R53), KERNEL_LOAD (R325, R326) and the end of a
translation. -/

namespace Sys2Proof.Machine

/-- The bytes of a resource record (R53) from its fields in order. -/
structure KRecord where
  state : Nat
  model : Nat
  reason : Nat
  flags : Nat
  regs : Nat
  localBytes : Nat
  scratch : Nat
  block : Nat × Nat × Nat
  maxThreads : Nat
  cluster : Nat × Nat × Nat
  offset : Nat
  codeBytes : Nat
  deriving DecidableEq, Repr

/-- The 64 bytes of a record. -/
def KRecord.bytes (r : KRecord) : Bytes :=
  leBytes 1 r.state ++ leBytes 1 r.model ++ leBytes 1 r.reason ++ leBytes 1 r.flags ++ leBytes 2 r.regs ++ leBytes 2 0
    ++ leBytes 4 r.localBytes ++ leBytes 4 r.scratch ++ leBytes 2 r.block.1 ++ leBytes 2 r.block.2.1 ++ leBytes 2 r.block.2.2
    ++ leBytes 2 r.maxThreads ++ leBytes 1 r.cluster.1 ++ leBytes 1 r.cluster.2.1 ++ leBytes 1 r.cluster.2.2 ++ leBytes 1 0
    ++ leBytes 4 r.offset ++ leBytes 8 r.codeBytes ++ List.replicate 24 0

/-- A record from its bytes. -/
def krecordOf (b : Bytes) : KRecord :=
  { state := leAt b 0 1, model := leAt b 1 1, reason := leAt b 2 1, flags := leAt b 3 1, regs := leAt b 4 2
    localBytes := leAt b 8 4, scratch := leAt b 12 4, block := (leAt b 16 2, leAt b 18 2, leAt b 20 2)
    maxThreads := leAt b 22 2, cluster := (leAt b 24 1, leAt b 25 1, leAt b 26 1), offset := leAt b 28 4
    codeBytes := leAt b 32 8 }

/-- A record of a REJECTED kernel of which nothing else is known. -/
def rejectRecord (reason offset : Nat) : KRecord :=
  ⟨2, 0, reason, 0, 0, 0, 0, (0, 0, 0), 0, (0, 0, 0), offset, 0⟩

/-- The entry points of a module's instructions that a name, read up to its zero byte, and a model select. -/
def spvChosen (is : List SpvIns) (name : Option Bytes) (model : Nat) : List SpvEntry :=
  match name with
  | some n => spvSelect is n model
  | none => []

/-- The capability flags of a record, for what a module declares, and fixed_block (R53). -/
def moduleFlags (is : List SpvIns) (fixed : Bool) : Nat :=
  (if spvHas is 6510 then 1 else 0) + (if spvHas is 6516 then 2 else 0) + (if spvHas is 6520 then 4 else 0)
    + (if fixed then 8 else 0)

/-- Fills the fields of a record that say what a module declares, in whatever state (R53): for the entry point chosen, if there
is one. -/
def KRecord.declares (r : KRecord) (is : List SpvIns) (e : Option SpvEntry) : KRecord :=
  let size := e.bind (fun e => spvMode is e.fn 17)
  let cl := (e.bind (fun e => spvMode is e.fn 6513)).getD [0, 0, 0]
  let b := size.getD [0, 0, 0]
  { r with
    model := (e.map (·.model)).getD 0, flags := moduleFlags is size.isSome
    block := (nth b 0 0, nth b 1 0, nth b 2 0), cluster := (nth cl 0 0, nth cl 1 0, nth cl 2 0) }

/-- Scratch of each lane: the module's own, and a word for each register beyond 256, which is spilled (R52). -/
def spillScratch (t : Translation) : Nat := roundUp (t.scratchBytes + 4 * (t.regsNeeded - 256)) 16

/-- The record of a translation: what the module says and what Gotik's code generation found (R52, R53, R97, R326). -/
def translated (module : Bytes) (name : Option Bytes) (model : Nat) (t : Translation) : KRecord :=
  let x := spvIntake module t.malformedAt
  let sel := spvChosen x.ins name model
  let reject := fun (reason offset : Nat) => (rejectRecord reason offset).declares x.ins sel.head?
  match x.reject with
  | some (r, o) => reject r o
  | none =>
    match sel with
    | [] => reject rejNotFound 0
    | e :: rest =>
      if rest.any (fun f => f.model ≠ e.model) then (rejectRecord rejAmbiguous 0).declares x.ins none
      else match spvStorageIn (spvStorage x.ins) t.layout with
        | (_, some o) => reject rejLimit o
        | (bytes, none) =>
          if spillScratch t > 65536 then reject rejLimit e.off
          else
            let regs := max 8 (roundUp (min 256 (max t.regsNeeded (spvMatRegs x.ins e.fn))) 8)
            KRecord.declares { rejectRecord 0 0 with
              state := 1, regs := regs
              localBytes := if e.model = 2 then roundUp bytes 1024 else 0
              scratch := spillScratch t
              maxThreads := if e.model = 2 then min 1024 (128 * (512 / regs)) else 32
              codeBytes := min t.codeBytes (8 * module.length + 65536) } x.ins (some e)

/-- Checks 3 and 4 of R326. -/
def Dev.kernelFails (d : Dev) (c : Cmd) : Option Nat :=
  let l := c.desc
  if !reservedZero l kldFields ∨ (kldModule l).toNat % 4 ≠ 0 ∨ kldBytes l % 4 ≠ 0 ∨ kldBytes l < 20
      ∨ kldBytes l > 16777216 ∨ (kldResult l).toNat % 8 ≠ 0 ∨ (kldRecord l).toNat % 64 ≠ 0 ∨ (c.cls = 0 ∧ !c.gotik) then some 3
  else match (d.entry (handleIndex (kldCode l))).payload with
    | .memory _ _ len => if len.toNat < 8 * kldBytes l + 65536 then some 4 else none
    | _ => some 4

/-- The entry point's name in bytes as read, if it has ended. -/
def entryName (n : Bytes) : Option Bytes := if n.contains 0 then some (n.takeWhile (fun b => b ≠ 0)) else none

/-- The kernel of an entry becomes REJECTED with reason INCOMPLETE; what its module declares, as far as it has been read, is in
the record (R53, R326). -/
def Dev.kernelIncomplete (d : Dev) (i : Nat) : Dev :=
  let e := d.entry i
  match e.payload with
  | .kernel .translating _ code m n x u p =>
    let is := (spvIntake m none).ins
    let r := (rejectRecord rejIncomplete 0).declares is (spvChosen is (entryName n) x).head?
    d.setEntry i { e with payload := .kernel .rejected r.bytes code m n x u p }
  | _ => d

/-- Reads the entry point's name: no byte beyond its zero byte's page is read. -/
def Dev.readName (d : Dev) (c : Cmd) (va : Wide) : Dev × Res × Bytes :=
  let n := min 256 (65536 - va.toNat % 65536)
  match d.cmdRead c engOther va n with
  | (d, .ok, bs) =>
    if bs.contains 0 ∨ n = 256 then (d, .ok, bs)
    else match d.cmdRead c engOther (va + BitVec.ofNat 64 n) (256 - n) with
      | (d, .ok, cs) => (d, .ok, bs ++ cs)
      | r => r
  | r => r

/-- Reads the module and the name once each; the kernel then waits for its translation. -/
def Dev.kernelRead (d : Dev) (c : Cmd) (i : Nat) : Dev :=
  let d := d.setRun c.ring c.serial (.kernelLoad i)
  match d.cmdRead c engOther (kldModule c.desc) (kldBytes c.desc) with
  | (d, .wait, _) => d
  | (d, .fail s va, _) => (d.kernelIncomplete i).endCmd c.ring c.serial s va noUnit
  | (d, .ok, m) => match d.readName c (kldEntry c.desc) with
    | (d, .wait, _) => d
    | (d, .fail s va, _) => (d.kernelIncomplete i).endCmd c.ring c.serial s va noUnit
    | (d, .ok, n) =>
      let e := d.entry i
      match e.payload with
      | .kernel st r code _ _ x u p => d.setEntry i { e with payload := .kernel st r code m n x u p }
      | _ => d

/-- The write of the handle; when it is performed the module is read. -/
def Dev.kernelHandle (d : Dev) (c : Cmd) (i : Nat) (left : List VWrite) : Dev :=
  match Dev.cmdWrites c engOther d left with
  | (d, .ok, _) => d.kernelRead c i
  | (d, .wait, l) => d.setRun c.ring c.serial (.writing l Sts.ok (d.handleOf i) noUnit)
  | (d, .fail s va, _) => (d.unmake i).endCmd c.ring c.serial s va noUnit

/-- The detail of an ended KERNEL_LOAD (R329). -/
def kernelDetail (h : Wide) (r : KRecord) : Wide :=
  if r.state = 1 then h else BitVec.ofNat 64 (r.reason + 2 ^ 32 * r.offset)

/-- The write of the resource record; when it is performed the object takes its final state and the command ends. -/
def Dev.kernelRecord (d : Dev) (c : Cmd) (i : Nat) (left : List VWrite) : Dev :=
  match Dev.cmdWrites c engOther d left with
  | (d, .ok, _) =>
    let e := d.entry i
    match e.payload with
    | .kernel _ r code m n x u p =>
      let k := krecordOf r
      let d := d.setEntry i { e with payload := .kernel (if k.state = 1 then .ready else .rejected) r code m n x u p }
      d.endCmd c.ring c.serial (if k.state = 1 then Sts.ok else Sts.kernelRejected) (kernelDetail (d.handleOf i) k) noUnit
    | _ => d
  | (d, .wait, l) => d.setRun c.ring c.serial (.writing l Sts.ok (d.handleOf i) noUnit)
  | (d, .fail s va, _) => (d.kernelIncomplete i).endCmd c.ring c.serial s va noUnit

/-- KERNEL_LOAD (R325, R326): creates the object in TRANSLATING, writes its handle and reads the module. -/
def Dev.runKernelLoad (d : Dev) (c : Cmd) : Dev :=
  let l := c.desc
  match c.run with
  | .writing left _ detail _ =>
    let i := handleIndex detail
    match (d.entry i).payload with
    | .kernel _ [] _ _ _ _ _ _ => d.kernelHandle c i left
    | _ => d.kernelRecord c i left
  | .kernelLoad i => match (d.entry i).payload with
    | .kernel _ _ _ [] _ _ _ _ => d.kernelRead c i
    | _ => d
  | _ =>
    match d.kernelFails c with
    | some n => d.fail c Sts.badDescriptor n
    | none => match d.exhausted typKernel with
      | some n => d.fail c Sts.noSlot n
      | none =>
        let code := handleIndex (kldCode l)
        match d.alloc typKernel (.kernel .translating [] code [] [] (kldModel l) [] 0) with
        | none => d.fail c Sts.noSlot 1
        | some (i, d) =>
          let d := d.takeRef code
          d.kernelHandle c i (d.handleWrite (kldResult l) i)

/-- The native code, whose bytes the spec does not give, goes into the range of the code memory, in that object's
address space. -/
def Dev.writeCode (d : Dev) (c : Cmd) (code n : Nat) : Dev × Res :=
  match (d.entry code).payload with
  | .memory asid va _ =>
    let g := d.fresh
    let bs := (List.range n).map (fun k => Config.freeByte g.1 k)
    let r := Dev.cmdWrites { c with asid := asid } engOther g.2 [⟨va, bs, false⟩]
    (r.1, r.2.1)
  | _ => (d, .ok)

/-- KERNEL_TRANSLATION_END: Gotik's translation of a module that has been read ends; the code and the record are written
(R51 to R53, R326). -/
def Dev.translationEnd (d : Dev) (i : Nat) (t : Translation) : Dev :=
  match d.sub.cmds.find? (fun c => c.run = .kernelLoad i && c.active), (d.entry i).payload with
  | some c, .kernel .translating [] code (b :: m) n x _ _ =>
    let k := translated (b :: m) (entryName n) x t
    let w := if k.state = 1 then d.writeCode c code k.codeBytes else (d, .ok)
    match w with
    | (d, .wait) => d
    | (d, .fail s va) => (d.kernelIncomplete i).endCmd c.ring c.serial s va noUnit
    | (d, .ok) =>
      let is := (spvIntake (b :: m) t.malformedAt).ins
      let e := d.entry i
      let uses := match spvChosen is (entryName n) x with
        | s :: _ => spvUses is s.fn
        | [] => []
      let d := d.setEntry i { e with payload := .kernel .translating k.bytes code (b :: m) n x uses (spvPush is) }
      d.kernelRecord c i [⟨kldRecord c.desc, k.bytes, false⟩]
  | _, _ => d

end Sys2Proof.Machine
end

