-- ==== Sys2Proof/Machine/Launch.lean ====
section
/-! DEFINITION. DISPATCH and the placement of its blocks (R42 to R46, R54 to R62), the end of blocks and dispatches (R60,
R65, R74 to R76, R82), and how a started command is ended from outside (R38, R330, R354). -/

namespace Sys2Proof.Machine

/-! ## Checks of DISPATCH (R59) -/

/-- What a DISPATCH learns of its kernel. -/
inductive KernelView where
  | translating
  | rejected (r : KRecord)
  | ready (r : KRecord)
  deriving DecidableEq, Repr

/-- The kernel object of an entry. -/
def Dev.kernelView (d : Dev) (i : Nat) : KernelView :=
  match (d.entry i).payload with
  | .kernel .ready r _ _ _ _ _ _ => .ready (krecordOf r)
  | .kernel .translating _ _ _ _ _ _ _ => .translating
  | .kernel .rejected r _ _ _ _ _ _ => .rejected (krecordOf r)
  | _ => .rejected (rejectRecord rejIncomplete 0)

/-- Length of the MEMORY object of an entry. -/
def Dev.memLength (d : Dev) (i : Nat) : Nat :=
  match (d.entry i).payload with
  | .memory _ _ len => len.toNat
  | _ => 0

/-- Steps 4 to 10 of R59. -/
def Dev.dispatchFails (d : Dev) (c : Cmd) (k : KRecord) : Option (Half × Nat) :=
  let x := dispatchD c.desc
  let (gx, gy, gz) := x.grid
  let (bx, bY, bz) := x.block
  let (cx, cy, cz) := x.cluster
  let kc := k.cluster
  if k.model ≠ 2 then some (Sts.badDescriptor, 4)
  else if !reservedZero c.desc dispatchFields ∨ x.split > 4 ∨ bx < 1 ∨ bx > 1024 ∨ bY < 1 ∨ bY > 1024 ∨ bz < 1 ∨ bz > 64
      ∨ x.args.toNat % 8 ≠ 0 then some (Sts.badDescriptor, 5)
  else if bx * bY * bz > k.maxThreads ∨ (k.flags / 8 % 2 = 1 ∧ (bx, bY, bz) ≠ k.block) then some (Sts.badDescriptor, 6)
  else if cx ≠ 0 ∧ (k.flags % 2 = 0 ∨ cx * cy * cz > 8 ∨ gx % cx ≠ 0 ∨ gy % cy ≠ 0 ∨ gz % cz ≠ 0
      ∨ (kc.1 ≠ 0 ∧ (cx, cy, cz) ≠ kc)) then some (Sts.badDescriptor, 7)
  else if kc.1 ≠ 0 ∧ cx = 0 then some (Sts.badDescriptor, 8)
  else if k.localBytes > splitBytes x.split then some (Sts.launchUnfit, 9)
  else if k.scratch > 0 ∧ (x.scratch = 0
      ∨ d.memLength (handleIndex x.scratch) < k.scratch * 2048 * (d.partBricks c.part).length) then some (Sts.badDescriptor, 10)
  else none

/-- The argument entries and push constants a kernel uses, as ranges of the argument block (R57, R58). -/
def argRanges (args : Wide) (uses : List Nat) (push : Nat) : List (Wide × Nat) :=
  uses.map (fun u => (args + BitVec.ofNat 64 (8 * u), 8)) ++ (if push = 0 then [] else [(args + 1024, push)])

/-- Reads ranges in order for a command. -/
def Dev.readRanges (c : Cmd) (engine : Nat) : Dev → List (Wide × Nat) → Dev × Res × Bytes
  | d, [] => (d, .ok, [])
  | d, r :: rs => match d.cmdRead c engine r.1 r.2 with
    | (d, .ok, bs) => match Dev.readRanges c engine d rs with
      | (d, .ok, cs) => (d, .ok, bs ++ cs)
      | x => x
    | x => x

/-- Units that a dispatch starts: its clusters, or its blocks (R46, R60). -/
def DispatchRun.units (r : DispatchRun) : Nat :=
  let n := r.cluster.1 * r.cluster.2.1 * r.cluster.2.2
  if n = 0 then r.total else r.total / n

/-- Linear indices of the blocks of unit `u`, in order of rank (R60, R62). -/
def DispatchRun.unitBlocks (r : DispatchRun) (u : Nat) : List Nat :=
  let (cx, cy, cz) := r.cluster
  let (gx, gy, _) := r.grid
  if cx * cy * cz = 0 then [u]
  else
    let nx := gx / cx
    let ny := gy / cy
    let ux := u % nx
    let uy := u / nx % ny
    let uz := u / nx / ny
    (List.range (cx * cy * cz)).map (fun k =>
      ux * cx + k % cx + gx * (uy * cy + k / cx % cy + gy * (uz * cz + k / cx / cy)))

/-- DISPATCH: its checks, the reading of its argument block, and its start (R51, R57 to R60). What it has read it keeps while it
waits, so that each entry is read once. -/
def Dev.runDispatch (d : Dev) (c : Cmd) : Dev :=
  let x := dispatchD c.desc
  let k := handleIndex x.kernel
  match c.run with
  | .dispatch _ => d
  | _ => match d.kernelView k with
    | .translating => d.setRun c.ring c.serial .kernelWait
    | .rejected _ => d.fail c Sts.kernelRejected 3
    | .ready rec => match d.dispatchFails c rec with
      | some (st, n) => d.fail c st n
      | none =>
        let total := x.grid.1 * x.grid.2.1 * x.grid.2.2
        if total = 0 then d.done c 0
        else
          let u := match (d.entry k).payload with
            | .kernel _ _ _ _ _ _ u p => argRanges x.args u p
            | _ => []
          match Dev.readRanges c engOther d u with
          | (d, .wait, _) => d
          | (d, .fail s va, _) => d.endCmd c.ring c.serial s va noUnit
          | (d, .ok, args) => (d.freshInput c.ring c.serial).setRun c.ring c.serial (.dispatch {
              kernel := k, total := total, next := 0, exited := 0, regsPerLane := rec.regs, lsBytes := rec.localBytes
              threads := x.block.1 * x.block.2.1 * x.block.2.2, grid := x.grid, cluster := x.cluster, split := x.split
              seed := x.seed, args := args, sr := [], remoteFault := Option.none })

/-! ## Room on a brick (R44, R55, R148) -/

/-- Blocks that still run on a brick. -/
def Brick.live (b : Brick) : List Block := b.blocks.filter (fun x => !x.done)

/-- Resident courses of a block that lie in quadrant `q` (R42, R44). -/
def Block.coursesIn (b : Block) (q : Nat) : Nat := (b.liveCourses.filter (fun c => (b.quad + c) % 4 = q)).length

/-- Resident courses of quadrant `q`. -/
def Brick.quadCourses (b : Brick) (q : Nat) : Nat := sumN (b.live.map (fun x => x.coursesIn q))

/-- Register bytes in use in quadrant `q`: 128 bytes for each register of a lane and each course (R61). -/
def Brick.quadRegs (b : Brick) (q : Nat) : Nat := sumN (b.live.map (fun x => 128 * x.regsPerLane * x.coursesIn q))

/-- Resident courses of a brick. -/
def Brick.courses (b : Brick) : Nat := sumN (b.live.map Block.courses)

/-- Local store in use: that of resident blocks, peers of a running cluster that have exited included (R65), of tiles (R148),
and what waits for springs to drain (R222). -/
def Brick.lsUsed (b : Brick) : Nat := sumN (b.blocks.map (·.lsBytes)) + sumN (b.holds.map (·.bytes))

/-- Whether a brick holds nothing of its split: it may then change to another (R55). -/
def Brick.vacant (b : Brick) : Bool := b.blocks.isEmpty && b.holds.isEmpty

/-- The start quadrant: fewest resident courses, lowest number on ties (R44). -/
def Brick.startQuad (b : Brick) : Nat := (minBy b.quadCourses [0, 1, 2, 3]).getD 0

/-- What a block needs of a brick; a unit's tiles need local store and no threads (R148). -/
structure Room where
  threads : Nat
  regs : Nat
  ls : Nat
  split : Nat
  deriving DecidableEq, Repr

/-- What a block of a dispatch needs. -/
def DispatchRun.room (r : DispatchRun) : Room := ⟨r.threads, r.regsPerLane, r.lsBytes, r.split⟩

/-- The four conditions of R44 on a brick that holds a split. -/
def Brick.fits (b : Brick) (r : Room) (split : Nat) : Bool :=
  let k := ceilDiv r.threads 32
  let s := b.startQuad
  (List.range 4).all (fun q =>
    let n := ((List.range k).filter (fun c => (s + c) % 4 = q)).length
    n = 0 || (b.quadCourses q + n ≤ 16 && b.quadRegs q + 128 * r.regs * n ≤ 65536))
  && b.lsUsed + r.ls ≤ splitBytes split && (r.threads = 0 || b.live.length < 32)

/-- Whether a block may be placed on brick `n`: its wall is powered, its split is the block's or it is empty and may
change, it does not drain for another split, and R44 holds (R44, R55, R56, R427). -/
def Dev.roomOn (d : Dev) (r : Room) (n : Nat) : Bool :=
  let b := d.brick n
  d.pwr.on.testBit (n / 8) && (match b.drain with | some s => s = r.split | none => true)
    && (b.split = r.split || b.vacant)
    && (b.drain.isNone || b.vacant)
    && b.fits r r.split

/-! ## Work that waits for bricks (R37, R45, R56, R345) -/

/-- A unit of work that waits for bricks: its command, its blocks in order of rank, what each of them needs, the bricks it may
go to, and whether it was saved. The tiles of a unit of a pass wait as work without blocks (R148). -/
structure Work where
  cmd : Cmd
  blocks : List Nat
  room : Room
  bricks : List Nat
  saved : Bool
  deriving DecidableEq, Repr

/-- Number of bricks that a unit of work takes. -/
def Work.size (w : Work) : Nat := max 1 w.blocks.length

/-- The split of a pass (R54, R137). -/
def PassRun.split (p : PassRun) : Nat := leAt p.record 5 1 % 8

/-- Owner of unit `u` of a pass (R147). -/
def PassRun.owner (p : PassRun) (u : Nat) : Nat := nth p.bricks (u % max 1 p.bricks.length) 0

/-- The next unit of each brick, in increasing order of unit (R147). -/
def PassRun.nextUnits (p : PassRun) : List Nat :=
  p.units.foldl (fun acc u => if acc.any (fun v => p.owner v = p.owner u) then acc else acc ++ [u]) []

/-- Tiles that a brick holds at once (R148). -/
def PassRun.unitsAtOnce (p : PassRun) : Nat :=
  if leAt p.record 4 1 % 4 = 0 then 1 else max 1 (min 4 (splitBytes p.split / max 1 p.tileBytes))

/-- Units of a pass that a brick has open. -/
def PassRun.openOn (p : PassRun) (n : Nat) : Nat := (p.opened.filter (fun u => u.brick = n)).length

/-- The courses and the tiles of a pass that wait for a brick (R45, R148). -/
def Dev.passWork (_ : Dev) (c : Cmd) (p : PassRun) : List Work :=
  (p.courses.filter (fun x => !x.placed)).map (fun x => ⟨c, [x.no], ⟨x.lanes.length, x.regs, 0, p.split⟩, x.bricks, false⟩)
    ++ (p.nextUnits.filter (fun u => p.openOn (p.owner u) < p.unitsAtOnce)).map (fun u =>
        ⟨c, [], ⟨0, 0, p.tileBytes, p.split⟩, [p.owner u], false⟩)

/-- The saved units of a command in a partition, block by block in order of rank (R345). -/
def Dev.savedUnits (d : Dev) (p : Nat) (c : Cmd) : List (List SavedBlock) :=
  let mine := d.par.saved.filter (fun s => s.part = p && s.block.ring = c.ring && s.block.serial = c.serial)
  ((mine.map (·.block.clusterBase)).eraseDups).map (fun b =>
    sortBy (fun (x y : SavedBlock) => x.block.rank ≤ y.block.rank) (mine.filter (fun s => s.block.clusterBase = b)))

/-- The split of a command's blocks. -/
def Cmd.split (c : Cmd) : Nat :=
  match c.run with
  | .dispatch r => r.split
  | .pass p => p.split
  | _ => 0

/-- The bricks of a partition that a block of a command may go to (R45, R46). -/
def Dev.bricksFor (d : Dev) (p : Nat) (c : Cmd) (block : Nat) : List Nat :=
  match c.run with
  | .pass x => match x.courses.find? (fun y => y.no = block) with
    | some y => y.bricks
    | none => []
  | _ => d.partBricks p

/-- A saved unit as work. -/
def Dev.savedWork (d : Dev) (p : Nat) (c : Cmd) (u : List SavedBlock) : Work :=
  match u with
  | s :: _ => ⟨c, u.map (·.block.index), ⟨s.block.threads, s.block.regsPerLane, s.block.lsBytes, c.split⟩,
      d.bricksFor p c s.block.index, true⟩
  | [] => ⟨c, [], ⟨0, 0, 0, c.split⟩, [], true⟩

/-- The work of a partition that waits for bricks, in fetch order: for each command its saved units, then its next unit. The
blocks of a dispatch whose ring a PREEMPT saves do not start; a RENDER_PASS runs on (R347). -/
def Dev.waitingWork (d : Dev) (p : Nat) : List Work :=
  d.sub.cmds.flatMap (fun c =>
    if c.part ≠ p ∨ c.phase ≠ .started then []
    else
      let saving := (d.ring c.ring).saving
      let saved := (d.savedUnits p c).map (fun u => d.savedWork p c u)
      match c.run with
      | .dispatch r =>
        if saving then []
        else saved ++ (if r.next < r.units then [⟨c, r.unitBlocks r.next, r.room, d.partBricks p, false⟩] else [])
      | .pass x => saved ++ d.passWork c x
      | _ => [])

/-! ## Grant order (R37) -/

/-- Whether a ring's work is within its budget for the current tick (R37). -/
def Ring.inBudget (r : Ring) : Bool := r.used < r.budget * 1000 * brickTimeUnit

/-- Grant order of a command's work: HARD within budget, FIRM within budget, then the rest (R37). -/
def Dev.grantRank (d : Dev) (c : Cmd) : Nat :=
  let r := d.ring c.ring
  if c.gotik then 2 else if c.cls = 0 ∧ r.inBudget then 0 else if c.cls = 1 ∧ r.inBudget then 1 else 2

/-- Whether a unit of work could use brick `n` now (R46). -/
def Dev.couldUse (d : Dev) (w : Work) (n : Nat) : Bool :=
  w.bricks.contains n && d.roomOn w.room n
    && (w.size ≤ 1 || (w.bricks.filter (fun m => m / 8 = n / 8 && d.roomOn w.room m)).length ≥ w.size)

/-- Whether no brick could take a unit of work now. -/
def Dev.cannotPlace (d : Dev) (w : Work) : Bool := !w.bricks.any (fun n => d.couldUse w n)

/-- Whether work of an earlier grant could use one of the bricks (R37). -/
def Dev.outranked (d : Dev) (c : Cmd) (bricks : List Nat) : Bool :=
  let ws := d.waitingWork c.part
  let mine := fun (w : Work) => decide (w.cmd.ring = c.ring ∧ w.cmd.serial = c.serial)
  let before := ws.takeWhile (fun w => !mine w)
  ws.any (fun w => !mine w
    && (d.grantRank w.cmd < d.grantRank c || (d.grantRank c = 2 && d.grantRank w.cmd = 2 && before.contains w))
    && bricks.any (fun n => d.couldUse w n))

/-! ## Placement (R44 to R46, R55) -/

/-- Distinct bricks of one wall for a cluster, one brick for a block (R46). -/
def placementOk (size : Nat) (bricks : List Nat) : Bool :=
  bricks.length = size && bricks.eraseDups.length = size
    && (match bricks with
      | [] => false
      | n :: _ => bricks.all (fun m => m / 8 = n / 8))

/-- The lowest address at which `n` bytes of local store are free, above every block when there is no gap. -/
def Brick.lsFree (b : Brick) (n : Nat) : Nat :=
  let ends := 0 :: b.blocks.map (fun x => x.lsBase + x.lsBytes)
  let ok := ends.filter (fun a => b.blocks.all (fun x => a + n ≤ x.lsBase || x.lsBase + x.lsBytes ≤ a))
  (minBy (fun a => a) ok).getD (ends.foldl max 0)

/-- Puts a block on a brick, on the quadrant and the local store that it gets there. What that local store held before is not
its own: the bytes are undefined. -/
def Brick.put (b : Brick) (x : Block) : Brick :=
  let x := { x with quad := b.startQuad, lsBase := b.lsFree x.lsBytes }
  { b with
    blocks := b.blocks ++ [x]
    ls := { b.ls with cells := b.ls.cells.filter (fun e => e.1 < x.lsBase || x.lsBase + x.lsBytes ≤ e.1) } }

/-- Counters of stochastic rounding for the quadrants that a block's courses reach (R123). -/
def srReach (sr : List (Nat × Nat × Nat)) (brick : Nat) (x : Block) : List (Nat × Nat × Nat) :=
  (List.range 4).foldl (fun sr q =>
    if x.coursesIn q > 0 && !sr.any (fun e => e.1 = brick && e.2.1 = q) then sr ++ [(brick, q, 0)] else sr) sr

/-- The blocks on brick `n` that bear a reference. -/
def Block.isRef (b : Block) (r : BlockRef) : Bool := b.ring = r.ring && b.serial = r.serial && b.index = r.block

/-- The reference of a block. -/
def Block.bref (b : Block) : BlockRef := ⟨b.ring, b.serial, b.index⟩

/-- A brick takes a split: it adopts it when it holds another one, and drains for none any more (R55, R56). -/
def Dev.takeSplit (d : Dev) (n split : Nat) : Dev :=
  if (d.brick n).split ≠ split then d.adoptSplit n split else d.modBrick n (fun b => { b with drain := Option.none })

/-- Puts a block on brick `n` for its command (R55, R123). -/
def Dev.putBlock (d : Dev) (c : Cmd) (n : Nat) (x : Block) : Dev :=
  let d := d.takeSplit n c.split
  let d := d.setBrick n ((d.brick n).put x)
  match (d.brick n).blocks.find? (fun y => y.isRef x.bref) with
  | none => d
  | some y => d.modCmd c.ring c.serial (fun c => match c.run with
    | .dispatch r => { c with run := .dispatch { r with sr := srReach r.sr n y } }
    | _ => c)

/-- A block that begins: `unit` lists the blocks of its cluster. -/
def freshBlock (c : Cmd) (stage : Stage) (room : Room) (unit : List Nat) (rank : Nat) : Block :=
  { ring := c.ring, serial := c.serial, index := nth unit rank 0, threads := room.threads, quad := 0
    regsPerLane := room.regs, lsBase := 0, lsBytes := room.ls, rank := rank
    clusterSize := unit.length, clusterBase := nth unit 0 0, exited := [], arrivals := [], blocked := []
    stage := stage, helpers := [], paths := [], pathNo := 0, releases := [], outputs := [], out := [], done := false }

/-- The block of a course of a pass (R45, R151). -/
def Course.block (x : Course) (c : Cmd) (room : Room) : Block :=
  { freshBlock c x.stage room [x.no] 0 with
    helpers := (x.lanes.zipIdx.filter (fun e => e.1.helper)).map (·.2) }

/-- The unit of work that a block of a command begins, if it waits, with its blocks. -/
def Dev.nextWork (d : Dev) (c : Cmd) (block : Nat) : Option (Work × List Block) :=
  if c.phase ≠ .started then none
  else match c.run with
    | .dispatch r =>
      let unit := r.unitBlocks r.next
      if r.next < r.units ∧ nth unit 0 0 = block ∧ !(d.ring c.ring).saving then
        some (⟨c, unit, r.room, d.partBricks c.part, false⟩,
          (List.range unit.length).map (fun k => freshBlock c .compute r.room unit k))
      else none
    | .pass p => match p.courses.find? (fun x => x.no = block && !x.placed) with
      | some x =>
        let room : Room := ⟨x.lanes.length, x.regs, 0, p.split⟩
        some (⟨c, [x.no], room, x.bricks, false⟩, [x.block c room])
      | none => none
    | _ => none

/-- A command has begun a unit: a dispatch goes to its next one, and the course of a pass is placed. -/
def Cmd.begun (c : Cmd) (block : Nat) : Cmd :=
  match c.run with
  | .dispatch r => { c with run := .dispatch { r with next := r.next + 1 } }
  | .pass p => { c with run := .pass { p with
      courses := p.courses.map (fun x => if x.no = block then { x with placed := true } else x) } }
  | _ => c

/-- BLOCK_PLACE: the next unit of a dispatch, or a course of a pass, goes to the given bricks when R44 to R46 hold there and no
work of an earlier grant could use them (R37, R44 to R46, R55, R60). -/
def Dev.placeUnit (d : Dev) (ref : BlockRef) (bricks : List Nat) : Dev :=
  match d.cmd? ref.ring ref.serial with
  | none => d
  | some c => match d.nextWork c ref.block with
    | none => d
    | some (w, bs) =>
      if placementOk bs.length bricks ∧ bricks.all (fun n => w.bricks.contains n && d.roomOn w.room n) ∧ !d.outranked c bricks then
        match d.cleanPonds (bricks.filter (fun n => (d.brick n).split ≠ w.room.split)) with
        | (d, false) => d
        | (d, true) =>
          let d := (bs.zip bricks).foldl (fun d p => d.putBlock c p.2 p.1) d
          d.modCmd c.ring c.serial (fun c => c.begun ref.block)
      else d

/-- The work first in grant order among a partition's work that cannot be placed (R37, R56). -/
def Dev.firstStuck (d : Dev) (p : Nat) : Option Work :=
  minBy (fun w => d.grantRank w.cmd) ((d.waitingWork p).filter (fun w => d.cannotPlace w))

/-- BRICK_DRAIN_SELECT: when the work first in grant order among the work that cannot be placed waits only because no brick of
its split has room, the brick of another split with the fewest resident courses drains (R56). -/
def Dev.selectDrain (d : Dev) (ref : BlockRef) : Dev :=
  match d.cmd? ref.ring ref.serial with
  | none => d
  | some c => match d.firstStuck c.part with
    | none => d
    | some w =>
      let bs := d.partBricks c.part
      let empty : Brick := { Brick.fresh with split := w.room.split }
      let others := w.bricks.filter (fun n => bs.contains n && (d.brick n).split ≠ w.room.split)
      if w.cmd.ring = c.ring ∧ w.cmd.serial = c.serial ∧ empty.fits w.room w.room.split ∧ bs.all (fun n => (d.brick n).drain.isNone) then
        match minBy (fun n => (d.brick n).courses) others with
        | some n => d.modBrick n (fun b => { b with drain := some w.room.split })
        | none => d
      else d

/-! ## Finding blocks -/

/-- Bricks that hold a block of a dispatch which satisfies a test. -/
def Dev.bricksWith (d : Dev) (p : Block → Bool) : List Nat :=
  (d.bricks.filter (fun (e : Nat × Brick) => e.2.blocks.any p)).map (·.1)

/-- The brick of a resident block, with the block. -/
def Dev.findBlock (d : Dev) (r : BlockRef) : Option (Nat × Block) :=
  match d.bricks.find? (fun (e : Nat × Brick) => e.2.blocks.any (fun b => b.isRef r)) with
  | some e => (e.2.blocks.find? (fun b => b.isRef r)).map (fun b => (e.1, b))
  | none => none

/-- Changes a resident block. -/
def Dev.modBlock (d : Dev) (n : Nat) (r : BlockRef) (f : Block → Block) : Dev :=
  d.modBrick n (fun b => { b with blocks := b.blocks.map (fun x => if x.isRef r then f x else x) })

/-- Every block of a cluster, with its brick. -/
def Dev.clusterBlocks (d : Dev) (b : Block) : List (Nat × Block) :=
  d.bricks.flatMap (fun (e : Nat × Brick) => (e.2.blocks.filter (fun x =>
    x.ring = b.ring && x.serial = b.serial && x.clusterBase = b.clusterBase)).map (fun x => (e.1, x)))

/-! ## Ends -/

/-- A drained brick that has emptied changes its split (R55, R56). -/
def Dev.drained (d : Dev) (n : Nat) : Dev :=
  let b := d.brick n
  match b.drain with
  | some s => if b.vacant then
      match d.cleanPonds [n] with
      | (d, true) => d.adoptSplit n s
      | (d, false) => d
    else d
  | none => d

/-- Whether a request of a spring of a block is outstanding, one that will be discarded included (R222). -/
def Dev.springOut (d : Dev) (r : BlockRef) : Bool :=
  d.fab.ops.any (fun o => match o.use with
    | .spring x _ _ _ _ _ _ => x = r
    | _ => false)

/-- Springs of blocks that end stop early (R222). -/
def Brick.stopSprings (b : Brick) (p : SpringRun → Bool) : Brick :=
  { b with springs := b.springs.map (fun s => match s.run with
      | some r => if p r then { s with run := Option.none, lastHead := r.head } else s
      | none => s) }

/-- What a block leaves on its brick: its local store, while requests of its springs are outstanding (R222). -/
def Dev.leftBy (d : Dev) (x : Block) : List LsHold :=
  if x.lsBytes > 0 && d.springOut x.bref then [⟨x.ring, x.serial, false, x.index, x.lsBytes⟩] else []

/-- Takes blocks that satisfy a test off brick `n`; their springs stop, and a draining brick that is then empty changes its
split (R56, R222). -/
def Dev.takeOff (d : Dev) (n : Nat) (p : Block → Bool) : Dev :=
  let go := (d.brick n).blocks.filter p
  let holds := go.flatMap (fun x => d.leftBy x)
  (d.modBrick n (fun b =>
    { b.stopSprings (fun r => go.any (fun x => x.ring = r.ring && x.serial = r.serial && x.index = r.block)) with
      blocks := b.blocks.filter (fun x => !p x), holds := b.holds ++ holds })).drained n

/-- Local store that waited for requests of springs is free once they have drained (R222). -/
def Dev.dropHolds (d : Dev) : Dev :=
  let idle := fun (h : LsHold) => !h.tile && !d.springOut ⟨h.ring, h.serial, h.index⟩
  ((d.bricks.filter (fun (e : Nat × Brick) => e.2.holds.any idle)).map (·.1)).foldl (fun d n =>
    (d.modBrick n (fun b => { b with holds := b.holds.filter (fun h => !idle h) })).drained n) d

/-- Removes every block of a command from every brick, and gives back the local store of its tiles; springs stop (R76, R148,
R222). -/
def Dev.removeBlocks (d : Dev) (ring : Nat) (serial : Wide) : Dev :=
  let d := (d.bricksWith (fun b => b.ring = ring && b.serial = serial)).foldl (fun d n =>
    d.takeOff n (fun x => x.ring = ring && x.serial = serial)) d
  let mine := fun (h : LsHold) => h.tile && h.ring = ring && h.serial = serial
  ((d.bricks.filter (fun (e : Nat × Brick) => e.2.holds.any mine)).map (·.1)).foldl (fun d n =>
    (d.modBrick n (fun b => { b with holds := b.holds.filter (fun h => !mine h) })).drained n) d

/-- Loads of a command that are outstanding are given up: their responses are dropped. Its stores and atomics are awaited
(R82). -/
def Dev.dropLoads (d : Dev) (ring : Nat) (serial : Wide) : Dev :=
  d.withOps (d.fab.ops.map (fun o => if o.ring = ring ∧ o.serial = serial ∧ o.kind = 1 then { o with dead := true } else o))

/-- Ends a dispatch or a pass as R76 describes: no further block starts, every running block is terminated, and the command
completes with the status. Its saved blocks go with it. -/
def Dev.endWork (d : Dev) (ring : Nat) (serial : Wide) (status : Half) (detail : Wide) (unit : Nat) : Dev :=
  let d := (d.dropLoads ring serial).removeBlocks ring serial
  let d := { d with par := { d.par with saved := d.par.saved.filter (fun s => !(s.block.ring = ring && s.block.serial = serial)) } }
  d.endCmd ring serial status detail unit

/-- Whether a command is a DISPATCH. -/
def Dev.isDispatch (d : Dev) (ring : Nat) (serial : Wide) : Bool := (d.cmd? ring serial).any (fun c => c.opcode = 0x21)

/-- Ends a dispatch, carrying the deciding block and its brick, or a pass (R76, R329). -/
def Dev.endDispatch (d : Dev) (ring : Nat) (serial : Wide) (status : Half) (block brick : Nat) : Dev :=
  if d.isDispatch ring serial then d.endWork ring serial status (BitVec.ofNat 64 block) brick
  else d.endWork ring serial status 0 noUnit

/-- Ends the dispatch of a block. -/
def Dev.endByBlock (d : Dev) (n : Nat) (b : Block) (status : Half) : Dev :=
  d.endDispatch b.ring b.serial status b.index n

/-- The failed remote access of a command, if it has one (R83). -/
def Cmd.remoteFault (c : Cmd) : Option (Half × Nat) :=
  match c.run with
  | .dispatch r => r.remoteFault
  | .pass p => p.remoteFault
  | _ => none

/-- A command of which an access to another device has failed ends with that status; while a PREEMPT saves its ring the end
waits for the restore (R83, R347). -/
def Dev.endFaulted (d : Dev) (ring : Nat) (serial : Wide) : Dev :=
  match d.cmd? ring serial with
  | none => d
  | some c => match c.remoteFault with
    | none => d
    | some (s, b) =>
      if (d.ring ring).saving then d
      else match d.findBlock ⟨ring, serial, b⟩ with
        | some (n, x) => d.endByBlock n x s
        | none => d.endDispatch ring serial s b noUnit

/-- DISPATCH_COMPLETE: every block has exited and every store is performed at device scope (R60, R82). -/
def Dev.completeDispatch (d : Dev) (ring : Nat) (serial : Wide) : Dev :=
  let d := d.endFaulted ring serial
  match d.cmd? ring serial with
  | some c => match c.run with
    | .dispatch r =>
      if r.exited = r.total then
        match d.storesDone c with
        | (d, true) => (d.removeBlocks ring serial).done c 0
        | (d, false) => d.endFaulted ring serial
      else d
    | _ => d
  | none => d

/-- Operations of a command that are still outstanding are given up: their responses are dropped (R247, R354). -/
def Dev.dropOps (d : Dev) (ring : Nat) (serial : Wide) : Dev :=
  d.withOps (d.fab.ops.map (fun o => if o.ring = ring ∧ o.serial = serial then { o with dead := true } else o))

/-- The running block of a dispatch with the lowest index, with its brick. -/
def Dev.lowestBlock (d : Dev) (ring : Nat) (serial : Wide) : Option (Nat × Block) :=
  minBy (fun p => p.2.index) (d.bricks.flatMap (fun (e : Nat × Brick) =>
    (e.2.live.filter (fun x => x.ring = ring && x.serial = serial)).map (fun x => (e.1, x))))

end Sys2Proof.Machine
end

