-- ==== Sys2Proof/Machine/Access.lean ====
section
/-! DEFINITION. How bricks reach memory: the request of a block, reads and writes through the pond's cache part (R78, R79,
R203, R231), prefetch (R206 to R208), local store (R63, R64), and the values lanes receive. -/

namespace Sys2Proof.Machine

/-- The request of a block on brick `n`. -/
def Dev.blockReq (d : Dev) (n : Nat) (b : Block) (engine : Nat) (stream : Stream) : Req :=
  let c := d.cmd? b.ring b.serial
  ⟨b.ring, b.serial, match c with
    | some c => if c.gotik then none else some c.part
    | none => some 0,
    (c.map (·.asid)).getD 0, engine, n, (c.map Cmd.context).getD 0, some (n / 48), stream⟩

/-! ## The pond -/

/-- The byte mask of `[o, o + n)` in a line. -/
def maskOf (o n : Nat) : Wide := BitVec.ofNat 64 ((2 ^ n - 1) <<< o)

/-- A line of zeros with nothing valid. -/
def PondLine.empty : PondLine := ⟨List.replicate 64 0, 0, 0, 0, none⟩

/-- Bytes chosen from two lines by a mask. -/
def mergeLine (m : Wide) (x y : Bytes) : Bytes :=
  (List.range 64).map (fun i => if m.getLsbD i then nth x i 0 else nth y i 0)

/-- Removes a line from a pond; a dirty one goes home first (R79). -/
def Dev.evictLine (d : Dev) (n key : Nat) : Dev :=
  let d := d.cleanPondLine n key none
  d.modBrick n (fun b => { b with pond := b.pond.filter (fun e => e.1 ≠ key || e.2.dirty ≠ 0) })

/-- Keeps a pond within its cache part: beyond its lines the lowest line other than `key` goes (R54, R202). -/
def Dev.trimPond (d : Dev) (n key : Nat) : Dev :=
  let b := d.brick n
  if b.pond.length > splitLines b.split then
    match b.pond.find? (fun e => e.1 ≠ key) with
    | some e => d.evictLine n e.1
    | none => d
  else d

/-- A demand miss of a pond is noted where its prefetch follows it: unless prefetch is off, with the next line in the same 64
KiB page (R206, R207). -/
def Dev.pondMiss (d : Dev) (n key : Nat) : Dev :=
  if d.fld Fld.MEM_PREFETCH_MODE_mode 0 < 2 ∧ key % 1024 ≠ 1023 then
    d.modBrick n (fun b => { b with missed := b.missed.filter (· ≠ key) ++ [key] })
  else d

/-- Brings a whole line into a pond; bytes that it holds already stay (R79). -/
def Dev.fillLine (d : Dev) (n key : Nat) (x : Bytes) : Dev :=
  let d := d.modBrick n (fun b =>
    let l := NMap.getD b.pond key PondLine.empty
    { b with
      pond := NMap.set b.pond key { l with data := mergeLine l.valid l.data x, valid := BitVec.allOnes 64 }
      side := b.side.filter (fun s => s.line ≠ key) })
  d.trimPond n key

/-- A demand access finds its line in the side buffer of a pond: the line moves into the cache part (R208). -/
def Dev.fromSide (d : Dev) (n key : Nat) : Dev × Bool :=
  match (d.brick n).side.find? (fun s => s.line = key) with
  | some s => ((d.bump Fld.MEM_SIDE_HITS_count 0 1).fillLine n key s.data, true)
  | none => (d, false)

/-- Bytes of a line that a pond holds valid. -/
def Dev.pondHeld (d : Dev) (n key o len : Nat) : Option Bytes :=
  let l := NMap.getD (d.brick n).pond key PondLine.empty
  if l.valid &&& maskOf o len = maskOf o len then some (slice l.data o len) else none

/-- Looks for bytes of a line in a pond and its side buffer for a block; a lookup counts as a hit or a miss (R208, R453). -/
def Dev.pondLook (d : Dev) (n : Nat) (b : Block) (key o len : Nat) : Dev × Option Bytes :=
  match d.pondHeld n key o len with
  | some bs => (d.count 0x0010 1 (d.blockAttr n b), some bs)
  | none =>
    let d := d.count 0x0011 1 (d.blockAttr n b)
    match d.fromSide n key with
    | (d, true) => (d, d.pondHeld n key o len)
    | (d, false) => (d.pondMiss n key, none)

/-- Reads bytes of one line of this device through a pond: from the line where its bytes are valid, else by fetching the
line from its home (R79). -/
def Dev.pondRead (d : Dev) (n : Nat) (b : Block) (q : Req) (a len : Nat) : Dev × Acc × Bytes :=
  let key := a / 64
  match d.pondLook n b key (a % 64) len with
  | (d, some bs) => (d, .ok, bs)
  | (d, none) => match d.readAt q.asker true (64 * key) 64 with
    | (d, .ok, x) =>
      let d := d.fillLine n key x
      (d, .ok, (d.pondHeld n key (a % 64) len).getD (slice x (a % 64) len))
    | (d, g, _) => (d, g, [])

/-- Writes bytes of one line into a pond for a block (R79); a line in the side buffer moves into the cache part (R208). -/
def Dev.pondWrite (d : Dev) (n : Nat) (b : Block) (mode key o : Nat) (bs : Bytes) : Dev :=
  let hit := (NMap.get? (d.brick n).pond key).isSome
  let d := d.count (if hit then 0x0010 else 0x0011) 1 (d.blockAttr n b)
  let d := if hit then d else (match d.fromSide n key with
    | (d, true) => d
    | (d, false) => d.pondMiss n key)
  let m := maskOf o bs.length
  let d := d.modBrick n (fun x =>
    let l := NMap.getD x.pond key PondLine.empty
    { x with pond := NMap.set x.pond key ⟨splice l.data o bs, l.valid ||| m, l.dirty ||| m, mode, some b.bref⟩ })
  d.trimPond n key

/-- Whether a leaf's cache policy and place let the pond hold the line, here or on another device (R78, R231). -/
def pondable (leaf : Wide) (a : Nat) : Bool :=
  bitsN leaf 7 6 = 0 && (match regionOf a with
    | .dram _ => true
    | .window _ => true
    | _ => false)

/-- Whether an access to bytes of this device would wait or fail at their home. -/
def Dev.homeGate (d : Dev) (a n : Nat) : Acc :=
  match regionOf a with
  | .dram _ => d.dramGate
  | .window o => d.windowGate o n
  | _ => .ok

/-- Reads bytes of this device for a lane. -/
def Dev.laneRead (d : Dev) (n : Nat) (b : Block) (q : Req) (leaf : Wide) (a len : Nat) : Dev × Acc × Bytes :=
  if pondable leaf a then
    (pieces 64 a len).foldl (fun acc p => match acc.2.1 with
      | .ok =>
        let r := acc.1.pondRead n b q p.1 p.2
        (r.1, r.2.1, acc.2.2 ++ r.2.2)
      | _ => acc) (d, .ok, [])
  else d.readAt q.asker (bitsN leaf 7 6 ≠ 2) a len

/-- The naturally aligned accesses of at most 8 bytes of which `[a, a + n)` is made; `fuel` bounds their number (R81). -/
def alignedParts : Nat → Nat → Nat → List (Nat × Nat)
  | 0, _, _ => []
  | fuel + 1, a, n =>
    if n = 0 then []
    else
      let k := if a % 8 = 0 ∧ 8 ≤ n then 8 else if a % 4 = 0 ∧ 4 ≤ n then 4 else if a % 2 = 0 ∧ 2 ≤ n then 2 else 1
      (a, k) :: alignedParts fuel (a + k) (n - k)

/-- Writes bytes of this device for a lane: to the pond, or by naturally aligned accesses (R81). -/
def Dev.laneWrite (d : Dev) (n : Nat) (b : Block) (q : Req) (leaf : Wide) (a : Nat) (bs : Bytes) : Dev × Acc :=
  if pondable leaf a then
    match d.homeGate a bs.length with
    | .fail s => (d, .fail s)
    | _ => ((pieces 64 a bs.length).foldl (fun d p =>
        d.pondWrite n b (bitsN leaf 53 52) (p.1 / 64) (p.1 % 64) (slice bs (p.1 - a) p.2)) d, .ok)
  else (alignedParts bs.length a bs.length).foldl (fun acc p => match acc.2 with
      | .ok => acc.1.localWrite q.asker (bitsN leaf 7 6 ≠ 2) (some (bitsN leaf 53 52)) .local p.1 (slice bs (p.1 - a) p.2)
      | _ => acc) (d, .ok)

/-! ## Prefetch (R206 to R208) -/

/-- Puts a line into a side buffer of 64 lines; the oldest goes first, and one that goes unused is counted. -/
def pushSide (l : List SideLine) (s : SideLine) : List SideLine × Nat :=
  let l := l.filter (fun x => x.line ≠ s.line)
  if l.length ≥ 64 then (l.drop 1 ++ [s], 1) else (l ++ [s], 0)

/-- A prefetched line comes to a pond: in NORMAL mode into the cache part, in SIDE mode into the side buffer (R206). -/
def Dev.pondPrefetched (d : Dev) (n key : Nat) (x : Bytes) : Dev :=
  let b := d.brick n
  if (NMap.get? b.pond key).isSome ∨ d.fld Fld.MEM_PREFETCH_MODE_mode 0 ≥ 2 then d
  else if d.fld Fld.MEM_PREFETCH_MODE_mode 0 = 0 then d.fillLine n key x
  else
    let r := pushSide b.side ⟨key, x⟩
    (d.modBrick n (fun b => { b with side := r.1 })).bump Fld.MEM_SIDE_DROPS_count 0 r.2

/-- The prefetch of a lake slice that follows a demand miss to DRAM: the next line of the 256-byte block goes into the slice's
side buffer (R206). -/
def Dev.lakePrefetched (d : Dev) (line : Nat) : Dev :=
  let d := { d with mem := { d.mem with missed := d.mem.missed.filter (· ≠ line) } }
  let next := line + 1
  let side := NMap.getD d.mem.side (sliceOf (64 * next)) []
  if d.fld Fld.MEM_PREFETCH_MODE_mode 0 ≠ 1 ∨ (NMap.get? d.mem.lake next).isSome ∨ side.any (fun s => s.line = next) then d
  else
    let b := next / 4 * 256
    let data := if d.inCwin (64 * next) then slice (d.blockData b).1 (64 * next - b) 64 else d.mem.dram.read (64 * next) 64
    let d := d.moved Asker.none false (64 * next) (if d.inCwin (64 * next) then d.slotBytes b else 64)
    let r := pushSide side ⟨next, data⟩
    (d.withSide (NMap.set d.mem.side (sliceOf (64 * next)) r.1)).bump Fld.MEM_SIDE_DROPS_count 0 r.2

/-- The prefetch of a pond that follows a demand miss in its cache part: the next line, from this device's memory without a
lake allocation, or by a read of its home device; one that cannot be made now is dropped (R206, R207). -/
def Dev.pondPrefetch (d : Dev) (n key : Nat) : Dev :=
  let d := d.modBrick n (fun b => { b with missed := b.missed.filter (· ≠ key) })
  let b := d.brick n
  let next := key + 1
  if d.fld Fld.MEM_PREFETCH_MODE_mode 0 ≥ 2 ∨ (NMap.get? b.pond next).isSome ∨ b.side.any (fun s => s.line = next) then d
  else if keyDevice next ≠ 0 then
    match d.issue ⟨gotikRing, 0, 1, 0, 0, keyDevice next, keyOffset next, 64, none, 0, .prefetch n next, []⟩ with
    | (e, .ok) => e
    | _ => d
  else match d.localRead (64 * next) 64 with
    | (d, .ok, x) =>
      let d := match regionOf (64 * next) with
        | .dram a => (if (NMap.get? d.mem.lake next).isSome then d else d.moved (d.pondAsker n none) false a 64).bridged (d.pondAsker n none) (dieOf a) 64
        | .window o => d.bridged (d.pondAsker n none) (windowDie o) 64
        | _ => d
      d.pondPrefetched n next x
    | _ => d

/-- LAKE_PREFETCH: the prefetch that a demand miss of the line of `a` calls for, of a brick's pond or of the home slice (R206,
R207). Without such a miss there is none. -/
def Dev.prefetch (d : Dev) (a : Nat) (brick : Option Nat) : Dev :=
  let line := a / 64
  match brick with
  | some n => if (d.brick n).missed.contains line then d.pondPrefetch n line else d
  | none => if d.mem.missed.contains line ∧ d.dramGate = .ok then d.lakePrefetched line else d

/-! ## Local store -/

/-- Reads a block's local store. -/
def Dev.lsRead (d : Dev) (n : Nat) (b : Block) (a len : Nat) : Bytes := (d.brick n).ls.read (b.lsBase + a) len

/-- Writes a block's local store. -/
def Dev.lsWrite (d : Dev) (n : Nat) (b : Block) (a : Nat) (bs : Bytes) : Dev :=
  d.modBrick n (fun x => { x with ls := x.ls.write (b.lsBase + a) bs })

/-- The peer that a ClusterLocal offset names, with the offset in its local store; none when it is out of range (R63,
R64). -/
def Dev.clusterPlace (d : Dev) (b : Block) (o len : Nat) : Option (Nat × Block × Nat) :=
  let r := o / 0x80000
  let a := o % 0x80000
  if r ≥ b.clusterSize then none
  else match (d.clusterBlocks b).find? (fun (p : Nat × Block) => p.2.rank = r) with
    | some p => if a + len ≤ p.2.lsBytes then some (p.1, p.2, a) else none
    | none => none

/-! ## Values for lanes -/

/-- A byte string as 32-bit words, the last one filled with zeros. -/
def laneWords (bs : Bytes) : List Word := (List.range (ceilDiv bs.length 4)).map (fun i => BitVec.ofNat 32 (leAt bs (4 * i) 4))

/-- A lane receives the value of an instruction. -/
def Dev.give (d : Dev) (n : Nat) (r : BlockRef) (thread : Nat) (v : List Word) : Dev :=
  d.modBlock n r (fun b => { b with out := ⟨thread, v⟩ :: b.out })

/-- Whether an instruction of a path holds its lanes back: one of its lanes waits for a replay, which stops the path (R237), or
has a part that has not been issued yet, behind which later accesses of the lane wait (R80). -/
def PathRun.holds (p : PathRun) : Bool :=
  p.lanes.any (fun l => l.image.isSome || l.parts.any (fun x => x.state = .fault || x.state = .todo))

/-- Whether a thread of a block can issue an instruction: in range, not exited, not blocked at a barrier, and held back neither
by an instruction of its path nor by a release (R67, R79, R237). -/
def Block.runs (b : Block) (t : Nat) : Bool :=
  !b.done && t < b.threads && !b.exited.contains t && !b.blocked.any (fun x => x.thread = t)
    && !b.paths.any (fun p => p.holds && p.lanes.any (fun l => l.thread = t))
    && !b.releases.any (fun r => r.threads.contains t)

end Sys2Proof.Machine
end

