-- ==== Sys2Proof/Machine/Formats.lean ====
section
/-! DEFINITION. Colour and depth formats (R168 to R171), where samples lie in memory (R161), flag surfaces (R162), and
image and sampler descriptors (R172, R173). -/

namespace Sys2Proof.Machine

/-! ## Values -/

/-- A finite value as a rational. -/
def FVal.toRat : FVal → Option Rat
  | .fin neg a b => some (if neg then -(a : Rat) / (b : Rat) else (a : Rat) / (b : Rat))
  | _ => none

/-- A rational as a value. -/
def FVal.ofRat (r : Rat) : FVal := .fin (r < 0) r.num.natAbs r.den

/-- FP32 code of a rational, rounded to nearest even. -/
def f32OfRat (r : Rat) : Nat := Fmt.fp32.rne (.ofRat r)

/-- The value of an FP32 code. -/
def f32Val (c : Nat) : FVal := Fmt.fp32.decode c

/-- FP32 code of one. -/
def f32One : Nat := 0x3F800000

/-- The nearest integer of a rational, ties to even. -/
def rneRat (r : Rat) : Int :=
  let k := rneN r.num.natAbs r.den
  if r < 0 then -(k : Int) else k

/-! ## Colour formats (R169) -/

/-- How a component is stored. -/
inductive CompKind where
  | unorm | srgb | sfloat | ufloat | uint | sint
  deriving DecidableEq, Repr

/-- One component: the channel it holds (R, G, B, A as 0 to 3), its first bit, its width and its kind. -/
structure Comp where
  chan : Nat
  lo : Nat
  w : Nat
  kind : CompKind
  deriving DecidableEq, Repr

/-- Equal components packed from bit 0. -/
def comps (kind : CompKind) (w n : Nat) : List Comp := (List.range n).map (fun i => ⟨i, w * i, w, kind⟩)

/-- Components of each colour format (R169). -/
def colorComps : Nat → List Comp
  | 0 => comps .unorm 8 1
  | 1 => comps .unorm 8 2
  | 2 => comps .unorm 8 4
  | 3 => comps .srgb 8 3 ++ [⟨3, 24, 8, .unorm⟩]
  | 4 => [⟨2, 0, 8, .unorm⟩, ⟨1, 8, 8, .unorm⟩, ⟨0, 16, 8, .unorm⟩, ⟨3, 24, 8, .unorm⟩]
  | 5 => comps .unorm 10 3 ++ [⟨3, 30, 2, .unorm⟩]
  | 6 => [⟨0, 0, 11, .ufloat⟩, ⟨1, 11, 11, .ufloat⟩, ⟨2, 22, 10, .ufloat⟩]
  | 7 => comps .sfloat 16 1
  | 8 => comps .sfloat 16 2
  | 9 => comps .sfloat 16 4
  | 10 => comps .sfloat 32 1
  | 11 => comps .sfloat 32 2
  | 12 => comps .sfloat 32 4
  | 13 => comps .uint 32 1
  | 14 => comps .sint 32 1
  | 15 => comps .uint 8 4
  | _ => comps .uint 16 4

/-- Bytes of a sample of a colour format (R169). -/
def colorBytes (f : Nat) : Nat := sumN ((colorComps f).map (·.w)) / 8

/-- Whether a colour format blends (R169). -/
def colorBlends (f : Nat) : Bool := f ≤ 12

/-- Whether a colour format holds integers. -/
def colorInt (f : Nat) : Bool := 13 ≤ f

/-- The unsigned float formats of B10G11R11, as formats with a sign that is never set. -/
def ufloatFmt (w : Nat) : Fmt := ⟨5, w - 5, 15, .ieee⟩

/-! ## Transfer functions (R168, R171, R186)

The fixed-function units narrow to nearest even (R115), so a transfer function gives the FP32 value nearest to its exact
value. Its power is inverted: a candidate is compared with the exact value by whole powers of both. -/

/-- The largest number `lo + i`, `i < 2 ^ k`, that satisfies a test which holds up to some number. -/
def lastWith (p : Nat → Bool) : Nat → Nat → Nat
  | 0, lo => lo
  | k + 1, lo => lastWith p k (if p (lo + 2 ^ k) then lo + 2 ^ k else lo)

/-- Numerator and denominator of a finite FP32 magnitude. -/
def f32Frac (c : Nat) : Nat × Nat :=
  match f32Val c with
  | .fin _ a b => (a, b)
  | _ => (0, 1)

/-- The FP32 code in [0, 1] nearest to a number, given how a fraction compares with it; ties go to the even code. -/
def f32Nearest (cmp : Nat → Nat → Ordering) : Nat :=
  let at0 := fun (c : Nat) => cmp (f32Frac c).1 (f32Frac c).2
  let c := lastWith (fun c => decide (c ≤ f32One) && at0 c != .gt) 30 0
  let x := f32Frac c
  let y := f32Frac (c + 1)
  if c ≥ f32One then f32One
  else match cmp (x.1 * y.2 + y.1 * x.2) (2 * x.2 * y.2) with
    | .lt => c + 1
    | .eq => c + c % 2
    | .gt => c

/-- How `(a / b) ^ m` compares with `(p / q) ^ n`. -/
def powCmp (m n a b p q : Nat) : Ordering := compare (a ^ m * q ^ n) (p ^ n * b ^ m)

/-- The SRGB decoding of `p / q` in [0, 1], in FP32 (IEC 61966-2-1). -/
def srgbDecode (p q : Nat) : Nat :=
  if p * 100000 ≤ 4045 * q then Fmt.fp32.rne (.fin false (p * 100) (q * 1292))
  else f32Nearest (fun a b => powCmp 5 12 a b (1000 * p + 55 * q) (1055 * q))

/-- The SRGB encoding of `p / q` in [0, 1], in FP32 (IEC 61966-2-1). -/
def srgbEncode (p q : Nat) : Nat :=
  if p * 10000000 ≤ 31308 * q then Fmt.fp32.rne (.fin false (p * 1292) (q * 100))
  else f32Nearest (fun a b => powCmp 12 5 (1000 * a + 55 * b) (1055 * b) p q)

/-- The opto-electronic transfer function of ITU-R BT.709 of `p / q` in [0, 1], in FP32. -/
def bt709Encode (p q : Nat) : Nat :=
  if p * 1000 < 18 * q then Fmt.fp32.rne (.fin false (p * 9) (q * 2))
  else f32Nearest (fun a b => powCmp 20 9 (1000 * a + 99 * b) (1099 * b) p q)

/-- The FP32 code, or the integer, that a stored component stands for; SRGB is decoded to linear (R168). A 32-bit float is
moved as it is (R111). -/
def Comp.load (c : Comp) (v : Nat) : Nat :=
  match c.kind with
  | .unorm => Fmt.fp32.rne (.fin false v (2 ^ c.w - 1))
  | .srgb => srgbDecode v 255
  | .sfloat => if c.w = 16 then Fmt.fp32.rne (Fmt.fp16.decode v) else v
  | .ufloat => Fmt.fp32.rne ((ufloatFmt c.w).decode v)
  | .uint => v
  | .sint => v

/-- An FP32 code clamped to [0, 1], as a fraction (R168). What a NaN becomes the spec does not state: it is free. -/
def clamp01 (c : Nat) : Nat × Nat :=
  match f32Val c with
  | .nan => (Config.nanClamp c % (2 ^ 24 + 1), 2 ^ 24)
  | .inf n => (if n then 0 else 1, 1)
  | .fin n a b => if n then (0, 1) else if b < a then (1, 1) else (a, b)

/-- The UNORM code of an FP32 code. -/
def unormCode (w c : Nat) : Nat := rneN ((clamp01 c).1 * (2 ^ w - 1)) (clamp01 c).2

/-- A component's stored code for an FP32 code or an integer (R115, R168). -/
def Comp.store (c : Comp) (v : Nat) : Nat :=
  match c.kind with
  | .unorm => unormCode c.w v
  | .srgb => unormCode 8 (srgbEncode (clamp01 v).1 (clamp01 v).2)
  | .sfloat => if c.w = 16 then Fmt.fp16.rne (f32Val v) else v
  | .ufloat =>
    let k := (ufloatFmt c.w).rne (f32Val v)
    if k ≥ 2 ^ c.w then 0 else k
  | .uint => v % 2 ^ c.w
  | .sint => v % 2 ^ c.w

/-- The four values of a stored sample; a channel the format lacks is 0, and alpha 1. -/
def colorLoad (f : Nat) (bs : Bytes) : List Nat :=
  let v := leNat bs
  (List.range 4).map (fun ch => match (colorComps f).find? (fun c => c.chan = ch) with
    | some c => c.load ((v >>> c.lo) % 2 ^ c.w)
    | none => if ch = 3 then (if colorInt f then 1 else f32One) else 0)

/-- A stored sample of four values. -/
def colorStore (f : Nat) (vs : List Nat) : Bytes :=
  leBytes (colorBytes f) (sumN ((colorComps f).map (fun c => c.store (nth vs c.chan 0) * 2 ^ c.lo)))

/-! ## Depth formats (R170) -/

/-- Bytes per sample of a depth format. -/
def depthBytes : Nat → Nat
  | 1 => 2
  | 2 => 4
  | 3 => 4
  | 4 => 5
  | _ => 1

/-- Whether a depth format has depth. -/
def hasDepth (f : Nat) : Bool := 1 ≤ f && f ≤ 4

/-- Whether a depth format has stencil. -/
def hasStencil (f : Nat) : Bool := 3 ≤ f

/-- The stored depth code of a depth in FP32 (R168): UNORM formats round to nearest even. -/
def depthCode (f : Nat) (z : Nat) : Nat :=
  match f with
  | 1 => unormCode 16 z
  | 3 => unormCode 24 z
  | _ => z

/-- The FP32 code of a stored depth. -/
def depthLoad (f : Nat) (c : Nat) : Nat :=
  match f with
  | 1 => Fmt.fp32.rne (.fin false c 65535)
  | 3 => Fmt.fp32.rne (.fin false c (2 ^ 24 - 1))
  | _ => c

/-! ## Regions (R161) -/

/-- A surface of regions: its width, samples and bytes per sample. -/
structure Surface where
  base : Nat
  w : Nat
  samples : Nat
  bytes : Nat
  deriving DecidableEq, Repr

/-- Bytes of a region. -/
def Surface.region (s : Surface) : Nat := 1024 * s.samples * s.bytes

/-- Columns of regions. -/
def Surface.cols (s : Surface) : Nat := ceilDiv s.w 32

/-- Address of a region. -/
def Surface.regionAt (s : Surface) (rx ry : Nat) : Nat := s.base + s.region * (rx + s.cols * ry)

/-- Address of a sample of a pixel. -/
def Surface.at (s : Surface) (x y smp : Nat) : Nat :=
  s.regionAt (x / 32) (y / 32) + ((x % 32 + 32 * (y % 32)) * s.samples + smp) * s.bytes

/-- Bytes of a surface of `h` rows. -/
def Surface.size (s : Surface) (h : Nat) : Nat := s.region * s.cols * ceilDiv h 32

/-! ## Image descriptors (R172) -/

/-- An image descriptor. -/
structure ImageD where
  base : Nat
  flags : Nat
  w : Nat
  h : Nat
  samples : Nat
  format : Nat
  linear : Bool
  levels : Nat
  layers : Nat
  rowPitch : Nat
  layerStride : Nat
  reserved : Nat
  deriving DecidableEq, Repr

/-- A descriptor from its 32 bytes. -/
def imageD (b : Bytes) : ImageD :=
  let w4 := leAt b 16 4
  let b21 := leAt b 21 1
  let w22 := leAt b 22 2
  { base := leAt b 0 8, flags := leAt b 8 8, w := w4 % 2 ^ 14 + 1, h := w4 / 2 ^ 14 % 2 ^ 14 + 1, samples := w4 / 2 ^ 28 % 4
    format := leAt b 20 1, linear := b21 % 2 = 1, levels := b21 / 2 % 16, layers := w22 % 2048 + 1, rowPitch := leAt b 24 4
    layerStride := leAt b 28 4 * 256, reserved := w4 / 2 ^ 30 + b21 / 32 + w22 / 2048 }

/-- Whether every encoding is listed and every reserved bit is zero (R172, R174). -/
def ImageD.ok (i : ImageD) : Bool :=
  i.base % 65536 = 0 && i.samples ≤ 2 && (i.format ≤ 16 || (0x81 ≤ i.format && i.format ≤ 0x85))
    && 1 ≤ i.levels && i.levels ≤ 15 && i.reserved = 0
    && (!i.linear || (i.levels = 1 && i.samples = 0 && i.rowPitch % 256 = 0))
    && (i.linear || i.rowPitch = 0)
    && (i.flags = 0 || (!i.linear && i.levels = 1 && i.layers = 1 && i.flags % 64 = 0))

/-- Bytes per sample of an image, in its first plane. -/
def ImageD.bytes (i : ImageD) : Nat :=
  if i.format < 0x80 then colorBytes i.format else if i.format = 0x84 then 4 else depthBytes (i.format - 0x80)

/-- The surface of a level of a layer of a REGION image (R172). -/
def ImageD.surface (i : ImageD) (layer : Nat) : Nat → Surface
  | 0 => ⟨i.base + layer * i.layerStride, i.w, 2 ^ i.samples, i.bytes⟩
  | l + 1 =>
    let p := i.surface layer l
    let plane := p.size (max 1 (i.h / 2 ^ l))
    let stencil := if i.format = 0x84 then roundUp plane 65536 + plane / 4 else plane
    ⟨roundUp (p.base + stencil) 65536, max 1 (i.w / 2 ^ (l + 1)), 2 ^ i.samples, i.bytes⟩

/-- Address of a texel of an image. -/
def ImageD.at (i : ImageD) (x y layer level smp : Nat) : Nat :=
  if i.linear then i.base + layer * i.layerStride + y * i.rowPitch + x * i.bytes else (i.surface layer level).at x y smp

/-- Whether a texel exists. -/
def ImageD.has (i : ImageD) (x y layer level smp : Nat) : Bool :=
  level < i.levels && x < max 1 (i.w / 2 ^ level) && y < max 1 (i.h / 2 ^ level) && layer < i.layers && smp < 2 ^ i.samples

/-- The four words of a texel's stored bytes. -/
def ImageD.load (i : ImageD) (bs : Bytes) : List Word :=
  let f := i.format
  let vs := if f < 0x80 then colorLoad f bs
    else if f = 0x85 then [leNat bs, 0, 0, 1]
    else [depthLoad (f - 0x80) (if f = 0x83 then leNat bs % 2 ^ 24 else leNat bs), 0, 0, f32One]
  vs.map (BitVec.ofNat 32)

/-- The stored bytes of four words. -/
def ImageD.store (i : ImageD) (ws : List Word) : Bytes := colorStore i.format (ws.map (·.toNat))

/-- The flag of a region in a flag surface byte (R162). -/
def flagOf (b : Byte) (r : Nat) : Nat := b.toNat / 4 ^ (r % 4) % 4

/-- The clear value of a flag surface header, as stored bytes of one sample (R162). -/
def clearBytes (format : Nat) (hdr : Bytes) : Bytes :=
  if format < 0x80 then hdr.take (colorBytes format)
  else if format = 0x83 then leBytes 4 (leAt hdr 0 4 % 2 ^ 24 + 2 ^ 24 * leAt hdr 4 1)
  else if format = 0x85 then slice hdr 4 1
  else slice hdr 0 (if format = 0x81 then 2 else 4)

/-! ## Samplers (R173) -/

/-- A sampler descriptor. -/
structure SamplerD where
  magLinear : Bool
  minLinear : Bool
  mipLinear : Bool
  addrU : Nat
  addrV : Nat
  addrW : Nat
  border : Nat
  compare : Bool
  compareOp : Nat
  unnorm : Bool
  lodMin : Nat
  lodMax : Nat
  lodBias : Nat
  ok : Bool
  deriving DecidableEq, Repr

/-- A descriptor from its 32 bytes. -/
def samplerD (b : Bytes) : SamplerD :=
  let w := leAt b 0 4
  { magLinear := w.testBit 0, minLinear := w.testBit 1, mipLinear := w.testBit 2, addrU := w / 8 % 8, addrV := w / 64 % 8, addrW := w / 512 % 8
    border := w / 2 ^ 12 % 4, compare := w.testBit 14, compareOp := w / 2 ^ 15 % 8, unnorm := w.testBit 18
    lodMin := leAt b 4 2, lodMax := leAt b 6 2, lodBias := leAt b 8 2
    ok := w / 2 ^ 19 = 0 && w / 8 % 8 ≤ 3 && w / 64 % 8 ≤ 3 && w / 512 % 8 ≤ 3 && w / 2 ^ 12 % 4 ≤ 2
      && (b.drop 10).all (· = 0) }

/-- A comparison of R167. -/
def compareFn (op : Nat) (x y : FVal) : Bool :=
  let eq := decide (x ≠ .nan) && decide (y ≠ .nan) && !x.lt y && !y.lt x
  -- zeros of either sign compare equal
  let zero := (match x, y with | .fin _ a _, .fin _ b _ => a = 0 && b = 0 | _, _ => false)
  let eq := eq || zero
  let lt := x.lt y && !zero
  let gt := y.lt x && !zero
  match op with
  | 0 => false
  | 1 => lt
  | 2 => eq
  | 3 => lt || eq
  | 4 => gt
  | 5 => !eq
  | 6 => gt || eq
  | _ => true

/-- A coordinate after addressing: a texel index, or none for the border (R173). -/
def wrapCoord (mode : Nat) (i : Int) (n : Nat) : Option Nat :=
  match mode with
  | 0 => some (i % (n : Int)).toNat
  | 1 =>
    let k := (i % (2 * n : Int)).toNat
    some (if k < n then k else 2 * n - 1 - k)
  | 2 => some (max 0 (min ((n : Int) - 1) i)).toNat
  | _ => if 0 ≤ i ∧ i < n then some i.toNat else none

/-- The border colour (R173). -/
def borderColor (b : Nat) : List Word := match b with
  | 0 => [0, 0, 0, 0]
  | 1 => [0, 0, 0, 0x3F800000]
  | _ => [0x3F800000, 0x3F800000, 0x3F800000, 0x3F800000]

end Sys2Proof.Machine
end

