-- ==== Sys2Proof/Machine/PassRecord.lean ====
section
/-! DEFINITION. The records that a RENDER_PASS names (R136 to R139, R166), their checks (R140), and the planes and regions of its
attachments (R161). -/

namespace Sys2Proof.Machine

/-! ## Records -/

/-- Bytes 16 to 63 of a RENDER_PASS (R136). -/
structure PassD where
  record : Wide
  drawList : Wide
  count : Nat
  heap : Wide
  low : Wide
  stats : Wide
  deriving DecidableEq, Repr

def passD (l : Line) : PassD := ⟨dwide l 16, dwide l 24, dfield l 32 31 0, dwide l 40, dwide l 48, dwide l 56⟩

def passFields : List (Nat × Nat × Nat) := [(16, 63, 0), (24, 63, 0), (32, 31, 0), (40, 63, 0), (48, 63, 0), (56, 63, 0)]

/-- An attachment record (R138). -/
structure Att where
  base : Nat
  flags : Nat
  resolve : Nat
  format : Nat
  load : Nat
  store : Nat
  clear : Bytes
  reserved : Bool
  deriving DecidableEq, Repr

def attOf (b : Bytes) : Att :=
  let o := leAt b 25 1
  ⟨leAt b 0 8, leAt b 8 8, leAt b 16 8, leAt b 24 1, o % 4, o / 4 % 4, slice b 32 16, o ≥ 16 || (slice b 26 6).any (· ≠ 0)⟩

/-- A pass record (R137). -/
structure PassRec where
  w : Nat
  h : Nat
  tile : Nat
  samplesLog : Nat
  colors : Nat
  ds : Bool
  split : Nat
  policy : Nat
  fallback : Bool
  lowPct : Nat
  growLimit : Nat
  chunks : Nat
  atts : List Att
  reserved : Bool
  deriving DecidableEq, Repr

def passRec (b : Bytes) : PassRec :=
  let b4 := leAt b 4 1
  let b5 := leAt b 5 1
  let b6 := leAt b 6 1
  { w := leAt b 0 2, h := leAt b 2 2, tile := b4 % 4, samplesLog := b4 / 4 % 4, colors := b4 / 16 % 8, ds := b4 ≥ 128
    split := b5 % 8, policy := b6 % 4, fallback := b6 / 4 % 2 = 1, lowPct := leAt b 7 1, growLimit := leAt b 8 4
    chunks := leAt b 12 4, atts := (List.range 5).map (fun a => attOf (slice b (64 + 48 * a) 48))
    reserved := b5 ≥ 8 || b6 ≥ 8 || (slice b 16 48).any (· ≠ 0) || (slice b 304 16).any (· ≠ 0) }

/-- Samples per pixel. -/
def PassRec.samples (r : PassRec) : Nat := 2 ^ r.samplesLog

/-- Numbers of the attachments in use. -/
def PassRec.used (r : PassRec) : List Nat := List.range (min r.colors 4) ++ (if r.ds then [4] else [])

/-- Attachment `a`. -/
def PassRec.att (r : PassRec) (a : Nat) : Att := nth r.atts a (attOf [])

/-- Tile width and height (R137). -/
def tileDims : Nat → Nat × Nat
  | 0 => (16, 16) | 1 => (32, 32) | 2 => (64, 32) | _ => (64, 64)

/-- Columns and rows of tiles. -/
def PassRec.tiles (r : PassRec) : Nat × Nat := (ceilDiv r.w (tileDims r.tile).1, ceilDiv r.h (tileDims r.tile).2)

/-- Chunks of the head table (R153). -/
def PassRec.heads (r : PassRec) : Nat := ceilDiv (r.tiles.1 * r.tiles.2 * 16) 65536

/-- Bytes per sample of an attachment. -/
def PassRec.bytesOf (r : PassRec) (a : Nat) : Nat :=
  if a < 4 then colorBytes (r.att a).format else depthBytes (r.att a).format

/-- A draw record (R139). -/
structure Draw where
  vertex : Wide
  fragment : Wide
  args : Wide
  state : Wide
  index : Wide
  first : Nat
  count : Nat
  insts : Nat
  firstInst : Nat
  topology : Nat
  wideIndex : Bool
  restart : Bool
  reserved : Bool
  base : Int
  deriving DecidableEq, Repr

def drawOf (b : Bytes) : Draw :=
  let o := leAt b 56 1
  ⟨wideAt b 0, wideAt b 8, wideAt b 16, wideAt b 24, wideAt b 32, leAt b 40 4, leAt b 44 4, leAt b 48 4, leAt b 52 4, o % 8,
    o.testBit 3, o.testBit 4, o ≥ 32 || leAt b 57 3 ≠ 0, signed 32 (leAt b 60 4)⟩

/-- A state block (R166). -/
structure DrawState where
  cull : Nat
  frontCcw : Bool
  depthClip : Bool
  scissorOn : Bool
  depthTest : Bool
  depthWrite : Bool
  depthCompare : Nat
  stencilTest : Bool
  stencil : List Nat
  refs : List Nat
  blend : List Nat
  consts : List Nat
  viewport : List Nat
  scissor : List Nat
  ok : Bool
  deriving DecidableEq, Repr

/-- Whether one word of blend state is listed (R166, R167). -/
def blendOk (w : Nat) : Bool :=
  w / 2 % 16 ≤ 14 && w / 32 % 16 ≤ 14 && w / 512 % 8 ≤ 4 && w / 2 ^ 12 % 16 ≤ 14 && w / 2 ^ 16 % 16 ≤ 14 && w / 2 ^ 20 % 8 ≤ 4
    && w / 2 ^ 27 = 0

def drawState (b : Bytes) : DrawState :=
  let w0 := leAt b 0 4
  let w4 := leAt b 4 4
  let st := [leAt b 8 4, leAt b 16 4]
  let rf := [leAt b 12 4, leAt b 20 4]
  let bl := (List.range 4).map (fun a => leAt b (24 + 4 * a) 4)
  { cull := w0 % 4, frontCcw := w0.testBit 2, depthClip := w0.testBit 3, scissorOn := w0.testBit 4
    depthTest := w4.testBit 0, depthWrite := w4.testBit 1, depthCompare := w4 / 4 % 8, stencilTest := w4.testBit 5
    stencil := st, refs := rf, blend := bl, consts := (List.range 4).map (fun k => leAt b (40 + 2 * k) 2)
    viewport := (List.range 6).map (fun k => leAt b (48 + 4 * k) 4), scissor := (List.range 4).map (fun k => leAt b (72 + 2 * k) 2)
    ok := w0 % 4 ≤ 2 && w0 / 32 = 0 && w4 / 64 = 0 && st.all (fun s => s / 2 ^ 28 = 0) && rf.all (fun r => r / 256 = 0)
      && bl.all blendOk && (slice b 80 48).all (· = 0) }

/-! ## Checks (R140) -/

/-- Primitives that a draw can produce: an upper bound. -/
def Draw.prims (x : Draw) : Nat :=
  x.insts * (match x.topology with
    | 0 => x.count
    | 1 => x.count / 2
    | 2 => x.count - 1
    | 3 => x.count / 3
    | _ => x.count - 2)

/-- The kernel record of a handle. -/
def Dev.kernelRec (d : Dev) (h : Wide) : Option (KernelState × KRecord) :=
  match (d.entry (handleIndex h)).payload with
  | .kernel st r _ _ _ _ _ _ => some (st, krecordOf r)
  | _ => none

/-- Length of a MEMORY object named by a handle. -/
def Dev.heapLength (d : Dev) (h : Wide) : Nat :=
  match (d.entry (handleIndex h)).payload with
  | .memory _ _ len => len.toNat
  | _ => 0

/-- Kernel handles of the draws with the execution model each must have: 0 Vertex, 1 Fragment (R53). -/
def kernelUses (ds : List Draw) : List (Wide × Nat) :=
  ds.flatMap (fun x => (x.vertex, 0) :: (if x.fragment = 0 then [] else [(x.fragment, 1)]))

/-- Step 4 of R140. -/
def passEncodings (l : Line) (r : PassRec) (ds : List Draw) : Bool :=
  let p := passD l
  p.record.toNat % 64 = 0 && p.drawList.toNat % 64 = 0 && 1 ≤ p.count && p.count ≤ 65536 && p.stats.toNat % 8 = 0
    && reservedZero l passFields && !r.reserved
    && 1 ≤ r.w && r.w ≤ 16384 && 1 ≤ r.h && r.h ≤ 16384 && r.samplesLog ≤ 2 && r.colors ≤ 4 && r.split ≤ 4 && r.policy ≤ 2
    && r.lowPct ≤ 100 && !r.used.isEmpty
    && r.used.all (fun a => let x := r.att a
        x.base % 65536 = 0 && x.flags % 64 = 0 && x.load ≤ 2 && x.store ≤ 2 && !x.reserved
          && (x.store ≠ 2 || x.resolve % 65536 = 0)
          && (if a < 4 then x.format ≤ 16 else 1 ≤ x.format && x.format ≤ 5))
    && ds.all (fun x => x.topology ≤ 5 && !x.reserved && x.state.toNat % 64 = 0 && x.args.toNat % 8 = 0)

/-- Storage of one tile (R148). -/
def PassRec.tileBytes (r : PassRec) : Nat :=
  (tileDims r.tile).1 * (tileDims r.tile).2 * r.samples * sumN (r.used.map r.bytesOf)

/-- The checks of R140 in order: status and step. -/
def Dev.passFails (d : Dev) (l : Line) (r : PassRec) (ds : List Draw) : Option (Half × Nat) :=
  let p := passD l
  let ks := kernelUses ds
  let heapType := (d.entry (handleIndex p.heap)).typ
  let lowType := (d.entry (handleIndex p.low)).typ
  if ks.any (fun k => !d.current k.1) then some (Sts.staleHandle, 1)
  else if heapType ≠ typMemory ∨ (p.low ≠ 0 ∧ lowType ≠ typFence ∧ lowType ≠ typFabricFence)
      ∨ ks.any (fun k => match d.kernelRec k.1 with
          | some (st, x) => st = .ready && x.model ≠ k.2
          | none => true) then some (Sts.badObjectType, 2)
  else if ks.any (fun k => match d.kernelRec k.1 with | some (st, _) => st = .rejected | none => false) then
    some (Sts.kernelRejected, 3)
  else if !passEncodings l r ds then some (Sts.badDescriptor, 4)
  else if r.chunks < 4 + r.heads ∨ r.chunks + r.growLimit > 65536 ∨ d.heapLength p.heap < (r.chunks + r.growLimit) * 65536 then
    some (Sts.badDescriptor, 5)
  else if r.used.any (fun a => (r.att a).store = 2 && (a = 4 || r.samplesLog = 0 || !colorBlends (r.att a).format)) then
    some (Sts.badDescriptor, 6)
  else if sumN (ds.map Draw.prims) > 2 ^ 32 - 1 then some (Sts.badDescriptor, 7)
  else if r.tileBytes > (match r.split with | 1 => 131072 | 2 => 262144 | 3 => 393216 | 4 => 458752 | _ => 0) then
    some (Sts.launchUnfit, 8)
  else none

/-! ## Planes and regions -/

/-- A plane of an attachment: its attachment, whether it is the separate stencil plane, and its bytes per sample. -/
structure PlaneD where
  att : Nat
  stencil : Bool
  bytes : Nat
  deriving DecidableEq, Repr

/-- The planes of the attachments in use (R161). -/
def PassRec.planes (r : PassRec) : List PlaneD :=
  r.used.flatMap (fun a =>
    if a = 4 ∧ (r.att a).format = 4 then [⟨4, false, 4⟩, ⟨4, true, 1⟩] else [⟨a, false, r.bytesOf a⟩])

/-- The surface of a plane (R161). -/
def PassRec.surface (r : PassRec) (p : PlaneD) : Surface :=
  let s : Surface := ⟨(r.att p.att).base, r.w, r.samples, if p.att = 4 ∧ (r.att 4).format = 4 then 4 else p.bytes⟩
  if p.stencil then ⟨s.base + roundUp (s.size r.h) 65536, r.w, r.samples, 1⟩ else s

/-- The index of the plane that holds depth, or stencil, of attachment 4. -/
def PassRec.dsPlane (r : PassRec) (stencil : Bool) : Option Nat :=
  let f := (r.att 4).format
  if !r.ds then none
  else if stencil then
    if !hasStencil f then none
    else if f = 4 then (r.planes.zipIdx.find? (fun e => e.1.stencil)).map (·.2) else (r.planes.zipIdx.find? (fun e => e.1.att = 4)).map (·.2)
  else if hasDepth f then (r.planes.zipIdx.find? (fun e => e.1.att = 4 && !e.1.stencil)).map (·.2) else none

/-- A code of a plane. -/
def RegionSt.get (g : RegionSt) (plane i : Nat) : Nat := nth (nth g.codes plane []) i 0

/-- Sets a code of a plane and marks its attachment touched. -/
def RegionSt.put (g : RegionSt) (plane i att v : Nat) : RegionSt :=
  { g with codes := modNth g.codes plane (fun l => setNth l i v), touched := if g.touched.contains att then g.touched else att :: g.touched }

/-- The values that an attachment's codes stand for, as a fragment reads them (R152). -/
def PassRec.value (r : PassRec) (a : Nat) (codes : List Nat) : List Word :=
  let f := (r.att a).format
  let c := nth codes 0 0
  let vs := if a < 4 then colorLoad f (leBytes (colorBytes f) c)
    else if f = 5 then [c, 0, 0, 1]
    else [depthLoad f (if f = 3 then c % 2 ^ 24 else c), 0, 0, f32One]
  vs.map (BitVec.ofNat 32)

/-- The value of one sample of a pixel in a region, of an attachment in use (R152). -/
def RegionSt.read (g : RegionSt) (r : PassRec) (a x y smp : Nat) : Option (List Word) :=
  if r.used.contains a ∧ x / 32 = g.rx ∧ y / 32 = g.ry then
    let i := (x % 32 + 32 * (y % 32)) * r.samples + smp
    some (r.value a ((r.planes.zipIdx.filter (fun e => e.1.att = a)).map (fun e => g.get e.2 i)))
  else none

end Sys2Proof.Machine
end

