-- ==== Sys2Proof/Machine/Geometry.lean ====
section
/-! DEFINITION. The geometry of RENDER_PASS (chapter 07): primitives in submission order (R144), the vertex courses of each
front-end (R143, R145), and clipping, culling, the viewport and the tiles that a primitive touches (R146, R154, R165). -/

namespace Sys2Proof.Machine

/-! ## Primitives (R144, R145) -/

/-- Splits indices at the restart index. -/
def splitRestart (stop : Option Nat) (is : List Nat) : List (List Nat) :=
  is.foldr (fun i acc => if stop = some i then [] :: acc else match acc with
    | [] => [[i]]
    | l :: t => (i :: l) :: t) [[]]

/-- Primitives of one run of vertices, as positions in the run. -/
def runPrims (topology n : Nat) : List (List Nat) :=
  match topology with
  | 0 => (List.range n).map (fun i => [i])
  | 1 => (List.range (n / 2)).map (fun i => [2 * i, 2 * i + 1])
  | 2 => (List.range (n - 1)).map (fun i => [i, i + 1])
  | 3 => (List.range (n / 3)).map (fun i => [3 * i, 3 * i + 1, 3 * i + 2])
  | 4 => (List.range (n - 2)).map (fun i => if i % 2 = 0 then [i, i + 1, i + 2] else [i, i + 2, i + 1])
  | _ => (List.range (n - 2)).map (fun i => [i + 1, i + 2, 0])

/-- Vertex indices of the primitives of one instance of a draw. -/
def drawPrims (x : Draw) (is : List Nat) : List (List Nat) :=
  let stop := if x.restart ∧ x.index ≠ 0 then some (if x.wideIndex then 2 ^ 32 - 1 else 65535) else none
  (splitRestart stop is).flatMap (fun run =>
    let vs := if x.index = 0 then run else run.map (fun (i : Nat) => (BitVec.ofInt 32 ((i : Int) + x.base)).toNat)
    (runPrims x.topology vs.length).map (fun p => p.map (fun k => nth vs k 0)))

/-- The front-end that takes a primitive: that of the partition's one die, or alternately 0 and 1 in batches of 1,024 (R143). -/
def feOf (fes : List Nat) (seq : Nat) : Nat :=
  match fes with
  | [a, b] => if seq / 1024 % 2 = 0 then a else b
  | a :: _ => a
  | [] => 0

/-- Vertex courses of one instance as they are filled: number, front-end and vertices by lane; and the primitives that have been
given their lanes. -/
structure Fill where
  next : Nat
  courses : List (Nat × Nat × List Nat)
  prims : List PrimIn
  deriving DecidableEq, Repr

/-- A primitive takes lanes of its front-end's present course: each vertex that the course does not hold gets the next free one. A
primitive whose vertices do not all fit begins the next course (R145). -/
def Fill.add (f : Fill) (fe seq : Nat) (vs : List Nat) : Fill :=
  let fresh := fun (l : List Nat) => vs.eraseDups.filter (fun v => !l.contains v)
  let put := fun (cs : List (Nat × Nat × List Nat)) (no : Nat) (l : List Nat) (next : Nat) =>
    (⟨next, cs ++ [(no, fe, l)], f.prims ++ [⟨seq, fe, vs.map (fun v => (no, l.findIdx (· = v)))⟩]⟩ : Fill)
  match (f.courses.filter (fun c => c.2.1 = fe)).getLast? with
  | some (no, _, l) =>
    if l.length + (fresh l).length ≤ 32 then put (f.courses.filter (fun c => c.1 ≠ no)) no (l ++ fresh l) f.next
    else put f.courses f.next vs.eraseDups (f.next + 1)
  | none => put f.courses f.next vs.eraseDups (f.next + 1)

/-- The vertex courses and primitives of one instance of a draw, numbered from `no` and `seq`. DESIGN CHOICE (log entry 109): a course
holds vertices of one instance only; R145 speaks of vertex indices and does not say whether a course may hold those of two. -/
def fillInstance (fes : List Nat) (no seq : Nat) (prims : List (List Nat)) : Fill :=
  prims.zipIdx.foldl (fun f e => f.add (feOf fes (seq + e.2)) (seq + e.2) e.1) ⟨no, [], []⟩

/-! ## Clipping and the viewport (R146) -/

/-- A vertex in clip space. -/
structure CVert where
  x : Rat
  y : Rat
  z : Rat
  w : Rat
  clip : List Rat
  deriving DecidableEq, Repr

/-- What a vertex kernel has stored for a vertex: its position, its point size if the kernel writes one, and its clip and cull
distances, in FP32. -/
structure VertexOut where
  pos : List Word
  pointSize : Option Word
  clip : List Word
  cull : List Word
  deriving DecidableEq, Repr

/-- Free word `i` of a pass: what an output that its kernel has not written holds, or what the spec gives no value. -/
def freeWordAt (gen i : Nat) : Word := BitVec.ofNat 32 (leNat ((List.range 4).map (fun k => Config.freeByte gen (4 * i + k))))

/-- A number for a coordinate, which the spec gives no meaning when it is not finite: it is then free. -/
def numberOf (gen i : Nat) (c : Word) : Rat := ((f32Val c.toNat).toRat).getD (((freeWordAt gen i).toNat : Int) - 2 ^ 31 : Int)

/-- A vertex in clip space; `i` names its free values. -/
def VertexOut.clipSpace (v : VertexOut) (gen i : Nat) : CVert :=
  let p := fun (k : Nat) => numberOf gen (64 * i + k) (v.pos[k]?.getD (freeWordAt gen (64 * i + k)))
  ⟨p 0, p 1, p 2, p 3, v.clip.zipIdx.map (fun e => numberOf gen (64 * i + 8 + e.2) e.1)⟩

/-- The point between two vertices at parameter `t`. -/
def CVert.mix (a b : CVert) (t : Rat) : CVert :=
  let m := fun (p q : Rat) => p + t * (q - p)
  ⟨m a.x b.x, m a.y b.y, m a.z b.z, m a.w b.w, (a.clip.zip b.clip).map (fun p => m p.1 p.2)⟩

/-- Clips a closed polygon to where `f` is not negative. -/
def clipPoly (f : CVert → Rat) (p : List CVert) : List CVert :=
  match p with
  | [] => []
  | v :: t => ((v :: t).zip (t ++ [v])).flatMap (fun (e : CVert × CVert) =>
      let a := f e.1
      let b := f e.2
      (if 0 ≤ a then [e.1] else []) ++ (if (0 ≤ a) ≠ (0 ≤ b) then [e.1.mix e.2 (a / (a - b))] else []))

/-- Clips a segment. -/
def clipLine (f : CVert → Rat) (p : List CVert) : List CVert :=
  match p with
  | [u, v] =>
    let a := f u
    let b := f v
    if a < 0 ∧ b < 0 then []
    else if a < 0 then [u.mix v (a / (a - b)), v]
    else if b < 0 then [u, u.mix v (a / (a - b))]
    else [u, v]
  | _ => []

/-- A field of a draw's viewport. DESIGN CHOICE (log entry 110): the spec gives a field that is not finite no meaning, and it stands for a
free number. -/
def DrawState.view (s : DrawState) (gen i : Nat) : Rat := numberOf gen (2 ^ 40 + i) (BitVec.ofNat 32 (nth s.viewport i 0))

/-- The planes of R146 for a state block: clip distances, depth, and the guard band around the viewport's origin. -/
def clipPlanes (s : DrawState) (gen nclip : Nat) : List (CVert → Rat) :=
  let vw := s.view gen 2
  let vh := s.view gen 3
  (List.range nclip).map (fun i v => nth v.clip i 0)
    ++ (if s.depthClip then [fun v => v.z, fun v => v.w - v.z] else [])
    ++ [fun v => (v.x + v.w) * vw / 2 + 32768 * v.w, fun v => 32768 * v.w - (v.x + v.w) * vw / 2,
        fun v => (v.y + v.w) * vh / 2 + 32768 * v.w, fun v => 32768 * v.w - (v.y + v.w) * vh / 2]

/-- The viewport transform and the snap to 1/256 pixel. DESIGN CHOICE (log entry 110): a primitive of which clipping leaves a vertex with w
at or below 0 has no place on the screen and is dropped whole; R146 does not name that case. -/
def CVert.toScreen (s : DrawState) (gen : Nat) (v : CVert) : Option RVert :=
  if v.w ≤ 0 then none
  else
    let p := s.view gen
    some ⟨rneRat (256 * ((v.x / v.w + 1) * p 2 / 2 + p 0)), rneRat (256 * ((v.y / v.w + 1) * p 3 / 2 + p 1)),
      v.z / v.w * (p 5 - p 4) + p 4⟩

/-- Twice the area of a triangle, positive when it turns counter-clockwise as Khronos Vulkan counts facing. -/
def triArea (t : List RVert) : Int :=
  match t with
  | [a, b, c] => -((a.x * b.y - b.x * a.y) + (b.x * c.y - c.x * b.y) + (c.x * a.y - a.x * c.y))
  | _ => 0

/-- Triangles of a convex polygon. -/
def fanOf (p : List RVert) : List (List RVert) :=
  match p with
  | [] => []
  | a :: t => (t.zip (t.drop 1)).map (fun e => [a, e.1, e.2])

/-- Whether a cull distance removes a primitive: one of which every vertex holds a negative value (R146). -/
def culledBy (outs : List VertexOut) : Bool :=
  (List.range ((outs.map (fun o => o.cull.length)).foldl min 8)).any (fun i =>
    outs.all (fun o => match f32Val (nth o.cull i 0).toNat with
      | .fin neg a _ => neg && a > 0
      | .inf neg => neg
      | .nan => false))

/-- The pieces of a primitive that clipping and culling leave, and whether it faces front; each corner has what its kernel stored and
the number that names its free values (R146). -/
def piecesOf (s : DrawState) (gen : Nat) (corners : List (VertexOut × Nat)) : List (List RVert) × Bool :=
  if culledBy (corners.map (·.1)) then ([], true)
  else
    let vs := corners.map (fun e => e.1.clipSpace gen e.2)
    let planes := clipPlanes s gen ((vs.map (fun v => v.clip.length)).foldl min 8)
    let screen := fun (p : List CVert) => p.mapM (fun v => v.toScreen s gen)
    match vs.length with
    | 1 =>
      if vs.all (fun v => planes.all (fun f => 0 ≤ f v)) then match screen vs with
        | some p => ([p], true)
        | none => ([], true)
      else ([], true)
    | 2 => match screen (planes.foldl (fun p f => clipLine f p) vs) with
      | some [a, b] => (if a.x = b.x ∧ a.y = b.y then [] else [[a, b]], true)
      | _ => ([], true)
    | _ => match screen (planes.foldl (fun p f => clipPoly f p) vs) with
      | some p =>
        let ts := (fanOf p).filter (fun t => triArea t ≠ 0)
        let front := fun (t : List RVert) => decide (0 < triArea t) = s.frontCcw
        (ts.filter (fun t => if s.cull = 1 then !front t else if s.cull = 2 then front t else true),
          match ts with
          | t :: _ => front t
          | [] => true)
      | none => ([], true)

/-- A point's side (R165): PointSize clamped to 1 to 256, or 1 when the kernel does not write it. What a NaN becomes is free. -/
def pointSize (gen i : Nat) (w : Option Word) : Rat :=
  match w with
  | none => 1
  | some w => match f32Val w.toNat with
    | .inf n => if n then 1 else 256
    | .nan => 1 + (((freeWordAt gen (64 * i + 5)).toNat % (255 * 2 ^ 16 + 1) : Nat) : Rat) / (2 ^ 16 : Nat)
    | v => max 1 (min 256 ((v.toRat).getD 1))

/-- Tiles in which a primitive is listed, in increasing order. DESIGN CHOICE (log entry 111): every tile that the bounding box of its pieces
touches; the spec does not say whether a tile in which it covers no sample is left out. -/
def tilesOf (r : PassRec) (pieces : List (List RVert)) (size : Rat) : List Nat :=
  let vs := pieces.flatten
  match vs with
  | [] => []
  | v :: t =>
    let pad : Int := (size * 128).ceil
    let lo := fun (f : RVert → Int) => (t.foldl (fun m u => min m (f u)) (f v) - pad) / 256
    let hi := fun (f : RVert → Int) => (t.foldl (fun m u => max m (f u)) (f v) + pad) / 256
    let (tw, th) := tileDims r.tile
    let x0 := max 0 (lo (·.x))
    let x1 := min ((r.w : Int) - 1) (hi (·.x))
    let y0 := max 0 (lo (·.y))
    let y1 := min ((r.h : Int) - 1) (hi (·.y))
    if x1 < x0 ∨ y1 < y0 then []
    else
      let cols := (List.range r.tiles.1).filter (fun c => x0.toNat / tw ≤ c && c ≤ x1.toNat / tw)
      let rows := (List.range r.tiles.2).filter (fun c => y0.toNat / th ≤ c && c ≤ y1.toNat / th)
      rows.flatMap (fun y => cols.map (fun x => y * r.tiles.1 + x))

/-- The front-ends that bin a pass: those of the dies its partition has walls on (R143). -/
def frontEnds (walls : List Nat) : List Nat :=
  (if walls.any (· < 6) then [0] else []) ++ (if walls.any (6 ≤ ·) then [1] else [])

/-- A primitive after R146, with the tiles it touches; none when nothing of it is left. -/
def shapePrim (r : PassRec) (s : DrawState) (gen draw : Nat) (x : PrimIn) (corners : List (VertexOut × Nat)) : Option RPrim :=
  let p := piecesOf s gen corners
  let size := match corners with
    | [e] => pointSize gen e.2 e.1.pointSize
    | [_, _] => 1
    | _ => 0
  if p.1.isEmpty then none else some ⟨x.seq, draw, p.1, size, p.2, x.fe, tilesOf r p.1 size⟩

end Sys2Proof.Machine
end

