-- ==== Sys2Proof/Machine/Raster.lean ====
section
/-! DEFINITION. Rasterization (chapter 07): coverage (R165), depth, stencil and blending (R150, R166 to R168), the quads and fragments of
a tile (R149 to R151), and loading and storing regions with their flags (R159 to R164, R171). -/

namespace Sys2Proof.Machine

/-! ## Coverage (R165) -/

/-- Sample positions in 1/256 pixel. -/
def samplePos : Nat → Nat → Int × Int
  | 1, 0 => (192, 192)
  | 1, _ => (64, 64)
  | 2, 0 => (96, 32)
  | 2, 1 => (224, 96)
  | 2, 2 => (32, 160)
  | 2, _ => (160, 224)
  | _, _ => (128, 128)

/-- The edge function of a directed edge: positive to its inside. -/
def edgeFn (a b : RVert) (x y : Int) : Int := (b.x - a.x) * (y - a.y) - (b.y - a.y) * (x - a.x)

/-- Whether an edge of a figure taken clockwise on the screen, in a direction, is a top or a left edge. -/
def topLeft (ex ey : Int) : Bool := (ey = 0 && 0 < ex) || ey < 0

/-- Whether a position that an edge function places at `e` lies inside an edge of that direction, or on it where it is a top or left one. -/
def insideEdge (e ex ey : Int) : Bool := decide (0 < e) || (e = 0 && topLeft ex ey)

/-- A triangle's vertices in clockwise order on the screen. -/
def clockwise (t : List RVert) : List RVert :=
  match t with
  | [a, b, c] => if edgeFn a b c.x c.y < 0 then [a, c, b] else [a, b, c]
  | _ => t

/-- Depth at a covered position, or none when a piece does not cover it. A line is the rectangle one pixel wide around it; every edge follows
the rule of top and left edges. -/
def pieceAt (size : Rat) (piece : List RVert) (x y : Int) : Option Rat :=
  match clockwise piece with
  | [a] =>
    let h := size * 128
    if (a.x : Rat) - h ≤ x ∧ (x : Rat) < a.x + h ∧ (a.y : Rat) - h ≤ y ∧ (y : Rat) < a.y + h then some a.z else none
  | [a, b] =>
    let dx := b.x - a.x
    let dy := b.y - a.y
    let l2 := dx * dx + dy * dy
    -- along the line, and the square of the distance from it with its sign, both scaled by its length
    let t := (x - a.x) * dx + (y - a.y) * dy
    let cr := edgeFn a b x y
    let off := fun (s : Int) => if s * cr ≥ 0 then 1 else if cr * cr < 16384 * l2 then 1 else if cr * cr = 16384 * l2 then 0 else -1
    if insideEdge (off 1) dx dy && insideEdge (off (-1)) (-dx) (-dy) && insideEdge t dy (-dx) && insideEdge (l2 - t) (-dy) dx then
      some (a.z + (b.z - a.z) * ((t : Rat) / (l2 : Rat)))
    else none
  | [a, b, c] =>
    let inside := fun (p q : RVert) => insideEdge (edgeFn p q x y) (q.x - p.x) (q.y - p.y)
    if inside a b && inside b c && inside c a then
      let area : Rat := (edgeFn a b c.x c.y : Int)
      some (((edgeFn b c x y : Int) * a.z + (edgeFn c a x y : Int) * b.z + (edgeFn a b x y : Int) * c.z) / area)
    else none
  | _ => none

/-! ## Regions in the pond -/

/-! ## Depth and stencil (R166 to R168) -/

/-- A stencil operation (R167). -/
def stencilOp (op ref v : Nat) : Nat :=
  match op with
  | 0 => v
  | 1 => 0
  | 2 => ref
  | 3 => min 255 (v + 1)
  | 4 => v - 1
  | 5 => 255 - v
  | 6 => (v + 1) % 256
  | _ => (v + 255) % 256

/-- A comparison of two numbers (R167). -/
def compareNat (op x y : Nat) : Bool := compareFn op (.fin false x 1) (.fin false y 1)

/-- The depth and stencil tests and writes of one sample with depth `z` (FP32): whether it passes (R149, R150). -/
def RegionSt.test (g : RegionSt) (r : PassRec) (s : DrawState) (front : Bool) (i z : Nat) : RegionSt × Bool :=
  let f := (r.att 4).format
  let face := if front then 0 else 1
  let st := nth s.stencil face 0
  let ref := nth s.refs face 0 % 256
  let cm := st / 2 ^ 12 % 256
  let wm := st / 2 ^ 20 % 256
  let sp := r.dsPlane true
  let dp := r.dsPlane false
  let scode := match sp with | some p => g.get p i | none => 0
  let sold := if f = 3 then scode / 2 ^ 24 else scode
  let stencilOn := s.stencilTest && sp.isSome
  let spass := !stencilOn || compareNat (st % 8) (ref &&& cm) (sold &&& cm)
  let zc := depthCode f z
  let dold := match dp with | some p => (if f = 3 then g.get p i % 2 ^ 24 else g.get p i) | none => 0
  let dpass := !(s.depthTest && dp.isSome) || compareFn s.depthCompare (f32Val (depthLoad f zc)) (f32Val (depthLoad f dold))
  let op := if !spass then st / 8 % 8 else if dpass then st / 64 % 8 else st / 512 % 8
  let g := match sp with
    | some p => if stencilOn = true ∧ op ≠ 0 ∧ wm ≠ 0 then
        let v := (stencilOp op ref sold &&& wm) ||| (sold &&& (255 - wm))
        g.put p i 4 (if f = 3 then g.get p i % 2 ^ 24 + v * 2 ^ 24 else v)
      else g
    | none => g
  let g := match dp with
    | some p => if spass = true ∧ dpass = true ∧ s.depthWrite = true then
        g.put p i 4 (if f = 3 then g.get p i / 2 ^ 24 * 2 ^ 24 + zc else zc)
      else g
    | none => g
  (g, spass && dpass)

/-! ## Blending (R167, R168) -/

/-- FP32 product, rounded once. -/
def f32Mul (a b : Nat) : Nat := Fmt.fp32.rne ((f32Val a).mul (f32Val b))

/-- FP32 difference, rounded once. -/
def f32Sub (a b : Nat) : Nat := Fmt.fp32.rne ((f32Val a).add (f32Val b).neg)

/-- A blend factor for one channel. -/
def blendFactor (k : Nat) (src dst cst : List Nat) (ch : Nat) : Nat :=
  let one := fun (v : Nat) => f32Sub f32One v
  match k with
  | 0 => 0
  | 1 => f32One
  | 2 => nth src ch 0
  | 3 => one (nth src ch 0)
  | 4 => nth dst ch 0
  | 5 => one (nth dst ch 0)
  | 6 => nth src 3 0
  | 7 => one (nth src 3 0)
  | 8 => nth dst 3 0
  | 9 => one (nth dst 3 0)
  | 10 => nth cst ch 0
  | 11 => one (nth cst ch 0)
  | 12 => nth cst 3 0
  | 13 => one (nth cst 3 0)
  | _ => if ch = 3 then f32One else Fmt.fp32.rne ((f32Val (nth src 3 0)).min (f32Val (one (nth dst 3 0))))

/-- One channel of a blend. -/
def blendChannel (op sf df : Nat) (src dst cst : List Nat) (ch : Nat) : Nat :=
  let s := nth src ch 0
  let t := nth dst ch 0
  let x := f32Mul s (blendFactor sf src dst cst ch)
  let y := f32Mul t (blendFactor df src dst cst ch)
  match op with
  | 0 => f32Add x y
  | 1 => f32Sub x y
  | 2 => f32Sub y x
  | 3 => Fmt.fp32.rne ((f32Val s).min (f32Val t))
  | _ => Fmt.fp32.rne ((f32Val s).max (f32Val t))

/-- The stored code of a colour write over an old code, blended when the state and the format say so, under the write
mask. -/
def colorWrite (fmt blend : Nat) (cst src : List Nat) (old : Nat) : Nat :=
  let dst := colorLoad fmt (leBytes (colorBytes fmt) old)
  let vals := if blend.testBit 0 ∧ colorBlends fmt then
      (List.range 4).map (fun ch =>
        if ch < 3 then blendChannel (blend / 512 % 8) (blend / 2 % 16) (blend / 32 % 16) src dst cst ch
        else blendChannel (blend / 2 ^ 20 % 8) (blend / 2 ^ 12 % 16) (blend / 2 ^ 16 % 16) src dst cst ch)
    else src
  sumN ((colorComps fmt).map (fun c =>
    (if (blend / 2 ^ 23).testBit c.chan then c.store (nth vals c.chan 0) else (old >>> c.lo) % 2 ^ c.w) * 2 ^ c.lo))

/-! ## Fragments (R149 to R151) -/

/-- What a fragment kernel's entry point says of its tests and outputs (R150, R151). -/
structure FragInfo where
  present : Bool
  early : Bool
  depth : Bool
  perSample : Bool
  deriving DecidableEq, Repr

/-- The module of a kernel object and the entry point chosen of it. -/
def Dev.entryPoint (d : Dev) (h : Wide) : Option (List SpvIns × SpvEntry) :=
  match (d.entry (handleIndex h)).payload with
  | .kernel _ _ _ m name model _ _ =>
    let is := (spvIntake m none).ins
    ((spvChosen is (entryName name) model).head?).map (fun e => (is, e))
  | _ => none

/-- Whether an entry point's functions store to a variable decorated with a BuiltIn. -/
def spvStores (is : List SpvIns) (fn built : Nat) : Bool :=
  let used := (spvBody is fn).flatMap spvPointers
  is.any (fun i => i.op = 59 && nth i.a 2 0 = 3 && used.contains (nth i.a 1 0) && spvDecoration is (nth i.a 1 0) 11 = some built)

/-- Fragment information of a kernel handle; 0 is no kernel. -/
def Dev.fragInfo (d : Dev) (h : Wide) : FragInfo :=
  if h = 0 then ⟨false, true, false, false⟩
  else match d.entryPoint h with
    | none => ⟨true, true, false, false⟩
    | some (is, e) =>
      let kills := (spvBody is e.fn).any (fun i => i.op = 252 || i.op = 4416 || i.op = 5380)
      let depth := spvStores is e.fn 22
      ⟨true, (spvMode is e.fn 9).isSome || !(kills || depth), depth, spvHas is 35⟩

/-- Locations that a value of a type takes: one for each scalar or vector, two for a vector of three or four 64-bit components; `fuel`
bounds its nesting. -/
def spvLocations (is : List SpvIns) : Nat → Nat → Nat
  | 0, _ => 1
  | fuel + 1, t =>
    match spvTypeIns is t with
    | none => 1
    | some i => match i.op with
      | 23 => match spvTypeIns is (nth i.a 1 0) with
        | some c => if nth c.a 1 0 = 64 ∧ nth i.a 2 0 > 2 then 2 else 1
        | none => 1
      | 24 => nth i.a 2 0 * spvLocations is fuel (nth i.a 1 0)
      | 28 => spvConst is (nth i.a 2 0) * spvLocations is fuel (nth i.a 1 0)
      | 30 => sumN ((i.a.drop 1).map (fun m => spvLocations is fuel m))
      | _ => 1

/-- The locations of a variable: from its own Location on, or member by member. -/
def spvVarLocations (is : List SpvIns) (v : SpvIns) : List Nat :=
  let t := spvPointee is (nth v.a 0 0)
  match spvDecoration is (nth v.a 1 0) 30, spvTypeIns is t with
  | some l, _ => (List.range (spvLocations is 8 t)).map (l + ·)
  | none, some i =>
    if i.op = 30 then (i.a.drop 1).zipIdx.flatMap (fun m => match spvMember is t m.2 30 with
      | some l => (List.range (spvLocations is 8 m.1)).map (l + ·)
      | none => [])
    else []
  | none, none => []

/-- The count of Output locations of a vertex kernel's entry point (R154). -/
def Dev.outLocations (d : Dev) (h : Wide) : Nat :=
  match d.entryPoint h with
  | none => 0
  | some (is, e) =>
    let names := match is.find? (fun i => i.op = 15 && i.off = e.off) with
      | some i => i.a.drop 2
      | none => []
    ((is.filter (fun i => i.op = 59 && nth i.a 2 0 = 3 && names.contains (nth i.a 1 0))).flatMap (spvVarLocations is)).eraseDups.length

/-- Whether a pixel lies in the scissor. -/
def DrawState.inScissor (s : DrawState) (x y : Nat) : Bool :=
  !s.scissorOn || (nth s.scissor 0 0 ≤ x && x < nth s.scissor 0 0 + nth s.scissor 2 0
    && nth s.scissor 1 0 ≤ y && y < nth s.scissor 1 0 + nth s.scissor 3 0)

/-- A depth: with depth_clip 0 clamped to the viewport's range (R146). -/
def DrawState.clampDepth (s : DrawState) (gen : Nat) (z : Rat) : Rat :=
  if s.depthClip then z else max (min (s.view gen 4) (s.view gen 5)) (min (max (s.view gen 4) (s.view gen 5)) z)

/-- The pixels of a tile: its first column and row, and its width and height. -/
def PassRec.tileRect (r : PassRec) (t : Nat) : Nat × Nat × Nat × Nat :=
  let (w, h) := tileDims r.tile
  (t % r.tiles.1 * w, t / r.tiles.1 * h, w, h)

/-- Depths, in FP32, of the samples of a pixel that a primitive covers (R165, R168). -/
def RPrim.covers (x : RPrim) (r : PassRec) (s : DrawState) (gen px py : Nat) : List (Nat × Nat) :=
  if px ≥ r.w ∨ py ≥ r.h ∨ !s.inScissor px py then []
  else (List.range r.samples).filterMap (fun smp =>
    let o := samplePos r.samplesLog smp
    (x.pieces.findSome? (fun p => pieceAt x.size p (256 * (px : Int) + o.1) (256 * (py : Int) + o.2))).map (fun z =>
      (smp, f32OfRat (s.clampDepth gen z))))

/-- The fragments of a 2 × 2 square of pixels, for one sample or for all (R151). -/
def RPrim.quad (x : RPrim) (cov : List (Nat × Nat × List (Nat × Nat))) (smp : Option Nat) : List Frag :=
  cov.map (fun e => ⟨x.seq, x.front, e.1, e.2.1, smp, e.2.2.filter (fun c => match smp with
    | some k => c.1 = k
    | none => true)⟩)

/-- The quads of a primitive in a tile, those with a covered sample; with SampleRateShading one for each sample index (R151). -/
def RPrim.quads (x : RPrim) (r : PassRec) (s : DrawState) (k : FragInfo) (gen tile : Nat) : List (List Frag) :=
  let (x0, y0, w, h) := r.tileRect tile
  (List.range (w / 2 * (h / 2))).flatMap (fun i =>
    let qx := x0 + 2 * (i % (w / 2))
    let qy := y0 + 2 * (i / (w / 2))
    let cov := [(qx, qy), (qx + 1, qy), (qx, qy + 1), (qx + 1, qy + 1)].map (fun p => (p.1, p.2, x.covers r s gen p.1 p.2))
    let smps := if k.perSample then (List.range r.samples).map some else [none]
    (smps.map (fun m => x.quad cov m)).filter (fun q => q.any (fun f => !f.cover.isEmpty)))

/-- Index of a sample of a fragment's pixel in its region. -/
def Frag.index (f : Frag) (r : PassRec) (smp : Nat) : Nat := (f.x % 32 + 32 * (f.y % 32)) * r.samples + smp

/-- Changes the region that holds a fragment's pixel. -/
def inRegion (gs : List RegionSt) (f : Frag) (act : RegionSt → RegionSt) : List RegionSt :=
  gs.map (fun g => if f.x / 32 = g.rx ∧ f.y / 32 = g.ry then act g else g)

/-- The depth and stencil tests of a fragment's samples, one after another: the samples that pass are left (R149, R150). -/
def testFrag (r : PassRec) (s : DrawState) (gs : List RegionSt) (f : Frag) : List RegionSt × Frag :=
  let x := f.cover.foldl (fun (acc : List RegionSt × List (Nat × Nat)) e =>
    match acc.1.find? (fun g => f.x / 32 = g.rx && f.y / 32 = g.ry) with
    | none => acc
    | some g =>
      let t := g.test r s f.front (f.index r e.1) e.2
      (inRegion acc.1 f (fun _ => t.1), if t.2 then acc.2 ++ [e] else acc.2)) (gs, [])
  (x.1, { f with cover := x.2 })

/-- The tests of the fragments of a quad. -/
def testQuad (r : PassRec) (s : DrawState) (gs : List RegionSt) (q : List Frag) : List RegionSt × List Frag :=
  q.foldl (fun acc f => let t := testFrag r s acc.1 f; (t.1, acc.2 ++ [t.2])) (gs, [])

/-- Whether two quads hold a sample of the same pixel. -/
def sameQuad (p q : List Frag) : Bool :=
  match p, q with
  | a :: _, b :: _ => a.x = b.x && a.y = b.y && (a.sample.isNone || b.sample.isNone || a.sample = b.sample)
  | _, _ => false

/-- Takes quads for a course, in order: at most 8, of pixels that no earlier quad of the course holds. Early tests are made on the way, and a
quad of which nothing passes is not shaded (R149 to R151). The regions, the quads taken, and the rest. -/
def takeQuads (r : PassRec) (s : DrawState) (k : FragInfo) :
    List (List Frag) → List RegionSt → List (List Frag) → List RegionSt × List (List Frag) × List (List Frag)
  | [], gs, taken => (gs, taken, [])
  | q :: rest, gs, taken =>
    if taken.length ≥ 8 ∨ taken.any (fun t => sameQuad t q) = true then (gs, taken, q :: rest)
    else
      let t := if k.early then testQuad r s gs q else (gs, q)
      takeQuads r s k rest t.1 (if k.present && t.2.any (fun f => !f.cover.isEmpty) then taken ++ [t.2] else taken)

/-- The colour of a fragment for an attachment: what its lane has stored to the location, a component that it has not stored being free. -/
def fragColor (gen i : Nat) (out : Option (List Word)) : List Nat :=
  (List.range 4).map (fun ch => ((out.getD [])[ch]?.getD (freeWordAt gen (32 * i + ch))).toNat)

/-- Colour writes of a fragment to one sample; `out` gives the values for each attachment. -/
def RegionSt.colors (g : RegionSt) (r : PassRec) (s : DrawState) (out : Nat → List Nat) (i : Nat) : RegionSt :=
  (r.planes.zipIdx).foldl (fun g e =>
    if e.1.att < 4 then
      let b := nth s.blend e.1.att 0
      if b / 2 ^ 23 % 16 = 0 then g
      else
        let cst := s.consts.map (fun k => Fmt.fp32.rne (Fmt.fp16.decode k))
        g.put e.2 i e.1.att (colorWrite (r.att e.1.att).format b cst (out e.1.att) (g.get e.2 i))
    else g) g

/-- What the lane of a fragment has given: whether it has become a helper lane, its depth, and its outputs by location. -/
structure FragOut where
  gone : Bool
  depth : Option Word
  color : Nat → Option (List Word)

/-- A fragment's lane has exited: late tests, and its colour writes, in sequence order (R149, R150). `i` names its free values. -/
def shadeFrag (r : PassRec) (s : DrawState) (k : FragInfo) (gen i : Nat) (gs : List RegionSt) (f : Frag) (o : FragOut) : List RegionSt :=
  if o.gone ∨ f.cover.isEmpty then gs
  else
    let word := o.depth.getD (freeWordAt gen (32 * i + 31))
    let z := if s.depthClip then word.toNat else f32OfRat (s.clampDepth gen (numberOf gen (32 * i + 30) word))
    let t := if k.early then (gs, f)
      else testFrag r s gs { f with cover := f.cover.map (fun e => (e.1, if k.depth then z else e.2)) }
    t.2.cover.foldl (fun gs e => inRegion gs f (fun g =>
      g.colors r s (fun a => fragColor gen (8 * i + a) (o.color a)) (f.index r e.1))) t.1

/-! ## Loading (R159, R162, R164) -/

/-- The clear code of a plane (R138, R159). -/
def PassRec.clearCode (r : PassRec) (p : PlaneD) : Nat :=
  let a := r.att p.att
  if p.att < 4 then leNat (a.clear.take (colorBytes a.format))
  else
    let z := depthCode a.format (leAt a.clear 0 4)
    let st := leAt a.clear 4 1
    if p.stencil ∨ a.format = 5 then st else if a.format = 3 then z + st * 2 ^ 24 else z

/-- The code of a plane in a flag surface header (R162). -/
def PassRec.headerCode (r : PassRec) (p : PlaneD) (h : Bytes) : Nat :=
  let a := r.att p.att
  if p.att < 4 then leNat (h.take (colorBytes a.format))
  else if p.stencil ∨ a.format = 5 then leAt h 4 1
  else if a.format = 3 then leAt h 0 4 % 2 ^ 24 + leAt h 4 1 * 2 ^ 24
  else leAt h 0 4 % 2 ^ (8 * p.bytes)

/-- The bytes 0 to 15 of a flag surface header (R162). -/
def PassRec.header (r : PassRec) (a : Nat) : Bytes :=
  let x := r.att a
  if a < 4 then slice (x.clear.take (colorBytes x.format)) 0 16
  else slice (leBytes 4 (depthCode x.format (leAt x.clear 0 4)) ++ leBytes 1 (leAt x.clear 4 1)) 0 16

/-- The compressed-region mode of the page at an address, for a command. -/
def Dev.modeOf (d : Dev) (c : Cmd) (va : Nat) : Nat :=
  match (d.translate (c.req engRaster) (BitVec.ofNat 64 va) accRead).2 with
  | .ok leaf _ => bitsN leaf 53 52
  | _ => 0

/-- Codes of a region from its stored bytes. -/
def codesOf (bytes n : Nat) (bs : Bytes) : List Nat := (List.range n).map (fun i => leAt bs (i * bytes) bytes)

/-- Reads one plane of a region from memory. -/
def Dev.readPlane (d : Dev) (c : Cmd) (die : Option Nat) (r : PassRec) (p : PlaneD) (rx ry : Nat) : Dev × Res × List Nat :=
  let s := r.surface p
  let n := 1024 * r.samples
  match d.cmdReadFrom c engRaster die (BitVec.ofNat 64 (s.regionAt rx ry)) (n * p.bytes) with
  | (d, .ok, bs) => (d, .ok, codesOf p.bytes n bs)
  | (d, x, _) => (d, x, [])

/-- Loads one plane of a region (R159): by its load_op when the unit is first processed, and as LOAD after a flush. -/
def Dev.loadPlane (d : Dev) (c : Cmd) (die : Option Nat) (r : PassRec) (p : PlaneD) (rx ry : Nat) (again : Bool) : Dev × Res × List Nat :=
  let a := r.att p.att
  let n := 1024 * r.samples
  if !again ∧ a.load = 1 then (d, .ok, List.replicate n (r.clearCode p))
  else if !again ∧ a.load = 2 then
    let g := d.fresh
    (g.2, .ok, (List.range n).map (fun i => leNat ((List.range p.bytes).map (fun k => Config.freeByte g.1 (16 * i + k)))))
  else if a.flags = 0 then d.readPlane c die r p rx ry
  else
    let reg := rx + ceilDiv r.w 32 * ry
    match d.cmdReadFrom c engRaster die (BitVec.ofNat 64 (a.flags + 64 + reg / 4)) 1 with
    | (d, .ok, fb) =>
      let f := flagOf (nth fb 0 0) reg
      if f = 0 then
        match d.cmdReadFrom c engRaster die (BitVec.ofNat 64 a.flags) 16 with
        | (d, .ok, h) => (d, .ok, List.replicate n (r.headerCode p h))
        | (d, x, _) => (d, x, [])
      else
        let va := (r.surface p).regionAt rx ry
        let d := if f ≠ d.modeOf c va + 1 ∧ !p.stencil then d.bump Fld.RAS_FLAG_MISMATCH_count 0 1 else d
        d.readPlane c die r p rx ry
    | (d, x, _) => (d, x, [])

/-- Loads every plane of a region. -/
def Dev.loadRegion (d : Dev) (c : Cmd) (die : Option Nat) (r : PassRec) (rx ry : Nat) (again : Bool) : Dev × Res × RegionSt :=
  let x := r.planes.foldl (fun (acc : Dev × Res × List (List Nat)) p => match acc.2.1 with
    | .ok =>
      let y := acc.1.loadPlane c die r p rx ry again
      (y.1, y.2.1, acc.2.2 ++ [y.2.2])
    | _ => acc) (d, .ok, [])
  (x.1, x.2.1, ⟨rx, ry, x.2.2, []⟩)

/-! ## Units (R147) -/

/-- Unit width and height in regions (R147). -/
def unitRegions : Nat → Nat × Nat
  | 2 => (2, 1)
  | 3 => (2, 2)
  | _ => (1, 1)

/-- Columns and rows of units. -/
def PassRec.units (r : PassRec) : Nat × Nat :=
  let u := unitRegions r.tile
  (ceilDiv (ceilDiv r.w 32) u.1, ceilDiv (ceilDiv r.h 32) u.2)

/-- Regions of a unit, by column and row. -/
def PassRec.unitRegions (r : PassRec) (u : Nat) : List (Nat × Nat) :=
  let (w, h) := Machine.unitRegions r.tile
  let x0 := u % r.units.1 * w
  let y0 := u / r.units.1 * h
  ((List.range h).flatMap (fun y => (List.range w).map (fun x => (x0 + x, y0 + y)))).filter (fun e =>
    e.1 < ceilDiv r.w 32 && e.2 < ceilDiv r.h 32)

/-- Tiles of a unit: its own, or with T16X16 the four of its region. -/
def PassRec.unitTiles (r : PassRec) (u : Nat) : List Nat :=
  if r.tile = 0 then
    ([(0, 0), (1, 0), (0, 1), (1, 1)].map (fun o => (2 * (u % r.units.1) + o.1, 2 * (u / r.units.1) + o.2))).filterMap (fun t =>
      if t.1 < r.tiles.1 ∧ t.2 < r.tiles.2 then some (t.1 + r.tiles.1 * t.2) else none)
  else [u]

/-- The number of a region (R162). -/
def PassRec.regionNo (r : PassRec) (rx ry : Nat) : Nat := rx + ceilDiv r.w 32 * ry

/-! ## Storing (R160, R163, R171) -/

/-- The stored bytes of a plane of a region; pixels beyond the target hold undefined contents (R161). -/
def PassRec.planeBytes (r : PassRec) (p : PlaneD) (rx ry free : Nat) (codes : List Nat) : Bytes :=
  (codes.zipIdx).flatMap (fun e =>
    let px := e.2 / r.samples
    if 32 * rx + px % 32 < r.w ∧ 32 * ry + px / 32 < r.h then leBytes p.bytes e.1
    else (List.range p.bytes).map (fun k => Config.freeByte free (16 * e.2 + k)))

/-- The write of a plane of a region. -/
def PassRec.planeWrite (r : PassRec) (p : PlaneD) (rx ry free : Nat) (codes : List Nat) : VWrite :=
  ⟨BitVec.ofNat 64 ((r.surface p).regionAt rx ry), r.planeBytes p rx ry free codes, false⟩

/-- The mean of a pixel's samples, as RESOLVE writes it (R171). -/
def resolvePixel (fmt : Nat) (codes : List Nat) : Bytes :=
  let vs := codes.map (fun c => colorLoad fmt (leBytes (colorBytes fmt) c))
  colorStore fmt ((List.range 4).map (fun ch =>
    let l := vs.map (fun v => f32Val (nth v ch 0))
    match (l.foldl FVal.add (.fin false 0 1)) with
    | .fin n a b => Fmt.fp32.rne (.fin n a (b * l.length))
    | x => Fmt.fp32.rne x))

/-- The write of a region of a resolve target. -/
def PassRec.resolveWrite (r : PassRec) (p : PlaneD) (rx ry free : Nat) (codes : List Nat) : VWrite :=
  let a := r.att p.att
  let s : Surface := ⟨a.resolve, r.w, 1, p.bytes⟩
  ⟨BitVec.ofNat 64 (s.regionAt rx ry), (List.range 1024).flatMap (fun px =>
    if 32 * rx + px % 32 < r.w ∧ 32 * ry + px / 32 < r.h then
      resolvePixel a.format ((List.range r.samples).map (fun smp => nth codes (px * r.samples + smp) 0))
    else (List.range p.bytes).map (fun k => Config.freeByte free (16 * px + k + 65536))), false⟩

/-- A flag byte with one flag changed. -/
def withFlag (b : Byte) (reg v : Nat) : Byte := BitVec.ofNat 8 (b.toNat - flagOf b reg * 4 ^ (reg % 4) + v * 4 ^ (reg % 4))

/-- What a store point does with one attachment of a region (R160): its writes, and its new flag if that is given one. -/
def Dev.storeAtt (d : Dev) (c : Cmd) (r : PassRec) (first final : Bool) (free : Nat) (g : RegionSt) (a : Nat) :
    List VWrite × Option Nat :=
  let x := r.att a
  let planes := (r.planes.zipIdx).filter (fun p => p.1.att = a)
  if final ∧ x.store = 1 then ([], none)
  else if g.touched.contains a then
    let ws := planes.map (fun p => r.planeWrite p.1 g.rx g.ry (free + p.2) (nth g.codes p.2 []))
    let f := d.modeOf c ((planes.head?.map (fun p => (r.surface p.1).regionAt g.rx g.ry)).getD 0) + 1
    (ws, if x.flags = 0 then none else some f)
  else if x.load = 1 ∧ first = true then
    if x.flags ≠ 0 then ([], some 0)
    else (planes.map (fun p => r.planeWrite p.1 g.rx g.ry (free + p.2) (List.replicate (1024 * r.samples) (r.clearCode p.1))), none)
  else ([], none)

/-- The writes of a region at a store point, resolve targets at the end of the pass included, and the flags that follow them:
attachment and value (R160, R163, R171). -/
def Dev.storeRegion (d : Dev) (c : Cmd) (r : PassRec) (first final : Bool) (free : Nat) (g : RegionSt) : List VWrite × List (Nat × Nat) :=
  let xs := r.used.map (fun a => (a, d.storeAtt c r first final free g a))
  let res := if final then (r.planes.zipIdx).filterMap (fun p =>
      if p.1.att < 4 ∧ (r.att p.1.att).store = 2 then some (r.resolveWrite p.1 g.rx g.ry (free + 8 + p.2) (nth g.codes p.2 [])) else none)
    else []
  (xs.flatMap (fun e => e.2.1) ++ res, xs.filterMap (fun e => e.2.2.map (fun v => (e.1, v))))

/-- The clear values that the first store point writes into the headers of flag surfaces, before any flag (R163). -/
def PassRec.headerWrites (r : PassRec) : List VWrite :=
  r.used.filterMap (fun a =>
    let x := r.att a
    if x.load = 1 ∧ x.flags ≠ 0 then some (⟨BitVec.ofNat 64 x.flags, r.header a, false⟩ : VWrite) else none)

/-- Gives flags their values, byte by byte, each byte read and written only where a flag changes (R160, R163): attachment, region and
value. -/
def Dev.setFlags (d : Dev) (c : Cmd) (die : Option Nat) (r : PassRec) (want : List (Nat × Nat × Nat)) : Dev × Res :=
  want.foldl (fun (acc : Dev × Res) w => match acc.2 with
    | .ok =>
      let va : Wide := BitVec.ofNat 64 ((r.att w.1).flags + 64 + w.2.1 / 4)
      match acc.1.cmdReadFrom c engRaster die va 1 with
      | (d, .ok, bs) =>
        let b := nth bs 0 0
        if flagOf b w.2.1 = w.2.2 then (d, .ok)
        else match Dev.cmdWritesFrom c engRaster die d [⟨va, [withFlag b w.2.1 w.2.2], false⟩] with
          | (d, .ok, _) => (d.freshInput c.ring c.serial, .ok)
          | (d, x, _) => (d, x)
      | (d, x, _) => (d, x)
    | _ => acc) (d, .ok)

end Sys2Proof.Machine
end

