-- ==== Sys2Proof/Machine/Warp.lean ====
section
/-! DEFINITION. The arithmetic of the composition engine: FP32 operations (R115), pose packets (R177, R178), layers
(R181), warps (R183 to R185), blending, transfer and colour matrix (R186, R187), and output samples (R188). -/

namespace Sys2Proof.Machine

/-! ## FP32 -/

/-- FP32 division, rounded once (R115). -/
def f32Div (a b : Nat) : Nat :=
  match f32Val a, f32Val b with
  | .nan, _ => Fmt.fp32.rne .nan
  | _, .nan => Fmt.fp32.rne .nan
  | .inf _, .inf _ => Fmt.fp32.rne .nan
  | .inf n, .fin m _ _ => Fmt.fp32.rne (.inf (n != m))
  | .fin n _ _, .inf m => Fmt.fp32.rne (.fin (n != m) 0 1)
  | .fin n x y, .fin m z w =>
    if z = 0 then Fmt.fp32.rne (if x = 0 then .nan else .inf (n != m)) else Fmt.fp32.rne (.fin (n != m) (x * w) (y * z))

/-- FP32 square root of a value that is not negative, rounded once (R115). -/
def f32Sqrt (a : Nat) : Nat :=
  match f32Val a with
  | .fin false x y => Fmt.fp32.rne (.fin false (Nat.sqrt (x * y * 4 ^ 64)) (y * 2 ^ 64))
  | .inf false => Fmt.fp32.rne (.inf false)
  | .fin true 0 _ => a
  | _ => Fmt.fp32.rne .nan

/-- The SRGB decoding of a filtered sample, which lies in [0, 1] (R186). -/
def srgbLinear (x : Nat) : Nat :=
  srgbDecode (clamp01 x).1 (clamp01 x).2

/-- An integer or half-integer in FP32: `n / 2`. -/
def f32Half (n : Int) : Nat := Fmt.fp32.rne (.fin (n < 0) n.natAbs 2)

/-- A natural number in FP32. -/
def f32Nat (n : Nat) : Nat := Fmt.fp32.rne (.fin false n 1)

/-- Whether an FP32 value is finite. -/
def f32Finite (a : Nat) : Bool := ((f32Val a).toRat).isSome

/-- An FP32 vector of three components. -/
abbrev V3 := Nat × Nat × Nat

def V3.add (a b : V3) : V3 := (f32Add a.1 b.1, f32Add a.2.1 b.2.1, f32Add a.2.2 b.2.2)
def V3.sub (a b : V3) : V3 := (f32Sub a.1 b.1, f32Sub a.2.1 b.2.1, f32Sub a.2.2 b.2.2)
def V3.scale (k : Nat) (a : V3) : V3 := (f32Mul k a.1, f32Mul k a.2.1, f32Mul k a.2.2)

/-- Cross product. -/
def V3.cross (a b : V3) : V3 :=
  (f32Sub (f32Mul a.2.1 b.2.2) (f32Mul a.2.2 b.2.1), f32Sub (f32Mul a.2.2 b.1) (f32Mul a.1 b.2.2),
    f32Sub (f32Mul a.1 b.2.1) (f32Mul a.2.1 b.1))

/-- An FP32 quaternion (x, y, z, w). -/
abbrev Quat := V3 × Nat

/-- The conjugate. -/
def Quat.conj (q : Quat) : Quat := ((f32Sub 0 q.1.1, f32Sub 0 q.1.2.1, f32Sub 0 q.1.2.2), q.2)

/-- A vector rotated by a unit quaternion: v + 2 q × (q × v + w v). -/
def Quat.rot (q : Quat) (v : V3) : V3 :=
  let t := (q.1.cross v).add (V3.scale q.2 v)
  v.add (V3.scale (f32Nat 2) (q.1.cross t))

/-- Vector and quaternion of lists of words. -/
def v3Of (l : List Word) : V3 := ((nth l 0 0).toNat, (nth l 1 0).toNat, (nth l 2 0).toNat)
def quatOf (l : List Word) : Quat := (v3Of l, (nth l 3 0).toNat)

/-- FP32 words at an offset. -/
def wordsAt (bs : Bytes) (o n : Nat) : List Word := (List.range n).map (fun i => BitVec.ofNat 32 (leAt bs (o + 4 * i) 4))

/-! ## Pose packets -/

/-- The exact square of a quaternion's norm, when every component is finite. -/
def normSq (q : List Word) : Option Rat :=
  q.foldl (fun acc w => match acc, (f32Val w.toNat).toRat with
    | some s, some x => some (s + x * x)
    | _, _ => none) (some 0)

/-- Whether a pose packet is rejected (R177, R178). -/
def poseRejected (p : Bytes) : Bool :=
  p.length ≠ 64 || leAt p 0 2 ≠ 0x5350 || leAt p 2 1 ≠ 1 || leAt p 60 4 ≠ crc32 (p.take 60)
    || leAt p 3 1 ≥ 64 || (slice p 44 16).any (· ≠ 0)
    || (wordsAt p 32 3).any (fun w => !f32Finite w.toNat)
    || (match normSq (wordsAt p 16 4) with
      | some s => s < 1 / 4 || 4 < s
      | none => true)

/-- A component of a quaternion divided by its norm, rounded once. -/
def divNorm (s : Rat) (w : Word) : Word :=
  match f32Val w.toNat with
  | .fin n x y =>
    let r : Rat := (x : Rat) * x / ((y : Rat) * y) / s
    BitVec.ofNat 32 (Fmt.fp32.rne (.fin n (Nat.sqrt (r.num.natAbs * r.den * 4 ^ 64)) (r.den * 2 ^ 64)))
  | _ => w

/-- The pose of an accepted packet, and its slot (R178). -/
def poseOf (p : Bytes) : Nat × Pose :=
  let q := wordsAt p 16 4
  let s := (normSq q).getD 1
  (leAt p 3 1 % 64, ⟨wideAt p 8, q.map (divNorm s), wordsAt p 32 3⟩)

/-! ## Layers (R181) -/

structure LayerD where
  color : Wide
  depth : Wide
  orient : List Word
  pos : List Word
  l : Nat
  r : Nat
  t : Nat
  b : Nat
  dstX : Nat
  dstY : Nat
  dstW : Nat
  dstH : Nat
  alpha : Nat
  warp : Nat
  straight : Bool
  deriving DecidableEq, Repr

def layerD (b : Bytes) : LayerD :=
  { color := wideAt b 0, depth := wideAt b 8, orient := wordsAt b 16 4, pos := wordsAt b 32 3
    l := leAt b 48 4, r := leAt b 52 4, t := leAt b 56 4, b := leAt b 60 4
    dstX := leAt b 64 2, dstY := leAt b 66 2, dstW := leAt b 68 2, dstH := leAt b 70 2
    alpha := leAt b 72 4, warp := leAt b 76 4 % 4, straight := (leAt b 76 4).testBit 2 }

/-- Whether a layer descriptor's encodings, ranges and reserved bits are those of R181, for an output of this size. -/
def layerOk (b : Bytes) (w h : Nat) : Bool :=
  let x := layerD b
  (slice b 44 4).all (· = 0) && leAt b 76 4 < 8 && (slice b 80 48).all (· = 0) && x.warp ≠ 3
    && (f32Val x.l).lt (f32Val x.r) && (f32Val x.t).lt (f32Val x.b) && [x.l, x.r, x.t, x.b].all f32Finite
    && (match (f32Val x.alpha).toRat with
      | some a => 0 ≤ a && a ≤ 1
      | none => false)
    && 1 ≤ x.dstW && 1 ≤ x.dstH && x.dstX + x.dstW ≤ w && x.dstY + x.dstH ≤ h
    && x.color.toNat % 32 = 0 && (x.warp ≠ 2 || x.depth.toNat % 32 = 0)

/-- Whether an image descriptor may serve as a layer's colour image: formats R8G8B8A8_UNORM, R8G8B8A8_SRGB,
B8G8R8A8_UNORM, A2B10G10R10_UNORM and R16G16B16A16_SFLOAT (R181). -/
def colorOk (b : Bytes) : Bool :=
  let i := imageD b
  i.ok && i.samples = 0 && i.levels = 1 && [2, 3, 4, 5, 9].contains i.format

/-- Whether an image descriptor may serve as a layer's depth image (R181). -/
def depthOk (b : Bytes) : Bool :=
  let i := imageD b
  i.ok && i.format = 0x82

/-! ## Warps -/

/-- The display-frame ray of an output pixel centre (R184). -/
def LayerD.ray (x : LayerD) (ox oy : Nat) : V3 :=
  let f := fun (lo hi o d0 dn : Nat) => f32Add lo (f32Div (f32Mul (f32Sub hi lo) (f32Half (2 * o + 1 - 2 * d0 : Int))) (f32Nat dn))
  (f x.l x.r ox x.dstX x.dstW, f x.t x.b oy x.dstY x.dstH, f32One)

/-- The coordinates in the image of a direction in the render frame (R184). -/
def LayerD.project (x : LayerD) (w h : Nat) (s : V3) : Option (Nat × Nat) :=
  if !(FVal.lt (f32Val 0) (f32Val s.2.2)) then none
  else
    let f := fun (c lo hi n : Nat) => f32Mul (f32Div (f32Sub (f32Div c s.2.2) lo) (f32Sub hi lo)) (f32Nat n)
    some (f s.1 x.l x.r w, f s.2.1 x.t x.b h)

/-- Warp NONE (R183). -/
def LayerD.flat (x : LayerD) (w h ox oy : Nat) : Nat × Nat :=
  let f := fun (o d0 dn n : Nat) => f32Div (f32Mul (f32Half (2 * o + 1 - 2 * d0 : Int)) (f32Nat n)) (f32Nat dn)
  (f ox x.dstX x.dstW w, f oy x.dstY x.dstH h)

/-- Warp PLANAR (R184); a stale pose makes it the identity (R180). -/
def LayerD.planar (x : LayerD) (pose : Option Pose) (w h ox oy : Nat) : Option (Nat × Nat) :=
  let d := x.ray ox oy
  match pose with
  | none => x.project w h d
  | some p => x.project w h ((quatOf x.orient).conj.rot ((quatOf p.orient).rot d))

/-- A vertex of the DEPTH grid after its warp: source position, Q.z, and where it lands, in units of 2⁻¹⁴⁹ pixel, of which every FP32
value is a multiple (R185). -/
structure GridVert where
  sx : Nat
  sy : Nat
  z : Rat
  at0 : Option (Int × Int)
  deriving DecidableEq, Repr

/-- Steps 2 to 5 of R185 for the vertex at (sx, sy) with depth code `z`. -/
def LayerD.vertex (x : LayerD) (pose : Option Pose) (w h sx sy z : Nat) : GridVert :=
  let f := fun (lo hi o n : Nat) => f32Add lo (f32Div (f32Mul (f32Sub hi lo) (f32Nat o)) (f32Nat n))
  let dir : V3 := (f x.l x.r sx w, f x.t x.b sy h, f32One)
  let valid := f32Finite z && FVal.lt (f32Val 0) (f32Val z)
  let q : V3 := match pose with
    | none => if valid then V3.scale z dir else dir
    | some p =>
      let qr := quatOf x.orient
      let qd := (quatOf p.orient).conj
      if valid then qd.rot (((qr.rot (V3.scale z dir)).add (v3Of x.pos)).sub (v3Of p.pos)) else qd.rot (qr.rot dir)
  let g := fun (c lo hi d0 dn : Nat) =>
    f32Add (f32Nat d0) (f32Mul (f32Div (f32Sub (f32Div c q.2.2) lo) (f32Sub hi lo)) (f32Nat dn))
  let land := match (f32Val (g q.1 x.l x.r x.dstX x.dstW)).toRat, (f32Val (g q.2.1 x.t x.b x.dstY x.dstH)).toRat with
    | some a, some b => some ((2 ^ 149 * a).floor, (2 ^ 149 * b).floor)
    | _, _ => none
  ⟨sx, sy, ((f32Val q.2.2).toRat).getD 0, land⟩

/-- The vertex as a raster vertex with one interpolated value. -/
def GridVert.rv (v : GridVert) (value : Rat) : RVert := match v.at0 with
  | some p => ⟨p.1, p.2, value⟩
  | none => ⟨0, 0, value⟩

/-- Source position and Q.z where a triangle covers an output pixel centre (steps 6 and 7 of R185). -/
def gridHit (t : List GridVert) (ox oy : Nat) : Option (Rat × Rat × Rat) :=
  if t.any (fun v => v.z ≤ 0 || v.at0.isNone) then none
  else
    let px : Int := 2 ^ 149 * ox + 2 ^ 148
    let py : Int := 2 ^ 149 * oy + 2 ^ 148
    match pieceAt 0 (t.map (fun v => v.rv v.sx)) px py, pieceAt 0 (t.map (fun v => v.rv v.sy)) px py,
        pieceAt 0 (t.map (fun v => v.rv v.z)) px py with
    | some a, some b, some z => some (a, b, z)
    | _, _, _ => none

/-- The two triangles of every cell in row-major order (step 6 of R185). -/
def gridTris (cols rows : Nat) (v : Nat → Nat → GridVert) : List (List GridVert) :=
  (List.range rows).flatMap (fun j => (List.range cols).flatMap (fun i =>
    [[v i j, v (i + 1) j, v (i + 1) (j + 1)], [v i j, v (i + 1) (j + 1), v i (j + 1)]]))

/-- The nearest hit among triangles, the first on equal Q.z (step 8 of R185). -/
def bestHit (ts : List (List GridVert)) (ox oy : Nat) : Option (Nat × Nat) :=
  let best := ts.foldl (fun (acc : Option (Rat × Rat × Rat)) t => match gridHit t ox oy, acc with
    | some h, some a => if h.2.2 < a.2.2 then some h else some a
    | some h, none => some h
    | none, a => a) none
  best.map (fun h => (f32OfRat h.1, f32OfRat h.2.1))

/-! ## Filtering, blending, output -/

/-- The four taps of a bilinear filter at (u − 0.5, v − 0.5), with the fractions. -/
def tapsAt (u v : Nat) : Option ((Int × Int) × (Nat × Nat)) :=
  match (f32Val (f32Sub u (f32Half 1))).toRat, (f32Val (f32Sub v (f32Half 1))).toRat with
  | some a, some b => some ((a.floor, b.floor), (f32OfRat (a - a.floor), f32OfRat (b - b.floor)))
  | _, _ => none

/-- The bilinear mean of four taps, in row order. -/
def bilinear (fx fy : Nat) (a b c d : List Nat) : List Nat :=
  let mix := fun (f x y : Nat) => f32Add (f32Mul (f32Sub f32One f) x) (f32Mul f y)
  (List.range 4).map (fun k => mix fy (mix fx (nth a k 0) (nth b k 0)) (mix fx (nth c k 0) (nth d k 0)))

/-- One layer's contribution onto the accumulator (R186). -/
def blendLayer (x : LayerD) (s acc : List Nat) : List Nat :=
  let a := nth s 3 0
  let as := f32Mul x.alpha a
  let k := if x.straight then as else x.alpha
  let inv := f32Sub f32One as
  (List.range 3).map (fun i => f32Add (f32Mul k (nth s i 0)) (f32Mul (nth acc i 0) inv)) ++ [f32Add as (f32Mul (nth acc 3 0) inv)]

/-- The stream's transfer of a clamped linear value (R186). -/
def transferOf (t c : Nat) : Nat :=
  let x := clamp01 c
  match t with
  | 0 => Fmt.fp32.rne (.fin false x.1 x.2)
  | 1 => srgbEncode x.1 x.2
  | _ => bt709Encode x.1 x.2

/-- Row `i` of the colour matrix on encoded values; `cm k` is value `k` of the sequence c00, c01, c02, o0, c10 … (R187). -/
def matrixRow (cm : Nat → Nat) (e : List Nat) (i : Nat) : Nat :=
  let c := fun (k : Nat) => let v := signed 16 (cm (4 * i + k)); Fmt.fp32.rne (.fin (v < 0) v.natAbs 16384)
  f32Add (f32Add (f32Add (f32Mul (c 0) (nth e 0 0)) (f32Mul (c 1) (nth e 1 0))) (f32Mul (c 2) (nth e 2 0))) (c 3)

/-- A value scaled to `n` bits, rounded to nearest even and clamped (R187). -/
def toCode (n lo hi : Nat) (v : Rat) : Nat :=
  let r := rneRat (v * ((2 ^ n - 1 : Nat) : Rat))
  max lo (min hi r.toNat)

/-- Bit depth of an output format (R188). -/
def outBits (f : Nat) : Nat := if f = 0 ∨ f = 2 then 8 else 10

/-- Bytes of a luma sample or pixel of an output format (R188). -/
def outBytes : Nat → Nat
  | 0 => 4
  | 1 => 4
  | 2 => 1
  | _ => 2

/-- A pixel's bytes in formats 0 and 1: three matrix values and alpha (R187, R188). -/
def rgbPixel (f : Nat) (lo hi : Nat → Nat) (v : List Rat) (alpha : Rat) : Bytes :=
  let n := outBits f
  let c := fun i => toCode n (lo i) (hi i) (nth v i 0)
  if f = 0 then (List.range 3).flatMap (fun i => leBytes 1 (c i)) ++ leBytes 1 (toCode 8 0 255 alpha)
  else leBytes 4 (c 0 + 1024 * c 1 + 2 ^ 20 * c 2 + 2 ^ 30 * toCode 2 0 3 alpha)

/-- A sample's bytes in formats 2 and 3 (R188). -/
def yuvSample (f code : Nat) : Bytes := if f = 2 then leBytes 1 code else leBytes 2 (64 * code)

end Sys2Proof.Machine
end

