-- ==== Sys2Proof/Machine/Compose.lean ====
section
/-! DEFINITION. Late re-projection and composition (chapter 08): pose slots, layers, the latch and the composition of a
slice, its due edge, signatures and fallback, and the stream commit groups. -/

namespace Sys2Proof.Machine

/-! ## Streams -/

/-- A stream with nothing latched. -/
def CmpStream.idle : CmpStream := ⟨[], [], [], 0, 0, 0, none, 0, none, [], [], none, [], [], none, 0, 0, []⟩

/-- Stream `s`. -/
def Dev.stream (d : Dev) (s : Nat) : CmpStream := NMap.getD d.cmp.streams s CmpStream.idle

/-- Replaces stream `s`. -/
def Dev.setStream (d : Dev) (s : Nat) (x : CmpStream) : Dev := { d with cmp := { d.cmp with streams := NMap.set d.cmp.streams s x } }

/-- Changes stream `s`. -/
def Dev.modStream (d : Dev) (s : Nat) (f : CmpStream → CmpStream) : Dev := d.setStream s (f (d.stream s))

/-- Changes the slice a stream composes. -/
def Dev.modSlice (d : Dev) (s : Nat) (f : SliceRun → SliceRun) : Dev :=
  d.modStream s (fun x => { x with cur := x.cur.map f })

/-- The number under which a stream's fabric accesses are held, above every ring. -/
def streamRing (s : Nat) : Nat := 2048 + s

/-- Geometry of a stream as committed (R175, R189, CMP registers). -/
structure Geo where
  w : Nat
  h : Nat
  stride : Nat
  rows : Nat
  ticks : Nat
  period : Nat
  offset : Nat
  lead : Nat
  fmt : Nat
  outBase : Nat
  enable : Bool
  deriving DecidableEq, Repr

/-- A stream's committed geometry. -/
def Dev.geo (d : Dev) (s : Nat) : Geo :=
  { w := d.cfld Fld.CMP_S_SIZE_width s, h := d.cfld Fld.CMP_S_SIZE_height s, stride := d.cfld Fld.CMP_S_STRIDE_stride s
    rows := d.cfld Fld.CMP_S_SLICE_slice_rows s, ticks := d.cfld Fld.CMP_S_SLICE_slice_ticks s
    period := d.cfld Fld.CMP_S_FRAME_frame_period s, offset := d.cfld Fld.CMP_S_FRAME_frame_offset s
    lead := d.cfld Fld.CMP_S_LEAD_lead_ns s, fmt := d.cfld Fld.CMP_S_CTRL_out_format s
    outBase := (d.cfldW Fld.CMP_S_OUT_BASE_value s).toNat, enable := d.cfld Fld.CMP_S_CTRL_enable s = 1 }

/-- Slices in a frame (R175). -/
def Geo.slices (g : Geo) : Nat := g.h / g.rows

/-- The committed tick period. -/
def Dev.period (d : Dev) : Nat := d.cfld Fld.TICK_PERIOD_NS_period_ns 0

/-- The effective lead (R176). -/
def Dev.effLead (d : Dev) (g : Geo) : Nat := min g.lead (g.ticks * d.period)

/-- The least count above `c` that is congruent to `o` modulo `f` (R33). -/
def nextCongruent (c o f : Nat) : Nat := c + 1 + (o + f - (c + 1) % f) % f

/-- The count whose reaching or passing is the next frame boundary of a stream: one already passed when a step or a jump of
TICK_COUNT has reached it (R33). -/
def Dev.frameDue (d : Dev) (s : Nat) (g : Geo) : Nat :=
  let c := d.tickCount.toNat
  if (d.stream s).origin.any (fun o => decide (o + g.period ≤ c)) then c - (c + g.period - g.offset % g.period) % g.period
  else nextCongruent c g.offset g.period

/-- The TICK_COUNT at which the next slice to latch is due (R175). -/
def Dev.nextDue (d : Dev) (s : Nat) (g : Geo) : Nat :=
  let x := d.stream s
  if x.next = 0 then d.frameDue s g else x.boundary.toNat + x.next * g.ticks

/-- The scheduled time of the edge at which TICK_COUNT reaches a value (R176). -/
def Dev.edgeTime (d : Dev) (v : Nat) : Nat := d.tick.nextEdge + (v - (d.tickCount.toNat + d.tick.advance)) * d.period

/-- PTP time at the present (R25, R180): ns since the epoch of the grid. -/
def Dev.ptpNow (d : Dev) : Int := (d.now : Int) - d.tick.epoch

/-- Whether the generator keeps PTP time: source PTP, and LOCKED or HOLDOVER (R180). -/
def Dev.ptpTime (d : Dev) : Bool := d.fld Fld.TICK_SOURCE_source 0 = 2 && (d.tick.lock = .locked || d.tick.lock = .holdover)

/-! ## Poses (R177 to R179) -/

/-- Offers a packet that is not rejected to its slot: whether it is taken or discarded as older (R178, R179). -/
def Dev.offerPose (d : Dev) (p : Bytes) : Dev :=
  let x := poseOf p
  match NMap.get? d.cmp.poses x.1 with
  | none => { d with cmp := { d.cmp with poses := NMap.set d.cmp.poses x.1 ⟨x.2, d.now, none⟩ } }
  | some o =>
    if o.pose.time.toNat < x.2.time.toNat then
      let before := if o.acceptedAt = d.now then o.before else some o.pose
      { d with cmp := { d.cmp with poses := NMap.set d.cmp.poses x.1 ⟨x.2, d.now, before⟩ } }
    else d.bump Fld.CMP_POSE_OLD_count 0 1

/-- A pose packet by either way (R178). -/
def Dev.posePacket (d : Dev) (p : Bytes) : Dev :=
  if poseRejected p then d.bump Fld.CMP_POSE_REJECT_count 0 1 else d.offerPose p

/-- POSE_PACKET_UDP: a datagram to the pose port on an Ethernet-mode port (R178, R417). -/
def Dev.poseUdp (d : Dev) (port : Nat) (payload : Bytes) : Dev :=
  let p := d.port port
  if port < 8 ∧ p.powered ∧ p.modeActive = 0 ∧ d.fld Fld.CMP_POSE_UDP_udp_port 0 ≠ 0 then d.leaveIdle.posePacket payload else d

/-- The POSE_SUBMIT operand: the packet's address (R180). -/
def posePacketVa (l : Line) : Wide := dwide l 16

/-- POSE_SUBMIT (R178, R180). -/
def Dev.runPoseSubmit (d : Dev) (c : Cmd) : Dev :=
  let va := posePacketVa c.desc
  if !reservedZero c.desc [(16, 63, 0)] ∨ va.toNat % 64 ≠ 0 then d.fail c Sts.badDescriptor 0
  else match d.cmdRead c engOther va 64 with
    | (d, .wait, _) => d
    | (d, .fail s v, _) => d.endCmd c.ring c.serial s v noUnit
    | (d, .ok, p) =>
      if poseRejected p then (d.posePacket p).fail c Sts.badDescriptor 0 else (d.posePacket p).done c 0

/-- The content of a slot at a latch: as of the end of the I/O clock before (R179). -/
def Dev.slotPose (d : Dev) (slot : Nat) : Option Pose :=
  match NMap.get? d.cmp.poses slot with
  | none => none
  | some o => if o.acceptedAt = d.now then o.before else some o.pose

/-! ## LAYER_PUBLISH (R181, R182) -/

def pubLayer (l : Line) : Wide := dwide l 16
def pubStream (l : Line) : Nat := dfield l 24 5 0
def pubIndex (l : Line) : Nat := dfield l 25 4 0
def pubClear (l : Line) : Bool := dfield l 26 0 0 = 1
def pubFields : List (Nat × Nat × Nat) := [(16, 63, 0), (24, 5, 0), (25, 4, 0), (26, 0, 0)]

/-- Whether the fixed conditions of a LAYER_PUBLISH hold (R182). -/
def Dev.pubOk (d : Dev) (c : Cmd) : Bool :=
  let s := pubStream c.desc
  let i := pubIndex c.desc
  reservedZero c.desc pubFields && (d.geo s).enable && d.cfld Fld.CMP_S_CTRL_part s = c.part
    && d.cfld Fld.CMP_S_CTRL_asid s = c.asid && (i < d.cfld Fld.CMP_S_CTRL_layer_count s || i = 16)
    && (pubClear c.desc || (pubLayer c.desc).toNat % 64 = 0)

/-- Publishes a layer or empties it, from the next slice-0 latch on. -/
def Dev.publish (d : Dev) (s i : Nat) (x : Option Layer) : Dev :=
  d.modStream s (fun t => { t with published := t.published ++ [(i, x, d.now)] })

/-- LAYER_PUBLISH: reads and checks the descriptors and keeps its own copy (R182). -/
def Dev.runLayerPublish (d : Dev) (c : Cmd) : Dev :=
  let s := pubStream c.desc
  let i := pubIndex c.desc
  if !d.pubOk c then d.fail c Sts.badDescriptor 0
  else if pubClear c.desc then (d.publish s i none).done c 0
  else match d.cmdRead c engOther (pubLayer c.desc) 128 with
    | (d, .wait, _) => d
    | (d, .fail e v, _) => d.endCmd c.ring c.serial e v noUnit
    | (d, .ok, b) =>
      if !layerOk b (d.geo s).w (d.geo s).h then d.fail c Sts.badDescriptor 0
      else match d.cmdRead c engOther (layerD b).color 32 with
        | (d, .wait, _) => d
        | (d, .fail e v, _) => d.endCmd c.ring c.serial e v noUnit
        | (d, .ok, ci) =>
          if !colorOk ci then d.fail c Sts.badDescriptor 0
          else if (layerD b).warp ≠ 2 then (d.publish s i (some ⟨b, ci, []⟩)).done c 0
          else match d.cmdRead c engOther (layerD b).depth 32 with
            | (d, .wait, _) => d
            | (d, .fail e v, _) => d.endCmd c.ring c.serial e v noUnit
            | (d, .ok, di) =>
              if !depthOk di then d.fail c Sts.badDescriptor 0 else (d.publish s i (some ⟨b, ci, di⟩)).done c 0

/-! ## Accesses of the engine (R196) -/

/-- The request under which a stream reads and writes for its slice or hand-off of a number; the engine stands on the I/O die. -/
def Dev.cmpReq (d : Dev) (s no : Nat) : Req :=
  ⟨streamRing s, BitVec.ofNat 64 no, some (d.cfld Fld.CMP_S_CTRL_part s), d.cfld Fld.CMP_S_CTRL_asid s, engOther, 0, 0, none, .none⟩

/-- The status of a fault that the engine does not replay (R196). -/
def faultStatus (kind : Nat) : Half := if kind = kindPermission then Sts.permissionFault else Sts.translationFault

/-- How an access of a stream ends. -/
inductive CmpRes where
  | ok
  | wait
  | fail (status : Half)
  deriving DecidableEq, Repr

/-- The outcome of a part that reads. -/
def PartRes.cmp : PartRes → CmpRes
  | .ok => .ok
  | .sent => .wait
  | .wait => .wait
  | .fail s => .fail s
  | .fault k _ => .fail (faultStatus k)

/-- The outcome of two parts together. -/
def CmpRes.both : CmpRes → CmpRes → CmpRes
  | .fail s, _ => .fail s
  | _, .fail s => .fail s
  | .ok, .ok => .ok
  | _, _ => .wait

/-- A read of a stream for its present slice; no fault record is written (R196). -/
def Dev.cmpRead (d : Dev) (s : Nat) (va n : Nat) : Dev × CmpRes × Bytes :=
  let q := d.cmpReq s (d.stream s).no
  let ps := d.splitRequest q (BitVec.ofNat 64 va) n accRead
  ps.2.foldl (fun (acc : Dev × CmpRes × Bytes) p =>
    let x := acc.1.partRead q (acc.1.stream s).remote p.1 p.2.1 p.2.2
    (x.1, acc.2.1.both x.2.1.cmp, acc.2.2 ++ x.2.2)) (ps.1, .ok, [])

/-- A write of a stream under a number: every part that may be written is (R232); the parts left wait. -/
def Dev.cmpWrite (d : Dev) (s no : Nat) (w : Nat × Bytes) : Dev × CmpRes × List (Nat × Bytes) :=
  let q := d.cmpReq s no
  let ps := d.splitRequest q (BitVec.ofNat 64 w.1) w.2.length accWrite
  ps.2.foldl (fun (acc : Dev × CmpRes × List (Nat × Bytes)) p =>
    let bs := slice w.2 (p.1.toNat - w.1) p.2.1
    let x := acc.1.partWrite q p.1 bs p.2.2
    (x.1, acc.2.1.both (if x.2 = .sent then .ok else x.2.cmp), acc.2.2 ++ (if x.2 = .wait then [(p.1.toNat, bs)] else [])))
    (ps.1, .ok, [])

/-- Writes of a stream under a number, in order: those left when one waits or fails. -/
def Dev.cmpWrites (d : Dev) (s no : Nat) : List (Nat × Bytes) → Dev × CmpRes × List (Nat × Bytes)
  | [] => (d, .ok, [])
  | w :: ws => match d.cmpWrite s no w with
    | (d, .ok, _) => d.cmpWrites s no ws
    | (d, z, left) => (d, z, left ++ ws)

/-- Whether writes of a stream under a number are not acknowledged. -/
def Dev.cmpOut (d : Dev) (s no : Nat) : Bool :=
  d.fab.ops.any (fun o => o.ring = streamRing s && o.serial = BitVec.ofNat 64 no && o.kind = 2 && !o.dead)

/-- The stored bytes of a texel of a layer's image; a region whose flag is 00 holds its clear value (R159, R162). -/
def Dev.cmpTexel (d : Dev) (s : Nat) (i : ImageD) (x y : Nat) : Dev × CmpRes × Bytes :=
  let va := i.at x y 0 0 0
  if i.flags = 0 ∨ i.linear = true then d.cmpRead s va i.bytes
  else
    let r := x / 32 + ceilDiv i.w 32 * (y / 32)
    match d.cmpRead s (i.flags + 64 + r / 4) 1 with
    | (d, .ok, fb) =>
      if flagOf (nth fb 0 0) r = 0 then match d.cmpRead s i.flags 16 with
        | (d, .ok, h) => (d, .ok, clearBytes i.format h)
        | z => z
      else d.cmpRead s va i.bytes
    | z => z

/-- The four values of a stored texel before the filter: SRGB codes stay encoded, and the filtered sample is decoded
(R186). -/
def ImageD.tap (i : ImageD) (bs : Bytes) : List Nat :=
  (({ i with format := if i.format = 3 then 2 else i.format } : ImageD).load bs).map (·.toNat)

/-- A filtered sample as (C, A): SRGB is decoded to linear (R186). -/
def ImageD.linearSample (i : ImageD) (t : List Nat) : List Nat :=
  if i.format = 3 then [srgbLinear (nth t 0 0), srgbLinear (nth t 1 0), srgbLinear (nth t 2 0), nth t 3 0] else t

/-- A filter tap: transparent outside the image (R183). -/
def Dev.cmpTap (d : Dev) (s : Nat) (i : ImageD) (x y : Int) : Dev × CmpRes × List Nat :=
  if x < 0 ∨ y < 0 ∨ (i.w : Int) ≤ x ∨ (i.h : Int) ≤ y then (d, .ok, [0, 0, 0, 0])
  else match d.cmpTexel s i x.toNat y.toNat with
    | (d, .ok, bs) => (d, .ok, i.tap bs)
    | (d, z, _) => (d, z, [])

/-- Evaluates a list of reads in order until one does not succeed. -/
def Dev.readAll {α β : Type} (d : Dev) (f : Dev → α → Dev × CmpRes × β) : List α → Dev × CmpRes × List β
  | [] => (d, .ok, [])
  | a :: as => match f d a with
    | (d, .ok, b) => match d.readAll f as with
      | (d, .ok, bs) => (d, .ok, b :: bs)
      | z => z
    | (d, z, _) => (d, z, [])

/-- The filtered sample of a layer's colour image. -/
def Dev.cmpSample (d : Dev) (s : Nat) (i : ImageD) (uv : Option (Nat × Nat)) : Dev × CmpRes × List Nat :=
  match uv.bind (fun p => tapsAt p.1 p.2) with
  | none => (d, .ok, [0, 0, 0, 0])
  | some ((x, y), (fx, fy)) =>
    match d.readAll (fun d (p : Int × Int) => d.cmpTap s i p.1 p.2) [(x, y), (x + 1, y), (x, y + 1), (x + 1, y + 1)] with
    | (d, .ok, ts) => (d, .ok, i.linearSample (bilinear fx fy (nth ts 0 []) (nth ts 1 []) (nth ts 2 []) (nth ts 3 [])))
    | (d, z, _) => (d, z, [])

/-! ## Composing a slice -/

/-- The DEPTH triangles of a layer, with the depths read (R185). -/
def Dev.cmpGrid (d : Dev) (s : Nat) (y : Layer) (pose : Option Pose) : Dev × CmpRes × List (List GridVert) :=
  let x := layerD y.desc
  let ci := imageD y.color
  let di := imageD y.depth
  let cols := ceilDiv ci.w 16
  let rows := ceilDiv ci.h 16
  let pts := (List.range (rows + 1)).flatMap (fun j => (List.range (cols + 1)).map (fun i => (min (16 * i) ci.w, min (16 * j) ci.h)))
  match d.readAll (fun d (p : Nat × Nat) => match d.cmpTexel s di (min p.1 (di.w - 1)) (min p.2 (di.h - 1)) with
      | (d, .ok, bs) => (d, .ok, (p, leNat bs))
      | (d, z, _) => (d, z, (p, 0))) pts with
  | (d, .ok, vs) =>
    let at0 := fun (i j : Nat) => match vs[j * (cols + 1) + i]? with
      | some v => x.vertex pose ci.w ci.h v.1.1 v.1.2 v.2
      | none => x.vertex pose ci.w ci.h 0 0 0
    (d, .ok, gridTris cols rows at0)
  | (d, z, _) => (d, z, [])

/-- A layer ready to be composed: its descriptor, its image, and its DEPTH triangles. -/
structure ReadyLayer where
  x : LayerD
  img : ImageD
  tris : List (List GridVert)
  deriving DecidableEq, Repr

/-- Prepares a layer. -/
def Dev.readyLayer (d : Dev) (s : Nat) (pose : Option Pose) (y : Layer) : Dev × CmpRes × ReadyLayer :=
  let x := layerD y.desc
  if x.warp = 2 then match d.cmpGrid s y pose with
    | (d, z, ts) => (d, z, ⟨x, imageD y.color, ts⟩)
  else (d, .ok, ⟨x, imageD y.color, []⟩)

/-- Where a layer samples its image for an output pixel (R183 to R185). -/
def ReadyLayer.source (r : ReadyLayer) (pose : Option Pose) (ox oy : Nat) : Option (Nat × Nat) :=
  if r.x.warp = 0 then some (r.x.flat r.img.w r.img.h ox oy)
  else
    let p := r.x.planar pose r.img.w r.img.h ox oy
    if r.x.warp = 1 then p
    else match bestHit r.tris ox oy with
      | some h => some h
      | none => p

/-- The accumulated colour of an output pixel (R186). -/
def Dev.cmpPixel (d : Dev) (s : Nat) (pose : Option Pose) (rs : List ReadyLayer) (start : List Nat) (ox oy : Nat) :
    Dev × CmpRes × List Nat :=
  rs.foldl (fun (acc : Dev × CmpRes × List Nat) r => match acc.2.1 with
    | .ok =>
      if ox < r.x.dstX ∨ r.x.dstX + r.x.dstW ≤ ox ∨ oy < r.x.dstY ∨ r.x.dstY + r.x.dstH ≤ oy then acc
      else match acc.1.cmpSample s r.img (r.source pose ox oy) with
        | (d, .ok, t) => (d, .ok, blendLayer r.x t acc.2.2)
        | (d, z, _) => (d, z, acc.2.2)
    | _ => acc) (d, .ok, start)

/-- The colour matrix's values of a pixel, with its alpha (R186, R187). -/
def Dev.matrixOut (d : Dev) (s : Nat) (acc : List Nat) : List Rat × Rat :=
  let t := d.cfld Fld.CMP_S_CTRL_transfer s
  let e := (List.range 3).map (fun i => transferOf t (nth acc i 0))
  let words := [Reg.CMP_S_CM_0, Reg.CMP_S_CM_1, Reg.CMP_S_CM_2, Reg.CMP_S_CM_3, Reg.CMP_S_CM_4, Reg.CMP_S_CM_5].map
    (fun r => (d.regs.cget (r.at s) r.reset).toNat)
  let cm := fun (k : Nat) => nth words (k / 2) 0 / 2 ^ (16 * (k % 2)) % 65536
  ((List.range 3).map (fun i => ((f32Val (matrixRow cm e i)).toRat).getD 0), ((clamp01 (nth acc 3 0)).1 : Rat) / ((clamp01 (nth acc 3 0)).2 : Rat))

/-- Bounds of channel `i` (R187). -/
def Dev.rangeOf (d : Dev) (s i : Nat) : Nat × Nat :=
  let v := match i with
    | 0 => d.regs.cget (Reg.CMP_S_RANGE_0.at s) Reg.CMP_S_RANGE_0.reset
    | 1 => d.regs.cget (Reg.CMP_S_RANGE_1.at s) Reg.CMP_S_RANGE_1.reset
    | _ => d.regs.cget (Reg.CMP_S_RANGE_2.at s) Reg.CMP_S_RANGE_2.reset
  (bitsN v 9 0, bitsN v 25 16)

/-- One output row's pixel values. -/
def Dev.cmpRow (d : Dev) (s : Nat) (pose : Option Pose) (rs : List ReadyLayer) (start : List Nat) (w oy : Nat) :
    Dev × CmpRes × List (List Rat × Rat) :=
  match d.readAll (fun d ox => d.cmpPixel s pose rs start ox oy) (List.range w) with
  | (d, .ok, ps) => (d, .ok, ps.map (fun p => d.matrixOut s p))
  | (d, z, _) => (d, z, [])

/-- The bytes of a luma row, or of a pixel row in formats 0 and 1. -/
def Dev.lumaBytes (d : Dev) (s : Nat) (g : Geo) (row : List (List Rat × Rat)) : Bytes :=
  if g.fmt ≤ 1 then row.flatMap (fun p => rgbPixel g.fmt (fun i => (d.rangeOf s i).1) (fun i => (d.rangeOf s i).2) p.1 p.2)
  else row.flatMap (fun p => yuvSample g.fmt (toCode (outBits g.fmt) (d.rangeOf s 0).1 (d.rangeOf s 0).2 (nth p.1 0 0)))

/-- The bytes of a chroma row: the mean of each 2 × 2 square, rounded and clamped once (R187). -/
def Dev.chromaBytes (d : Dev) (s : Nat) (g : Geo) (up down : List (List Rat × Rat)) : Bytes :=
  (List.range (g.w / 2)).flatMap (fun x => [1, 2].flatMap (fun i =>
    let v := fun (row : List (List Rat × Rat)) (k : Nat) => nth (nth row k ([], 0)).1 i 0
    let m := (v up (2 * x) + v up (2 * x + 1) + v down (2 * x) + v down (2 * x + 1)) / 4
    yuvSample g.fmt (toCode (outBits g.fmt) (d.rangeOf s i).1 (d.rangeOf s i).2 m)))

/-- Bytes of one buffer (R189). -/
def Geo.buffer (g : Geo) : Nat := roundUp (if g.fmt ≤ 1 then g.stride * g.h else g.stride * g.h * 3 / 2) 65536

/-- The layers in force that a slice composes, bottom first: the fallback layer alone in a fallback slice (R195). -/
def Dev.sliceLayers (d : Dev) (s : Nat) (r : SliceRun) : List Layer :=
  let x := d.stream s
  let is := if r.fallback then [16] else List.range (d.cfld Fld.CMP_S_CTRL_layer_count s)
  is.filterMap (fun i => NMap.get? x.layers i)

/-- Whether a signature entry is checked, skipped or disabled (R193): `none` when it is disabled. -/
def sigUse (g : Geo) (e : Bytes) : Option Bool :=
  let f := leAt e 12 4
  if f % 2 = 0 then none
  else
    let x := leAt e 0 2
    let y := leAt e 2 2
    let w := leAt e 4 2
    let h := leAt e 6 2
    some (!(x + w > g.w || y + h > g.h || w = 0 || h = 0 || f ≠ 1
      || (2 ≤ g.fmt && (x % 2 = 1 || y % 2 = 1 || w % 2 = 1 || h % 2 = 1))))

/-- Reads the signature table, once a frame (R193). -/
def Dev.readSigs (d : Dev) (s : Nat) : Dev × CmpRes :=
  let t := (d.cfldW Fld.CMP_S_SIG_TABLE_value s).toNat
  if (d.stream s).sigs.isSome then (d, .ok)
  else if t = 0 then (d.modStream s (fun x => { x with sigs := some [] }), .ok)
  else match d.cmpRead s t 256 with
    | (d, .ok, bs) =>
      let es := (List.range 16).map (fun i => slice bs (16 * i) 16)
      let g := d.geo s
      let skipped := (es.filter (fun e => sigUse g e = some false)).length
      ((d.bump Fld.CMP_S_SIG_SKIP_count s skipped).modStream s (fun x => { x with sigs := some es }), .ok)
    | (d, z, _) => (d, z)

/-- The writes of a slice's rows into its buffer, luma and then chroma (R189). -/
def Geo.writes (g : Geo) (b : Nat) (luma chroma : NMap Bytes) : List (Nat × Bytes) :=
  let base := g.outBase + b * g.buffer
  luma.map (fun (e : Nat × Bytes) => (base + e.1 * g.stride, e.2))
    ++ chroma.map (fun (e : Nat × Bytes) => (base + g.stride * g.h + e.1 * g.stride, e.2))

/-- The bytes of a slice's rows: its layers are prepared, its pixels composed and encoded. -/
def Dev.composeRows (d : Dev) (s : Nat) (r : SliceRun) : Dev × CmpRes × NMap Bytes × NMap Bytes :=
  let g := d.geo s
  let pose := if r.stale then none else r.pose
  let start := if r.fallback then [0, 0, 0, f32One] else [0, 0, 0, 0]
  match d.readAll (fun d y => d.readyLayer s pose y) (d.sliceLayers s r) with
  | (d, .ok, rs) =>
    let ys := (List.range g.rows).map (fun k => r.index * g.rows + k)
    match d.readAll (fun d oy => d.cmpRow s pose rs start g.w oy) ys with
    | (d, .ok, rows) =>
      let luma := (ys.zip rows).map (fun p => (p.1, d.lumaBytes s g p.2))
      let chroma := if g.fmt ≤ 1 then [] else (List.range (g.rows / 2)).map (fun k =>
        (r.index * g.rows / 2 + k, d.chromaBytes s g (nth rows (2 * k) []) (nth rows (2 * k + 1) [])))
      (d, .ok, luma, chroma)
    | (d, z, _) => (d, z, [], [])
  | (d, z, _) => (d, z, [], [])

/-- A slice is written once its last write is performed at device scope, by the home device of a remote buffer (R190). -/
def Dev.sliceWritten (d : Dev) (s : Nat) : Dev :=
  match (d.stream s).cur with
  | some r => if r.left = some [] ∧ r.composed.isNone ∧ r.error.isNone ∧ !d.cmpOut s r.no then
      d.modSlice s (fun r => { r with composed := some d.now }) else d
  | none => d

/-- A slice's access has failed: it is handled at its due edge (R196). -/
def Dev.sliceFails (d : Dev) (s : Nat) (e : Half) : Dev := d.modSlice s (fun r => { r with error := some (r.error.getD e) })

/-- Performs what is left of a slice's writes (R189, R190). -/
def Dev.writeSlice (d : Dev) (s : Nat) (r : SliceRun) (left : List (Nat × Bytes)) : Dev :=
  match d.cmpWrites s r.no left with
  | (d, .fail e, _) => d.sliceFails s e
  | (d, _, l) => (d.modSlice s (fun r => { r with left := some l })).sliceWritten s

/-- Goes on with the slice a stream composes: reads what it needs, composes and writes it. An error response stops it; while
something cannot be had yet it waits (R176, R196). -/
def Dev.composeOn (d : Dev) (s : Nat) : Dev :=
  match (d.stream s).cur with
  | none => d
  | some r =>
    if r.error.isSome ∨ r.composed.isSome ∨ !d.pwr.on.testBit 30 then d
    else
      let stop := fun (d : Dev) (z : CmpRes) => match z with
        | .fail e => d.sliceFails s e
        | _ => d
      match r.left with
      | some l => d.writeSlice s r l
      | none => match d.readSigs s with
        | (d, .ok) => match d.composeRows s r with
          | (d, .ok, luma, chroma) =>
            (d.modSlice s (fun r => { r with luma := luma, chroma := chroma })).writeSlice s r ((d.geo s).writes r.buffer luma chroma)
          | (d, z, _) => stop d z
        | (d, z) => stop d z

/-! ## Commit groups of a stream (R197, R198) -/

/-- OUTGEOM_COMMIT: a write of CMP_S_COMMIT.outgeom. -/
def Dev.outgeomStage (d : Dev) (src : RegSource) (s : Nat) : Dev :=
  if d.mayWrite src ∧ s < 64 then (d.stage (.outgeom s)).modStream s (fun x => { x with outgeomAt := d.now }) else d

/-- CMATRIX_COMMIT: a write of CMP_S_COMMIT.cmatrix. -/
def Dev.cmatrixStage (d : Dev) (src : RegSource) (s : Nat) : Dev :=
  if d.mayWrite src ∧ s < 64 then (d.stage (.cmatrix s)).modStream s (fun x => { x with cmatrixAt := d.now }) else d

/-- The output demand of a stream in Gpx/s (R198). -/
def Dev.demand (d : Dev) (s : Nat) : Rat :=
  let g := d.geo s
  if g.enable then (g.w * g.rows : Nat) / ((d.effLead g : Nat) : Rat) else 0

/-- A stream's fetch demand (R198). -/
def Dev.fetchDemand (d : Dev) (s : Nat) : Rat := d.demand s * (d.cfld Fld.CMP_S_SLICE_max_fetch s : Rat)

/-- Whether the total demand exceeds the engine's capacity (R198). -/
def Dev.overDemand (d : Dev) : Bool :=
  let a : Rat := d.cfld Fld.TICK_ADMIT_admit_permille 0
  let total := (List.range 64).foldl (fun acc s => acc + d.demand s) 0
  let fetch := (List.range 64).foldl (fun acc s => acc + d.fetchDemand s) 0
  decide (24 * a / 1000 < total) || decide (96 * a / 1000 < fetch)

/-- Why an OUTGEOM commit is refused: `n` is the device with the staged set in force (R197, R198). -/
def Dev.outgeomRefusal (d n : Dev) (s : Nat) : Option Nat :=
  let g := n.geo s
  let yuv := decide (2 ≤ g.fmt)
  let fence := n.cfldW Fld.CMP_S_FENCE_value s
  firstReason [
    (g.w < 16 || 8192 < g.w || g.h < 16 || 8192 < g.h || (yuv && (g.w % 2 = 1 || g.h % 2 = 1)), 1),
    (g.stride < g.w * outBytes g.fmt || g.stride % 256 ≠ 0, 2),
    (g.rows = 0 || g.h % g.rows ≠ 0 || (yuv && g.rows % 2 = 1) || g.slices * g.ticks > g.period || g.offset ≥ g.period, 3),
    (g.lead < 5000 || g.ticks * n.period < g.lead, 4),
    ((n.demand s ≠ d.demand s || n.fetchDemand s ≠ d.fetchDemand s) && n.overDemand, 5),
    ((List.range 3).any (fun i => 2 ^ outBits g.fmt ≤ (n.rangeOf s i).2), 6),
    (g.outBase % 65536 ≠ 0 || (n.cfldW Fld.CMP_S_REC_BASE_value s).toNat % 64 ≠ 0
      || (n.cfldW Fld.CMP_S_SIG_TABLE_value s).toNat % 64 ≠ 0, 7),
    (n.cfld Fld.PAR_P_CTRL_enable (n.cfld Fld.CMP_S_CTRL_part s) = 0 || !n.current fence || !isFenceHandle fence, 8)]

/-- A staged OUTGEOM set takes effect or is refused (R197); a stream that it enables needs composition powered (R426). -/
def Dev.outgeomApply (d : Dev) (s : Nat) : Dev :=
  let g : Group := .outgeom s
  match d.outgeomRefusal (d.tryGroup g) s with
  | some n => d.refuseGroup g n
  | none =>
    let d := d.acceptGroup g
    let d := if (d.geo s).enable then d.powerUp 30 else d
    (d.regRef (Reg.CMP_S_FENCE.at s) (d.cfldW Fld.CMP_S_FENCE_value s)).modStream s (fun x => { x with
      lastGood := [], layers := [], published := x.published.filter (fun e => x.outgeomAt < e.2.2), next := 0, origin := none })

/-- A staged CMATRIX set takes effect or is refused (R197). -/
def Dev.cmatrixApply (d : Dev) (s : Nat) : Dev :=
  let g : Group := .cmatrix s
  let n := d.tryGroup g
  let top := 2 ^ outBits (d.geo s).fmt
  if (List.range 3).any (fun i => (n.rangeOf s i).2 < (n.rangeOf s i).1 || top ≤ (n.rangeOf s i).2) then d.refuseGroup g 6
  else d.acceptGroup g

/-- The time of the next latch of a stream under a geometry, and the due count, if it may be reached before the next tick
edge and no slice is being composed. -/
def Dev.latchAt (d : Dev) (s : Nat) (g : Geo) : Option (Nat × Nat) :=
  let due := d.nextDue s g
  let t := max d.now (d.edgeTime due - d.effLead g)
  if (d.stream s).cur.isNone ∧ d.tick.running ∧ g.enable ∧ 0 < g.rows ∧ 0 < g.period ∧ d.tickCount.toNat < due ∧ t ≤ d.tick.nextEdge
  then some (t, due) else none

/-- The geometry whose slice-0 latch an OUTGEOM commit awaits: the committed one, or, for a stream that does not run, the
staged one. -/
def Dev.awaitGeo (d : Dev) (s : Nat) : Geo :=
  let g := d.geo s
  if g.enable then g else { (d.tryGroup (.outgeom s)).geo s with enable := true }

/-- OUTGEOM_TAKE_EFFECT: at the first slice-0 latch later than the commit (R197). DESIGN CHOICE (log entry 116): a set staged for a
stream that does not run, whose own geometry has no slices, is refused in the clock after its commit, since no latch comes. -/
def Dev.outgeomEffect (d : Dev) (s : Nat) : Dev :=
  if s < 64 ∧ (d.staged? (.outgeom s)).isSome ∧ (d.stream s).next = 0 then
    let g := d.awaitGeo s
    match d.latchAt s g with
    | some (t, _) => if (d.stream s).outgeomAt < t then (d.advanceTo t).outgeomApply s else d
    | none =>
      if (d.geo s).enable = false ∧ (g.rows = 0 ∨ g.period = 0) then (d.advanceTo ((d.stream s).outgeomAt + 1)).outgeomApply s else d
  else d

/-- CMATRIX_TAKE_EFFECT: at the next slice latch of the stream (R197). -/
def Dev.cmatrixEffect (d : Dev) (s : Nat) : Dev :=
  if s < 64 ∧ (d.staged? (.cmatrix s)).isSome then
    match d.latchAt s (d.geo s) with
    | some (t, _) => if (d.stream s).cmatrixAt < t then (d.advanceTo t).cmatrixApply s else d
    | none => d
  else d

/-! ## The latch (R176, R180) -/

/-- Published layers take effect at a slice-0 latch later than their publication (R182). -/
def CmpStream.takeLayers (x : CmpStream) (now : Nat) : CmpStream :=
  let due := x.published.filter (fun e => e.2.2 < now)
  { x with
    layers := due.foldl (fun m e => match e.2.1 with
      | some y => NMap.set m e.1 y
      | none => NMap.erase m e.1) x.layers
    published := x.published.filter (fun e => now ≤ e.2.2) }

/-- Whether a latched pose is stale (R180). -/
def Dev.poseStale (d : Dev) (p : Option Pose) : Bool :=
  match p with
  | none => true
  | some q => d.ptpTime && decide (d.ptpNow - (q.time.toNat : Int) > (d.fld Fld.CMP_POSE_MAX_AGE_max_age_ns 0 : Int))

/-- A new frame begins with its slice 0: nothing of its rows is known, and its boundary is the reaching or passing of a count (R33). -/
def CmpStream.newFrame (x : CmpStream) (origin : Nat) : CmpStream :=
  { x with frame := x.frame + 1, sigs := none, luma := [], chroma := [], origin := some origin }

/-- The next slice of a stream, with the pose that it takes: its buffer is the one that last_good does not name (R190, R195). -/
def CmpStream.slice (x : CmpStream) (due : Nat) (pose : Option Pose) (stale : Bool) : SliceRun :=
  { no := x.no + 1, index := x.next, due := BitVec.ofNat 64 due, pose := pose, stale := stale
    fallback := x.fallbackThrough.any (fun n => decide (x.frame ≤ n))
    buffer := match NMap.get? x.lastGood x.next with
      | some g => 1 - g
      | none => 0
    error := none, left := none, composed := none, edge := none, luma := [], chroma := [] }

/-- Latches the pose for the next slice and starts it (R176, R180, R190, R193, R195). -/
def Dev.latchSlice (d : Dev) (s due : Nat) : Dev :=
  let p := d.slotPose (d.cfld Fld.CMP_S_CTRL_pose_slot s)
  let stale := d.poseStale p
  let d := if stale then d.bump Fld.CMP_S_STALE_count s 1 else d
  let d := match p with
    | some q => if d.ptpTime then d.hist 17 ((d.ptpNow - (q.time.toNat : Int)).toNat / 10000) else d
    | none => d
  let x := d.stream s
  let x := if x.next = 0 then (x.takeLayers d.now).newFrame due else x
  (d.setStream s { x with cur := some (x.slice due p stale), no := x.no + 1, remote := [] }).composeOn s

/-- POSE_LATCH: at lead_ns before the scheduled due edge; pending commits take effect there first (R176, R197). -/
def Dev.poseLatchRow (d : Dev) (s : Nat) : Dev :=
  let d := (d.outgeomEffect s).cmatrixEffect s
  if s < 64 then match d.latchAt s (d.geo s) with
    | some (t, due) => (d.advanceTo t).leaveIdle.latchSlice s due
    | none => d
  else d

/-! ## The due edge (R190, R191, R194, R195) -/

/-- The slice position after one. -/
def Geo.after (g : Geo) (j : Nat) : Nat := if j + 1 < g.slices then j + 1 else 0

/-- The due edge of a slice has come: its outcome is to be decided, and slice 0's edge is the frame boundary (R33, R175). -/
def Dev.slicePassed (d : Dev) (s : Nat) (r : SliceRun) : Dev :=
  d.modStream s (fun x => { x with
    cur := none, due := x.due ++ [{ r with edge := some (d.now, d.tickCount) }]
    boundary := if r.index = 0 then d.tickCount else x.boundary
    next := (d.geo s).after r.index, remote := [] })

/-- Slices that are due at an edge although their latches have not come, because a step has drawn their edges together (R33, R175): they
have no pose and are not complete (log entry 116). `fuel` bounds their number. -/
def Dev.missSlices (s : Nat) : Nat → Dev → Dev
  | 0, d => d
  | fuel + 1, d =>
    let g := d.geo s
    let x := d.stream s
    let due := d.nextDue s g
    if x.cur.isNone ∧ g.enable ∧ 0 < g.rows ∧ 0 < g.period ∧ due ≤ d.tickCount.toNat then
      let x := if x.next = 0 then x.newFrame due else x
      Dev.missSlices s fuel ((d.setStream s { x with no := x.no + 1 }).slicePassed s (x.slice due none false))
    else d

/-- At a tick edge: slices whose due counts are reached have their due edges (R33, R175). -/
def Dev.slicesDue (d : Dev) : Dev :=
  d.cmp.streams.foldl (fun (d : Dev) (e : Nat × CmpStream) =>
    let d := match e.2.cur with
      | some r => if r.due.toNat ≤ d.tickCount.toNat then d.slicePassed e.1 r else d
      | none => d
    Dev.missSlices e.1 ((d.geo e.1).slices + 1) d) d

/-- The CRC of a signature region over the rows composed so far; `none` while a row is missing (R194). -/
def sigCrc (g : Geo) (luma chroma : NMap Bytes) (e : Bytes) : Option Nat :=
  let x := leAt e 0 2
  let y := leAt e 2 2
  let w := leAt e 4 2
  let h := leAt e 6 2
  let k := outBytes g.fmt
  let span := fun (m : NMap Bytes) (row : Nat) => (NMap.get? m row).map (fun b => slice b (k * x) (k * w))
  let lr := (List.range h).map (fun i => span luma (y + i))
  let cr := if g.fmt ≤ 1 then [] else (List.range (h / 2)).map (fun i => span chroma (y / 2 + i))
  (lr ++ cr).foldl (fun acc b => match acc, b with
    | some c, some bs => some (crc32Run c bs)
    | _, _ => none) (some 0xFFFFFFFF) |>.map (fun c => c ^^^ 0xFFFFFFFF)

/-- Whether a completing slice shows a signature mismatch: a checked region whose last row lies in it (R194). -/
def Dev.sigMismatch (d : Dev) (s : Nat) (r : SliceRun) : Bool :=
  let g := d.geo s
  let x := d.stream s
  !r.fallback && (x.sigs.getD []).any (fun e =>
    sigUse g e = some true && (leAt e 2 2 + leAt e 6 2 - 1) / g.rows = r.index
      && (match sigCrc g x.luma x.chroma e with
        | some c => c ≠ leAt e 8 4
        | none => false))

/-- A slice completes: its buffer becomes the newest at its position, and its regions are compared (R190, R195). -/
def Dev.sliceComplete (d : Dev) (s : Nat) (r : SliceRun) (slack : Nat) : Dev × Half :=
  let d := d.modStream s (fun x => { x with
    lastGood := NMap.set x.lastGood r.index r.buffer
    luma := r.luma.foldl (fun m (e : Nat × Bytes) => NMap.set m e.1 e.2) x.luma
    chroma := r.chroma.foldl (fun m (e : Nat × Bytes) => NMap.set m e.1 e.2) x.chroma })
  let d := (d.count 0x0060 1 ⟨Option.none, Option.none, some s⟩).hist 18 (slack / 1000)
  if d.sigMismatch s r then
    let d := d.bump Fld.CMP_S_MISMATCH_count s 1
    let x := d.stream s
    let inPeriod : Bool := match x.fallbackThrough with
      | some n => decide (x.frame + 1 ≤ n)
      | none => false
    ((if d.cfld Fld.CMP_S_CTRL_fallback_en s = 1 ∧ !inPeriod then
        d.setStream s { x with fallbackThrough := some (x.frame + 1) } else d), Sts.signatureMismatch)
  else (d, Sts.ok)

/-- A slice that did not complete is repeated (R190). -/
def Dev.sliceRepeat (d : Dev) (s : Nat) (r : SliceRun) : Dev × Half :=
  ((((d.bump Fld.CMP_S_OVERRUN_count s 1).count 0x0061 1 ⟨Option.none, Option.none, some s⟩).hist 0 1), r.error.getD Sts.tickOverrun)

/-- The 32 bytes of a slice record (R191). -/
def sliceRecord (serial tick : Wide) (r : SliceRun) (buffer : Nat) (repeated empty : Bool) (status : Half) : Bytes :=
  let b := fun (x : Bool) (n : Nat) => if x then 2 ^ n else 0
  leBytes 8 serial.toNat ++ leBytes 8 tick.toNat
    ++ leBytes 4 (r.index + 65536 * buffer + b repeated 17 + b empty 18 + b r.fallback 19 + b r.stale 20)
    ++ leBytes 2 status.toNat ++ leBytes 2 0 ++ leBytes 8 ((r.pose.map (·.time.toNat)).getD 0)

/-- The number under which a hand-off writes, beyond those of slices. -/
def handOffNo (serial : Wide) : Nat := 2 ^ 62 + serial.toNat % 2 ^ 62

/-- Carries on a stream's hand-offs in order: each record is written, and then the fence is signalled (R191); a record whose write
fails is lost. `fuel` bounds their number. -/
def Dev.handOn (s : Nat) : Nat → Dev → Dev
  | 0, d => d
  | fuel + 1, d => match (d.stream s).handoffs with
    | [] => d
    | h :: rest =>
      let no := handOffNo h.serial
      let r := d.cmpWrites s no h.left
      let wait : Bool := r.2.1 = .wait || (r.2.1 = .ok && r.1.cmpOut s no)
      if wait then r.1.modStream s (fun x => { x with handoffs := { h with left := r.2.2 } :: rest })
      else Dev.handOn s fuel
        ((r.1.modStream s (fun x => { x with handoffs := rest })).signalReg (Reg.CMP_S_FENCE.at s) (some h.serial))

/-- Carries on every hand-off of a stream. -/
def Dev.handOffs (d : Dev) (s : Nat) : Dev := Dev.handOn s (d.stream s).handoffs.length d

/-- Hands a slice off: the record and then the fence (R191). -/
def Dev.handOff (d : Dev) (s : Nat) (r : SliceRun) (tick : Wide) (good : Bool) (status : Half) : Dev :=
  let last := NMap.get? (d.stream s).lastGood r.index
  let serial := d.fldW Fld.CMP_S_SERIAL_count s + 1
  let rec0 := sliceRecord serial tick r (last.getD 0) (!good && last.isSome) (!good && last.isNone) status
  let at0 := (d.cfldW Fld.CMP_S_REC_BASE_value s).toNat + 32 * (serial.toNat % 256)
  ((d.setFld Fld.CMP_S_SERIAL_count s serial).modStream s (fun x => { x with
    handoffs := x.handoffs ++ [⟨serial, [(at0, rec0)]⟩] })).handOffs s

/-- SLICE_DUE_EDGE: decides the slice's outcome at its due edge, writes its record and signals the fence (R190, R191). -/
def Dev.sliceDue (d : Dev) (s : Nat) : Dev :=
  match (d.stream s).due with
  | [] => d.handOffs s
  | r :: rest =>
    let e := r.edge.getD (d.now, d.tickCount)
    let good : Bool := r.error.isNone && r.composed.any (fun c => decide (c < e.1))
    let d := d.modStream s (fun x => { x with due := rest })
    let x := if good then d.sliceComplete s r (e.1 - r.composed.getD e.1) else d.sliceRepeat s r
    x.1.handOff s r e.2 good x.2

/-- Every slice that a partition's streams compose ends with an error (R196, R408). -/
def Dev.failSlices (d : Dev) (p : Nat) (status : Half) : Dev :=
  d.cmp.streams.foldl (fun (d : Dev) (e : Nat × CmpStream) =>
    if d.cfld Fld.CMP_S_CTRL_part e.1 = p then d.modSlice e.1 (fun r =>
      if r.composed.isNone then { r with error := some (r.error.getD status) } else r) else d) d

end Sys2Proof.Machine
end

