-- ==== Sys2Proof/Machine/Domain.lean ====
section
/-! DEFINITION. The fabric domain's messages and computations (chapter 17): HELLO, REPORT and ASSIGN payloads (R379, R380,
R383), the ranking of candidates (R381), the manager's view of the topology, addresses (R384), legal least-cost paths and
routing entries (R385, R386), the two passes of a rewrite (R387), membership lists (R390) and sides (R392). -/

namespace Sys2Proof.Machine

/-- The device with another view of the domain. -/
def Dev.withDom (d : Dev) (x : DomSt) : Dev := { d with fab := { d.fab with dom := x } }

/-! ## Times (R381, R382) -/

def Dev.helloNs (d : Dev) : Nat := 1000 * d.fld Fld.FAB_DISC_hello_us 0
def Dev.settleNs (d : Dev) : Nat := 10000 * d.fld Fld.FAB_DISC_settle 0
def Dev.managerNs (d : Dev) : Nat := 100000 * d.fld Fld.FAB_DISC_manager_timeout 0

/-! ## Messages -/

/-- FAB_STATE.role: 0 NONE, 1 MANAGER, 2 COORDINATOR. -/
def Dev.role (d : Dev) : Nat := d.fld Fld.FAB_STATE_role 0

/-- Sends a DISCOVERY frame on a hop (R379). -/
def Dev.sendDisc (d : Dev) (hop : Nat) (payload : Bytes) : Dev :=
  let h : MortarHdr := {
    kind := 7, vl := 7, lenDw := ceilDiv payload.length 4, linkSeq := 0, dst := 0xFFF, src := d.addr, op := 0, size := 0
    slot := 0, slotGen := 0, epoch := 0, status := 0, address := 0 }
  d.emit hop ⟨h, payload, true⟩

/-- The payload of a HELLO (R380). -/
def Hello.bytes (h : Hello) : Bytes :=
  leBytes 1 1 ++ leBytes 1 1 ++ leBytes 1 ((if h.eligible then 1 else 0) + 2 * h.role + 8 * h.side) ++ leBytes 1 h.outHop
    ++ leBytes 4 (h.addr + 4096 * h.manager) ++ leBytes 4 h.epoch ++ leBytes 4 h.list ++ leBytes 4 h.seq ++ leBytes 2 h.hops
    ++ leBytes 2 0 ++ slice h.digest 0 32 ++ slice h.best 0 32

/-- A HELLO from its payload. -/
def helloOf (b : Bytes) : Hello :=
  let f := leAt b 2 1
  { eligible := f % 2 = 1, role := f / 2 % 4, side := f / 8 % 4, outHop := leAt b 3 1, addr := leAt b 4 4 % 4096
    manager := leAt b 4 4 / 4096 % 4096, epoch := leAt b 8 4, list := leAt b 12 4, seq := leAt b 16 4, hops := leAt b 20 2
    digest := slice b 24 32, best := slice b 56 32 }

/-- The length that a DISCOVERY payload of a type must have; a payload is sent in units of 4 bytes (R368, R379). -/
def discLengthOk (b : Bytes) : Bool :=
  match leAt b 0 1 with
  | 1 => b.length = 88
  | 2 => 40 ≤ b.length && b.length ≤ 256 && (b.length - 40) % 36 = 0
  | 3 => b.length = 48
  | 4 => b.length = 12
  | 5 => 16 < b.length && b.length ≤ 256
  | _ => false

/-- Whether a DISCOVERY payload is kept: version 1, a listed type, a right length (R379). -/
def discOk (typ : Nat) (b : Bytes) : Bool := leAt b 0 1 = typ && leAt b 1 1 = 1 && discLengthOk b

/-- The fragments of a REPORT (R379): up to 6 adjacencies each. -/
def reportBytes (addr : Nat) (digest : Bytes) (links : List Adjacency) : List Bytes :=
  let n := max 1 (ceilDiv links.length 6)
  (List.range n).map (fun i =>
    leBytes 1 2 ++ leBytes 1 1 ++ leBytes 1 i ++ leBytes 1 n ++ leBytes 4 addr ++ slice digest 0 32
      ++ ((links.drop (6 * i)).take 6).flatMap (fun l => leBytes 1 l.hop ++ leBytes 1 l.cost ++ leBytes 2 0 ++ slice l.digest 0 32))

/-- The adjacencies of a REPORT fragment. -/
def reportLinks (b : Bytes) : List Adjacency :=
  (List.range ((b.length - 40) / 36)).map (fun i =>
    let o := 40 + 36 * i
    ⟨leAt b o 1, leAt b (o + 1) 1, slice b (o + 4) 32⟩)

/-- The payload of an ASSIGN. -/
def assignBytes (addr manager epoch total : Nat) (digest : Bytes) : Bytes :=
  leBytes 1 3 ++ leBytes 1 1 ++ leBytes 2 0 ++ leBytes 4 (addr + 4096 * manager) ++ leBytes 4 epoch ++ leBytes 4 total
    ++ slice digest 0 32

/-! ## Membership lists (R390) -/

/-- A membership list: its version, the tiebreaker's index and its members with their weights. -/
structure MList where
  version : Nat
  tiebreaker : Nat
  members : List (Bytes × Nat)
  deriving DecidableEq, Repr

/-- Bytes of a list before its signature block. -/
def listSize (b : Bytes) : Nat := 64 + 40 * leAt b 12 2

/-- A well-formed list: magic, format, zeros, 1 to 4,094 distinct members, a tiebreaker among them and a positive total. -/
def listOf (b : Bytes) : Option MList :=
  let n := leAt b 12 2
  let ms := (List.range n).map (fun j => (slice b (64 + 40 * j) 32, leAt b (96 + 40 * j) 2))
  let zeros := leAt b 5 3 = 0 ∧ leAt b 16 48 = 0 ∧ (List.range n).all (fun j => leAt b (98 + 40 * j) 6 = 0)
  if slice b 0 4 = ascii "PSML" ∧ leAt b 4 1 = 1 ∧ zeros ∧ leAt b 8 4 ≠ 0 ∧ 1 ≤ n ∧ n ≤ 4094 ∧ leAt b 14 2 < n
      ∧ listSize b ≤ b.length ∧ ((ms.map (·.1)).eraseDups).length = n ∧ sumN (ms.map (·.2)) ≠ 0 then
    some ⟨leAt b 8 4, leAt b 14 2, ms⟩
  else none

/-- The list in force: the one in flash, if there is one. -/
def Nv.inForce (nv : Nv) : Option MList := listOf nv.list

/-- Version of the list in force, 0 if none. -/
def Nv.listVersion (nv : Nv) : Nat := (nv.inForce.map (·.version)).getD 0

/-- A device's weight (R391). -/
def weightOf (l : Option MList) (digest : Bytes) : Nat :=
  match l with
  | none => 1
  | some x => ((x.members.find? (fun m => m.1 = digest)).map (·.2)).getD 0

/-- Whether the list in force, if any, names a device (R384). -/
def listed (l : Option MList) (digest : Bytes) : Bool :=
  match l with
  | none => true
  | some x => x.members.any (fun m => m.1 = digest)

/-! ## Candidates (R381) -/

/-- A candidate for manager: rank, digest, hops, and the hop through which it is known; none for this device itself. -/
structure Cand where
  rank : Nat
  digest : Bytes
  hops : Nat
  via : Option Nat
  deriving DecidableEq, Repr

/-- Order of candidates: rank, then digest, then hops, then hop code. -/
def Cand.key (c : Cand) : Nat := ((c.rank * 2 ^ 256 + beNat c.digest) * 65536 + c.hops) * 256 + c.via.getD 0

/-- Whether a neighbour's manager_seq has advanced within manager_timeout_us. -/
def Dev.seqRecent (d : Dev) (n : Neighbour) : Bool := d.now < n.seqAt + d.managerNs

/-- A candidate that a neighbour makes known, unless it was dropped. A neighbour that follows a manager or coordinator, or is
one, advertises it as its best. -/
def Dev.candOf (d : Dev) (me : Bytes) (hop : Nat) (n : Neighbour) : Option Cand :=
  let h := n.hello
  if h.best = me ∨ beNat h.best = 0 ∨ d.fab.dom.dropped.any (fun x => x.1 = h.best && h.seq ≤ x.2) then none
  else
    let led : Bool := (h.role ≠ 0 || h.manager ≠ 0) && d.seqRecent n
    some ⟨if led then (if h.side = 1 then 1 else 2) else 3, h.best, h.hops + 1, some hop⟩

/-- Whether this device may become manager: FAB_DISC.eligible, and not in FAULT (R382, R407). -/
def Dev.eligible (d : Dev) : Bool := d.fld Fld.FAB_DISC_eligible 0 = 1 && d.boot.phase ≠ 6

/-- Every candidate this device knows. -/
def Dev.candidates (d : Dev) (me : Bytes) : List Cand :=
  (if d.role ≠ 0 then [(⟨if d.role = 1 ∧ d.side = 1 then 1 else 2, me, 0, none⟩ : Cand)]
    else if d.eligible then [⟨3, me, 0, none⟩] else [])
    ++ d.fab.dom.neighbours.filterMap (fun e => d.candOf me e.1 e.2)

/-- The best candidate. -/
def Dev.best (d : Dev) (me : Bytes) : Option Cand := minBy Cand.key (d.candidates me)

/-- The hop toward the best candidate: the parent (R383). -/
def Dev.parent (d : Dev) (me : Bytes) : Option Nat := (d.best me).bind (·.via)

/-- The HELLO that this device sends on a hop (R380). -/
def Dev.hello (d : Dev) (me : Bytes) (list hop : Nat) : Hello :=
  let b := d.best me
  { eligible := d.eligible, role := d.role, side := d.side, outHop := hop, addr := d.addr
    manager := d.fld Fld.FAB_MGR_manager_addr 0, epoch := d.fld Fld.FAB_EPOCH_domain_epoch 0, list := list
    seq := d.fab.dom.seq, hops := (b.map (·.hops)).getD 0, digest := me
    best := (b.map (·.digest)).getD (List.replicate 32 0) }

/-! ## The topology as the manager sees it -/

/-- A device of the component: digest, address and links. -/
structure Node where
  digest : Bytes
  addr : Nat
  links : List Adjacency
  deriving DecidableEq, Repr

/-- Cost of a hop: 1 natively, a tunnel neighbour's cost field otherwise (R385). -/
def Dev.hopCost (d : Dev) (hop : Nat) : Nat := if hop < 8 then 1 else d.fld Fld.FAB_TUN_CTRL_cost (hop - 8)

/-- This device's own links. -/
def Dev.links (d : Dev) : List Adjacency := d.fab.dom.neighbours.map (fun e => ⟨e.1, d.hopCost e.1, e.2.hello.digest⟩)

/-- This device and the devices it has REPORTs of. -/
def Dev.nodes (d : Dev) (me : Bytes) : List Node :=
  ⟨me, d.addr, d.links⟩ :: (d.fab.dom.members.filter (fun m => m.digest ≠ me)).map (fun m => ⟨m.digest, m.addr, m.links.flatMap (·.2)⟩)

/-- Adds the nodes one hop beyond those reached, with their hop count. -/
def spreadHop (ns : List Node) (k : Nat) (reached : List (Nat × Node)) : List (Nat × Node) :=
  let far := ((reached.filter (fun r => r.1 + 1 = k)).flatMap (fun r => r.2.links.map (·.digest))).eraseDups
  reached ++ (ns.filter (fun n => far.contains n.digest && !reached.any (fun r => r.2.digest = n.digest))).map (fun n => (k, n))

/-- The nodes reachable from the first one, with their hop counts (R384). -/
def reachable (ns : List Node) : List (Nat × Node) :=
  match ns with
  | [] => []
  | n :: _ => (List.range ns.length).foldl (fun r k => spreadHop ns (k + 1) r) [(0, n)]

/-- The component in breadth-first order: by hops, then digest. -/
def component (ns : List Node) : List (Nat × Node) :=
  sortBy (fun a b => decide (a.1 < b.1 ∨ a.1 = b.1 ∧ beNat a.2.digest ≤ beNat b.2.digest)) (reachable ns)

/-! ## Addresses (R384) -/

/-- The lowest address that no device holds. -/
def lowestFree (used : List Nat) : Option Nat :=
  ((List.range (min 4094 (used.length + 1))).map (· + 1)).find? (fun a => !used.contains a)

/-- The addresses of the component after assignment, in breadth-first order, and the devices left without one for want of
addresses. -/
def assignAll (l : Option MList) (cs : List (Nat × Node)) : List (Node × Nat) × List Bytes :=
  let keeps := fun (n : Node) => n.addr ≠ 0 && cs.all (fun c => c.2.addr ≠ n.addr || beNat n.digest ≤ beNat c.2.digest)
  let used := (cs.filter (fun c => keeps c.2)).map (·.2.addr)
  let r := cs.foldl (fun (acc : List (Node × Nat) × List Nat × List Bytes) c =>
    let n := c.2
    if keeps n then (acc.1 ++ [(n, n.addr)], acc.2)
    else if !listed l n.digest then (acc.1 ++ [(n, 0)], acc.2)
    else match lowestFree acc.2.1 with
      | some a => (acc.1 ++ [(n, a)], acc.2.1 ++ [a], acc.2.2)
      | none => (acc.1 ++ [(n, 0)], acc.2.1, acc.2.2 ++ [n.digest])) ([], used, [])
  (r.1, r.2.2)

/-! ## Routes (R385, R386) -/

/-- Rank of a device: hops from the manager, then address. -/
def nodeRank (x : Nat × Node) : Nat := x.1 * 4096 + x.2.addr

/-- The links of a node to devices of the component, with those devices. -/
def linksOf (cs : List (Nat × Node)) (n : Node) : List (Adjacency × (Nat × Node)) :=
  n.links.filterMap (fun l => (cs.find? (fun c => c.2.digest = l.digest)).map (fun c => (l, c)))

/-- Least of a list. -/
def leastN (l : List Nat) : Option Nat := minBy (fun x => x) l

/-- Least cost of a path of down hops. -/
def downCost (cs : List (Nat × Node)) (dst : Nat) : Nat → Nat × Node → Option Nat
  | 0, _ => none
  | fuel + 1, x =>
    if x.2.addr = dst then some 0
    else leastN ((linksOf cs x.2).filterMap (fun e =>
      if nodeRank x < nodeRank e.2 then (downCost cs dst fuel e.2).map (· + e.1.cost) else none))

/-- Least cost of a legal path: up hops, then down hops. -/
def legalCost (cs : List (Nat × Node)) (dst : Nat) : Nat → Nat × Node → Option Nat
  | 0, _ => none
  | fuel + 1, x =>
    if x.2.addr = dst then some 0
    else leastN ((linksOf cs x.2).filterMap (fun e =>
      if nodeRank e.2 < nodeRank x then (legalCost cs dst fuel e.2).map (· + e.1.cost)
      else (downCost cs dst fuel e.2).map (· + e.1.cost)))

/-- The routing entry of a device for a destination: up to 4 first hops of least cost, lower hop codes first; 0 where there
is no legal path (R385, R386). -/
def routeEntry (cs : List (Nat × Node)) (x : Nat × Node) (dst : Nat) : Nat :=
  let fuel := cs.length
  let firsts := (linksOf cs x.2).filterMap (fun e =>
    let c := if nodeRank e.2 < nodeRank x then legalCost cs dst fuel e.2 else downCost cs dst fuel e.2
    c.map (fun c => (e.1.hop, c + e.1.cost)))
  match leastN (firsts.map (·.2)) with
  | none => 0
  | some c =>
    let hops := ((sortN ((firsts.filter (fun f => f.2 = c)).map (·.1))).eraseDups).take 4
    2 ^ 31 + (hops.length - 1) * 2 ^ 28 + min 255 c * 2 ^ 20 + nth hops 3 0 * 2 ^ 15 + nth hops 2 0 * 2 ^ 10
      + nth hops 1 0 * 2 ^ 5 + nth hops 0 0

/-- A write of a routing entry: one with an unlisted hop code keeps the previous value, and the entries that are ignored stay
zero (R386). An entry that becomes pending holds new requests behind those issued under it before (R389). Waits on mirrors whose home cannot be reached any more end (R318). -/
def Dev.rtWrite (d : Dev) (dst v : Nat) : Dev :=
  let hops := [v % 32, v / 32 % 32, v / 1024 % 32, v / 32768 % 32]
  if hops.any (fun h => h > 23) ∨ dst = 0 ∨ dst = 0xFFF ∨ dst = d.addr then d
  else
    let old := d.fld Fld.FAB_RT_valid dst = 1
    let wait := d.fld Fld.FAB_RT_pending dst = 1
    let new : Dev := { d with regs := d.regs.put (Reg.FAB_RT.at dst) 0 (BitVec.ofNat 64 (v % 2 ^ 32)) }
    if (v / 2 ^ 30) % 4 = 1 ∧ !wait then
      { new with fab := { new.fab with
        pendAt := NMap.set new.fab.pendAt dst d.now
        olds := if old then NMap.set new.fab.olds dst ((d.fab.ops.filter (fun o => !o.dead && o.device = dst)).map (fun o => (o.slot, o.gen)))
          else new.fab.olds } }
    else new.splitWaits

/-- Local offset of a routing entry in the register window. -/
def rtOffset (dst : Nat) : Nat := 0xFFFC000000 + Reg.FAB_RT.at dst

/-- Writes a routing entry on a device: here directly, elsewhere by a Mortar write (R387). -/
def Dev.rtSend (d : Dev) (device dst v : Nat) : Dev × Acc :=
  if device = d.addr then (d.rtWrite dst v, .ok)
  else d.issue ⟨gotikRing, 0, 2, 0, 0, device, rtOffset dst, 4, none, 0, .route, leBytes 4 v⟩

/-- The second pass: the new entries are written; those whose write must wait stay. -/
def Dev.secondPass (d : Dev) : Dev :=
  let r := d.fab.dom.second.foldl (fun (acc : Dev × List (Nat × Nat × Nat)) e =>
    match acc.1.rtSend e.1 e.2.1 e.2.2 with
    | (_, .wait) => (acc.1, acc.2 ++ [e])
    | (d, _) => (d, acc.2)) (d, [])
  r.1.withDom { r.1.fab.dom with second := r.2 }

/-- Once every write of the first pass is acknowledged or given up, the second pass begins. -/
def Dev.routeAcked (d : Dev) : Dev :=
  if d.fab.dom.second.isEmpty ∨ d.fab.ops.any (fun o => o.use = .route && !o.dead) then d else d.secondPass

/-- Devices in the breadth-first address order of R387. -/
def byAddress (cs : List (Nat × Node)) : List (Nat × Node) := sortBy (fun a b => decide (nodeRank a ≤ nodeRank b)) cs

/-- ROUTE_REWRITE (R384, R387): every entry that changes is first made pending, then written anew. Devices that the list in
force does not name are not routed. -/
def Dev.rewrite (d : Dev) (l : Option MList) (me : Bytes) : Dev :=
  let cs := byAddress ((reachable (d.nodes me)).filter (fun c => c.2.addr ≠ 0 && listed l c.2.digest))
  let known : List Nat := (d.nodes me).map Node.addr ++ d.fab.dom.routes.map (fun (e : Nat × Nat) => e.1 % 4096)
  let addrs := known.eraseDups.filter (fun a => a ≠ 0)
  let want := cs.flatMap (fun x => (addrs.filter (fun a => a ≠ x.2.addr)).map (fun a => (x.2.addr, a, routeEntry cs x a)))
  let changed := want.filter (fun e => NMap.getD d.fab.dom.routes (4096 * e.1 + e.2.1) 0 ≠ e.2.2)
  let pend := fun (d : Dev) (es : List (Nat × Nat × Nat)) => es.foldl (fun (d : Dev) e => (d.rtSend e.1 e.2.1 (2 ^ 30)).1) d
  let far := changed.filter (fun e => e.1 ≠ d.addr && (match d.route e.1 with | .valid _ => true | _ => false))
  let near := changed.filter (fun e => e.1 = d.addr)
  let d := pend (pend d far) near
  let d := d.withDom { d.fab.dom with
    second := changed
    routes := changed.foldl (fun m e => NMap.set m (4096 * e.1 + e.2.1) e.2.2) d.fab.dom.routes }
  d.routeAcked

/-! ## Sides (R391, R392) -/

/-- The total weight W. -/
def Dev.totalWeight (d : Dev) (l : Option MList) : Nat :=
  match l with
  | some x => sumN (x.members.map (·.2))
  | none => d.fld Fld.FAB_WEIGHT_total 0

/-- The members of the component that hold addresses. -/
def holders (ns : List Node) : List Node := ((reachable ns).map (·.2)).filter (fun n => n.addr ≠ 0)

/-- The component's weight C. -/
def componentWeight (l : Option MList) (ns : List Node) : Nat := sumN ((holders ns).map (fun n => weightOf l n.digest))

/-- The digest of the tiebreaker (R390, R391). -/
def Dev.tieDigest (d : Dev) (l : Option MList) : Bytes :=
  match l with
  | some x => (nth x.members x.tiebreaker ([], 0)).1
  | none => d.fab.dom.tie

/-- The side of a component with a manager or coordinator (R392): 1 OWNING, 2 NON_OWNING. -/
def sideOf (c w : Nat) (tie : Bool) : Nat := if 2 * c > w ∨ 2 * c = w ∧ tie = true then 1 else 2

/-- Sets the side; pending waits on shared fences that it cuts off end (R318, R392, R393). -/
def Dev.setSideTo (d : Dev) (s : Nat) : Dev :=
  let d1 := d.setFld Fld.FAB_STATE_side 0 (BitVec.ofNat 64 s)
  (if s = 0 ∧ d.side ≠ 0 then d1.withDom { d1.fab.dom with formingAt := d.now } else d1).splitWaits

/-- Sets the role. -/
def Dev.setRole (d : Dev) (r : Nat) : Dev := d.setFld Fld.FAB_STATE_role 0 (BitVec.ofNat 64 r)

/-- The manager or coordinator decides its side: the weights are shown, a manager of a non-owning component becomes its
coordinator, and one of an owning component manager (R392). -/
def Dev.decideSide (d : Dev) (l : Option MList) (me : Bytes) : Dev :=
  let ns := d.nodes me
  let c := componentWeight l ns
  let w := d.totalWeight l
  let tie := (holders ns).any (fun n => n.digest = d.tieDigest l)
  let s := sideOf c w tie
  let d := if d.role = 1 ∧ s = 2 then d.bump Fld.FAB_SPLITS_count 0 1 else d
  let d := (d.setSideTo s).setRole (if s = 1 then 1 else 2)
  (d.setFld Fld.FAB_WEIGHT_component 0 (BitVec.ofNat 64 c)).setFld Fld.FAB_WEIGHT_total 0 (BitVec.ofNat 64 w)

/-- A formation of an owning component without a list is complete: W is the number of devices that hold addresses, and the
tiebreaker the one of lowest digest (R391). A component that lost devices keeps the W of its last complete formation. -/
def Dev.formed (d : Dev) (l : Option MList) (me : Bytes) : Dev :=
  let hs := holders (d.nodes me)
  if l.isNone ∧ d.side = 1 ∧ hs.length ≥ d.fld Fld.FAB_WEIGHT_total 0 then
    let d := d.setFld Fld.FAB_WEIGHT_total 0 (BitVec.ofNat 64 hs.length)
    d.withDom { d.fab.dom with tie := (minBy beNat (hs.map (·.digest))).getD [] }
  else d

/-- The hop toward a device: the one from which its REPORT came, or its own link. -/
def Dev.hopTo (d : Dev) (digest : Bytes) : Option Nat :=
  match d.fab.dom.members.find? (fun m => m.digest = digest) with
  | some m => some m.via
  | none => (d.fab.dom.neighbours.find? (fun e => e.2.hello.digest = digest)).map (·.1)

/-- The owning manager assigns addresses: those that change are announced by ASSIGN toward their devices, and its own is set;
a device that it finds no address for is counted once (R384). -/
def Dev.assignStep (d : Dev) (l : Option MList) (me : Bytes) : Dev :=
  let r := assignAll l (component (d.nodes me))
  let news := d.fab.dom.members.filter (fun m => r.2.contains m.digest && !m.left)
  let d := d.bump Fld.FAB_UNASSIGNED_count 0 news.length
  let d := d.withDom { d.fab.dom with members := d.fab.dom.members.map (fun m => { m with left := r.2.contains m.digest }) }
  let d := r.1.foldl (fun (d : Dev) x =>
    if x.1.digest = me then d.setFld Fld.FAB_ADDR_addr 0 (BitVec.ofNat 64 x.2)
    else d.withDom { d.fab.dom with members := d.fab.dom.members.map (fun m =>
      if m.digest = x.1.digest then { m with addr := x.2 } else m) }) d
  let d := d.setFld Fld.FAB_MGR_manager_addr 0 (BitVec.ofNat 64 d.addr)
  let d := d.formed l me
  r.1.foldl (fun (d : Dev) x =>
    if x.1.digest = me ∨ x.2 = 0 ∨ x.2 = x.1.addr then d
    else match d.hopTo x.1.digest with
      | some hop => d.sendDisc hop (assignBytes x.2 d.addr (d.fld Fld.FAB_EPOCH_domain_epoch 0) (d.totalWeight l) x.1.digest)
      | none => d) d

/-- Every exported fence's value is sent again to its subscribers (R318, R394). -/
def Dev.resendFences (d : Dev) : Dev :=
  d.sub.exports.foldl (fun (d : Dev) (e : Nat × List Nat) => match (d.entry e.1).payload with
    | .fence off => d.pushFence e.1 off
    | _ => d) d

end Sys2Proof.Machine
end

