-- ==== Sys2Proof/Machine/Springs.lean ====
section
/-! DEFINITION. Springs (R215 to R223): the spring port, starting and stopping, tile fetches with their translation
prefetch, ready bits and release. -/

namespace Sys2Proof.Machine

/-- The fields of a spring descriptor (R216). -/
structure SpringD where
  base : Nat
  rowStride : Nat
  rowBytes : Nat
  rows : Nat
  stepX : Nat
  stepY : Nat
  countX : Nat
  count : Nat
  dest : Nat
  slotStride : Nat
  pitch : Nat
  slots : Nat
  reserved : Nat
  deriving DecidableEq, Repr

/-- A descriptor from its 64 bytes. -/
def springD (b : Bytes) : SpringD :=
  ⟨leAt b 0 8, leAt b 8 4, leAt b 12 2, leAt b 14 2, leAt b 16 8, leAt b 24 8, leAt b 32 4, leAt b 36 4, leAt b 40 4, leAt b 44 4,
    leAt b 48 2, leAt b 50 1 % 16, leAt b 50 1 / 16 + leAt b 51 1 + leAt b 52 12⟩

/-- Whether a descriptor may run in a block with `ls` bytes of local store (R216, R217). -/
def SpringD.ok (s : SpringD) (ls : Nat) : Bool :=
  s.base % 16 = 0 && s.rowStride % 16 = 0 && s.rowBytes % 16 = 0 && 16 ≤ s.rowBytes && s.rowBytes ≤ 4096
    && 1 ≤ s.rows && s.rows ≤ 1024 && s.stepX % 16 = 0 && s.stepY % 16 = 0 && 1 ≤ s.countX && s.countX < 2 ^ 24
    && 1 ≤ s.count && s.dest % 64 = 0 && s.slotStride % 64 = 0 && s.rows * s.pitch ≤ s.slotStride
    && s.pitch % 16 = 0 && s.rowBytes ≤ s.pitch && 1 ≤ s.slots && s.slots ≤ 8 && s.reserved = 0
    && s.dest + (s.slots - 1) * s.slotStride + (s.rows - 1) * s.pitch + s.rowBytes - 1 < ls

/-- Virtual address of row `r` of tile `i`; addresses wrap (R216). -/
def SpringD.rowVa (s : SpringD) (i r : Nat) : Wide :=
  BitVec.ofNat 64 (s.base + i % s.countX * s.stepX + i / s.countX * s.stepY + s.rowStride * r)

/-- Where row `r` of tile `i` goes in the owner's local store (R216). -/
def SpringD.rowAt (s : SpringD) (i r : Nat) : Nat := s.dest + i % s.slots * s.slotStride + r * s.pitch

/-- A spring that has never run. -/
def Spring.idle : Spring := ⟨List.replicate 64 0, none, false, 0⟩

/-- Spring `k` of brick `n`. -/
def Dev.spring (d : Dev) (n k : Nat) : Spring := nth (d.brick n).springs k Spring.idle

/-- Replaces spring `k` of brick `n`. -/
def Dev.setSpring (d : Dev) (n k : Nat) (s : Spring) : Dev := d.modBrick n (fun b => { b with springs := setNth b.springs k s })

/-- Changes the run of a spring. -/
def Dev.modRun (d : Dev) (n k : Nat) (f : SpringRun → SpringRun) : Dev :=
  let s := d.spring n k
  d.setSpring n k { s with run := s.run.map f }

/-- Whether a block owns a running spring. -/
def SpringRun.ownedBy (r : SpringRun) (b : BlockRef) : Bool := r.ring = b.ring && r.serial = b.serial && r.block = b.block

/-- An access that the port does not allow (R215). -/
def Dev.springErr (d : Dev) : Dev := d.bump Fld.MEM_SPRING_ERR_count 0 1

/-- Index of the next tile to fetch: every tile from `head` on is released, ready or being fetched. -/
def SpringRun.next (r : SpringRun) : Nat := r.head + r.released.length + r.ready.length + r.fetching.length

/-- The status word (R220). -/
def Spring.status (s : Spring) : Wide :=
  match s.run with
  | none => BitVec.ofNat 64 ((if s.done then 512 else 0) + s.lastHead % 2 ^ 32 * 2 ^ 32)
  | some r =>
    let k := (springD r.desc).slots
    let ready := r.ready.foldl (fun m i => m ||| 2 ^ (i % k)) 0
    BitVec.ofNat 64 (ready + 256 + (if r.parts.any (fun x => x.part.state = .fault) then 1024 else 0) + r.head % 2 ^ 32 * 2 ^ 32)

/-- The control word: 0 while idle (R217, R222). -/
def Spring.control (s : Spring) : Wide := if s.run.isSome then 1 else 0

/-! ## Translation prefetch (R219) -/

/-- Requests one translation for a read without faulting and without a record (R207, R219). -/
def Dev.prefetchPage (d : Dev) (q : Req) (va : Wide) : Dev :=
  if bitsN va 63 52 ≠ 0 ∨ d.fld Fld.XLT_AS_CTRL_enable q.asid = 0 ∨ (d.cached? q.asid va.toNat).isSome then d
  else match d.walk q.asker q.asid va.toNat with
    | (d, .leaf e l) =>
      if leafAllows q.part accRead e then
        let size := 2 ^ pageLog2 l
        { d with xlt := { d.xlt with cache := d.xlt.cache ++ [⟨q.asid, va.toNat / size * size, size, e⟩] } }
      else d
    | _ => d

/-- The reference of the block that owns a run. -/
def SpringRun.ref (r : SpringRun) : BlockRef := ⟨r.ring, r.serial, r.block⟩

/-- Pages of the tiles up to 16 indices beyond the oldest unreleased one. -/
def Dev.prefetchTiles (d : Dev) (n k : Nat) : Dev :=
  match (d.spring n k).run with
  | none => d
  | some r =>
    let s := springD r.desc
    match d.findBlock r.ref with
    | none => d
    | some (_, b) =>
      let q := d.blockReq n b engSpring .none
      ((List.range 17).map (r.head + ·)).foldl (fun d i =>
        if i < s.count then (List.range s.rows).foldl (fun d row =>
          let va := s.rowVa i row
          (d.prefetchPage q va).prefetchPage q (va + BitVec.ofNat 64 (s.rowBytes - 1))) d
        else d) d

/-! ## Start, stop and release -/

/-- A store of bytes to the descriptor area by a block (R215). -/
def Dev.springStore (d : Dev) (n k o : Nat) (data : Bytes) : Dev :=
  if k < 4 ∧ o + data.length ≤ 64 ∧ (data.length = 4 ∨ data.length = 8) ∧ o % 4 = 0 then
    let s := d.spring n k
    d.setSpring n k { s with desc := splice s.desc o data }
  else d.springErr

/-- A compare-exchange of the control word from 0 to 1 (R217): the old value, and the device. -/
def Dev.springStart (d : Dev) (n k : Nat) (b : Block) : Wide × Dev :=
  let s := d.spring n k
  match s.run with
  | some r => (1, if r.ownedBy b.bref then d else d.springErr)
  | none =>
    if (springD s.desc).ok b.lsBytes then
      let run : SpringRun := ⟨b.ring, b.serial, b.index, s.desc, 0, [], [], [], []⟩
      (0, (d.setSpring n k { s with run := some run, done := false, lastHead := 0 }).prefetchTiles n k)
    else (0, d.endByBlock n b Sts.badDescriptor)

/-- Fetches in flight of a spring that stops are discarded when they complete (R222). -/
def Dev.dropSpringOps (d : Dev) (n k : Nat) : Dev :=
  d.withOps (d.fab.ops.map (fun o => match o.use with
    | .spring _ b j _ _ _ _ => if b = n ∧ j = k then { o with dead := true } else o
    | _ => o))

/-- A block stores 0 to the control word: its own spring returns to idle (R217, R222). -/
def Dev.springStop (d : Dev) (n k : Nat) (b : Block) : Dev :=
  let s := d.spring n k
  match s.run with
  | none => d
  | some r =>
    if r.ownedBy b.bref then (d.dropSpringOps n k).setSpring n k { s with run := none, lastHead := r.head }
    else d.springErr

/-- Moves `head` past released tiles in index order; `fuel` bounds their number. -/
def SpringRun.advance : Nat → SpringRun → SpringRun
  | 0, r => r
  | fuel + 1, r => if r.released.contains r.head then
      SpringRun.advance fuel { r with head := r.head + 1, released := r.released.filter (· ≠ r.head) }
    else r

/-- The owner releases ready slots by a mask; when every tile has been released the spring is done (R221, R222). -/
def Dev.springRelease (d : Dev) (n k : Nat) (b : Block) (mask : Nat) : Dev :=
  let s := d.spring n k
  match s.run with
  | none => d
  | some r =>
    if r.ownedBy b.bref then
      let slots := (springD r.desc).slots
      let go := r.ready.filter (fun i => mask.testBit (i % slots))
      let r := { r with ready := r.ready.filter (fun i => !go.contains i), released := r.released ++ go }
      let r := SpringRun.advance r.released.length r
      if r.head = (springD r.desc).count then d.setSpring n k { s with run := none, done := true, lastHead := r.head }
      else (d.setSpring n k { s with run := some r }).prefetchTiles n k
    else d.springErr

/-! ## Tile fetches -/

/-- Lines that a request touches. -/
def linesOf (a n : Nat) : Nat := (a + n + 63) / 64 - a / 64

/-- Outstanding line requests of a spring (R218). -/
def Dev.springLines (d : Dev) (n k : Nat) : Nat :=
  sumN ((d.fab.ops.filter (fun o => match o.use with
    | .spring _ m j _ _ _ _ => m = n && j = k
    | _ => false)).map (fun o => linesOf o.addr o.len))

/-- Issues the reads of a part of a tile row at another device, from what has been issued on, while the spring has fewer than 64
line requests outstanding (R218). -/
def Dev.rowFar (d : Dev) (n k : Nat) (q : Req) (ref : BlockRef) (x : TilePart) (dev a : Nat) : Dev × PartRun :=
  let p := x.part
  (pieces 256 (a + p.issued) (p.len - p.issued)).foldl (fun (acc : Dev × PartRun) e =>
    if acc.2.state ≠ .todo ∨ acc.2.issued ≠ e.1 - a ∨ acc.1.springLines n k + linesOf e.1 e.2 > 64 then acc
    else match acc.1.issue ⟨q.ring, q.serial, 1, 0, 0, dev, e.1, e.2, some q.asid, p.va.toNat + (e.1 - a),
        .spring ref n k x.tile x.row p.va (e.1 - a), []⟩ with
      | (d, .ok) =>
        let done := acc.2.issued + e.2
        (d, { acc.2 with issued := done, left := acc.2.left + 1, state := if done = p.len then .sent else .todo })
      | (_, .wait) => acc
      | (d, .fail s) => (d.noteFault ref s, { acc.2 with state := .refused })) (d, p)

/-- Requests one part of a tile row, whose translation is given (R219, R234, R235): from this device into local store at once,
from another one by reads. A fault is given back. -/
def Dev.rowTry (d : Dev) (n k : Nat) (b : Block) (s : SpringD) (q : Req) (x : TilePart) (xl : Xl) :
    Dev × TilePart × Option (Nat × Nat) :=
  let p := x.part
  let with' := fun (st : PartState) => { x with part := { p with state := st } }
  match xl with
  | .wait => (d, x, none)
  | .fail st => (d.noteFault b.bref st, with' .refused, none)
  | .fault kd l => (d, with' .fault, some (kd, l))
  | .ok leaf level => match d.physical leaf level p.va.toNat with
    | .here a =>
      if d.refused q.part false leaf a then (d.noteFault b.bref Sts.permissionFault, with' .refused, none)
      else match d.readAt q.asker (bitsN leaf 7 6 ≠ 2) a p.len with
        | (d, .ok, bs) => (d.lsWrite n b (s.rowAt x.tile x.row + (p.va - s.rowVa x.tile x.row).toNat) bs, with' .done, none)
        | (d, .wait, _) => (d, x, none)
        | (d, .fail st, _) => (d.noteFault b.bref st, with' .refused, none)
    | .there dev a =>
      if farRefused a then (d.noteFault b.bref Sts.permissionFault, with' .refused, none)
      else
        let r := d.rowFar n k q b.bref x dev a
        (r.1, { x with part := r.2 }, none)

/-- The stream of a part of a tile row. -/
def TilePart.stream (x : TilePart) (ref : BlockRef) (n k : Nat) : Stream := .spring ref n k x.tile x.row x.part.va

/-- Whether a part has been performed or is on its way (R238). -/
def PartRun.performed (p : PartRun) : Bool := p.state = .done || p.state = .sent

/-- Requests one part again, or for the first time; a row that crosses a page boundary becomes two parts, and a part that
faults is recorded, partial when the row's other part has been performed (R234, R235, R238). -/
def Dev.rowStep (d : Dev) (n k : Nat) (b : Block) (s : SpringD) (others : List TilePart) (x : TilePart) : Dev × List TilePart :=
  let q := d.blockReq n b engSpring .none
  let sp := d.splitRequest q x.part.va x.part.len accRead
  let r := sp.2.foldl (fun (acc : Dev × List (TilePart × Option (Nat × Nat))) e =>
    let y : TilePart := { x with part := { x.part with va := e.1, len := e.2.1 } }
    let z := acc.1.rowTry n k b s q y e.2.2
    (z.1, acc.2 ++ [z.2])) (sp.1, [])
  let all := r.2.map (·.1)
  let d := r.2.foldl (fun (d : Dev) e => match e.2 with
    | none => d
    | some (kd, l) =>
      let p := e.1.part
      let st := e.1.stream b.bref n k
      let partly := (others ++ all).any (fun y => y.tile = x.tile && y.row = x.row && y.part.va ≠ p.va && y.part.performed)
      if d.faultOpen q.asid st p.va p.len then d
      else d.recordFault q.asid ({ q with stream := st }.record p.va p.len kd l accRead partly)) r.1
  (d, all)

/-- Requests every part of a spring that can be requested now, in order; `fuel` counts the parts. While a PREEMPT saves the ring
of the owner nothing is requested (R218, R219, R347). -/
def Dev.pumpFrom (n k : Nat) : Nat → Nat → Dev → Dev
  | 0, _, d => d
  | fuel + 1, i, d => match (d.spring n k).run with
    | none => d
    | some r => match r.parts[i]?, d.findBlock r.ref with
      | some x, some (m, b) =>
        if x.part.state ≠ .todo ∨ m ≠ n ∨ (d.ring r.ring).saving then Dev.pumpFrom n k fuel (i + 1) d
        else
          let y := d.rowStep n k b (springD r.desc) (r.parts.eraseIdx i) x
          let d := y.1.modRun n k (fun r => { r with parts := r.parts.take i ++ y.2 ++ r.parts.drop (i + 1) })
          Dev.pumpFrom n k fuel (i + y.2.length) d
      | _, _ => d

/-- Requests what a spring can request now; a failing access ends the dispatch (R218, R219, R223). -/
def Dev.pump (d : Dev) (n k : Nat) : Dev :=
  match (d.spring n k).run with
  | none => d
  | some r => (Dev.pumpFrom n k r.parts.length 0 d).endFaulted r.ring r.serial

/-- The parts of a tile before its rows are requested, one for each row. -/
def SpringD.tileParts (s : SpringD) (tile : Nat) : List TilePart :=
  (List.range s.rows).map (fun row => ⟨tile, row, ⟨s.rowVa tile row, s.rowBytes, [], 0, 0, .todo⟩⟩)

/-- SPRING_TILE_FETCH: the spring fetches its next tile into its slot once the tile `slots` earlier has been released (R218,
R219, R223). -/
def Dev.tileFetch (d : Dev) (n k : Nat) : Dev :=
  match (d.spring n k).run with
  | none => d
  | some r =>
    let s := springD r.desc
    let i := r.next
    if i < s.count ∧ (i < s.slots ∨ i - s.slots < r.head ∨ r.released.contains (i - s.slots)) ∧ !(d.ring r.ring).saving then
      (d.modRun n k (fun r => { r with fetching := r.fetching ++ [i], parts := r.parts ++ s.tileParts i })).pump n k
    else d.pump n k

/-- SPRING_TILE_READY: every byte of a tile has been written to its slot, and its ready bit is set (R219, R220). -/
def Dev.tileReady (d : Dev) (n k slot : Nat) : Dev :=
  match (d.spring n k).run with
  | none => d
  | some r =>
    let slots := (springD r.desc).slots
    match r.fetching.find? (fun i => i % slots = slot) with
    | none => d
    | some i =>
      if r.parts.all (fun x => x.tile ≠ i || x.part.state = .done) then
        d.modRun n k (fun r => { r with
          fetching := r.fetching.filter (· ≠ i), ready := r.ready ++ [i], parts := r.parts.filter (fun x => x.tile ≠ i) })
      else d

/-- Changes a part of a spring's tile rows. -/
def SpringRun.modPart (r : SpringRun) (tile row : Nat) (va : Wide) (f : PartRun → PartRun) : SpringRun :=
  { r with parts := r.parts.map (fun x => if x.tile = tile ∧ x.row = row ∧ x.part.va = va then { x with part := f x.part } else x) }

/-- One transfer of a part has ended: the part is complete when all of it has been issued and nothing is outstanding. -/
def PartRun.arrived (p : PartRun) : PartRun :=
  { p with left := p.left - 1, state := if p.state = .sent ∧ p.left ≤ 1 then .done else p.state }

/-- A response to a transfer of a tile row: its bytes go into the owner's local store, and the spring goes on (R219). -/
def Dev.rowArrived (d : Dev) (ref : BlockRef) (n k tile row : Nat) (va : Wide) (off : Nat) (bs : Bytes) : Dev :=
  match (d.spring n k).run, d.findBlock ref with
  | some r, some (m, b) =>
    if m = n ∧ r.ownedBy ref then
      let s := springD r.desc
      let d := d.lsWrite n b (s.rowAt tile row + (va - s.rowVa tile row).toNat + off) bs
      (d.modRun n k (fun r => r.modPart tile row va PartRun.arrived)).pump n k
    else d
  | _, _ => d

/-- A fault of a part of a tile row is replayed: the part is requested again (R219, R242). -/
def Dev.replayRow (d : Dev) (ref : BlockRef) (n k tile row : Nat) (va : Wide) : Dev :=
  match (d.spring n k).run with
  | some r =>
    if r.ownedBy ref then
      (d.modRun n k (fun r => r.modPart tile row va (fun p => if p.state = .fault then { p with state := .todo } else p))).pump n k
    else d
  | none => d

/-! ## The port as memory (R215) -/

/-- A plain or atomic load at a port offset of the issuing brick: the value, and the device. -/
def Dev.portLoad (d : Dev) (n o len : Nat) : Dev × Bytes :=
  let zero := List.replicate len (0 : Byte)
  if o ≥ 0x400 then (d, zero)
  else
    let k := o / 256
    if len = 8 ∧ o % 256 = 0x40 then (d, leBytes 8 (d.spring n k).control.toNat)
    else if len = 8 ∧ o % 256 = 0x48 then (d, leBytes 8 (d.spring n k).status.toNat)
    else (d.springErr, zero)

/-- A plain or atomic store at a port offset by a block. -/
def Dev.portStore (d : Dev) (n : Nat) (b : Block) (o : Nat) (bs : Bytes) (atomic : Bool) : Dev :=
  if o ≥ 0x400 then d
  else
    let k := o / 256
    let x := o % 256
    if x < 0x40 ∧ !atomic then d.springStore n k x bs
    else if x = 0x40 ∧ bs.length = 8 ∧ atomic then
      if leNat bs = 0 then d.springStop n k b
      else match (d.spring n k).run with
        | some r => if r.ownedBy b.bref then d else d.springErr
        | none => d
    else if x = 0x50 ∧ bs.length = 8 then d.springRelease n k b (leNat bs)
    else d.springErr

/-- A compare-exchange at a port offset: the value found, and the device. -/
def Dev.portCas (d : Dev) (n : Nat) (b : Block) (o len : Nat) (compare swap : Wide) : Dev × Wide :=
  if o ≥ 0x400 then (d, 0)
  else if o % 256 = 0x40 ∧ len = 8 then
    let k := o / 256
    let old := (d.spring n k).control
    if old ≠ compare then (d, old)
    else if old = 0 ∧ swap = 1 then let r := d.springStart n k b; (r.2, r.1)
    else if old = 1 then (d.portStore n b o (leBytes 8 swap.toNat) true, old)
    else (d, old)
  else (d.springErr, 0)

/-! ## Rows -/

/-- Runs an action for a resident, running block; the blocks of a dispatch whose ring a PREEMPT saves have stopped, those of a
pass run on (R347). -/
def Dev.withBlock (d : Dev) (r : BlockRef) (f : Nat → Block → Dev) : Dev :=
  match d.findBlock r with
  | some (n, b) => if b.done || ((d.ring r.ring).saving && b.stage = .compute) then d else f n b
  | none => d

/-- SPRING_PORT_BAD_ACCESS: whether R215 allows an access; one it does not allow reads zero, writes nothing and counts. -/
def portAllows (o size : Nat) (store atomic : Bool) : Bool :=
  o ≥ 0x400
    || (o % 256 + size ≤ 0x40 && store && !atomic && (size = 4 || size = 8) && o % 4 = 0)
    || (o % 256 = 0x40 && size = 8 && (atomic || !store))
    || (o % 256 = 0x48 && size = 8 && !store)
    || (o % 256 = 0x50 && size = 8 && store)

end Sys2Proof.Machine
end

