-- ==== Sys2Proof/Machine/Lanes.lean ====
section
/-! DEFINITION. Barriers and exits of lanes (R65, R72 to R76). -/

namespace Sys2Proof.Machine

/-! ## Barriers -/

/-- The blocks whose lanes a barrier scope waits for, with their bricks. -/
def Dev.scopeBlocks (d : Dev) (n : Nat) (b : Block) (scope : Scope) : List (Nat × Block) :=
  match scope with
  | .cluster => d.clusterBlocks b
  | _ => [(n, b)]

/-- Threads of a block within a barrier scope: of one course, or all. -/
def Block.scopeThreads (b : Block) (scope : Scope) (thread : Nat) : List Nat :=
  match scope with
  | .course => (List.range b.threads).filter (fun t => t / 32 = thread / 32)
  | _ => List.range b.threads

/-- Whether a thread counts as arrived at an instance (R73). -/
def Block.arrivedAt (b : Block) (t site count : Nat) : Bool :=
  b.exited.contains t || b.arrivals.any (fun a => a.1 = t && a.2.1 = site && a.2.2 ≥ count)

/-- Whether the instance at which a lane is blocked completes (R73). -/
def Dev.completes (d : Dev) (n : Nat) (b : Block) (x : Blocked) : Bool :=
  (d.scopeBlocks n b x.scope).all (fun p => (p.2.scopeThreads x.scope x.thread).all (fun t => p.2.arrivedAt t x.site x.count))

/-- BARRIER_COMPLETE: instances of a block, and cluster instances of its peers, that complete (R73). -/
def Dev.barrierComplete (d : Dev) (n : Nat) (b : Block) : Dev :=
  let all := (d.clusterBlocks b)
  let all := if all.isEmpty then [(n, b)] else all
  -- every test is made on one state, then the lanes become runnable together
  all.foldl (fun acc (p : Nat × Block) =>
    let go := p.2.blocked.filter (fun x => d.completes p.1 p.2 x)
    if go.isEmpty then acc
    else acc.modBlock p.1 p.2.bref (fun y => { y with blocked := y.blocked.filter (fun x => !go.contains x) })) d

/-- The arrival count of a lane at a site so far. -/
def Block.countAt (b : Block) (t site : Nat) : Nat :=
  match b.arrivals.find? (fun a => a.1 = t && a.2.1 = site) with
  | some a => a.2.2
  | none => 0

/-- One lane arrives at its next instance of a barrier and is blocked until it completes (R72). A stall interval that begins
here has the given limit; one already open at the instance keeps its own (R66). -/
def Block.arrive (scope : Scope) (site limit : Nat) (b : Block) (t : Nat) : Block :=
  let k := b.countAt t site + 1
  let lim := match b.blocked.find? (fun x => x.site = site && x.count = k && x.scope = scope) with
    | some x => x.limit
    | none => limit
  { b with
    arrivals := (t, site, k) :: b.arrivals.filter (fun a => !(a.1 = t && a.2.1 = site))
    blocked := b.blocked ++ [⟨t, site, k, scope, 0, lim⟩] }

/-- OP_CONTROL_BARRIER: the lanes of a path arrive (R72, R73). -/
def Dev.controlBarrier (d : Dev) (r : BlockRef) (scope : Scope) (site : Nat) (threads : List Nat) : Dev :=
  d.withBlock r (fun n b =>
    if (scope = .course ∨ scope = .block ∨ scope = .cluster) ∧ threads.all (fun t => b.runs t) ∧ threads.eraseDups = threads then
      let d := d.modBlock n r (fun b => threads.foldl (Block.arrive scope site (d.fld Fld.BRK_STALL_LIMIT_stall_limit n)) b)
      match d.findBlock r with
      | some (n, b) => d.barrierComplete n b
      | none => d
    else d)

/-- Lanes of a block that have not exited. -/
def Block.alive (b : Block) : List Nat := (List.range b.threads).filter (fun t => !b.exited.contains t)

/-- Whether every lane that has not exited is blocked. -/
def Block.stuck (b : Block) : Bool := b.alive.all (fun t => b.blocked.any (fun x => x.thread = t))

/-- The block for which DIVERGENT_BARRIER is raised while `b` stands as it does (R74): `b` when every lane of it that has not exited
is blocked, so that none of its instances can complete; for a cluster barrier, when the same holds of the whole cluster, the
block of lowest rank. DESIGN CHOICE (log entry 119): the lowest rank is sought among the blocks of the cluster that have not exited whole, since
the spec does not say whether one that has exited may be named. While peers run, a block whose lanes wait at cluster barriers
alone is not stuck. -/
def Dev.divergentAt (d : Dev) (n : Nat) (b : Block) : Option (Nat × Block) :=
  let cl := (d.clusterBlocks b).filter (fun (p : Nat × Block) => !p.2.done)
  let wide := cl.any (fun (p : Nat × Block) => p.2.blocked.any (fun x => x.scope = .cluster))
  if wide && cl.all (fun (p : Nat × Block) => p.2.stuck) then minBy (fun (p : Nat × Block) => p.2.rank) cl
  else if b.stuck && !b.alive.isEmpty && (!wide || b.blocked.any (fun x => x.scope ≠ .cluster)) then some (n, b)
  else none

/-- Whether a block has been in its stall interval for BRK_STALL_LIMIT brick clocks, and R74 has not applied (R66, R75). Stall
counts are kept in thousandths of a clock. -/
def Dev.watchdogDue (d : Dev) (n : Nat) (b : Block) : Bool :=
  b.blocked.any (fun x => x.stall ≥ 1000 * x.limit) && (d.divergentAt n b).isNone

/-- The running blocks of a command, with their bricks. -/
def Dev.blocksOf (d : Dev) (ring : Nat) (serial : Wide) : List (Nat × Block) :=
  d.bricks.flatMap (fun (e : Nat × Brick) =>
    (e.2.live.filter (fun x => x.ring = ring && x.serial = serial)).map (fun x => (e.1, x)))

/-- A status is raised for a block. Of the blocks of its dispatch whose watchdogs are due as well, which then raise theirs in the
same I/O clock, the one with the lowest index decides (R76). -/
def Dev.raise (d : Dev) (n : Nat) (b : Block) (status : Half) : Dev :=
  let due := (d.blocksOf b.ring b.serial).filter (fun (p : Nat × Block) => p.2.index < b.index && d.watchdogDue p.1 p.2)
  match minBy (fun (p : Nat × Block) => p.2.index) due with
  | some p => d.endByBlock p.1 p.2 Sts.watchdog
  | none => d.endByBlock n b status

/-- DIVERGENT_BARRIER: no barrier instance of a block, or of its cluster, can complete, and the dispatch ends (R74, R76). -/
def Dev.divergentEnd (d : Dev) (r : BlockRef) : Dev :=
  d.withBlock r (fun n b => match d.divergentAt n b with
    | some p => d.raise p.1 p.2 Sts.divergentBarrier
    | none => d)

/-- WATCHDOG: a block's stall interval has reached its limit, and the dispatch ends (R75, R76). -/
def Dev.watchdogEnd (d : Dev) (r : BlockRef) : Dev :=
  d.withBlock r (fun n b => if d.watchdogDue n b then d.raise n b Sts.watchdog else d)

/-! ## Exits -/

/-- What a command learns of the end of one of its blocks: a dispatch counts it, and a pass has what its course has stored
(R60, R145, R151). -/
def Cmd.blockEnded (c : Cmd) (b : Block) : Cmd :=
  match c.run with
  | .dispatch r => { c with run := .dispatch { r with exited := r.exited + 1 } }
  | .pass p => { c with run := .pass { p with
      courses := p.courses.map (fun x => if x.no = b.index then { x with outs := some b.outputs } else x) } }
  | _ => c

/-- The last lane of a block has exited: its springs stop, and its resources go; the local stores of a cluster stay until
all of its blocks have exited (R65, R222). -/
def Dev.blockDone (d : Dev) (n : Nat) (b : Block) : Dev :=
  let d := (List.range 4).foldl (fun d k => match (d.spring n k).run with
    | some r => if r.ownedBy b.bref then d.springStop n k b else d
    | none => d) d
  let d := d.modBlock n b.bref (fun b => { b with done := true, blocked := [] })
  let peers := d.clusterBlocks b
  let d := if peers.length = b.clusterSize ∧ peers.all (fun (p : Nat × Block) => p.2.done) then
      peers.foldl (fun d (p : Nat × Block) => d.takeOff p.1 (fun y => y.isRef p.2.bref)) d
    else d
  d.modCmd b.ring b.serial (fun c => c.blockEnded b)

/-- BLOCK_EXIT: threads of a block exit; barrier instances that waited for them complete, and a block whose last lane exits
is done (R60, R65, R73). -/
def Dev.exitThreads (d : Dev) (r : BlockRef) (threads : List Nat) : Dev :=
  d.withBlock r (fun n b =>
    if threads.all (fun t => b.runs t) then
      let d := d.modBlock n r (fun b => { b with exited := b.exited ++ threads.eraseDups })
      match d.findBlock r with
      | none => d
      | some (n, b) =>
        let d := d.barrierComplete n b
        if b.alive.isEmpty then d.blockDone n b else d
    else d)

end Sys2Proof.Machine
end

