-- ==== Sys2Proof/Machine/Heap.lean ====
section
/-! DEFINITION. The tile-list heap of a pass (R153 to R155, R158): its chunks, list segments and primitive records, and its image in
the heap object. -/

namespace Sys2Proof.Machine

/-! ## The tile-list heap (R153 to R155) -/

/-- Heap chunks in use: the head table and the others. -/
def PassRun.inUse (p : PassRun) (r : PassRec) : Nat := r.heads + p.chunks.length

/-- The last chunk of a kind that a front-end has. -/
def PassRun.lastChunk (p : PassRun) (kind fe : Nat) : Option Nat :=
  ((p.chunks.zipIdx).filter (fun e => e.1.kind = kind && e.1.fe = fe)).getLast?.map (·.2)

/-- Allocates a chunk when one is free; the peak counts it (R158). -/
def PassRun.newChunk (p : PassRun) (r : PassRec) (kind fe : Nat) : Option (Nat × PassRun) :=
  if p.inUse r < r.chunks + p.granted then
    some (p.chunks.length, { p with
      chunks := p.chunks ++ [⟨kind, fe, p.partials, 0, []⟩], peak := max p.peak (p.inUse r + 1) })
  else none

/-- Allocates a list segment of a front-end: its chunk (index in the heap) and segment number. -/
def PassRun.newSeg (p : PassRun) (r : PassRec) (fe : Nat) : Option ((Nat × Nat) × PassRun) :=
  let put := fun (q : PassRun) (i : Nat) =>
    let n := (nth q.chunks i ⟨1, fe, 0, 0, []⟩).segs.length
    ((r.heads + i, n + 1), { q with chunks := modNth q.chunks i (fun c => { c with segs := c.segs ++ [⟨[], none⟩] }) })
  match p.lastChunk 1 fe with
  | some i => if (nth p.chunks i ⟨1, fe, 0, 0, []⟩).segs.length < 255 then some (put p i)
      else (p.newChunk r 1 fe).map (fun q => put q.2 q.1)
  | none => (p.newChunk r 1 fe).map (fun q => put q.2 q.1)

/-- Changes a segment. -/
def PassRun.modSeg (p : PassRun) (r : PassRec) (at0 : Nat × Nat) (f : Seg → Seg) : PassRun :=
  { p with chunks := modNth p.chunks (at0.1 - r.heads) (fun c => { c with segs := modNth c.segs (at0.2 - 1) f }) }

/-- Entries of a segment. -/
def PassRun.segLength (p : PassRun) (r : PassRec) (at0 : Nat × Nat) : Nat :=
  (nth (nth p.chunks (at0.1 - r.heads) ⟨1, 0, 0, 0, []⟩).segs (at0.2 - 1) ⟨[], none⟩).entries.length

/-- Lists a primitive in one tile. -/
def PassRun.listIn (p : PassRun) (r : PassRec) (fe tile : Nat) (e : Nat × Nat) : Option PassRun :=
  let k := 2 * tile + fe
  let add := fun (q : PassRun) (s : Nat × Nat) => q.modSeg r s (fun x => { x with entries := x.entries ++ [e] })
  match NMap.get? p.heads k with
  | none => (p.newSeg r fe).map (fun q => add { q.2 with heads := NMap.set q.2.heads k (q.1, q.1) } q.1)
  | some (first, last) =>
    if p.segLength r last < 30 then some (add p last)
    else (p.newSeg r fe).map (fun q =>
      let x := q.2.modSeg r last (fun y => { y with link := some q.1 })
      add { x with heads := NMap.set x.heads k (first, q.1) } q.1)

/-- Places a primitive record of `n` bytes; the heap byte offset ÷ 64. -/
def PassRun.putRecord (p : PassRun) (r : PassRec) (fe n : Nat) : Option (Nat × PassRun) :=
  let put := fun (q : PassRun) (i : Nat) =>
    let u := (nth q.chunks i ⟨2, fe, 0, 0, []⟩).used
    (((r.heads + i) * 65536 + 64 + u) / 64, { q with chunks := modNth q.chunks i (fun c => { c with used := u + n }) })
  match p.lastChunk 2 fe with
  | some i => if (nth p.chunks i ⟨2, fe, 0, 0, []⟩).used + n ≤ 65536 - 64 then some (put p i)
      else (p.newChunk r 2 fe).map (fun q => put q.2 q.1)
  | none => (p.newChunk r 2 fe).map (fun q => put q.2 q.1)

/-- Bytes of a primitive record with `v` Output locations (R154). -/
def recordSize (v : Nat) : Nat := roundUp (16 + 3 * (16 + 16 * v)) 64

/-- Lists the primitive in hand as far as free chunks go: its record first, then tile by tile (R154, R156). None when it needs a chunk
and none is free; the pass with what has been listed comes with either answer. `fuel` bounds the tiles. -/
def PassRun.listOn (r : PassRec) (v : Nat) : Nat → PassRun → PartPrim → PassRun × Bool
  | 0, p, _ => (p, true)
  | fuel + 1, p, x =>
    match x.record with
    | none => match p.putRecord r x.prim.fe (recordSize v) with
      | none => ({ p with current := some x }, false)
      | some (o, q) => PassRun.listOn r v fuel q { x with record := some o }
    | some o => match x.tiles with
      | [] => ({ p with current := none, listed := p.listed ++ [x.prim], binned := p.binned + 1, since := p.since + 1 }, true)
      | t :: ts => match p.listIn r x.prim.fe t (x.prim.seq, o) with
        | none => ({ p with current := some x }, false)
        | some q => PassRun.listOn r v fuel q { x with tiles := ts }

/-- The bytes of a segment link (R154). -/
def linkBytes (l : Option (Nat × Nat)) : Bytes :=
  match l with
  | some (c, s) => leBytes 4 c ++ leBytes 4 s
  | none => leBytes 4 0xFFFFFFFF ++ leBytes 4 0

/-- The head table and the chunks as they lie in the heap object (R153, R154). DESIGN CHOICE (log entry 111): the spec gives the size of a
primitive record and not its contents, which are free bytes. -/
def PassRun.heapImage (p : PassRun) (r : PassRec) (base : Wide) : List VWrite :=
  let at0 := fun (n : Nat) (bs : Bytes) => (⟨base + BitVec.ofNat 64 n, bs, false⟩ : VWrite)
  let heads := (List.range (r.tiles.1 * r.tiles.2 * 2)).map (fun k => at0 (8 * k) (linkBytes ((NMap.get? p.heads k).map (·.1))))
  heads ++ (p.chunks.zipIdx).flatMap (fun e =>
    let o := (r.heads + e.2) * 65536
    let c := e.1
    let header := at0 o (leBytes 1 c.kind ++ leBytes 1 c.fe ++ leBytes 2 c.flush ++ leBytes 4 (r.heads + e.2)
      ++ leBytes 4 (if c.kind = 1 then c.segs.length else c.used))
    let records := if c.kind = 1 then [] else [at0 (o + 64) ((List.range c.used).map (fun k => Config.freeByte p.free (2 ^ 36 * c.flush + o + k)))]
    header :: records ++ (c.segs.zipIdx).flatMap (fun s =>
      [at0 (o + 256 * (s.2 + 1)) (linkBytes s.1.link ++ leBytes 1 s.1.entries.length),
        at0 (o + 256 * (s.2 + 1) + 16) (s.1.entries.flatMap (fun x => leBytes 4 x.1 ++ leBytes 4 x.2))]))

/-- The writes that bring the heap object up to what binning has made: of those that differ from what was written before. -/
def PassRun.heapNews (p : PassRun) (r : PassRec) (base : Wide) : PassRun :=
  let new := p.heapImage r base
  { p with image := new, heapWrites := p.heapWrites ++ new.filter (fun w => !p.image.contains w && !w.data.isEmpty) }

end Sys2Proof.Machine
end

