-- ==== Sys2Proof/Machine/Atomics.lean ====
section
/-! DEFINITION. Atomic operations (R84 to R89): what each leaves in memory, its Mortar code and operands (R368), and how it
is performed at a home slice, on the spring port and in local stores. -/

namespace Sys2Proof.Machine

/-- The value an atomic leaves, for the value it finds: none where it writes nothing. -/
def AtomOp.result (op : AtomOp) (size : Nat) (old : Nat) (l : LaneAtomic) : Option Nat :=
  let m := 2 ^ (8 * size)
  let w := 8 * size
  let v := l.value.toNat % m
  match op with
  | .load => none
  | .store => some v
  | .exchange => some v
  | .cas => if old = l.compare.toNat % m then some v else none
  | .add .add => some ((old + v) % m)
  | .add .sub => some ((old + m - v) % m)
  | .add .increment => some ((old + 1) % m)
  | .add .decrement => some ((old + m - 1) % m)
  | .minMax .umin => some (min old v)
  | .minMax .umax => some (max old v)
  | .minMax .smin => some (if signed w v < signed w old then v else old)
  | .minMax .smax => some (if signed w old < signed w v then v else old)
  | .bitwise .band => some (old &&& v)
  | .bitwise .bor => some (old ||| v)
  | .bitwise .bxor => some (old ^^^ v)
  | .fadd => some (if size = 2 then f16Add old v else f32Add old v)

/-- Sizes that an operation takes (R84). -/
def AtomOp.sizeOk (op : AtomOp) (size : Nat) : Bool :=
  match op with
  | .fadd => size = 2 || size = 4
  | _ => size = 4 || size = 8

/-- Mortar codes of an atomic (R368). -/
def AtomOp.code (op : AtomOp) (size : Nat) : Nat :=
  match op with
  | .load => 0 | .store => 1 | .exchange => 2 | .cas => 3
  | .add .add => 4 | .add .increment => 4 | .add .sub => 5 | .add .decrement => 5
  | .minMax .smin => 6 | .minMax .smax => 7 | .minMax .umin => 8 | .minMax .umax => 9
  | .bitwise .band => 10 | .bitwise .bor => 11 | .bitwise .bxor => 12
  | .fadd => if size = 2 then 14 else 13

/-- Operands of a Mortar atomic (R368). -/
def AtomOp.operands (op : AtomOp) (l : LaneAtomic) : Bytes :=
  match op with
  | .cas => leBytes 8 l.compare.toNat ++ leBytes 8 l.value.toNat
  | .add .increment => leBytes 8 1
  | .add .decrement => leBytes 8 1
  | _ => leBytes 8 l.value.toNat

/-- The read, modification and write of an atomic at the home slice of this device's memory: the value found. `mode` is the
compressed-region mode of the mapping, none for a request that was not translated (R85, R255). -/
def Dev.atomicHome (d : Dev) (q : Asker) (cached : Bool) (mode : Option Nat) (a size : Nat) (f : Nat → Option Nat) :
    Dev × Acc × Nat :=
  match d.readAt q cached a size with
  | (d, .ok, bs) =>
    let old := leNat bs
    match f old with
    | none => (d, .ok, old)
    | some v => ((d.localWrite q cached mode .local a (leBytes size v)).1, .ok, old)
  | (d, g, _) => (d, g, 0)

/-- A 64-bit OpAtomicUMax that has changed a fence word is a signal: an exported word's new value goes to its subscribers
(R312, R317). -/
def Dev.afterMax (d : Dev) (op : AtomOp) (size a : Nat) (done : Acc) (old : Nat) : Dev :=
  if op = .minMax .umax ∧ size = 8 ∧ done = .ok ∧ (d.wordRead a).map (·.toNat) ≠ some old then d.pushWord a else d

/-- An atomic of one lane on the spring port (R215). -/
def Dev.atomicPort (d : Dev) (n : Nat) (b : Block) (o size : Nat) (op : AtomOp) (l : LaneAtomic) : Dev × Wide :=
  match op with
  | .load => let r := d.portLoad n o size; (r.1, BitVec.ofNat 64 (leNat r.2))
  | .store => (d.portStore n b o (leBytes size l.value.toNat) true, 0)
  | .cas => d.portCas n b o size l.compare l.value
  | _ => (if o ≥ 0x400 then d else d.springErr, 0)

/-- The value a lane receives from an atomic. -/
def atomValue (size old : Nat) : List Word := laneWords (leBytes (max 4 size) old)

/-- One lane's atomic on a local store, in the pond of the brick that owns it: the value found (R64, R85). Beyond the block's own
local store it writes nothing and finds an undefined value. -/
def Dev.atomicLocal (d : Dev) (n : Nat) (b : Block) (cluster : Bool) (size : Nat) (op : AtomOp) (l : LaneAtomic) : Dev × Nat :=
  let o := l.addr.toNat
  let place : Option (Nat × Block × Nat) := if cluster then d.clusterPlace b o size
    else if o + size ≤ b.lsBytes then some (n, b, o) else none
  match place with
  | some (m, p, x) =>
    let old := leNat (d.lsRead m p x size)
    (match op.result size old l with
      | some v => d.lsWrite m p x (leBytes size v)
      | none => d, old)
  | none =>
    if cluster then (d.bump Fld.BRK_LS_OOR_oor_count n 1, 0)
    else let r := d.freeBytes size; (r.1, leNat r.2)

end Sys2Proof.Machine
end

