-- ==== Sys2Proof/Machine/Images.lean ====
section
/-! DEFINITION. What an access to an image comes to (R172 to R174, R159, R164), given the bytes of its descriptors and texels. -/

namespace Sys2Proof.Machine

/-- A result that needs bytes of memory: it stands, or names a virtual address and a length that have not been read yet. -/
abbrev Tex (α : Type) := Except (Wide × Nat) α

/-- What the evaluation of an image access rests on: the bytes it has read, by virtual address, which addresses belong to the
attachments of its own pass (R142), and what names its free values. -/
structure TexEnv where
  buf : List (Nat × Bytes)
  own : List (Nat × Nat)
  free : Nat
  deriving DecidableEq, Repr

/-- Free value `i` of an evaluation. -/
def TexEnv.freeNat (e : TexEnv) (i : Nat) : Nat := leNat ((List.range 4).map (fun k => Config.freeByte e.free (4 * i + k)))

/-- A free word. -/
def TexEnv.freeWord (e : TexEnv) (i : Nat) : Word := BitVec.ofNat 32 (e.freeNat i)

/-- Bytes of memory. -/
def TexEnv.bytes (e : TexEnv) (va : Wide) (n : Nat) : Tex Bytes :=
  match held e.buf va.toNat n with
  | some bs => .ok bs
  | none => .error (va, n)

/-- The stored bytes of a texel, and, when its region has a nonzero flag, its address with the flag: of a region whose flag is 00
the header's clear value (R159, R162, R164). A texel of an attachment of the access's own pass is undefined (R142). -/
def TexEnv.texel (e : TexEnv) (i : ImageD) (x y layer level smp : Nat) : Tex (Bytes × List (Wide × Nat)) :=
  let a := i.at x y layer level smp
  let va : Wide := BitVec.ofNat 64 a
  let mine := e.own.any (fun r => r.1 ≤ a && a < r.2)
  let seen := fun (bs : Bytes) => if mine then (List.range bs.length).map (fun k => Config.freeByte e.free (2 ^ 32 + a + k)) else bs
  if i.flags = 0 ∨ i.linear = true then do
    let bs ← e.bytes va i.bytes
    return (seen bs, [])
  else do
    let r := x / 32 + ceilDiv i.w 32 * (y / 32)
    let fb ← e.bytes (BitVec.ofNat 64 (i.flags + 64 + r / 4)) 1
    let f := flagOf (nth fb 0 0) r
    if f = 0 then
      let h ← e.bytes (BitVec.ofNat 64 i.flags) 16
      return (seen (clearBytes i.format h), [])
    else
      let bs ← e.bytes va i.bytes
      return (seen bs, [(va, f)])

/-- A finite number, or what a limit of a sampler or an operand that is not finite stands for: an infinity for the farthest level, and
what a NaN does is free. -/
def TexEnv.finite (e : TexEnv) (i : Nat) (v : FVal) : Rat :=
  match v with
  | .inf n => if n then -65536 else 65536
  | .nan => (e.freeNat i % 65536 : Nat)
  | v => (v.toRat).getD 0

/-- The level of detail of a sampled read: biased and clamped (R173). -/
def TexEnv.lod (e : TexEnv) (s : SamplerD) (lod : Word) : Rat :=
  let f16 := fun (i c : Nat) => e.finite i (Fmt.fp16.decode c)
  max (f16 0 s.lodMin) (min (f16 1 s.lodMax) (e.finite 2 (f32Val lod.toNat) + f16 3 s.lodBias))

/-- The levels that a sampled read takes: with linear mip filtering the two around its level of detail, else the nearest one,
the finer of two equally near (R173). -/
def mipLevels (i : ImageD) (s : SamplerD) (lod : Rat) : List Nat :=
  let l := max 0 (min ((i.levels : Rat) - 1) lod)
  if s.mipLinear then ([l.floor.toNat, l.floor.toNat + 1].filter (· < i.levels)) else [((l + 1 / 2).ceil - 1).toNat]

/-- The texel indices along one axis that a read takes: the one that holds the coordinate, or the two whose centres lie around it
(R173). -/
def tapIndices (linear unnorm : Bool) (c : Rat) (n : Nat) : List Int :=
  let u := if unnorm then c else c * (n : Rat)
  if linear then [(u - 1 / 2).floor, (u - 1 / 2).floor + 1] else [u.floor]

/-- One tap's words, compared with the reference when the sampler says so (R173). -/
def tapWords (s : SamplerD) (ref : Word) (ws : List Word) : List Word :=
  if s.compare then
    [if compareFn s.compareOp (f32Val ref.toNat) (f32Val (nth ws 0 0).toNat) then 0x3F800000 else 0, 0, 0, 0x3F800000]
  else ws

/-- One tap: a texel, the border where the address mode leaves the image, and a free value where the image has no such layer. -/
def TexEnv.tap (e : TexEnv) (i : ImageD) (s : SamplerD) (g : ImageArgs) (level : Nat) (x y : Int) :
    Tex (List Word × List (Wide × Nat)) :=
  match wrapCoord s.addrU x (max 1 (i.w / 2 ^ level)), wrapCoord s.addrV y (max 1 (i.h / 2 ^ level)) with
  | some x, some y =>
    if i.has x y g.layer level 0 then do
      let t ← e.texel i x y g.layer level 0
      return (tapWords s g.ref (i.load t.1), t.2)
    else return ((List.range 4).map (fun k => e.freeWord (16 + k)), [])
  | _, _ => return (tapWords s g.ref (borderColor s.border), [])

/-- A channel of a filtered value. The weights that a linear filter gives its taps are not stated: the value is a free one between the
least and the greatest of them; where a tap is not a finite number, or the format holds integers, it is free. -/
def TexEnv.mixed (e : TexEnv) (i : ImageD) (taps : List (List Word)) (k : Nat) : Word :=
  match taps.mapM (fun t => (f32Val (nth t k 0).toNat).toRat), colorInt i.format && decide (i.format < 0x80) with
  | some (v :: vs), false =>
    let lo := vs.foldl min v
    let hi := vs.foldl max v
    BitVec.ofNat 32 (f32OfRat (lo + (hi - lo) * (((e.freeNat (32 + k) % (2 ^ 24 + 1) : Nat) : Rat) / (2 ^ 24 : Nat))))
  | _, _ => e.freeWord (32 + k)

/-- A sampled read (R173): its words, and the texels read from regions with nonzero flags. -/
def TexEnv.sample (e : TexEnv) (i : ImageD) (s : SamplerD) (g : ImageArgs) : Tex (List Word × List (Wide × Nat)) := do
  let lod := e.lod s g.lod
  let linear := if lod ≤ 0 then s.magLinear else s.minLinear
  let u := e.finite 4 (f32Val g.u.toNat)
  let v := e.finite 5 (f32Val g.v.toNat)
  let places := (mipLevels i s lod).flatMap (fun l =>
    (tapIndices linear s.unnorm v (max 1 (i.h / 2 ^ l))).flatMap (fun y =>
      (tapIndices linear s.unnorm u (max 1 (i.w / 2 ^ l))).map (fun x => (l, x, y))))
  let taps ← places.mapM (fun p => e.tap i s g p.1 p.2.1 p.2.2)
  match taps with
  | [t] => return t
  | ts => return ((List.range 4).map (fun k => e.mixed i (ts.map (·.1)) k), ts.flatMap (·.2))

/-- What an image access comes to: a descriptor that is not valid, nothing, a value with the texels read from regions with nonzero
flags, the bytes of a texel to write, or the texel on which an atomic is to be performed. -/
inductive ImageEnd where
  | bad
  | nothing
  | value (ws : List Word) (flagged : List (Wide × Nat))
  | write (va : Wide) (bs : Bytes)
  | atom (va : Wide)
  deriving DecidableEq, Repr

/-- The place of the texel that an access names. -/
def ImageD.va (i : ImageD) (g : ImageArgs) : Wide := BitVec.ofNat 64 (i.at g.x g.y g.layer g.level g.sample)

/-- Evaluates an access to an image (R85, R172 to R174). A read beyond the image gives a free value and a write beyond it writes nothing.
DESIGN CHOICE (log entry 34): an image store to a depth format writes nothing, and reads of D24S8 and D32S8 images give depth only: the spec
gives image stores and stencil reads of depth formats no meaning. Atomics are performed on R32_UINT and R32_SINT texels only; on others
one writes nothing and finds a free value. -/
def TexEnv.access (e : TexEnv) (g : ImageArgs) (op : PathOp) (data : List Word) : Tex ImageEnd := do
  let ib ← e.bytes g.desc 32
  let i := imageD ib
  let has := i.has g.x g.y g.layer g.level g.sample
  let free := ImageEnd.value ((List.range 4).map (fun k => e.freeWord (40 + k))) []
  if !i.ok then return .bad
  else match op with
    | .store => return if has && i.format < 0x80 then .write (i.va g) (i.store data) else .nothing
    | .atomic _ => return if has && (i.format = 13 || i.format = 14) then .atom (i.va g) else free
    | .load => match g.sampler with
      | none =>
        if has then
          let t ← e.texel i g.x g.y g.layer g.level g.sample
          return .value (i.load t.1) t.2
        else return free
      | some sv =>
        let sb ← e.bytes sv 32
        let s := samplerD sb
        if !s.ok then return .bad
        else
          let t ← e.sample i s g
          return .value t.1 t.2

/-- The virtual addresses that the attachments of a pass take (R142). -/
def PassRec.ranges (r : PassRec) : List (Nat × Nat) :=
  r.planes.map (fun p => let s := r.surface p; (s.base, s.base + s.size r.h))

end Sys2Proof.Machine
end

