-- ==== Sys2Proof/Machine/Paths.lean ====
section
/-! DEFINITION. Memory instructions of paths (R80 to R89, R231 to R237, R247): each lane's request part by part, here and at other
devices, the values that lanes get when every request is complete, replays and responses. -/

namespace Sys2Proof.Machine

/-- A part of a request that has not been tried. -/
def PartRun.fresh (va : Wide) (len : Nat) (data : Bytes) : PartRun := ⟨va, len, data, 0, 0, .todo⟩

/-- A part that reads. -/
def PartRun.reading (va : Wide) (len : Nat) : PartRun := .fresh va len (List.replicate len 0)

/-- The part of a part that lies in one page. -/
def PartRun.cut (p : PartRun) (va : Wide) (len : Nat) : PartRun :=
  { p with va := va, len := len, data := slice p.data (va - p.va).toNat (if p.data.length > p.len then p.data.length else len) }

/-- Bytes of a part are there without an operation. -/
def PartRun.have (p : PartRun) (off : Nat) (bs : Bytes) : PartRun :=
  let n := p.issued + bs.length
  { p with data := splice p.data off bs, issued := n, state := if n < p.len then .todo else if p.left = 0 then .done else .sent }

/-- An operation for some bytes of a part has been issued. -/
def PartRun.send (p : PartRun) (n : Nat) : PartRun :=
  { p with issued := p.issued + n, left := p.left + 1, state := if p.issued + n < p.len then .todo else .sent }

/-- What a part of a lane's request does: while an image access gathers what it needs, it reads. -/
def LaneRun.does (l : LaneRun) (op : PathOp) : PathOp := if l.image.isSome then .load else op

/-- The access kind of a request (R232, R238). -/
def PathOp.access : PathOp → Nat
  | .load => accRead
  | .store => accWrite
  | .atomic _ => accAtomic

/-- A lane of an instruction in progress: its brick and block, its request, the instruction's number and operand size, and the thread. -/
structure LaneAt where
  brick : Nat
  block : Block
  req : Req
  path : Nat
  size : Nat
  thread : Nat
  deriving DecidableEq, Repr

/-- The use of an operation for bytes of a part. -/
def LaneAt.use (x : LaneAt) (p : PartRun) (skip len off : Nat) (fill : Option Nat) : OpUse :=
  .lane x.block.bref x.path x.thread p.va skip len off fill

/-! ## On this device -/

/-- Whether accesses to a place are made of naturally aligned parts only (R81): the spring port and the doorbell slots take no wider ones
(R215, R297). -/
def partwise (a : Nat) : Bool :=
  match regionOf a with
  | .spring _ => true
  | .doorbell _ _ => true
  | _ => false

/-- Loads bytes of this device for a lane: memory through the pond, the spring port of its brick, a doorbell slot. -/
def Dev.hereLoad (d : Dev) (x : LaneAt) (leaf : Wide) (a len : Nat) : Dev × Acc × Bytes :=
  let one := fun (d : Dev) (a n : Nat) => match regionOf a with
    | .spring o => let r := d.portLoad x.brick o n; (r.1, Acc.ok, r.2)
    | _ => d.laneRead x.brick x.block x.req leaf a n
  if partwise a then
    (alignedParts len a len).foldl (fun acc p => match acc.2.1 with
      | .ok => let r := one acc.1 p.1 p.2; (r.1, r.2.1, acc.2.2 ++ r.2.2)
      | _ => acc) (d, .ok, [])
  else one d a len

/-- Stores bytes of this device for a lane. -/
def Dev.hereStore (d : Dev) (x : LaneAt) (leaf : Wide) (a : Nat) (bs : Bytes) : Dev × Acc :=
  match regionOf a with
  | .spring _ => ((alignedParts bs.length a bs.length).foldl (fun d p => match regionOf p.1 with
      | .spring o => d.portStore x.brick x.block o (slice bs (p.1 - a) p.2) false
      | _ => d) d, .ok)
  | _ => d.laneWrite x.brick x.block x.req leaf a bs

/-- A lane's atomic on this device: at the home slice of its address, never in the pond, whose copy of the line goes home first
(R85); on the spring port; on a doorbell slot, where it finds zero and writes nothing (R297). The value found. -/
def Dev.hereAtomic (d : Dev) (x : LaneAt) (leaf : Wide) (a : Nat) (op : AtomOp) (l : LaneAtomic) : Dev × Acc × Nat :=
  match regionOf a with
  | .spring o => let r := d.atomicPort x.brick x.block o x.size op l; (r.1, .ok, r.2.toNat)
  | .doorbell _ _ => (d, .ok, 0)
  | _ =>
    let r := (d.evictLine x.brick (a / 64)).atomicHome x.req.asker (bitsN leaf 7 6 ≠ 2) (some (bitsN leaf 53 52)) a x.size
      (fun old => op.result x.size old l)
    (r.1.afterMax op x.size a r.2.1 r.2.2, r.2)

/-- A part that a status ends: the dispatch or pass is to end with it (R83, R232). -/
def Dev.refusePart (d : Dev) (x : LaneAt) (p : PartRun) (st : Half) : Dev × PartRun :=
  (d.noteFault x.block.bref st, { p with state := .refused })

/-- A part whose place is on this device. -/
def Dev.herePart (d : Dev) (x : LaneAt) (does : PathOp) (atom : Option LaneAtomic) (p : PartRun) (leaf : Wide) (a : Nat) :
    Dev × PartRun :=
  let done := fun (bs : Bytes) => { p with data := bs, issued := p.len, state := PartState.done }
  let r : Dev × Acc × Bytes := match does, atom with
    | .atomic op, some l => let r := d.hereAtomic x leaf a op l; (r.1, r.2.1, leBytes (max 4 x.size) r.2.2)
    | .store, _ => let r := d.hereStore x leaf a p.data; (r.1, r.2, p.data)
    | _, _ => d.hereLoad x leaf a p.len
  match r with
  | (d, .ok, bs) => (d, done bs)
  | (_, .wait, _) => (d, p)
  | (d, .fail st, _) => d.refusePart x p st

/-! ## At other devices (R78, R82, R85, R389) -/

/-- Issues one operation for bytes of a part. -/
def Dev.sendPart (d : Dev) (x : LaneAt) (p : PartRun) (kind op size dev addr len n : Nat) (use : OpUse) (data : Bytes) : Dev × PartRun :=
  match d.issue ⟨x.req.ring, x.req.serial, kind, op, size, dev, addr, len, some x.req.asid, p.va.toNat + p.issued, use, data⟩ with
  | (d, .ok) => (d, p.send n)
  | (_, .wait) => (d, p)
  | (d, .fail st) => d.refusePart x p st

/-- How many bytes from byte `o` on, at most `n`, are all valid or all not. -/
def sameRun (m : Wide) (o : Nat) : Nat → Nat
  | 0 => 0
  | n + 1 => if sameRun m o n = n ∧ m.getLsbD (o + n) = m.getLsbD o then n + 1 else sameRun m o n

/-- One transfer of a load from a line of another device that the pond may hold: bytes that it holds valid are there, and for others
the whole line is fetched (R78). -/
def Dev.farLine (d : Dev) (x : LaneAt) (dev at0 : Nat) (p : PartRun) : Dev × PartRun :=
  let key := pondKey dev at0
  let o := at0 % 64
  let n := min (64 - o) (p.len - p.issued)
  match d.pondLook x.brick x.block key o n with
  | (d, some bs) => (d, p.have p.issued bs)
  | (e, none) =>
    let l := NMap.getD (e.brick x.brick).pond key PondLine.empty
    let k := sameRun l.valid o n
    if l.valid.getLsbD o then (e, p.have p.issued (slice l.data o k))
    else
      let r := e.sendPart x p 1 0 0 dev (at0 / 64 * 64) 64 k (x.use p o k p.issued (some x.brick)) []
      if r.2 = p then (d, p) else r

/-- One transfer of a load from another device that passes the pond by: whole 4-byte units (R368). -/
def Dev.farBytes (d : Dev) (x : LaneAt) (dev at0 n : Nat) (p : PartRun) : Dev × PartRun :=
  let lo := at0 / 4 * 4
  d.sendPart x p 1 0 0 dev lo (roundUp (at0 + n) 4 - lo) n (x.use p (at0 - lo) n p.issued none) []

/-- Length of the next transfer of a part that passes the pond by. -/
def nextPiece (at0 n : Nat) : Nat :=
  match (if partwise at0 then alignedParts 1 at0 n else pieces 256 at0 n) with
  | e :: _ => e.2
  | [] => n

/-- Loads what is left of a part at another device; `fuel` bounds the transfers. -/
def Dev.farLoad (x : LaneAt) (leaf : Wide) (dev a : Nat) : Nat → Dev → PartRun → Dev × PartRun
  | 0, d, p => (d, p)
  | fuel + 1, d, p =>
    let at0 := a + p.issued
    let r := if pondable leaf at0 then d.farLine x dev at0 p else d.farBytes x dev at0 (nextPiece at0 (p.len - p.issued)) p
    if r.2.state = .todo ∧ r.2.issued > p.issued then Dev.farLoad x leaf dev a fuel r.1 r.2 else r

/-- Stores what is left of a part at another device: into the pond, or by writes (R82). -/
def Dev.farStore (x : LaneAt) (leaf : Wide) (dev a : Nat) : Nat → Dev → PartRun → Dev × PartRun
  | 0, d, p => (d, p)
  | fuel + 1, d, p =>
    let at0 := a + p.issued
    let bs := fun (n : Nat) => slice p.data p.issued n
    let r := if pondable leaf at0 then
        let n := min (64 - at0 % 64) (p.len - p.issued)
        (d.pondWrite x.brick x.block 0 (pondKey dev at0) (at0 % 64) (bs n), p.have p.issued (bs n))
      else
        let n := nextPiece at0 (p.len - p.issued)
        d.sendPart x p 2 0 0 dev at0 n n (x.use p 0 0 0 none) (bs n)
    if r.2.state = .todo ∧ r.2.issued > p.issued then Dev.farStore x leaf dev a fuel r.1 r.2 else r

/-- A lane's atomic at another device: a Mortar atomic at the home slice, never in the pond, whose copy of the line goes home first (R85). -/
def Dev.farAtomic (d : Dev) (x : LaneAt) (dev a : Nat) (op : AtomOp) (l : LaneAtomic) (p : PartRun) : Dev × PartRun :=
  (d.evictLine x.brick (pondKey dev a)).sendPart x p 3 (op.code x.size) (Nat.log2 x.size - 1) dev a x.size p.len
    (x.use p 0 (if op = .store then 0 else max 4 x.size) 0 none) (op.operands l)

/-- A part whose place is on another device. -/
def Dev.farPart (d : Dev) (x : LaneAt) (does : PathOp) (atom : Option LaneAtomic) (p : PartRun) (leaf : Wide) (dev a : Nat) :
    Dev × PartRun :=
  match does, atom with
  | .atomic op, some l => d.farAtomic x dev a op l p
  | .store, _ => Dev.farStore x leaf dev a p.len d p
  | _, _ => Dev.farLoad x leaf dev a p.len d p

/-! ## Parts of a request -/

/-- Tries one part, whose translation is given: the part as it then stands, and a fault (R232, R235). -/
def Dev.tryPart (d : Dev) (x : LaneAt) (does : PathOp) (atom : Option LaneAtomic) (p : PartRun) (xl : Xl) :
    Dev × PartRun × Option (Nat × Nat) :=
  match xl with
  | .wait => (d, p, none)
  | .fail st => let r := d.refusePart x p st; (r.1, r.2, none)
  | .fault k l => (d, { p with state := .fault }, some (k, l))
  | .ok leaf level =>
    let r := match d.physical leaf level p.va.toNat with
      | .here a => if d.refused x.req.part true leaf a then d.refusePart x p Sts.permissionFault else d.herePart x does atom p leaf a
      | .there dev a => if farRefused a then d.refusePart x p Sts.permissionFault else d.farPart x does atom p leaf dev a
    (r.1, r.2, none)

/-- Translates a part: one of which something has been issued stays whole, any other is cut at a page boundary (R234). -/
def Dev.partPages (d : Dev) (x : LaneAt) (access : Nat) (p : PartRun) : Dev × List (PartRun × Xl) :=
  if p.issued > 0 then
    let t := d.translate x.req p.va access
    (t.1, [(p, t.2)])
  else
    let s := d.splitRequest x.req p.va p.len access
    (s.1, s.2.map (fun e => (p.cut e.1 e.2.1, e.2.2)))

/-- Tries every part of a lane that is left; parts that fault are recorded, partial when another part of the request has been
performed or issued (R234 to R238). -/
def Dev.tryParts (d : Dev) (x : LaneAt) (does : PathOp) (atom : Option LaneAtomic) (ps : List PartRun) : Dev × List PartRun :=
  let r := ps.foldl (fun (acc : Dev × List (PartRun × Option (Nat × Nat))) p =>
    if p.state ≠ .todo then (acc.1, acc.2 ++ [(p, none)])
    else
      let s := acc.1.partPages x does.access p
      s.2.foldl (fun acc e =>
        let y := acc.1.tryPart x does atom e.1 e.2
        (y.1, acc.2 ++ [y.2])) (s.1, acc.2)) (d, [])
  let all := r.2.map (·.1)
  let d := r.2.foldl (fun (d : Dev) e => match e.2 with
    | none => d
    | some (k, l) =>
      let st : Stream := .lane x.block.bref x.path x.thread e.1.va
      if d.faultOpen x.req.asid st e.1.va e.1.len then d
      else d.recordFault x.req.asid ({ x.req with stream := st }.record e.1.va e.1.len k l does.access
        (all.any (fun y => y.va ≠ e.1.va && y.performed)))) r.1
  (d, all)

/-! ## Lanes -/

/-- The compressed-region mode of the page of an address. -/
def Dev.pageMode (d : Dev) (q : Req) (va : Wide) : Nat :=
  match (d.translate q va accRead).2 with
  | .ok leaf _ => bitsN leaf 53 52
  | _ => 0

/-- Texels read from regions whose flag disagrees with their page's mode are counted (R164). -/
def Dev.countFlags (d : Dev) (q : Req) (l : List (Wide × Nat)) : Dev :=
  d.bump Fld.RAS_FLAG_MISMATCH_count 0 (l.filter (fun e => e.2 ≠ d.pageMode q e.1 + 1)).length

/-- An image access has what it needs: the lane has its value, or the part that it writes or on which its atomic is performed
(R172 to R174). -/
def Dev.imageEnds (d : Dev) (x : LaneAt) (l : LaneRun) (e : ImageEnd) : Dev × LaneRun :=
  let l := { l with image := none, parts := [] }
  match e with
  | .bad => (d.bump Fld.RAS_DESC_ERROR_count 0 1, { l with value := some [0, 0, 0, 0] })
  | .nothing => (d, l)
  | .value ws flagged => (d.countFlags x.req flagged, { l with value := some ws })
  | .write va bs => (d, { l with parts := [.fresh va bs.length bs], value := none })
  | .atom va => (d, { l with parts := [{ PartRun.reading va x.size with data := List.replicate (max 4 x.size) 0 }] })

/-- Carries a lane on as far as it goes; `fuel` bounds the reads of an image access. -/
def Dev.laneOn (x : LaneAt) (op : PathOp) (own : List (Nat × Nat)) : Nat → Dev → LaneRun → Dev × LaneRun
  | 0, d, l => (d, l)
  | fuel + 1, d, l =>
    let r := d.tryParts x (l.does op) l.atom l.parts
    let l := { l with parts := r.2 }
    match l.image with
    | none => (r.1, l)
    | some g =>
      if l.parts.any (fun p => p.state ≠ .done) then (r.1, l)
      else
        let l := { l with got := l.got ++ l.parts.map (fun p => (p.va.toNat, p.data)), parts := [] }
        match TexEnv.access ⟨l.got, own, l.free⟩ g op (l.value.getD []) with
        | .error e => Dev.laneOn x op own fuel r.1 { l with parts := [.reading e.1 e.2] }
        | .ok e =>
          let y := r.1.imageEnds x l e
          let z := y.1.tryParts x op y.2.atom y.2.parts
          (z.1, { y.2 with parts := z.2 })

/-- One transfer of a lane's access that came translated (R389): the part as it then stands. -/
def Dev.remoteTransfer (d : Dev) (x : LaneAt) (r : RemoteAccess) (p : PartRun) : Dev × PartRun :=
  let o := p.issued
  let n := if r.kind = 3 then p.len else min (256 - (r.address + o) % 256) (p.len - o)
  let lo := (r.address + o) / 4 * 4
  let q : OpReq := {
    ring := x.req.ring, serial := x.req.serial, kind := r.kind, op := r.op, size := r.size, device := r.device
    addr := if r.kind = 1 then lo else r.address + o
    len := if r.kind = 1 then roundUp (r.address + o + n) 4 - lo else n
    asid := none, va := 0
    use := x.use p (if r.kind = 1 then r.address + o - lo else 0) (if r.kind = 2 then 0 else n) (if r.kind = 1 then o else 0) none
    payload := if r.kind = 2 then slice p.data o n else if r.kind = 3 then r.payload else [] }
  match d.issue q with
  | (d, .ok) => (d, p.send n)
  | (_, .wait) => (d, p)
  | (d, .fail st) => d.refusePart x p st

/-- The transfers of a lane's access that came translated, from where it stands on; `fuel` bounds them. -/
def Dev.remoteOn (x : LaneAt) (r : RemoteAccess) : Nat → Dev → PartRun → Dev × PartRun
  | 0, d, p => (d, p)
  | fuel + 1, d, p =>
    let y := d.remoteTransfer x r p
    if y.2.state = .todo ∧ y.2.issued > p.issued then Dev.remoteOn x r fuel y.1 y.2 else y

/-- Carries on the lane of an access that came translated. -/
def Dev.remoteLane (d : Dev) (x : LaneAt) (r : RemoteAccess) (l : LaneRun) : Dev × LaneRun :=
  let y := l.parts.foldl (fun (acc : Dev × List PartRun) p =>
    if p.state ≠ .todo then (acc.1, acc.2 ++ [p])
    else
      let z := Dev.remoteOn x r (p.len + 1) acc.1 p
      (z.1, acc.2 ++ [z.2])) (d, [])
  (y.1, { l with parts := y.2 })

/-- The attachments of the pass of a command (R142). -/
def Cmd.ownRanges (c : Cmd) : List (Nat × Nat) :=
  match c.run with
  | .pass p => (passRec p.record).ranges
  | _ => []

/-- Carries one lane of an instruction on. -/
def Dev.runLane (d : Dev) (r : BlockRef) (id thread : Nat) : Dev :=
  match d.findBlock r with
  | none => d
  | some (n, b) => match b.paths.find? (fun p => p.id = id) with
    | none => d
    | some p => match p.lanes.find? (fun l => l.thread = thread) with
      | none => d
      | some l =>
        let own := ((d.cmd? r.ring r.serial).map Cmd.ownRanges).getD []
        let x : LaneAt := ⟨n, b, d.blockReq n b engBrick .none, id, p.size, thread⟩
        let y := match p.remote with
          | some a => d.remoteLane x a l
          | none => Dev.laneOn x p.op own 64 d l
        y.1.modBlock n r (fun b => { b with paths := b.paths.map (fun p => if p.id = id then
          { p with lanes := p.lanes.map (fun l => if l.thread = thread then y.2 else l) } else p) })

/-- The value that a lane gets (R235). -/
def LaneRun.result (l : LaneRun) (op : PathOp) : Option (List Word) :=
  match op with
  | .store => none
  | .atomic .store => none
  | _ => some (l.value.getD (laneWords (l.parts.flatMap (·.data))))

/-- Whether every request of an instruction is complete. -/
def PathRun.complete (p : PathRun) : Bool := p.lanes.all (fun l => l.image.isNone && l.parts.all (fun x => x.state = .done))

/-- When every request of an instruction is complete its lanes get their values together (R235). -/
def Dev.finishPath (d : Dev) (r : BlockRef) (id : Nat) : Dev :=
  match d.findBlock r with
  | none => d
  | some (n, b) => match b.paths.find? (fun p => p.id = id) with
    | none => d
    | some p =>
      if p.complete then
        let d := d.modBlock n r (fun b => { b with paths := b.paths.filter (fun p => p.id ≠ id) })
        p.lanes.foldl (fun d l => match l.result p.op with
          | some v => d.give n r l.thread v
          | none => d) d
      else d

/-- Carries an instruction on: each lane as far as it goes. A failed access ends the dispatch or pass (R83, R232). -/
def Dev.runPath (d : Dev) (r : BlockRef) (id : Nat) : Dev :=
  d.withBlock r (fun _ b => match b.paths.find? (fun p => p.id = id) with
    | none => d
    | some p =>
      (((p.lanes.map (·.thread)).foldl (fun d t => d.runLane r id t) d).finishPath r id).endFaulted r.ring r.serial)

/-- An instruction begins. -/
def Dev.beginPath (d : Dev) (n : Nat) (b : Block) (p : PathRun) : Dev :=
  (d.modBlock n b.bref (fun b => { b with paths := b.paths ++ [p], pathNo := b.pathNo + 1 })).runPath b.bref b.pathNo

/-- A memory instruction of lanes begins. -/
def Dev.startPath (d : Dev) (n : Nat) (b : Block) (cls : StorageClass) (op : PathOp) (size : Nat) (lanes : List LaneRun) : Dev :=
  d.beginPath n b ⟨b.pathNo, cls, op, size, none, lanes⟩

/-- A lane's access that comes translated begins (R389). A lane gets what a READ or an ATOMIC brings. -/
def Dev.startRemote (d : Dev) (n : Nat) (b : Block) (r : RemoteAccess) : Dev :=
  let part : PartRun := if r.kind = 2 then .fresh 0 r.length r.payload else .reading 0 r.length
  let lane : LaneRun := {
    thread := r.thread, parts := [if r.kind = 3 then { part with data := List.replicate 8 0 } else part], atom := none
    image := none, got := [], free := 0, value := none }
  d.beginPath n b ⟨b.pathNo, .physical, if r.kind = 2 ∨ (r.kind = 3 ∧ r.op = 1) then .store else .load, r.length, some r, [lane]⟩

/-! ## Replays, responses and retries -/

/-- A block with the parts of one lane of an instruction changed. -/
def Block.modParts (id thread : Nat) (f : PartRun → PartRun) (b : Block) : Block :=
  { b with paths := b.paths.map (fun p => if p.id = id then
      { p with lanes := p.lanes.map (fun l => if l.thread = thread then { l with parts := l.parts.map f } else l) } else p) }

/-- Changes the parts of one lane of an instruction, of a block that is resident or saved. -/
def Dev.modParts (d : Dev) (r : BlockRef) (id thread : Nat) (f : PartRun → PartRun) : Dev :=
  match d.findBlock r with
  | none => { d with par := { d.par with saved := d.par.saved.map (fun s =>
      if s.block.isRef r then { s with block := s.block.modParts id thread f } else s) } }
  | some (n, _) => d.modBlock n r (fun b => b.modParts id thread f)

/-- A part whose fault is replayed is tried again (R236, R242). -/
def Dev.replayLane (d : Dev) (r : BlockRef) (id thread : Nat) (va : Wide) : Dev :=
  (d.modParts r id thread (fun p => if p.va = va ∧ p.state = .fault then { p with state := .todo } else p)).runPath r id

/-- One transfer of a part has come back with bytes: the part is complete with its last one. -/
def PartRun.gets (p : PartRun) (off : Nat) (bs : Bytes) : PartRun :=
  { p with data := splice p.data off bs, left := p.left - 1, state := if p.state = .sent ∧ p.left ≤ 1 then .done else p.state }

/-- A response to an operation of a lane: its bytes come to the part, and the whole line to the pond that asked for it (R78, R82). -/
def Dev.laneArrived (d : Dev) (r : BlockRef) (id thread : Nat) (va : Wide) (skip len off : Nat) (fill : Option Nat) (key : Nat)
    (payload : Bytes) : Dev :=
  let d := match fill with
    | some n => d.fillLine n key payload
    | none => d
  (d.modParts r id thread (fun p => if p.va = va then p.gets off (slice payload skip len) else p)).runPath r id

/-- Whether an instruction has a part that waits to be tried. -/
def PathRun.waits (p : PathRun) : Bool := p.lanes.any (fun l => l.parts.any (fun x => x.state = .todo))

/-- Tries again what the instructions of a block wait for. -/
def Dev.retryPaths (d : Dev) (r : BlockRef) : Dev :=
  match d.findBlock r with
  | some (_, b) => ((b.paths.filter PathRun.waits).map (·.id)).foldl (fun d id => d.runPath r id) d
  | none => d

/-! ## Releases and acquires (R79) -/

/-- Whether the semantics of a release or an acquire cover memory outside local stores (R79). -/
def coversMemory (cs : List StorageClass) : Bool := cs.any (fun c => c = .buffer || c = .physical || c = .image)

/-- Whether a release or an acquire has an effect: it covers such memory, at cluster scope or wider (R79). -/
def orders (o : MemOrder) : Bool := coversMemory o.classes && (o.scope = .cluster || o.scope = .device || o.scope = .fabric)

/-- Whether stores or atomics of a block to other devices are not acknowledged, lines that its brick's pond has written back included
(R79, R82). -/
def Dev.storesOut (d : Dev) (n : Nat) (r : BlockRef) : Bool :=
  d.fab.ops.any (fun o => !o.dead && (match o.use with
    | .lane x _ _ _ _ _ _ _ => x = r && o.kind ≠ 1
    | .pond m _ => m = n
    | _ => false))

/-- Whether a release of a block on brick `n` is done: the pond holds no dirty line, and at fabric scope every store to another
device's memory is acknowledged (R79). -/
def Dev.releaseDone (d : Dev) (n : Nat) (r : BlockRef) (scope : Scope) : Bool :=
  !(d.brick n).pondDirty && (scope ≠ .fabric || !d.storesOut n r)

/-- Releases of a block that wait go on, and those that are done let their threads go (R79). -/
def Dev.retryReleases (d : Dev) (r : BlockRef) : Dev :=
  d.withBlock r (fun n b =>
    if b.releases.isEmpty then d
    else
      let d := d.cleanPond n
      (d.modBlock n r (fun b => { b with releases := b.releases.filter (fun h => !d.releaseDone n r h.scope) })).endFaulted
        r.ring r.serial)

/-- MEMORY_RELEASE: at cluster scope and wider the brick's dirty lines go home, and the later accesses of the threads wait until
that is done; at fabric scope until the stores to other devices are acknowledged as well (R79). -/
def Dev.memRelease (d : Dev) (r : BlockRef) (threads : List Nat) (o : MemOrder) : Dev :=
  d.withBlock r (fun n b =>
    if orders o && threads.all (fun t => b.runs t) then
      (d.modBlock n r (fun b => { b with releases := b.releases ++ [⟨threads, o.scope⟩] })).retryReleases r
    else d)

/-- MEMORY_ACQUIRE: at cluster scope and wider the clean lines and the side buffer of the brick's pond go (R79, R208). -/
def Dev.memAcquire (d : Dev) (r : BlockRef) (o : MemOrder) : Dev :=
  d.withBlock r (fun n _ => if orders o then d.invalidatePond n else d)

/-- Every block that waits for memory tries again: a response has come, or memory can be reached again. -/
def Dev.retryBlocks (d : Dev) : Dev :=
  let waiting := d.bricks.flatMap (fun (e : Nat × Brick) =>
    (e.2.live.filter (fun b => !b.releases.isEmpty || b.paths.any PathRun.waits)).map Block.bref)
  waiting.foldl (fun d r => (d.retryReleases r).retryPaths r) d

/-! ## Instructions -/

/-- A Workgroup access of a lane; one beyond the block's local store gives an undefined value and stores nothing. -/
def Dev.localAccess (d : Dev) (n : Nat) (b : Block) (store : Bool) (size : Nat) (a : LaneAccess) : Dev :=
  let o := a.addr.toNat
  let fits := decide (o + size ≤ b.lsBytes)
  if store then (if fits then d.lsWrite n b o a.data else d)
  else if fits then d.give n b.bref a.thread (laneWords (d.lsRead n b o size))
  else let r := d.freeBytes size; r.1.give n b.bref a.thread (laneWords r.2)

/-- A ClusterLocal access of a lane (R63, R64): out of range it reads zero, writes nothing and is counted. -/
def Dev.clusterAccess (d : Dev) (n : Nat) (b : Block) (store : Bool) (size : Nat) (a : LaneAccess) : Dev :=
  match d.clusterPlace b a.addr.toNat size with
  | some (m, p, o) => if store then d.lsWrite m p o a.data else d.give n b.bref a.thread (laneWords (d.lsRead m p o size))
  | none =>
    let d := d.bump Fld.BRK_LS_OOR_oor_count n 1
    if store then d else d.give n b.bref a.thread (laneWords (List.replicate size 0))

/-- The lane of an access to memory as it begins. -/
def accessLane (a : LaneAccess) (store : Bool) (size free : Nat) : LaneRun :=
  let words := (List.range 4).map (fun k => BitVec.ofNat 32 (leAt a.data (4 * k) 4))
  { thread := a.thread, atom := none, image := a.image, got := [], free := free
    parts := if a.image.isSome ∨ size = 0 then [] else [if store then .fresh a.addr size a.data else .reading a.addr size]
    value := if a.image.isSome ∧ store then some words else none }

/-- The lane of an atomic as it begins. -/
def atomicLane (a : LaneAtomic) (size free : Nat) : LaneRun :=
  { thread := a.thread, atom := some a, image := a.image, got := [], free := free, value := none
    parts := if a.image.isSome then [] else [{ PartRun.reading a.addr size with data := List.replicate (max 4 size) 0 }] }

/-- Numbers for the free values of some lanes: one each. -/
def Dev.freshen {α β : Type} (d : Dev) (l : List α) (f : α → Nat → β) : Dev × List β :=
  (l.foldl (fun (d : Dev) _ => d.fresh.2) d, l.zipIdx.map (fun e => f e.1 (d.freeCtr + e.2)))

/-- Whether threads may issue an instruction together: each of them runs, and none is named twice. -/
def Block.together (b : Block) (ts : List Nat) : Bool := ts.all (fun t => b.runs t) && ts.eraseDups = ts

/-- Lanes of an instruction whose stores and atomics are performed: helper lanes have none (R151). -/
def Block.acting (b : Block) (t : Nat) : Bool := !b.helpers.contains t

/-- An atomic instruction: every lane's address is checked first, and one misaligned address ends the dispatch with
nothing written (R86); then each lane's atomic is performed in full, in the order given (R88). A helper lane finds a free value
(R151). -/
def Dev.atomicRow (d : Dev) (op : AtomOp) (x : AtomicArgs) : Dev :=
  d.withBlock x.ref (fun n b =>
    let image := decide (x.cls = .image)
    if b.together (x.lanes.map (·.thread)) && op.sizeOk x.size && x.lanes.all (fun l => l.image.isSome = image)
        && (!image || (x.size = 4 && op ≠ .fadd)) then
      if x.lanes.any (fun l => l.addr.toNat % x.size ≠ 0) && !image then d.endByBlock n b Sts.misalignedAtomic
      else
        let give := fun (d : Dev) (l : LaneAtomic) (v : Nat) => if op = .store then d else d.give n b.bref l.thread (atomValue x.size v)
        let d := (x.lanes.filter (fun l => !b.acting l.thread)).foldl (fun d l =>
          let f := d.freeBytes x.size
          give f.1 l (leNat f.2)) d
        let lanes := x.lanes.filter (fun l => b.acting l.thread)
        let inLocal := fun (cluster : Bool) => lanes.foldl (fun d l =>
          let r := d.atomicLocal n b cluster x.size op l
          give r.1 l r.2) d
        match x.cls with
        | .workgroup => inLocal false
        | .clusterLocal => inLocal true
        | .buffer | .physical | .image =>
          let f := d.freshen lanes (fun l k => atomicLane l x.size k)
          f.1.startPath n b x.cls (.atomic op) x.size f.2
        | _ => d
    else d)

end Sys2Proof.Machine
end

