-- ==== Sys2Proof/Machine/LaneIO.lean ====
section
/-! DEFINITION. Plain loads and stores of lanes (R80, R81): memory, local stores, and what a kernel is given and gives back: built-in
inputs (R46, R62, R139), outputs of the courses of a pass (R145, R151) and its attachments (R152). -/

namespace Sys2Proof.Machine

/-! ## Inputs -/

/-- The key of an input or output with a Location; built-ins have the number of their BuiltIn. -/
def locationKey (l : Nat) : Nat := 0x10000 + l

/-- BuiltIn numbers of SPIR-V and of the STOLKALOR extension (R471). -/
def biPosition : Nat := 0
def biPointSize : Nat := 1
def biClipDistance : Nat := 3
def biCullDistance : Nat := 4
def biFragDepth : Nat := 22
def biHelper : Nat := 23
def biVertexIndex : Nat := 42
def biInstanceIndex : Nat := 43
def biClusterId : Nat := 6514
def biClusterRank : Nat := 6515

/-- A linear index as an index vector, x varying fastest. -/
def indexVector (g : Nat × Nat × Nat) (i : Nat) : Nat × Nat × Nat := (i % g.1, i / g.1 % g.2.1, i / g.1 / g.2.1)

/-- A vector as words. -/
def vecWords (v : Nat × Nat × Nat) : List Word := [BitVec.ofNat 32 v.1, BitVec.ofNat 32 v.2.1, BitVec.ofNat 32 v.2.2]

/-- The index of the cluster of block `i` of a dispatch: the block's index divided by the cluster's dimensions, or its own index
where blocks run as clusters of one (R62). -/
def clusterIndex (grid cluster : Nat × Nat × Nat) (i : Nat) : Nat × Nat × Nat :=
  let v := indexVector grid i
  if cluster.1 * cluster.2.1 * cluster.2.2 = 0 then v else (v.1 / cluster.1, v.2.1 / cluster.2.1, v.2.2 / cluster.2.2)

/-- Built-ins that every kernel has: of the subgroup (R46) and whether the lane is a helper. -/
def Block.builtIn (b : Block) (t key : Nat) : Option (List Word) :=
  let w := fun (n : Nat) => some [BitVec.ofNat 32 n]
  if key = 36 then w 32
  else if key = 38 then w b.courseCount
  else if key = 40 then w (t / 32)
  else if key = 41 then w (t % 32)
  else if key = biHelper then w (if b.helpers.contains t then 1 else 0)
  else none

/-- Built-ins of a block of a dispatch (R60, R62). -/
def DispatchRun.builtIn (r : DispatchRun) (desc : Line) (b : Block) (t key : Nat) : Option (List Word) :=
  let dims := (dispatchD desc).block
  let at0 := indexVector r.grid b.index
  let lid := indexVector dims t
  if key = 24 then some (vecWords r.grid)
  else if key = 25 then some (vecWords dims)
  else if key = 26 then some (vecWords at0)
  else if key = 27 then some (vecWords lid)
  else if key = 28 then some (vecWords (at0.1 * dims.1 + lid.1, at0.2.1 * dims.2.1 + lid.2.1, at0.2.2 * dims.2.2 + lid.2.2))
  else if key = 29 then some [BitVec.ofNat 32 t]
  else if key = biClusterId then some (vecWords (clusterIndex r.grid r.cluster b.index))
  else if key = biClusterRank then some [BitVec.ofNat 32 b.rank]
  else none

/-- What an Input variable gives a lane: none where the spec gives it no value. -/
def Dev.inputOf (d : Dev) (b : Block) (t key : Nat) : Option (List Word) :=
  match b.builtIn t key with
  | some v => some v
  | none => match d.cmd? b.ring b.serial with
    | none => none
    | some c => match c.run with
      | .dispatch r => r.builtIn c.desc b t key
      | .pass p => match p.courses.find? (fun x => x.no = b.index) with
        | some x => ((nth x.lanes t ⟨[], true⟩).ins.find? (fun e => e.1 = key)).map (·.2)
        | none => none
      | _ => none

/-! ## Outputs -/

/-- A lane of a pass stores an output; a store to the built-in HelperInvocation makes it a helper lane, which produces no output any more
(OpKill, OpTerminateInvocation and OpDemoteToHelperInvocation, R150, R151). -/
def Block.store (b : Block) (t key : Nat) (ws : List Word) : Block :=
  if key = biHelper then { b with helpers := if b.helpers.contains t then b.helpers else b.helpers ++ [t] }
  else { b with outputs := b.outputs.filter (fun o => !(o.1 = t && o.2.1 = key)) ++ [(t, key, ws)] }

/-- What a lane has stored to an output. -/
def outputOf (outs : List (Nat × Nat × List Word)) (t key : Nat) : Option (List Word) :=
  (outs.find? (fun o => o.1 = t && o.2.1 = key)).map (·.2.2)

/-! ## Attachments -/

/-- The value of the own pixel or sample of a lane in an attachment, with every earlier primitive's writes (R152). -/
def PassRun.attachment (p : PassRun) (block t a smp : Nat) : Option (List Word) :=
  match p.courses.find? (fun x => x.no = block), p.opened.find? (fun u => u.course = some block) with
  | some x, some u => match x.frags[t]? with
    | some f => (u.regions.getD []).findSome? (fun g => g.read (passRec p.record) a f.x f.y (f.sample.getD smp))
    | none => none
  | _, _ => none

/-- What an InputAttachment read gives a lane. -/
def Dev.attachmentOf (d : Dev) (b : Block) (t a smp : Nat) : Option (List Word) :=
  match d.cmd? b.ring b.serial with
  | none => none
  | some c => match c.run with
    | .pass p => p.attachment b.index t a smp
    | _ => none

/-! ## Rows -/

/-- A lane gets a value, or a free one of `size` bytes where there is none. -/
def Dev.giveOr (d : Dev) (n : Nat) (r : BlockRef) (thread size : Nat) (v : Option (List Word)) : Dev :=
  match v with
  | some v => d.give n r thread v
  | none => let f := d.freeBytes size; f.1.give n r thread (laneWords f.2)

/-- A plain load or store of memory by the lanes of a path; helper lanes store nothing (R151). -/
def Dev.memoryAccess (d : Dev) (n : Nat) (b : Block) (x : PathAccess) : Dev :=
  let lanes := x.lanes.filter (fun l => !x.store || b.acting l.thread)
  let f := d.freshen lanes (fun l k => accessLane l x.store x.size k)
  f.1.startPath n b x.cls (if x.store then .store else .load) x.size f.2

/-- One lane's access to an Input, an Output or an attachment. -/
def Dev.kernelIO (d : Dev) (n : Nat) (b : Block) (x : PathAccess) (l : LaneAccess) : Dev :=
  let key := l.addr.toNat
  match x.cls, x.store with
  | .input, false => d.giveOr n b.bref l.thread x.size (d.inputOf b l.thread key)
  | .inputAttachment, false =>
    d.giveOr n b.bref l.thread x.size (d.attachmentOf b l.thread key ((l.image.map (·.sample)).getD 0))
  | .output, true => if b.stage = .compute then d else d.modBlock n b.bref (fun b => b.store l.thread key (laneWords l.data))
  | .output, false => d.giveOr n b.bref l.thread x.size (outputOf b.outputs l.thread key)
  | _, _ => d

/-- Whether the lanes of a path access bear what its class and direction ask for. -/
def accessFormed (x : PathAccess) : Bool :=
  x.lanes.all (fun l => (!x.store || l.data.length = if x.cls = .image then 16 else x.size)
    && (x.cls = .inputAttachment || l.image.isSome = decide (x.cls = .image)))

/-- KERNEL_LOAD_STORE: a plain load or store of the lanes of a path (R80, R81, R231 to R236). The device may replace a line of the pond
for it (R202). -/
def Dev.loadStore (d : Dev) (x : PathAccess) : Dev :=
  d.withBlock x.ref (fun n b =>
    if b.together (x.lanes.map (·.thread)) && accessFormed x then
      let d := match x.evict with
        | some k => d.evictLine n k
        | none => d
      match x.cls with
      | .workgroup => x.lanes.foldl (fun d l => d.localAccess n b x.store x.size l) d
      | .clusterLocal => x.lanes.foldl (fun d l => d.clusterAccess n b x.store x.size l) d
      | .buffer | .physical | .image => d.memoryAccess n b x
      | .input | .output | .inputAttachment => x.lanes.foldl (fun d l => d.kernelIO n b x l) d
    else d)

/-- CLUSTER_LOCAL_ACCESS: a plain access through the ClusterLocal window (R63, R64). -/
def Dev.clusterLoadStore (d : Dev) (x : PathAccess) : Dev :=
  d.withBlock x.ref (fun n b =>
    if b.together (x.lanes.map (·.thread)) && x.lanes.all (fun l => !x.store || l.data.length = x.size) then
      x.lanes.foldl (fun d l => d.clusterAccess n b x.store x.size l) d
    else d)

end Sys2Proof.Machine
end

