-- ==== Sys2Proof/Machine/Pass.lean ====
section
/-! DEFINITION. RENDER_PASS (R140 to R158): binning draw by draw with vertex courses on the bricks of each front-end's die (R143, R145),
the exhaustion of the heap (R155 to R157), and rendering unit by unit with fragment courses on the owner's wall (R147 to R152,
R159 to R163).

A pass goes on as far as it can whenever its row runs again and whenever one of its courses ends; its courses are placed by
BLOCK_PLACE, act by the rows of lanes, and end by BLOCK_EXIT (log entry 112). -/

namespace Sys2Proof.Machine

/-! ## Steps and outcomes -/

/-- How a step of a pass ends: it goes on, it waits, or the command has ended. -/
inductive Flow where
  | on | stop | ended
  deriving DecidableEq, Repr

/-- Stores the progress of a pass; a failure that its courses have met meanwhile stays noted. -/
def Dev.setPass (d : Dev) (c : Cmd) (p : PassRun) : Dev :=
  d.modCmd c.ring c.serial (fun x => match x.run with
    | .pass q => { x with run := .pass { p with remoteFault := q.remoteFault } }
    | _ => { x with run := .pass p })

/-- The command under which the heap object is written: in the object's address space. -/
def Dev.heapCmd (d : Dev) (c : Cmd) : Cmd × Wide :=
  match (d.entry (handleIndex (passD c.desc).heap)).payload with
  | .memory asid va _ => ({ c with asid := asid }, va)
  | _ => (c, 0)

/-- Ends a pass: its courses and tiles leave their bricks, and its partial renders enter the histogram (R448). -/
def Dev.endPass (d : Dev) (c : Cmd) (p : PassRun) (st : Half) (detail : Wide) : Dev :=
  ((((d.dropLoads c.ring c.serial).removeBlocks c.ring c.serial).endCmd c.ring c.serial st detail noUnit)).hist 16 p.partials

/-- The statistics record (R158). -/
def PassRun.stats (p : PassRun) (va : Wide) : List VWrite :=
  if va = 0 then []
  else [⟨va, leBytes 4 p.partials ++ leBytes 4 p.peak ++ leBytes 4 p.granted ++ leBytes 4 0 ++ leBytes 8 p.binned ++ leBytes 8 0, false⟩]

/-- Performs the writes that a pass has left, those to the heap object first. -/
def Dev.drainPass (d : Dev) (c : Cmd) (p : PassRun) : Dev × PassRun × Flow :=
  match Dev.cmdWrites (d.heapCmd c).1 engRaster d p.heapWrites with
  | (d, .wait, l) => (d, { p with heapWrites := l }, .stop)
  | (d, .fail s va, _) => (d.endPass c p s va, p, .ended)
  | (d, .ok, _) => match Dev.cmdWrites c engRaster d p.writes with
    | (d, .wait, l) => (d, { p with heapWrites := [], writes := l }, .stop)
    | (d, .fail s va, _) => (d.endPass c p s va, p, .ended)
    | (d, .ok, _) => (d, { p with heapWrites := [], writes := [] }, .on)

/-! ## Binning (R143 to R146, R153 to R155) -/

/-- HEAP_LOW: when the fill reaches the threshold the fence is incremented and the event counted, once until the fill has
dropped below (R155). -/
def Dev.heapLow (d : Dev) (c : Cmd) (p : PassRun) : Dev × PassRun :=
  let r := passRec p.record
  let hit := decide (r.lowPct ≠ 0) && decide (p.inUse r * 100 ≥ r.lowPct * (r.chunks + p.granted))
  if hit = true ∧ p.armed = true then
    let h := (passD c.desc).low
    let d := if h = 0 then d else d.signalKept (handleIndex h) none
    (d.bump Fld.RAS_HEAP_LOW_COUNT_count 0 1, { p with armed := false })
  else (d, { p with armed := p.armed || !hit })

/-- The heap object is brought up to date when binning pauses. -/
def Dev.heapUp (d : Dev) (c : Cmd) (p : PassRun) : PassRun := p.heapNews (passRec p.record) (d.heapCmd c).2

/-- Waits after the heap object has been brought up to date. -/
def Dev.pause (d : Dev) (c : Cmd) (p : PassRun) : Dev × PassRun × Flow :=
  let q := d.heapUp c p
  (d, q, if q.heapWrites.isEmpty then .stop else .on)

/-- The FAIL sequence, and the end of a pass with a bad state block: nothing further runs, the statistics are written, and the pass
completes with the status (R156, R167). DESIGN CHOICE (log entry 111): an end with BAD_DESCRIPTOR does not count in
RAS_HEAP_EXHAUSTED_COUNT, since the heap is not exhausted; "in the same way as the FAIL sequence" leaves that open. -/
def Dev.failPass (d : Dev) (c : Cmd) (p : PassRun) (st : Half) : Dev × PassRun :=
  let d := if st = Sts.heapExhausted then d.bump Fld.RAS_HEAP_EXHAUSTED_COUNT_count 0 1 else d
  let d := (d.dropLoads c.ring c.serial).removeBlocks c.ring c.serial
  let q := d.heapUp c p
  (d, { q with
    current := none, prims := [], courses := [], units := [], opened := [], stalled := none
    writes := q.writes ++ q.stats (passD c.desc).stats, phase := .finish st })

/-- The bricks on which a front-end places vertex courses: those of the partition's walls on its own die (R143). -/
def PassRun.feBricks (p : PassRun) (fe : Nat) : List Nat := p.bricks.filter (fun n => n / 48 = fe)

/-- Registers of a lane of a kernel. -/
def Dev.kernelRegs (d : Dev) (h : Wide) : Nat := ((d.kernelRec h).map (fun k => k.2.regs)).getD 8

/-- A vertex course of an instance (R139, R145). -/
def vertexCourse (p : PassRun) (draw regs inst : Nat) (e : Nat × Nat × List Nat) : Course :=
  { no := e.1, stage := .vertex, draw := draw, regs := regs, bricks := p.feBricks e.2.1, placed := false, frags := [], outs := none
    lanes := e.2.2.map (fun v => ⟨[(biVertexIndex, [BitVec.ofNat 32 v]), (biInstanceIndex, [BitVec.ofNat 32 inst])], false⟩) }

/-- A draw's primitives and vertex courses, instance by instance (R144, R145). -/
def PassRun.addDraw (p : PassRun) (fes : List Nat) (regs : Nat) (x : Draw) (draw : Nat) (is : List Nat) : PassRun :=
  let prims := drawPrims x is
  (List.range x.insts).foldl (fun p k =>
    let f := fillInstance fes p.courseNo p.seq prims
    { p with
      prims := p.prims ++ f.prims, seq := p.seq + prims.length, courseNo := f.next
      courses := p.courses ++ f.courses.map (vertexCourse p draw regs (x.firstInst + k)) }) p

/-- Reads the next draw's state block, arguments and indices, each once, and forms its primitives and vertex courses (R57, R58, R139,
R140); a bad state block ends the pass (R167). -/
def Dev.readDraw (d : Dev) (c : Cmd) (p : PassRun) : Dev × PassRun × Flow :=
  let i := p.states.length
  let x := drawOf (nth p.draws i [])
  let ends := fun (d : Dev) (s : Half) (va : Wide) => (d.endPass c p s va, p, Flow.ended)
  match d.cmdRead c engRaster x.state 128 with
  | (d, .fail s va, _) => ends d s va
  | (d, .wait, _) => (d, p, .stop)
  | (d, .ok, sb) =>
    if !(drawState sb).ok then
      let r := d.failPass c p Sts.badDescriptor
      (r.1, r.2, .on)
    else
      let uses := fun (h : Wide) => match (d.entry (handleIndex h)).payload with
        | .kernel _ _ _ _ _ _ u n => argRanges x.args u n
        | _ => []
      match Dev.readRanges c engRaster d (uses x.vertex ++ (if x.fragment = 0 then [] else uses x.fragment)) with
      | (d, .fail s va, _) => ends d s va
      | (d, .wait, _) => (d, p, .stop)
      | (d, .ok, args) =>
        let k := if x.wideIndex then 4 else 2
        let is : Dev × Res × List Nat := if x.index = 0 then (d, .ok, (List.range x.count).map (x.first + ·))
          else match d.cmdRead c engRaster (x.index + BitVec.ofNat 64 (k * x.first)) (k * x.count) with
            | (d, .ok, bs) => (d, .ok, codesOf k x.count bs)
            | (d, z, _) => (d, z, [])
        match is with
        | (d, .fail s va, _) => ends d s va
        | (d, .wait, _) => (d, p, .stop)
        | (d, .ok, is) =>
          let q := { p with states := p.states ++ [sb], args := p.args ++ [args] }
          (d.freshInput c.ring c.serial, q.addDraw (frontEnds (d.partWalls c.part)) (d.kernelRegs x.vertex) x i is, .on)

/-- What a vertex kernel has stored for a corner of a primitive, once its course has ended. -/
def PassRun.corner (p : PassRun) (e : Nat × Nat) : Option (VertexOut × Nat) :=
  match p.courses.find? (fun x => x.no = e.1) with
  | none => none
  | some x => x.outs.map (fun outs =>
    let get := fun (key : Nat) => outputOf outs e.2 key
    (⟨(get biPosition).getD [], (get biPointSize).bind (fun w => w[0]?), (get biClipDistance).getD [], (get biCullDistance).getD []⟩,
      32 * e.1 + e.2))

/-- Vertex courses that no primitive needs any more go. -/
def PassRun.dropCourses (p : PassRun) : PassRun :=
  { p with courses := p.courses.filter (fun x => x.stage ≠ .vertex || x.outs.isNone
      || p.prims.any (fun q => q.corners.any (fun e => e.1 = x.no))) }

/-- The next primitive, when its vertices have been shaded: clipped, culled and listed, or dropped (R146). DESIGN CHOICE (log entry 111): one
that touches no tile is not listed and does not count as binned. -/
def PassRun.nextPrim (p : PassRun) (x : PrimIn) (rest : List PrimIn) : Option PassRun :=
  match x.corners.mapM p.corner with
  | none => none
  | some cs =>
    let draw := (x.corners.head?.bind (fun e => p.courses.find? (fun y => y.no = e.1))).map (·.draw)
    let i := draw.getD 0
    let q := PassRun.dropCourses { p with prims := rest }
    match shapePrim (passRec p.record) (drawState (nth p.states i [])) (p.free + 1) i x cs with
    | none => some q
    | some s => some (if s.tiles.isEmpty then q else { q with current := some ⟨s, none, s.tiles⟩ })

/-- One step of binning (R156: a front-end that needs a chunk when none is free stops). -/
def Dev.binStep (d : Dev) (c : Cmd) (p : PassRun) : Dev × PassRun × Flow :=
  let r := passRec p.record
  if p.stalled.isSome then d.pause c p
  else match p.current with
    | some x =>
      let v := d.outLocations (drawOf (nth p.draws x.prim.draw [])).vertex
      let y := PassRun.listOn r v (x.tiles.length + 2) p x
      let d := if y.2 then d.count 0x0050 1 (c.attr (some x.prim.fe)) else d
      let z := d.heapLow c y.1
      (z.1, if y.2 then z.2 else { z.2 with stalled := some (x.prim.fe, d.now), asked := false }, .on)
    | none => match p.prims with
      | x :: rest => match p.nextPrim x rest with
        | some q => (d, q, .on)
        | none => d.pause c p
      | [] =>
        if p.states.length < p.draws.length then d.readDraw c p
        else (d, { d.heapUp c p with
          phase := .render true, units := List.range (r.units.1 * r.units.2), opened := []
          writes := if p.stored then [] else r.headerWrites }, .on)

/-! ## Units -/

/-- Replaces an open unit. -/
def PassRun.putUnit (p : PassRun) (u : UnitRun) : PassRun :=
  { p with opened := p.opened.map (fun x => if x.unit = u.unit then u else x) }

/-- The die of a unit's brick. -/
def UnitRun.die (u : UnitRun) : Option Nat := some (u.brick / 48)

/-- Opens the next units of each brick while it holds fewer than it may and has room for their tiles (R56, R147, R148). -/
def Dev.openUnits (d : Dev) (c : Cmd) (p : PassRun) : Dev × PassRun × Bool :=
  p.nextUnits.foldl (fun (acc : Dev × PassRun × Bool) u =>
    let (d, p, any) := acc
    let n := p.owner u
    if p.openOn n < p.unitsAtOnce ∧ d.roomOn ⟨0, 0, p.tileBytes, p.split⟩ n = true ∧ !d.outranked c [n] then
      match d.cleanPonds (if (d.brick n).split ≠ p.split then [n] else []) with
      | (d, false) => (d, p, any)
      | (d, true) =>
        let d := (d.takeSplit n p.split).modBrick n (fun b => { b with holds := b.holds ++ [⟨c.ring, c.serial, true, u, p.tileBytes⟩] })
        (d, { p with
          units := p.units.filter (· ≠ u), opened := p.opened ++ [⟨u, n, none, [], 0, 0, [], none, none⟩] }, true)
    else acc) (d, p, false)

/-- Closes a unit: the local store of its tiles is free again. -/
def Dev.closeUnit (d : Dev) (c : Cmd) (p : PassRun) (u : UnitRun) : Dev × PassRun :=
  ((d.modBrick u.brick (fun b => { b with
      holds := b.holds.filter (fun h => !(h.tile && h.ring = c.ring && h.serial = c.serial && h.index = u.unit)) })).drained u.brick,
    { p with opened := p.opened.filter (fun x => x.unit ≠ u.unit) })

/-- Loads the regions of a unit, and lines up what is listed in its tiles, tile by tile in sequence order (R149, R159). -/
def Dev.loadUnit (d : Dev) (c : Cmd) (p : PassRun) (u : UnitRun) : Dev × PassRun × Flow :=
  let r := passRec p.record
  let x := (r.unitRegions u.unit).foldl (fun (acc : Dev × Res × List RegionSt) e => match acc.2.1 with
    | .ok =>
      let y := acc.1.loadRegion c u.die r e.1 e.2 (decide (p.partials > 0))
      (y.1, y.2.1, acc.2.2 ++ [y.2.2])
    | _ => acc) (d, .ok, [])
  match x with
  | (d, .fail s va, _) => (d.endPass c p s va, p, .ended)
  | (d, .wait, _) => (d, p, .stop)
  | (d, .ok, gs) =>
    let todo := (r.unitTiles u.unit).flatMap (fun t => (p.listed.filter (fun x => x.tiles.contains t)).map (fun x => (t, x)))
    let d := if p.opened.all (fun x => x.unit = u.unit || x.regions.isSome) then d.freshInput c.ring c.serial else d
    (d, p.putUnit { u with regions := some gs, todo := todo }, .on)

/-- The state block and the fragment kernel of a draw. -/
def Dev.drawInfo (d : Dev) (p : PassRun) (draw : Nat) : DrawState × FragInfo :=
  (drawState (nth p.states draw []), d.fragInfo (drawOf (nth p.draws draw [])).fragment)

/-- Quads for the next course of a unit: those of consecutive primitives of one draw and one tile, until there are 8 (R151). The samples
covered count (R453); `fuel` bounds the primitives. -/
def gatherQuads (d : Dev) (p : PassRun) : Nat → UnitRun → Nat → UnitRun × Nat
  | 0, u, n => (u, n)
  | fuel + 1, u, n =>
    match u.todo with
    | [] => (u, n)
    | (t, x) :: rest =>
      if u.quads.length ≥ 8 ∨ (!u.quads.isEmpty ∧ (u.draw ≠ x.draw ∨ u.tile ≠ t)) then (u, n)
      else
        let k := d.drawInfo p x.draw
        let qs := x.quads (passRec p.record) k.1 k.2 (p.free + 1) t
        gatherQuads d p fuel { u with todo := rest, draw := x.draw, tile := t, quads := u.quads ++ qs }
          (n + sumN (qs.map (fun q => sumN (q.map (fun f => f.cover.length)))))

/-- The inputs of a fragment's lane: its facing and, when it is shaded for one sample, the sample (R151). -/
def Frag.lane (f : Frag) : LaneIn :=
  ⟨(17, [if f.front then 1 else 0]) :: (match f.sample with
    | some s => [(18, [BitVec.ofNat 32 s])]
    | none => []), f.cover.isEmpty⟩

/-- Forms the next fragment course of a unit: its early tests are made, and the course waits for a brick of the owner's wall (R45, R150,
R151). -/
def Dev.nextCourse (d : Dev) (c : Cmd) (p : PassRun) (u : UnitRun) : Dev × PassRun × Flow :=
  let y := gatherQuads d p u.todo.length u 0
  let u := y.1
  let d := if y.2 = 0 then d else d.count 0x0051 y.2 (c.attr (some (u.brick / 8)))
  let k := d.drawInfo p u.draw
  let t := takeQuads (passRec p.record) k.1 k.2 u.quads (u.regions.getD []) []
  let u := { u with regions := some t.1, quads := t.2.2 }
  match t.2.1 with
  | [] => (d, p.putUnit u, .on)
  | qs =>
    let wall := u.brick / 8
    let course : Course := {
      no := p.courseNo, stage := .fragment, draw := u.draw, regs := d.kernelRegs (drawOf (nth p.draws u.draw [])).fragment
      bricks := p.bricks.filter (fun n => n / 8 = wall), placed := false, lanes := qs.flatten.map Frag.lane, frags := qs.flatten, outs := none }
    (d, { p.putUnit { u with course := some p.courseNo } with courses := p.courses ++ [course], courseNo := p.courseNo + 1 }, .on)

/-- What the lane of a fragment has given. -/
def fragOut (outs : List (Nat × Nat × List Word)) (lane : Nat) : FragOut :=
  ⟨(outputOf outs lane biHelper).isSome, (outputOf outs lane biFragDepth).bind (fun w => w[0]?), fun a => outputOf outs lane (locationKey a)⟩

/-- The fragment course of a unit has ended: late tests and colour writes, lane by lane (R149, R150). -/
def Dev.finishCourse (d : Dev) (p : PassRun) (u : UnitRun) (x : Course) (outs : List (Nat × Nat × List Word)) : PassRun :=
  let k := d.drawInfo p x.draw
  let gs := x.frags.zipIdx.foldl (fun gs e =>
    shadeFrag (passRec p.record) k.1 k.2 (p.free + 2) (32 * x.no + e.2) gs e.1 (fragOut outs e.2)) (u.regions.getD [])
  { p.putUnit { u with regions := some gs, course := none } with courses := p.courses.filter (fun y => y.no ≠ x.no) }

/-- One step of the store of a unit, region by region: its writes, then its flags (R160, R163). -/
def Dev.storeUnit (d : Dev) (c : Cmd) (p : PassRun) (u : UnitRun) (final : Bool) (gs : List RegionSt) : Dev × PassRun × Flow :=
  let r := passRec p.record
  match gs with
  | [] =>
    let y := d.closeUnit c p u
    (y.1, y.2, .on)
  | g :: rest => match u.writes with
    | none =>
      let f := d.fresh
      (f.2, p.putUnit { u with writes := some (d.storeRegion c r (!p.stored) final f.1 g).1 }, .on)
    | some (w :: ws) => match Dev.cmdWritesFrom c engRaster u.die d (w :: ws) with
      | (d, .ok, _) => (d.freshInput c.ring c.serial, p.putUnit { u with writes := some [] }, .on)
      | (d, .wait, l) => (d, p.putUnit { u with writes := some l }, .stop)
      | (d, .fail s va, _) => (d.endPass c p s va, p, .ended)
    | some [] =>
      let flags := (d.storeRegion c r (!p.stored) final 0 g).2.map (fun e => (e.1, r.regionNo g.rx g.ry, e.2))
      match d.setFlags c u.die r flags with
      | (d, .ok) => (d, p.putUnit { u with regions := some rest, writes := none }, .on)
      | (d, .wait) => (d, p, .stop)
      | (d, .fail s va) => (d.endPass c p s va, p, .ended)

/-- One step of an open unit. -/
def Dev.unitStep (d : Dev) (c : Cmd) (p : PassRun) (final : Bool) (u : UnitRun) : Dev × PassRun × Flow :=
  match u.regions with
  | none => d.loadUnit c p u
  | some gs => match u.course with
    | some no => match p.courses.find? (fun x => x.no = no) with
      | some x => match x.outs with
        | some outs => (d, d.finishCourse p u x outs, .on)
        | none => (d, p, .stop)
      | none => (d, p.putUnit { u with course := none }, .on)
    | none =>
      if u.writes.isNone ∧ (!u.quads.isEmpty ∨ !u.todo.isEmpty) then d.nextCourse c p u
      else d.storeUnit c p u final gs

/-- One step of every open unit, as each stands. -/
def Dev.unitSteps (d : Dev) (c : Cmd) (p : PassRun) (final : Bool) : Dev × PassRun × Flow :=
  p.opened.foldl (fun (acc : Dev × PassRun × Flow) u => match acc.2.2 with
    | .ended => acc
    | f => match acc.2.1.opened.find? (fun x => x.unit = u.unit) with
      | none => acc
      | some u =>
        let x := acc.1.unitStep c acc.2.1 final u
        (x.1, x.2.1, if x.2.2 = .stop then f else x.2.2)) (d, p, .stop)

/-! ## Store points -/

/-- Units with list entries. -/
def PassRun.listedUnits (p : PassRun) : List Nat :=
  let r := passRec p.record
  (List.range (r.units.1 * r.units.2)).filter (fun u =>
    (r.unitTiles u).any (fun t => (NMap.get? p.heads (2 * t)).isSome || (NMap.get? p.heads (2 * t + 1)).isSome))

/-- Regions that a partial flush does not render: at the first store point those with load_op CLEAR get their clear value (R160). -/
def PassRun.unlisted (p : PassRun) : List RegionSt :=
  let r := passRec p.record
  let on := p.listedUnits
  if p.stored then []
  else (List.range (r.units.1 * r.units.2)).flatMap (fun u =>
    if on.contains u then [] else (r.unitRegions u).map (fun e => (⟨e.1, e.2, [], []⟩ : RegionSt)))

/-- A partial flush begins: binning stops, the primitive in progress is dropped from the lists, and the listed units are to be
rendered (R156). Whether the flush before achieved nothing, so that the pass fails instead, is R157's. -/
def Dev.partialFlush (d : Dev) (c : Cmd) (p : PassRun) : Dev × PassRun :=
  let r := passRec p.record
  if p.partials > 0 ∧ p.since = 0 then d.failPass c p Sts.heapExhausted
  else
    let f := d.fresh
    let q := d.heapUp c p
    let clears := q.unlisted.flatMap (fun g => (d.storeRegion c r true false f.1 g).1)
    (f.2, { q with
      current := q.current.map (fun x => { x with record := none, tiles := x.prim.tiles }), stalled := none, asked := false
      phase := .render false, units := q.listedUnits, opened := []
      writes := q.writes ++ (if q.stored then [] else r.headerWrites) ++ clears })

/-- A flush has stored its units: the flags of the regions that it did not render follow, then every chunk is freed, every head is set to
end-of-list, and binning resumes (R156, R160). -/
def Dev.flushEnds (d : Dev) (c : Cmd) (p : PassRun) : Dev × PassRun × Flow :=
  let r := passRec p.record
  let flags := p.unlisted.flatMap (fun g => (d.storeRegion c r true false 0 g).2.map (fun e => (e.1, r.regionNo g.rx g.ry, e.2)))
  match d.setFlags c none r flags with
  | (d, .fail s va) => (d.endPass c p s va, p, .ended)
  | (d, .wait) => (d, p, .stop)
  | (d, .ok) =>
    let d := (d.bump Fld.RAS_PARTIAL_COUNT_count 0 1).freshInput c.ring c.serial
    let q := { p with heads := [], chunks := [], listed := [], partials := p.partials + 1, since := 0, stored := true, phase := .bin }
    let y := d.heapLow c (d.heapUp c q)
    (y.1, y.2, .on)

/-- One step of rendering. -/
def Dev.renderStep (d : Dev) (c : Cmd) (p : PassRun) (final : Bool) : Dev × PassRun × Flow :=
  let o := d.openUnits c p
  let p := o.2.1
  if p.opened.isEmpty then
    if !p.units.isEmpty then (o.1, p, .stop)
    else if final then (o.1, { p with writes := p.writes ++ p.stats (passD c.desc).stats, phase := .finish Sts.ok }, .on)
    else o.1.flushEnds c p
  else
    let x := o.1.unitSteps c p final
    (x.1, x.2.1, if o.2.2 = true ∧ x.2.2 = .stop then .on else x.2.2)

/-- One step of a pass. -/
def Dev.passStep (d : Dev) (c : Cmd) (p : PassRun) : Dev × PassRun × Flow :=
  if !p.heapWrites.isEmpty ∨ !p.writes.isEmpty then d.drainPass c p
  else match p.phase with
    | .bin => d.binStep c p
    | .render final => d.renderStep c p final
    | .finish st => (d.endPass c p st 0, p, .ended)

/-- Carries a pass on as far as it goes; `fuel` bounds its steps. -/
def Dev.passLoop (c : Cmd) : Nat → Dev → PassRun → Dev
  | 0, d, p => d.setPass c p
  | fuel + 1, d, p =>
    match d.passStep c p with
    | (d, p, .on) => Dev.passLoop c fuel d p
    | (d, p, .stop) => d.setPass c p
    | (d, _, .ended) => d

/-- Steps that a pass takes at most without a further event. -/
def passFuel : Nat := 2 ^ 32

/-- Carries on the pass of a command that is in progress and not stopped on a fault; a failed access of its courses ends it (R83). -/
def Dev.passOn (d : Dev) (ring : Nat) (serial : Wide) : Dev :=
  let d := d.endFaulted ring serial
  match d.cmd? ring serial with
  | some c => match c.run with
    | .pass p => if c.active then Dev.passLoop c passFuel d p else d
    | _ => d
  | none => d

/-- What a pass does with the end of one of its blocks. -/
def Dev.passAfter (d : Dev) (r : BlockRef) : Dev :=
  match d.cmd? r.ring r.serial with
  | some c => match c.run with
    | .pass _ => d.passOn r.ring r.serial
    | _ => d
  | none => d

/-! ## The command -/

/-- Local store that the tiles of one unit take on a brick: with T16X16 a unit has four tiles, of which as many are held as fit (R147,
R148). -/
def PassRec.unitBytes (r : PassRec) : Nat :=
  r.tileBytes * (if r.tile = 0 then max 1 (min 4 (splitBytes r.split / max 1 r.tileBytes)) else 1)

/-- A pass as it begins to bin. -/
def PassRun.start (rb : Bytes) (draws : List Bytes) (bricks : List Nat) (free : Nat) : PassRun :=
  let r := passRec rb
  { record := rb, draws := draws, states := [], args := [], bricks := bricks, tileBytes := r.unitBytes, phase := .bin, seq := 0
    prims := [], courses := [], courseNo := 0, current := none, listed := [], heads := [], chunks := [], granted := 0, peak := r.heads
    partials := 0, binned := 0, since := 0, armed := true, stalled := none, asked := false, stored := false, units := [], opened := []
    image := [], heapWrites := [], writes := [], free := free, remoteFault := none }

/-- RENDER_PASS (R140): reads the pass record and every draw record once, makes its checks, and begins. It waits until the
front-ends of its partition are usable (R427). -/
def Dev.runRenderPass (d : Dev) (c : Cmd) : Dev :=
  match c.run with
  | .pass _ => d.passOn c.ring c.serial
  | _ =>
    if (frontEnds (d.partWalls c.part)).any (fun fe => !d.pwr.on.testBit (28 + fe)) then d else
    let x := passD c.desc
    match d.cmdRead c engRaster x.record 320 with
    | (d, .fail s va, _) => d.endCmd c.ring c.serial s va noUnit
    | (d, .wait, _) => d
    | (d, .ok, rb) => match d.cmdRead c engRaster x.drawList (64 * min x.count 65536) with
      | (d, .fail s va, _) => d.endCmd c.ring c.serial s va noUnit
      | (d, .wait, _) => d
      | (d, .ok, db) =>
        let r := passRec rb
        let raw := (List.range (min x.count 65536)).map (fun i => slice db (64 * i) 64)
        let ds := raw.map drawOf
        let ks := kernelUses ds
        if ks.all (fun k => d.current k.1) && ks.any (fun k => match d.kernelRec k.1 with
            | some (st, _) => st = .translating
            | none => false) then d.setRun c.ring c.serial .kernelWait
        else match d.passFails c.desc r ds with
          | some (st, n) => d.fail c st n
          | none =>
            let refs := ks.map (fun k => handleIndex k.1)
            let d := refs.foldl (fun d i => d.takeRef i) d
            let d := (d.freshInput c.ring c.serial).modCmd c.ring c.serial (fun c => { c with refs := c.refs ++ refs })
            let f := d.fresh.2.fresh.2.fresh
            let y := f.2.heapLow c (PassRun.start rb raw (d.partBricks c.part) d.freeCtr)
            (y.1.setPass c y.2).passOn c.ring c.serial

/-! ## Exhaustion of the heap (R156, R157) -/

/-- The pass of a command in flight. -/
def Dev.passOf (d : Dev) (ring : Nat) (serial : Wide) : Option (Cmd × PassRun) :=
  match d.cmd? ring serial with
  | some c => match c.run with
    | .pass p => if c.active then some (c, p) else none
    | _ => none
  | none => none

/-- Carries on with a pass as it stands now. -/
def Dev.passWith (d : Dev) (c : Cmd) (p : PassRun) : Dev := (d.setPass c p).passOn c.ring c.serial

/-- Free chunks of a partition's grow reserve (RAS_GROW_FREE_p). -/
def Dev.growFree (d : Dev) (part : Nat) : Nat :=
  d.fld Fld.RAS_GROW_RESERVE_reserve_chunks part
    - sumN (d.sub.cmds.map (fun c => match c.run with
        | .pass p => if c.part = part then p.granted else 0
        | _ => 0))

/-- What follows a GROW without a grant (R156). -/
def Dev.growFallback (d : Dev) (c : Cmd) (p : PassRun) : Dev :=
  let r := if (passRec p.record).fallback then d.partialFlush c p else d.failPass c p Sts.heapExhausted
  r.1.passWith c r.2

/-- HEAP_GROW_REQUEST: a front-end that needs a chunk when none is free has stopped, and the heap policy says what follows
(R156). DESIGN CHOICE (log entry 111): with GROW below grow_limit, a front-end that stops a second time with nothing listed since a flush
also asks Gotik first, and the FAIL sequence of R157 comes only when no grant does: R156's table gives the request no exception. -/
def Dev.growRequest (d : Dev) (ring : Nat) (serial : Wide) (fe : Nat) : Dev :=
  match d.passOf ring serial with
  | some (c, p) => match p.stalled with
    | some (f, _) =>
      let r := passRec p.record
      if f ≠ fe ∨ p.asked = true then d
      else match r.policy with
        | 0 => if p.granted ≥ r.growLimit then d.growFallback c p else d.setPass c { p with asked := true }
        | 1 => let x := d.partialFlush c p; x.1.passWith c x.2
        | _ => let x := d.failPass c p Sts.heapExhausted; x.1.passWith c x.2
    | none => d
  | none => d

/-- HEAP_GROW_GRANT: Gotik maps chunks from the partition's reserve, at most grow_limit in total. A grant before 20 µs have passed
lets binning resume; one that comes later is kept for the pass (R156). -/
def Dev.growGrant (d : Dev) (ring : Nat) (serial : Wide) (chunks : Nat) : Dev :=
  match d.passOf ring serial with
  | some (c, p) =>
    let r := passRec p.record
    let n := min chunks (min (d.growFree c.part) (r.growLimit - p.granted))
    if n = 0 ∨ r.policy ≠ 0 then d
    else
      let q := { p with granted := p.granted + n }
      match p.stalled with
      | some (_, t) =>
        if p.asked ∧ d.now < t + 20000 then
          let y := d.heapLow c { q with stalled := none, asked := false }
          y.1.passWith c y.2
        else d.setPass c q
      | none =>
        let y := d.heapLow c q
        y.1.setPass c y.2
  | none => d

/-- HEAP_GROW_TIMEOUT: no grant has arrived 20 µs after the front-end stopped (R156). -/
def Dev.growTimeout (d : Dev) (ring : Nat) (serial : Wide) : Dev :=
  match d.passOf ring serial with
  | some (c, p) => match p.stalled with
    | some (_, t) => if p.asked then (d.advanceTo (t + 20000)).growFallback c p else d
    | none => d
  | none => d

/-! ## Cuts (R141) -/

/-- A pass is cut: the region of each open unit whose store is under way, some of its writes or a flag being still to come, holds
undefined data and any flag; the others keep what they hold (R141). -/
def Dev.cutPass (d : Dev) (c : Cmd) (p : PassRun) : Dev :=
  let r := passRec p.record
  let final : Bool := match p.phase with
    | .render f => f
    | _ => false
  p.opened.foldl (fun (d : Dev) u => match u.regions, u.writes with
    | some (g :: _), some ws =>
      let full := (d.storeRegion c r (!p.stored) final 0 g)
      let f := d.fresh
      if full.1.isEmpty ∨ ws.map (·.va) = full.1.map (·.va) then d
      else
        let d := f.2.spoil c engRaster u.die full.1
        let flags := full.2.map (fun e => (e.1, r.regionNo g.rx g.ry, (Config.freeByte f.1 (2 ^ 40 + e.1)).toNat % 4))
        (d.setFlags c u.die r flags).1
    | _, _ => d) d

end Sys2Proof.Machine
end

