-- ==== Sys2Proof/Machine/Sequence.lean ====
section
/-! DEFINITION. The sequence engine and its KV page pools (chapter 12): POOLCFG commits, the ordered STEP with its
suspensions and resumes, and guest pages. -/

namespace Sys2Proof.Machine

/-! ## Pools -/

/-- Settings of a pool as committed (R273, R274). -/
structure PoolCfg where
  enable : Bool
  migrate : Bool
  maxRows : Nat
  rowPages : Nat
  rowTokens : Nat
  seqBase : Nat
  seqCount : Nat
  pages : Nat
  base : Nat
  list : Nat
  deriving DecidableEq, Repr

/-- The committed settings of pool `p`. -/
def Dev.poolCfg (d : Dev) (p : Nat) : PoolCfg :=
  { enable := d.cfld Fld.SEQ_P_CTRL_enable p = 1, migrate := d.cfld Fld.SEQ_P_CTRL_suspend_policy p = 1
    maxRows := d.cfld Fld.SEQ_P_CTRL_max_rows p, rowPages := d.cfld Fld.SEQ_P_CTRL_row_pages_m1 p + 1
    rowTokens := d.cfld Fld.SEQ_P_TOKENS_row_tokens p, seqBase := d.cfld Fld.SEQ_P_SEQS_seq_base p
    seqCount := d.cfld Fld.SEQ_P_SEQS_seq_count p, pages := d.cfld Fld.SEQ_P_PAGES_pages p
    base := d.cfld Fld.SEQ_P_BASE_base p * 65536, list := d.cfld Fld.SEQ_P_LIST_base p * 65536 }

/-- Bytes of a pool's list area (R274). -/
def PoolCfg.listBytes (c : PoolCfg) : Nat := c.seqCount * c.maxRows * c.rowPages * 4

/-- A pool with nothing in it. -/
def Pool.empty : Pool := ⟨[], 0, 0, []⟩

/-- Pool `p`. -/
def Dev.pool (d : Dev) (p : Nat) : Pool := NMap.getD d.seq.pools p Pool.empty

/-- Replaces pool `p`. -/
def Dev.setPool (d : Dev) (p : Nat) (x : Pool) : Dev := { d with seq := { d.seq with pools := NMap.set d.seq.pools p x } }

/-- A FREE sequence. -/
def SeqEnt.free : SeqEnt := ⟨0, 0, 0, 0, 0, 0, false, 0, 0, 0, [], []⟩

/-- Sequence `n`. -/
def Dev.seqEnt (d : Dev) (n : Nat) : SeqEnt := NMap.getD d.seq.ents n SeqEnt.free

/-- Free pages of a pool. -/
def Pool.free (x : Pool) (c : PoolCfg) : Nat := c.pages - x.used.length

/-- Guest pages a pool holds for peers (R282). -/
def Pool.guestCount (x : Pool) : Nat := sumN (x.guests.map (fun g => g.2.length))

/-- The first page from `i` on, cyclically, that is not in use; `fuel` bounds the search. -/
def freePageFrom (used : List Nat) (pages : Nat) : Nat → Nat → Nat
  | 0, i => i
  | fuel + 1, i => if used.contains (i % pages) then freePageFrom used pages fuel (i + 1) else i % pages

/-- Takes `n` pages of a pool; which free pages these are is the engine's choice. -/
def takePages (pages : Nat) : Nat → Nat → List Nat → List Nat × List Nat × Nat
  | 0, ctr, used => ([], used, ctr)
  | n + 1, ctr, used =>
    let i := freePageFrom used pages pages (Config.freeNat ctr)
    let r := takePages pages n (ctr + 1) (i :: used)
    (i :: r.1, r.2.1, r.2.2)

/-- Gives pages back. -/
def Pool.give (x : Pool) (ps : List Nat) : Pool := { x with used := x.used.filter (fun i => !ps.contains i) }

/-! ## POOLCFG (R289) -/

/-- Whether two ranges of bytes overlap. -/
def overlaps (a n b m : Nat) : Bool := n > 0 && m > 0 && a < b + m && b < a + n

/-- Areas of a pool. -/
def PoolCfg.areas (c : PoolCfg) : List (Nat × Nat) := [(c.base, c.pages * 65536), (c.list, c.listBytes)]

/-- Whether two pools' areas overlap. -/
def PoolCfg.meets (a b : PoolCfg) : Bool := a.areas.any (fun x => b.areas.any (fun y => overlaps x.1 x.2 y.1 y.2))

/-- Why a POOLCFG commit is refused: `n` is the device with the staged set in force (R289). -/
def Dev.poolRefusal (d n : Dev) (p : Nat) : Option Nat :=
  let c := n.poolCfg p
  let o := d.poolCfg p
  let others := ((List.range 8).filter (fun q => q ≠ p && (d.poolCfg q).enable)).map d.poolCfg
  let total := sumN (others.map (·.pages)) + (if c.enable then c.pages else 0)
  firstReason [
    (c.maxRows < 1 || 4096 < c.maxRows || c.rowTokens < 1 || 65536 < c.rowTokens, 1),
    (c.areas.any (fun x => decide (dramSize < x.1 + x.2)) || overlaps c.base (c.pages * 65536) c.list c.listBytes
      || others.any c.meets, 2),
    (2097152 < total || 8192 < c.seqBase + c.seqCount
      || others.any (fun q => overlaps c.seqBase c.seqCount q.seqBase q.seqCount), 3),
    (d.seq.ents.any (fun (e : Nat × SeqEnt) => e.2.pool = p && e.2.state ≠ 0) && { c with migrate := o.migrate } ≠ o, 4)]

/-- Whether a command is the STEP that runs in pool `p`: a started STEP of the partition that has passed its checks
(R287). -/
def Cmd.steps (c : Cmd) (p : Nat) : Bool :=
  c.part = p && c.opcode = 0x58 && c.phase = .started && (match c.run with
    | .step _ => true
    | .writing _ _ _ _ => true
    | _ => false)

/-- POOLCFG_COMMIT: a write of SEQ_P_COMMIT. -/
def Dev.poolStage (d : Dev) (src : RegSource) (p : Nat) : Dev := if p < 8 then d.commitBy src (.pool p) else d

/-- POOLCFG_TAKE_EFFECT: when no STEP of the pool runs (R289). -/
def Dev.poolEffect (d : Dev) (p : Nat) : Dev :=
  let g : Group := .pool p
  if p < 8 ∧ (d.staged? g).isSome ∧ !d.sub.cmds.any (fun c => c.steps p) then
    match d.poolRefusal (d.tryGroup g) p with
    | some n => d.refuseGroup g n
    | none =>
      let was := (d.poolCfg p).enable
      let d := d.acceptGroup g
      if (d.poolCfg p).enable ∧ !was then d.setPool p { Pool.empty with stamp := (d.pool p).stamp } else d
  else d

/-! ## Guest pages (R282) -/

/-- Changes a pool, and the pool as the STEP that runs in it will leave it. -/
def Dev.modPool (d : Dev) (p : Nat) (f : Pool → Pool) : Dev :=
  (d.setPool p (f (d.pool p))).withCmds (d.sub.cmds.map (fun c => match c.run with
    | .step r => if c.part = p then { c with run := .step { r with pool := f r.pool } } else c
    | _ => c))

/-- Pages of a pool that are in use, or that the STEP that runs in it has taken. -/
def Dev.poolTaken (d : Dev) (p : Nat) : List Nat :=
  ((d.pool p).used ++ d.sub.cmds.flatMap (fun c => match c.run with
    | .step r => if c.part = p then r.pool.used else []
    | _ => [])).eraseDups

/-- A pool of this device takes `n` guest pages for a peer, or refuses. -/
def Dev.acceptGuests (d : Dev) (p device n : Nat) : Option (List Nat × Dev) :=
  let c := d.poolCfg p
  let taken := d.poolTaken p
  if c.enable ∧ taken.length + n ≤ c.pages ∧ (d.pool p).guestCount + n ≤ d.fld Fld.SEQ_P_GUEST_MAX_guest_max p
      ∧ d.sharedGate = .ok then
    let r := takePages c.pages n d.freeCtr taken
    some (r.1, ({ d with freeCtr := r.2.2 } : Dev).modPool p (fun x =>
      { x with used := r.1 ++ x.used, guests := x.guests ++ [(device, r.1)] }))
  else none

/-- Guest pages are released. -/
def Pool.releases (x : Pool) (ps : List Nat) : Pool :=
  { x.give ps with guests := (x.guests.map (fun g => (g.1, g.2.filter (fun i => !ps.contains i)))).filter (fun g => !g.2.isEmpty) }

/-- Guest pages of a pool of this device are released. -/
def Dev.releaseGuests (d : Dev) (p : Nat) (ps : List Nat) : Dev := d.modPool p (fun x => x.releases ps)

/-- Fills a page of a pool that has been allocated: its content is undefined (R273). -/
def Dev.undefPage (d : Dev) (p : Nat) (cfg : PoolCfg) (i : Nat) : Dev :=
  let g := d.fresh
  g.2.dramWrite (Asker.io (some p)) true none (cfg.base + 65536 * i) ((List.range 65536).map (fun k => Config.freeByte g.1 k))

/-- GUEST_PAGE_REQUEST: a peer asks for guest pages; a refusal changes nothing (R282). -/
def Dev.guestRequest (d : Dev) (p device n : Nat) : Dev :=
  if p < 8 then match d.acceptGuests p device n with
    | some r => r.1.foldl (fun d i => d.undefPage p (d.poolCfg p) i) r.2
    | none => d
  else d

/-! ## The STEP command (R276 to R278) -/

def stepList (l : Line) : Wide := dwide l 16
def stepCount (l : Line) : Nat := dfield l 24 15 0
def stepManifest (l : Line) : Wide := dwide l 32
def stepFields : List (Nat × Nat × Nat) := [(16, 63, 0), (24, 15, 0), (32, 63, 0)]

/-- Whether a STEP's own checks hold (R278). -/
def Dev.stepOk (d : Dev) (c : Cmd) : Bool :=
  let l := c.desc
  (d.poolCfg c.part).enable && reservedZero l stepFields && stepCount l ≤ 8192 && (stepManifest l).toNat % 64 = 0
    && (stepCount l = 0 || (stepList l).toNat % 16 = 0)

/-- Fields of a step-list entry (R277). -/
def entSeq (e : Bytes) : Nat := leAt e 0 2
def entDepart (e : Bytes) : Bool := leAt e 2 1 % 4 = 1
def entPrio (e : Bytes) : Nat := leAt e 2 1 / 16
def entTokens (e : Bytes) : Nat := leAt e 4 4

/-- Whether a step-list entry fails, with the sequences named before it (R278). -/
def entFails (c : PoolCfg) (ents : NMap SeqEnt) (before : List Nat) (e : Bytes) : Bool :=
  let s := entSeq e
  let held := (NMap.get? ents s).isSome
  s < c.seqBase || c.seqBase + c.seqCount ≤ s || leAt e 2 1 % 16 > 1 || leAt e 3 1 ≠ 0 || leAt e 10 6 ≠ 0 || before.contains s
    || (if entDepart e then !held else held || entTokens e < 1 || c.maxRows * c.rowTokens ≤ entTokens e)

/-- Statuses of the entries after R278: the failing ones are decided. -/
def entStatuses (c : PoolCfg) (ents : NMap SeqEnt) : List Nat → List Bytes → List Half
  | _, [] => []
  | before, e :: es =>
    (if entFails c ents before e then Sts.badDescriptor else Sts.ok) :: entStatuses c ents (entSeq e :: before) es

/-- A sequence departs: its pages return (R280). -/
def StepRun.depart (r : StepRun) (s : Nat) : StepRun :=
  let e := NMap.getD r.ents s SeqEnt.free
  { r with ents := NMap.erase r.ents s, pool := r.pool.give e.pages }

/-- Sequences in a state, in increasing number. -/
def StepRun.inState (r : StepRun) (st : Nat) : List Nat := (r.ents.filter (fun (e : Nat × SeqEnt) => e.2.state = st)).map (·.1)

/-- The entry of a sequence. -/
def StepRun.ent (r : StepRun) (s : Nat) : SeqEnt := NMap.getD r.ents s SeqEnt.free

/-- Phase 1 of R280, and the growth needs of phase 2 (R279). -/
def StepRun.depart1 (r : StepRun) (c : PoolCfg) : StepRun :=
  let r := (r.list.zip r.statuses).foldl (fun (r : StepRun) p => if p.2 = Sts.ok ∧ entDepart p.1 = true then r.depart (entSeq p.1) else r) r
  let full := (r.inState 2).filter (fun s => (r.ent s).length = c.maxRows * c.rowTokens)
  let r := full.foldl (fun (r : StepRun) s => { r.depart s with events := r.events ++ [(s, Sts.lengthLimit)] }) r
  { r with grow := (r.inState 2).filter (fun s => (r.ent s).rows * c.rowTokens < (r.ent s).length + 1) }

/-- The victim (R281): lowest priority, then largest stamp. -/
def StepRun.victim (r : StepRun) : Option Nat :=
  minBy (fun s => (r.ent s).prio * 2 ^ 48 + (2 ^ 48 - 1 - (r.ent s).stamp % 2 ^ 48)) (r.inState 2)

/-! ## Moving page data -/

/-- Reads bytes of a pool's DRAM at their home slices, as the engine on the I/O die does for a partition (R16, R203). -/
def Dev.poolRead (d : Dev) (p a n : Nat) : Dev × Bytes :=
  let r := d.readAt (Asker.io (some p)) true a n
  (r.1, r.2.2)

/-- The data of a page. -/
def Dev.pageData (d : Dev) (p : Nat) (c : PoolCfg) (i : Nat) : Dev × Bytes := d.poolRead p (c.base + 65536 * i) 65536

/-- The records of one page and the number of lossy ones (R281, R262). -/
def Dev.packPage (d : Dev) (p : Nat) (c : PoolCfg) (i : Nat) : Dev × Bytes × Nat :=
  let r := d.pageData p c i
  let a := c.base + 65536 * i
  let prof := (d.fld Fld.CPR_LOSSY_profiles 0 / 4 ^ groupOf a) % 4
  (List.range 256).foldl (fun (acc : Dev × Bytes × Nat) k =>
    let n := acc.1.fresh
    let e := encodeBlock 64 prof n.1 (slice r.2 (256 * k) 256)
    (n.2, acc.2.1 ++ e.1, acc.2.2 + (if e.2 then 1 else 0))) (r.1, [], 0)

/-- Suspends a victim under COMPRESS: its records are packed into its own pages in place (R281). -/
def Dev.compressVictim (d : Dev) (p : Nat) (c : PoolCfg) (e : SeqEnt) : Dev × SeqEnt × List Nat :=
  let k := ceilDiv e.pages.length 4
  let r := e.pages.foldl (fun (acc : Dev × Bytes × Nat) i =>
    let x := acc.1.packPage p c i
    (x.1, acc.2.1 ++ x.2.1, acc.2.2 + x.2.2)) (d, [], 0)
  let d := ((e.pages.take k).zipIdx).foldl (fun (d : Dev) q =>
    d.dramWrite (Asker.io (some p)) true (some 0) (c.base + 65536 * q.1) ((slice r.2.1 (65536 * q.2) 65536).take (r.2.1.length - 65536 * q.2))) r.1
  let d := d.bump Fld.CPR_CODEC_LOSSY_count 0 r.2.2
  (d, { e with state := 3, held := 1, pages := e.pages.take k, lossy := e.lossy || r.2.2 > 0 }, e.pages.drop k)

/-- A suspension ends: it holds at once, whatever becomes of the STEP (R280, R281, R288). -/
def Dev.suspended (d : Dev) (p s : Nat) (r : StepRun) (e : SeqEnt) (freed : List Nat) : Dev × StepRun :=
  let x := d.pool p
  let e1 := { e with stamp := x.stamp + 1 }
  let d := (d.setPool p { x.give freed with stamp := x.stamp + 1 }).bump Fld.SEQ_P_SUSPENDS_count p 1
  let d : Dev := { d with seq := { d.seq with ents := NMap.set d.seq.ents s e1 } }
  (d, { r with
    ents := NMap.set r.ents s { e with stamp := r.pool.stamp + 1 }
    pool := { r.pool.give freed with stamp := r.pool.stamp + 1 }
    grow := r.grow.filter (· ≠ s), suspended := s :: r.suspended, events := r.events ++ [(s, Sts.suspendedMemory)]
    moving := none, sent := 0, newPages := [], failed := false, formingSince := none })

/-- Suspends under COMPRESS. -/
def Dev.suspendPacked (d : Dev) (p s : Nat) (c : PoolCfg) (r : StepRun) : Dev × StepRun :=
  let x := d.compressVictim p c (r.ent s)
  x.1.suspended p s r x.2.1 x.2.2

/-- The peer of a pool. -/
def Dev.peerOf (d : Dev) (p : Nat) : Nat × Nat := (d.fld Fld.SEQ_P_PEER_peer_device p, d.fld Fld.SEQ_P_PEER_peer_pool p)

/-- Transfers of 256 bytes that move a sequence's pages: page number and offset. -/
def movePieces (n : Nat) : List (Nat × Nat) := (List.range n).flatMap (fun i => (List.range 256).map (fun k => (i, 256 * k)))

/-- Sends the writes of a MIGRATE that are not yet sent, as far as slots last (R281). -/
def Dev.migrateSend (d : Dev) (c : Cmd) (cfg : PoolCfg) (e : SeqEnt) (r : StepRun) : Dev × StepRun :=
  ((movePieces e.pages.length).drop r.sent).foldl (fun (acc : Dev × StepRun × Bool) q =>
    if acc.2.2 then acc
    else
      let x := acc.1.poolRead c.part (cfg.base + 65536 * nth e.pages q.1 0 + q.2) 256
      match x.1.issue ⟨c.ring, c.serial, 2, 0, 0, (acc.1.peerOf c.part).1, nth r.newPages q.1 0 + q.2, 256, none, 0,
          .sequence c.ring c.serial, x.2⟩ with
      | (d, .ok) => (d, { acc.2.1 with sent := acc.2.1.sent + 1 }, false)
      | (d, .wait) => (d, acc.2.1, true)
      | (d, .fail _) => (d, { acc.2.1 with failed := true }, true)) (d, r, false) |> fun x => (x.1, x.2.1)

/-- Begins a MIGRATE of a victim: to a pool of this device at once, or to another device's, whose answer and guest pages are
its own choice; `none` when the peer refuses or cannot be reached (R282). -/
def Dev.migrateStart (d : Dev) (c : Cmd) (cfg : PoolCfg) (s : Nat) (r : StepRun) : Option (Dev × StepRun) :=
  let p := c.part
  let peer := d.peerOf p
  let e := r.ent s
  let n := e.pages.length
  if d.sharedGate ≠ .ok then none
  else if peer.1 = d.addr ∧ d.addr ≠ 0 then
    if peer.2 = p then none
    else match d.acceptGuests peer.2 d.addr n with
      | none => none
      | some (gs, d) =>
        let pc := d.poolCfg peer.2
        let d := (e.pages.zip gs).foldl (fun (d : Dev) q =>
          let x := d.pageData p cfg q.1
          x.1.dramWrite (Asker.io (some p)) true none (pc.base + 65536 * q.2) x.2) d
        let e1 : SeqEnt := { e with state := 3, held := 2, peerDevice := peer.1, peerPool := peer.2, pages := [], guest := gs }
        some (d.suspended p s r e1 e.pages)
  else if d.route peer.1 = .none then none
  else
    let b := d.fresh
    if Config.freeBool b.1 then
      let gs := (List.range n).map (fun i => Config.freeNat (b.2.freeCtr + i) % 2 ^ 24 * 65536)
      let d : Dev := { b.2 with freeCtr := b.2.freeCtr + n }
      some (d.migrateSend c cfg e { r with moving := some s, sent := 0, newPages := gs, failed := false })
    else none

/-- Goes on with a MIGRATE: more writes, its end once every write is acknowledged, or its fallback (R281, R282). The flag
tells whether the suspension has ended. -/
def Dev.migrateOn (d : Dev) (c : Cmd) (cfg : PoolCfg) (s : Nat) (r : StepRun) : Dev × StepRun × Bool :=
  let p := c.part
  if r.failed then
    if d.cmdOps c.ring c.serial then (d, r, false)
    else let x := (d.bump Fld.SEQ_P_FALLBACKS_count p 1).suspendPacked p s cfg r; (x.1, x.2, true)
  else
    let e := r.ent s
    if r.sent < 256 * e.pages.length then let x := d.migrateSend c cfg e r; (x.1, x.2, false)
    else if d.cmdOps c.ring c.serial then (d, r, false)
    else
      let peer := d.peerOf p
      let e1 : SeqEnt := { e with state := 3, held := 2, peerDevice := peer.1, peerPool := peer.2, pages := [], guest := r.newPages }
      let x := d.suspended p s r e1 e.pages
      (x.1, x.2, true)

/-- Whether the placement of guest pages still waits because the device is FORMING: for native_us at most, after which it has
failed (R393). -/
def Dev.placementWaits (d : Dev) (r : StepRun) : Bool :=
  d.sharedGate = .wait && decide (d.now < r.formingSince.getD d.now + 1000 * d.fld Fld.FAB_OP_TIMEOUT_native_us 0)

/-- Suspends a victim under the pool's policy. -/
def Dev.suspend (d : Dev) (c : Cmd) (cfg : PoolCfg) (s : Nat) (r : StepRun) : Dev × StepRun :=
  if cfg.migrate then match d.migrateStart c cfg s r with
    | some x => x
    | none => (d.bump Fld.SEQ_P_FALLBACKS_count c.part 1).suspendPacked c.part s cfg r
  else d.suspendPacked c.part s cfg r

/-! ## Phases 2 and 3 (R280) -/

/-- A row for each continuing sequence that needs one (R280). -/
def Dev.growRows (d : Dev) (cfg : PoolCfg) (r : StepRun) : Dev × StepRun :=
  r.grow.foldl (fun (acc : Dev × StepRun) s =>
    let x := takePages cfg.pages cfg.rowPages acc.1.freeCtr acc.2.pool.used
    let e := acc.2.ent s
    (({ acc.1 with freeCtr := x.2.2 } : Dev),
      { acc.2 with
        pool := { acc.2.pool with used := x.2.1 }
        ents := NMap.set acc.2.ents s { e with rows := e.rows + 1, pages := e.pages ++ x.1 } })) (d, r)

/-- ADMIT entries enter the queue in list order (R279), and the candidates are put in order. -/
def StepRun.queue (r : StepRun) (p : Nat) : StepRun :=
  let r := (r.list.zip r.statuses).foldl (fun (r : StepRun) q =>
    if q.2 = Sts.ok ∧ entDepart q.1 = false then
      { r with
        pool := { r.pool with stamp := r.pool.stamp + 1 }
        ents := NMap.set r.ents (entSeq q.1) { SeqEnt.free with
          state := 1, pool := p, prio := entPrio q.1, length := entTokens q.1, stamp := r.pool.stamp + 1 } }
    else r) r
  let cs := r.inState 1 ++ (r.inState 3).filter (fun s => !r.suspended.contains s)
  { r with
    phase := .admission
    cands := sortBy (fun a b =>
      (r.ent b).prio < (r.ent a).prio || ((r.ent a).prio = (r.ent b).prio && (r.ent a).stamp ≤ (r.ent b).stamp)) cs }

/-- Phase 2: suspends victims until the growth needs fit; `fuel` bounds their number. The flag tells whether phase 3 may
begin. -/
def Dev.stepGrow (c : Cmd) (cfg : PoolCfg) : Nat → Dev → StepRun → Dev × StepRun × Bool
  | 0, d, r => (d, r, false)
  | fuel + 1, d, r =>
    match r.moving with
    | some s =>
      let x := d.migrateOn c cfg s r
      if x.2.2 then Dev.stepGrow c cfg fuel x.1 x.2.1 else (x.1, x.2.1, false)
    | none =>
      if cfg.rowPages * r.grow.length ≤ r.pool.free cfg then
        let x := d.growRows cfg r
        (x.1, x.2.queue c.part, true)
      else match r.victim with
        | some s =>
          if cfg.migrate ∧ d.placementWaits r then (d, { r with formingSince := some (r.formingSince.getD d.now) }, false)
          else let x := d.suspend c cfg s r; Dev.stepGrow c cfg fuel x.1 x.2
        | none => (d, r.queue c.part, true)

/-- Pages that a candidate needs (R279). -/
def candNeed (cfg : PoolCfg) (e : SeqEnt) : Nat := (ceilDiv e.length cfg.rowTokens + 1) * cfg.rowPages

/-- A candidate becomes ACTIVE on new pages (R279, R283). -/
def Dev.join (d : Dev) (cfg : PoolCfg) (s : Nat) (r : StepRun) : Dev × StepRun :=
  let e := r.ent s
  let n := candNeed cfg e
  let x := takePages cfg.pages n d.freeCtr r.pool.used
  let back := decide (e.state = 3)
  (({ d with freeCtr := x.2.2 } : Dev),
    { r with
      pool := { ({ r.pool with used := x.2.1 } : Pool).give e.pages with stamp := r.pool.stamp + 1 }
      ents := NMap.set r.ents s { e with
        state := 2, held := 0, rows := n / cfg.rowPages, pages := x.1, guest := [], stamp := r.pool.stamp + 1 }
      joined := r.joined ++ [(s, back, if back then 0 else e.length)]
      cands := r.cands.drop 1, moving := none, sent := 0, failed := false })

/-- The parts of a sequence's guest pages that have not been received and are not asked for, requested as far as slots
last; the flag reports an error (R283). -/
def Dev.fetchGuests (d : Dev) (c : Cmd) (e : SeqEnt) : Dev × Bool :=
  let have0 := ((d.cmd? c.ring c.serial).map (·.remote)).getD []
  let r := (movePieces e.guest.length).foldl (fun (acc : Dev × Bool × Bool) q =>
    let a := nth e.guest q.1 0 + q.2
    if acc.2.1 ∨ acc.2.2 then acc
    else if have0.any (fun x => x.1 = e.peerDevice * 2 ^ 40 + a) then acc
    else if acc.1.fab.ops.any (fun o => o.ring = c.ring && o.serial = c.serial && o.kind = 1 && o.addr = a) then acc
    else match acc.1.issue ⟨c.ring, c.serial, 1, 0, 0, e.peerDevice, a, 256, none, 0, .sequence c.ring c.serial, []⟩ with
      | (d, .ok) => (d, false, false)
      | (d, .wait) => (d, true, false)
      | (d, .fail _) => (d, false, true)) (d, false, false)
  (r.1, r.2.2)

/-- The guest data of a sequence, once every part has been received. -/
def guestData (c : Cmd) (e : SeqEnt) : Option Bytes :=
  (movePieces e.guest.length).foldl (fun acc q => match acc,
      c.remote.find? (fun x => x.1 = e.peerDevice * 2 ^ 40 + nth e.guest q.1 0 + q.2) with
    | some bs, some x => some (bs ++ x.2)
    | _, _ => none) (some [])

/-- A candidate held by another device: whether it is unreachable, lost there, ready, or still on its way (R283). -/
inductive PeerState where
  | unreachable | lost | ready | waiting
  deriving DecidableEq, Repr

/-- Looks at a candidate whose pages a peer holds, and asks for them. What the peer reports of its guest pages is its own
matter. -/
def Dev.peerState (d : Dev) (c : Cmd) (s : Nat) (e : SeqEnt) (r : StepRun) : Dev × PeerState :=
  if e.peerDevice = d.addr then
    let x := d.pool e.peerPool
    (d, if e.guest.all (fun i => x.guests.any (fun g => g.2.contains i)) then .ready else .lost)
  else if d.route e.peerDevice = .none then (d, .unreachable)
  else if r.moving ≠ some s then
    let b := d.fresh
    if Config.freeBool b.1 then (b.2, .lost) else let x := b.2.fetchGuests c e; (x.1, if x.2 then .unreachable else .waiting)
  else if r.failed then (d, if d.cmdOps c.ring c.serial then .waiting else .unreachable)
  else match (d.cmd? c.ring c.serial).bind (fun c => guestData c e) with
    | some _ => (d, .ready)
    | none => let x := d.fetchGuests c e; (x.1, if x.2 then .unreachable else .waiting)

/-- Phase 3: admissions and resumes in candidate order; `fuel` bounds their number. The flag tells whether the STEP may
commit (R280, R283). -/
def Dev.stepAdmit (c : Cmd) (cfg : PoolCfg) : Nat → Dev → StepRun → Dev × StepRun × Bool
  | 0, d, r => (d, r, false)
  | fuel + 1, d, r => match r.cands with
    | [] => (d, r, true)
    | s :: rest =>
      let e := r.ent s
      let skip : StepRun := { r with cands := rest, moving := none, sent := 0, failed := false }
      if e.state = 3 ∧ e.held = 2 then
        if r.pool.free cfg < candNeed cfg e ∧ (e.peerDevice = d.addr ∨ d.route e.peerDevice ≠ .none) then (d, { r with cands := [] }, true)
        else match d.peerState c s e r with
          | (d, .unreachable) => Dev.stepAdmit c cfg fuel d skip
          | (d, .waiting) => (d, { r with moving := some s }, false)
          | (d, .ready) => let x := d.join cfg s r; Dev.stepAdmit c cfg fuel x.1 x.2
          | (d, .lost) => Dev.stepAdmit c cfg fuel d
              { skip with ents := NMap.erase r.ents s, events := r.events ++ [(s, Sts.seqLost)] }
      else if r.pool.free cfg < candNeed cfg e then (d, { r with cands := [] }, true)
      else let x := d.join cfg s r; Dev.stepAdmit c cfg fuel x.1 x.2

/-! ## The commit (R280, R285) -/

/-- The bytes of page `i` of a resumed sequence, from its packed records or its guest pages (R283). -/
def Dev.restored (d : Dev) (c : Cmd) (cfg : PoolCfg) (old : SeqEnt) (i : Nat) : Dev × Bytes :=
  if old.held = 2 then
    if old.peerDevice = d.addr then d.poolRead c.part ((d.poolCfg old.peerPool).base + 65536 * nth old.guest i 0) 65536
    else (d, slice (((d.cmd? c.ring c.serial).bind (fun c => guestData c old)).getD []) (65536 * i) 65536)
  else
    let r := d.poolRead c.part (cfg.base + 65536 * nth old.pages (i / 4) 0 + 16384 * (i % 4)) 16384
    (List.range 256).foldl (fun (acc : Dev × Bytes) k => match decodeRecord 64 (slice r.2 (64 * k) 64) with
      | some x => (acc.1, acc.2 ++ x)
      | none => (acc.1.bump Fld.CPR_CODEC_BAD_count 0 1, acc.2 ++ List.replicate 256 0)) (r.1, [])

/-- Pages that a suspended sequence had while ACTIVE. -/
def SeqEnt.origPages (e : SeqEnt) (cfg : PoolCfg) : Nat := e.rows * cfg.rowPages

/-- Restores the data of the resumed sequences and fills the other new pages. -/
def Dev.commitPages (d : Dev) (c : Cmd) (cfg : PoolCfg) (r : StepRun) : Dev :=
  let d := r.joined.foldl (fun (d : Dev) (j : Nat × Bool × Nat) =>
    let old := d.seqEnt j.1
    let new := (r.ent j.1).pages
    let n := if j.2.1 then old.origPages cfg else 0
    let d := ((new.take n).zipIdx).foldl (fun (d : Dev) q =>
      let x := d.restored c cfg old q.2
      x.1.dramWrite (Asker.io (some c.part)) true none (cfg.base + 65536 * q.1) x.2) d
    let d := (new.drop n).foldl (fun (d : Dev) i => d.undefPage c.part cfg i) d
    if j.2.1 = true ∧ old.held = 2 ∧ old.peerDevice = d.addr then d.releaseGuests old.peerPool old.guest else d) d
  (r.grow).foldl (fun (d : Dev) s =>
    let e := r.ent s
    (e.pages.drop (e.pages.length - cfg.rowPages)).foldl (fun (d : Dev) i => d.undefPage c.part cfg i) d) d

/-- Entries after the commit: ACTIVE lengths have grown by 1 (R280). -/
def StepRun.finalEnts (r : StepRun) : NMap SeqEnt :=
  r.ents.map (fun (e : Nat × SeqEnt) => (e.1, if e.2.state = 2 then { e.2 with length := e.2.length + 1 } else e.2))

/-- The page list of an ACTIVE sequence (R274). -/
def Dev.writePageList (d : Dev) (p : Nat) (cfg : PoolCfg) (s : Nat) (e : SeqEnt) : Dev :=
  let ps := e.pages.take (cfg.maxRows * cfg.rowPages)
  d.dramWrite (Asker.io (some p)) true none (cfg.list + 4 * ((s - cfg.seqBase) * cfg.maxRows * cfg.rowPages)) (ps.flatMap (leBytes 4))

/-- The manifest's head with its active records (R285). -/
def manifestHead (serial : Wide) (free : Nat) (r : StepRun) (ents : NMap SeqEnt) : Bytes :=
  let active := ents.filter (fun (e : Nat × SeqEnt) => e.2.state = 2)
  let count := fun n => (ents.filter (fun (e : Nat × SeqEnt) => e.2.state = n)).length
  leBytes 8 serial.toNat ++ leBytes 4 active.length ++ leBytes 4 r.events.length ++ leBytes 4 free ++ leBytes 4 (count 1)
    ++ leBytes 4 (count 3) ++ List.replicate 36 0
    ++ active.flatMap (fun (e : Nat × SeqEnt) =>
      let j := r.joined.find? (fun j => j.1 = e.1)
      let back := (j.map (·.2.1)).getD false
      leBytes 2 (e.1 % 8192 + (if j.isSome then 8192 else 0) + (if back then 16384 else 0) + (if e.2.lossy then 32768 else 0))
        ++ leBytes 2 e.2.rows ++ leBytes 4 e.2.length ++ leBytes 4 ((j.map (·.2.2)).getD 0) ++ leBytes 4 0)

/-- The manifest's event records. -/
def manifestEvents (r : StepRun) : Bytes := r.events.flatMap (fun e => leBytes 2 e.1 ++ leBytes 2 e.2.toNat ++ leBytes 4 0)

/-- The commit of a STEP, and the writes that follow it: page lists, manifest, step-list statuses (R280, R285). -/
def Dev.stepCommit (d : Dev) (c : Cmd) (cfg : PoolCfg) (r : StepRun) : Dev :=
  let p := c.part
  let stays := fun (e : Bytes) => (NMap.getD r.ents (entSeq e) SeqEnt.free).state = 1
  let deferred := (r.list.zip r.statuses).filter (fun q => q.2 = Sts.ok && !entDepart q.1 && stays q.1)
  let statuses := (r.list.zip r.statuses).map (fun q =>
    if q.2 = Sts.ok ∧ entDepart q.1 = false ∧ stays q.1 then Sts.deferredMemory else q.2)
  let r := { r with events := r.events ++ deferred.map (fun q => (entSeq q.1, Sts.deferredMemory)) }
  let d := d.commitPages c cfg r
  let departed := d.seq.ents.filter (fun (e : Nat × SeqEnt) => e.2.pool = p && e.2.held = 2 && e.2.peerDevice = d.addr
    && (NMap.get? r.ents e.1).isNone)
  let d := departed.foldl (fun (d : Dev) e => d.releaseGuests e.2.peerPool e.2.guest) d
  let ents := r.finalEnts
  let serial := r.pool.serial + 1
  let d : Dev := { d with seq := { d.seq with
    ents := ents.foldl (fun m (e : Nat × SeqEnt) => NMap.set m e.1 e.2) (d.seq.ents.filter (fun (e : Nat × SeqEnt) => e.2.pool ≠ p)) } }
  let d := d.setPool p { r.pool with serial := serial }
  let d := ((d.bump Fld.SEQ_P_STEPS_count p 1).bump Fld.SEQ_P_DEFERS_count p deferred.length).bump Fld.SEQ_P_RESUMES_count p
    (r.joined.filter (fun j => j.2.1)).length
  let d := d.bump Fld.SEQ_P_LOST_count p (r.events.filter (fun e => e.2 = Sts.seqLost)).length
  let d := (d.hist 20 r.suspended.length).count 0x0080 (ents.filter (fun (e : Nat × SeqEnt) => e.2.state = 2)).length
    (c.attr (some p))
  let d := ents.foldl (fun (d : Dev) (e : Nat × SeqEnt) => if e.2.state = 2 then d.writePageList p cfg e.1 e.2 else d) d
  let m := stepManifest c.desc
  let ws : List VWrite := [⟨m, manifestHead serial (r.pool.free cfg) r ents, false⟩, ⟨m + 131136, manifestEvents r, false⟩]
    ++ (statuses.zipIdx).map (fun q => ⟨stepList c.desc + BitVec.ofNat 64 (16 * q.2 + 8), leBytes 2 q.1.toNat, false⟩)
  d.drainWrites c engSequence (ws.filter (fun w => !w.data.isEmpty)) Sts.ok 0 noUnit

/-- What is left of a committed STEP whose writes are not all made: its page lists, manifest and step-list statuses are undefined
(R288). -/
def Dev.stepUndone (d : Dev) (c : Cmd) : Dev :=
  let p := c.part
  let cfg := d.poolCfg p
  let blank := fun (n : Nat) => List.replicate n (0 : Byte)
  let d := d.spoil c engSequence none (⟨stepManifest c.desc, blank 196672, false⟩ :: (List.range (stepCount c.desc)).map (fun k =>
    (⟨stepList c.desc + BitVec.ofNat 64 (16 * k + 8), blank 2, false⟩ : VWrite)))
  (d.seq.ents.filter (fun (e : Nat × SeqEnt) => e.2.pool = p && e.2.state = 2)).foldl (fun (d : Dev) e =>
    let g := d.fresh
    g.2.dramWrite (Asker.io (some p)) true none (cfg.list + 4 * ((e.1 - cfg.seqBase) * cfg.maxRows * cfg.rowPages))
      ((List.range (4 * e.2.pages.length)).map (fun k => Config.freeByte g.1 k))) d

/-- Goes on with a STEP. -/
def Dev.stepOn (d : Dev) (c : Cmd) (r : StepRun) : Dev :=
  let cfg := d.poolCfg c.part
  let keep := fun (d : Dev) (r : StepRun) => d.setRun c.ring c.serial (.step r)
  match d.dramGate with
  | .wait => keep d r
  | .fail e => d.endCmd c.ring c.serial e 0 noUnit
  | .ok =>
    let fuel := r.ents.length + r.list.length + r.cands.length + 2
    let g := if r.phase = .growth then Dev.stepGrow c cfg fuel d r else (d, r, true)
    if !g.2.2 then keep g.1 g.2.1
    else
      let a := Dev.stepAdmit c cfg (g.2.1.cands.length + 1) g.1 g.2.1
      if !a.2.2 then keep a.1 a.2.1 else a.1.stepCommit c cfg a.2.1

/-- SHARED_OPERATION_TIMEOUT of a STEP: guest pages that could not be placed within native_us while the device was FORMING are
refused, and the fallback of R282 follows (R393). -/
def Dev.stepForming (d : Dev) (c : Cmd) (r : StepRun) : Dev :=
  match r.formingSince with
  | some t => if d.side = 0 then (d.advanceTo (t + 1000 * d.fld Fld.FAB_OP_TIMEOUT_native_us 0)).stepOn c r else d
  | none => d

/-- STEP (R276 to R288): one runs in a pool at a time, in order of acceptance. -/
def Dev.runStep (d : Dev) (c : Cmd) : Dev :=
  let p := c.part
  match c.run with
  | .writing left st detail unit => d.drainWrites c engSequence left st detail unit
  | .step r => d.stepOn c r
  | _ =>
    if !d.stepOk c then d.fail c Sts.badDescriptor 0
    else
      let ahead := d.sub.cmds.takeWhile (fun x => !(x.ring = c.ring && x.serial = c.serial))
      if ahead.any (fun x => x.part = p && x.opcode = 0x58 && x.phase ≠ .ended) ∨ d.sub.cmds.any (fun x => x.steps p) then d
      else
        let n := stepCount c.desc
        match (if n = 0 then (d, Res.ok, []) else d.cmdRead c engSequence (stepList c.desc) (16 * n)) with
        | (d, .wait, _) => d
        | (d, .fail s v, _) => d.endCmd c.ring c.serial s v noUnit
        | (d, .ok, bs) =>
          let cfg := d.poolCfg p
          let ents := d.seq.ents.filter (fun (e : Nat × SeqEnt) => e.2.pool = p)
          let list := (List.range n).map (fun i => slice bs (16 * i) 16)
          let r : StepRun := ⟨list, entStatuses cfg ents [] list, [], ents, d.pool p, [], [], [], [], none, 0, [], false, none, .growth⟩
          d.stepOn c (r.depart1 cfg)

end Sys2Proof.Machine
end

