-- ==== Sys2Proof/Machine/Inflate.lean ====
section
/-! DEFINITION. Decompression of DEFLATE, zlib and gzip (R271; RFC 1951, 1950, 1952). A decoder runs over all input of the
stream so far; it gives the output bytes, each with the number of input bytes of which at least one bit had been used
when it was produced (R267), and how it stopped. -/

namespace Sys2Proof.Machine

/-- Why a decoder stops. -/
inductive DecStop where
  /-- all input is taken and the stream goes on -/
  | more
  /-- the stream ended -/
  | ended
  /-- FORMAT_ERROR -/
  | format
  /-- CHECK_MISMATCH -/
  | mismatch
  deriving DecidableEq, Repr

/-- What a decoder has done: output latest first, input bytes used, and why it stopped. -/
structure Decoded where
  out : List (Byte × Nat)
  used : Nat
  stop : DecStop
  deriving DecidableEq, Repr

/-- Input bits: their value as one number, and how many there are. -/
structure BitIn where
  v : Nat
  n : Nat
  deriving DecidableEq, Repr

/-- The bits of a byte string, least significant bit of the first byte first. -/
def bitInOf (b : Bytes) : BitIn := ⟨leNat b, 8 * b.length⟩

/-- `k` bits at a position, unless the input ends before them. -/
def BitIn.get (i : BitIn) (pos k : Nat) : Option Nat := if pos + k ≤ i.n then some ((i.v >>> pos) % 2 ^ k) else none

/-- A canonical Huffman code: the number of codes of each length from 1 to 15, and the symbols in the order of their
codes. -/
structure Huff where
  counts : List Nat
  syms : List Nat
  deriving DecidableEq, Repr

/-- The code with the given lengths. -/
def huffOf (lens : List Nat) : Huff :=
  let idx := lens.zipIdx
  ⟨(List.range 15).map (fun l => (lens.filter (· = l + 1)).length),
    (List.range 15).flatMap (fun l => (idx.filter (fun p => p.1 = l + 1)).map (·.2))⟩

/-- Codes left over at the end: none for a complete code, `none` for one that has too many. -/
def Huff.left (h : Huff) : Option Nat :=
  h.counts.foldl (fun acc c => match acc with
    | some l => if c ≤ 2 * l then some (2 * l - c) else none
    | none => none) (some 1)

/-- A complete code. -/
def Huff.complete (h : Huff) : Bool := h.left = some 0

/-- A code for distances: complete, or a single code of one bit, or no code at all. -/
def Huff.distOk (h : Huff) : Bool := h.complete || h.syms.isEmpty || (h.syms.length = 1 && h.counts.head? = some 1)

/-- Result of decoding a symbol. -/
inductive SymRes where
  | sym (s pos : Nat)
  | more
  | bad
  deriving DecidableEq, Repr

/-- Decodes one symbol bit by bit. -/
def huffStep (i : BitIn) (syms : List Nat) : List Nat → Nat → Nat → Nat → Nat → SymRes
  | [], _, _, _, _ => .bad
  | c :: cs, code, first, index, pos =>
    match i.get pos 1 with
    | none => .more
    | some b =>
      let code := 2 * code + b
      if code < first + c then .sym (nth syms (index + (code - first)) 0) (pos + 1)
      else huffStep i syms cs code (2 * (first + c)) (index + c) (pos + 1)

/-- Decodes one symbol. -/
def Huff.decode (h : Huff) (i : BitIn) (pos : Nat) : SymRes := huffStep i h.syms h.counts 0 0 0 pos

/-- Base and extra bits of a length code (RFC 1951). -/
def lengthCode (s : Nat) : Nat × Nat :=
  if s < 8 then (3 + s, 0)
  else if s = 28 then (258, 0)
  else let e := s / 4 - 1; (3 + (4 + s % 4) * 2 ^ e, e)

/-- Base and extra bits of a distance code (RFC 1951). -/
def distCode (s : Nat) : Nat × Nat :=
  if s < 4 then (1 + s, 0) else let e := s / 2 - 1; (1 + (2 + s % 2) * 2 ^ e, e)

/-- The state of an inflation: bit position and output, latest first. -/
structure Infl where
  pos : Nat
  out : List (Byte × Nat)
  deriving DecidableEq, Repr

/-- Input bytes of which a bit has been used. -/
def Infl.used (s : Infl) : Nat := ceilDiv s.pos 8

/-- Copies `n` bytes from `dist` back. -/
def Infl.copy (s : Infl) (dist : Nat) : Nat → Infl
  | 0 => s
  | n + 1 => Infl.copy { s with out := ((nth s.out (dist - 1) (0, 0)).1, s.used) :: s.out } dist n

/-- Symbols of a block until its end: `none` when it ended, else why it stopped. -/
def inflSyms (i : BitIn) (lit dist : Huff) (window : Nat) : Nat → Infl → Infl × Option DecStop
  | 0, s => (s, some .format)
  | fuel + 1, s => match lit.decode i s.pos with
    | .more => (s, some .more)
    | .bad => (s, some .format)
    | .sym x p =>
      if x < 256 then
        let s := { s with pos := p }
        inflSyms i lit dist window fuel { s with out := (BitVec.ofNat 8 x, s.used) :: s.out }
      else if x = 256 then ({ s with pos := p }, none)
      else if x > 285 then (s, some .format)
      else
        let lc := lengthCode (x - 257)
        match i.get p lc.2 with
        | none => (s, some .more)
        | some le => match dist.decode i (p + lc.2) with
          | .more => (s, some .more)
          | .bad => (s, some .format)
          | .sym y q =>
            if y > 29 then (s, some .format)
            else
              let dc := distCode y
              match i.get q dc.2 with
              | none => (s, some .more)
              | some de =>
                let d := dc.1 + de
                if d > s.out.length ∨ d > window then (s, some .format)
                else inflSyms i lit dist window fuel (({ s with pos := q + dc.2 } : Infl).copy d (lc.1 + le))

/-- The fixed codes. -/
def fixedLit : Huff := huffOf (List.replicate 144 8 ++ List.replicate 112 9 ++ List.replicate 24 7 ++ List.replicate 8 8)
def fixedDist : Huff := huffOf (List.replicate 30 5)

/-- Order of the code-length codes. -/
def clOrder : List Nat := [16, 17, 18, 0, 8, 7, 9, 6, 10, 5, 11, 4, 12, 3, 13, 2, 14, 1, 15]

/-- Reads `total` code lengths: the lengths and the position after them. -/
def readLens (i : BitIn) (h : Huff) (total : Nat) : Nat → Nat → List Nat → Except DecStop (List Nat × Nat)
  | 0, _, _ => .error .format
  | fuel + 1, pos, acc =>
    if acc.length = total then .ok (acc, pos)
    else if acc.length > total then .error .format
    else match h.decode i pos with
      | .more => .error .more
      | .bad => .error .format
      | .sym s p =>
        if s < 16 then readLens i h total fuel p (acc ++ [s])
        else
          let k := if s = 16 then 2 else if s = 17 then 3 else 7
          match i.get p k with
          | none => .error .more
          | some x =>
            if s = 16 ∧ acc.isEmpty then .error .format
            else
              let v := if s = 16 then (acc.getLast?).getD 0 else 0
              let n := x + (if s = 18 then 11 else 3)
              readLens i h total fuel (p + k) (acc ++ List.replicate n v)

/-- The codes of a dynamic block. -/
def dynamicCodes (i : BitIn) (pos : Nat) : Except DecStop (Huff × Huff × Nat) :=
  match i.get pos 14 with
  | none => .error .more
  | some x =>
    let nlen := x % 32 + 257
    let ndist := x / 32 % 32 + 1
    let ncode := x / 1024 + 4
    if nlen > 286 then .error .format
    else match i.get (pos + 14) (3 * ncode) with
      | none => .error .more
      | some y =>
        let cl := huffOf ((List.range 19).map (fun s =>
          match clOrder.findIdx? (· = s) with
          | some k => if k < ncode then y / 8 ^ k % 8 else 0
          | none => 0))
        if !cl.complete then .error .format
        else match readLens i cl (nlen + ndist) 321 (pos + 14 + 3 * ncode) [] with
          | .error e => .error e
          | .ok (ls, p) =>
            let lit := huffOf (ls.take nlen)
            let dist := huffOf (ls.drop nlen)
            if !lit.complete ∨ !dist.distOk ∨ nth ls 256 0 = 0 then .error .format else .ok (lit, dist, p)

/-- Bytes of a stored block. -/
def storedBytes (i : BitIn) : Nat → Infl → Infl × Option DecStop
  | 0, s => (s, none)
  | n + 1, s => match i.get s.pos 8 with
    | none => (s, some .more)
    | some b =>
      let s := { s with pos := s.pos + 8 }
      storedBytes i n { s with out := (BitVec.ofNat 8 b, s.used) :: s.out }

/-- One block after its three header bits. -/
def inflBlock (i : BitIn) (window kind : Nat) (s : Infl) : Infl × Option DecStop :=
  match kind with
  | 0 =>
    let p := ceilDiv s.pos 8 * 8
    match i.get p 32 with
    | none => (s, some .more)
    | some x =>
      if x % 65536 + x / 65536 ≠ 65535 then ({ s with pos := p + 32 }, some .format)
      else storedBytes i (x % 65536) { s with pos := p + 32 }
  | 1 => inflSyms i fixedLit fixedDist window (i.n + 1) s
  | 2 => match dynamicCodes i s.pos with
    | .error e => (s, some e)
    | .ok (lit, dist, p) => inflSyms i lit dist window (i.n + 1) { s with pos := p }
  | _ => (s, some .format)

/-- Blocks until the last one. -/
def inflBlocks (i : BitIn) (window : Nat) : Nat → Infl → Infl × Option DecStop
  | 0, s => (s, some .format)
  | fuel + 1, s => match i.get s.pos 3 with
    | none => (s, some .more)
    | some h => match inflBlock i window (h / 2) { s with pos := s.pos + 3 } with
      | (s, none) => if h % 2 = 1 then (s, none) else inflBlocks i window fuel s
      | r => r

/-- Output bytes in order. -/
def Infl.bytes (s : Infl) : Bytes := (s.out.map (·.1)).reverse

/-- A decoder's result from where it stands. -/
def Infl.stop (s : Infl) (e : DecStop) : Decoded := ⟨s.out, s.used, e⟩

/-- Checks `n` trailer bytes that follow the byte boundary after `s`. -/
def Infl.trailer (s : Infl) (inp : Bytes) (n : Nat) (ok : Bytes → Bool) : Decoded :=
  let p := s.used
  if inp.length < p + n then ⟨s.out, inp.length, .more⟩
  else ⟨s.out, p + n, if ok (slice inp p n) then .ended else .mismatch⟩

/-- A raw DEFLATE stream. -/
def decodeRaw (inp : Bytes) : Decoded :=
  match inflBlocks (bitInOf inp) 32768 (8 * inp.length + 1) ⟨0, []⟩ with
  | (s, none) => s.stop .ended
  | (s, some e) => s.stop e

/-- A zlib stream. -/
def decodeZlib (inp : Bytes) : Decoded :=
  match inp with
  | cmf :: flg :: _ =>
    let c := cmf.toNat
    let f := flg.toNat
    if c % 16 ≠ 8 ∨ c / 16 > 7 ∨ (256 * c + f) % 31 ≠ 0 ∨ f.testBit 5 then ⟨[], 2, .format⟩
    else match inflBlocks (bitInOf inp) (2 ^ (c / 16 + 8)) (8 * inp.length + 1) ⟨16, []⟩ with
      | (s, none) => s.trailer inp 4 (fun t => beNat t = adler32Run 1 s.bytes)
      | (s, some e) => s.stop e
  | _ => ⟨[], inp.length, .more⟩

/-- The offset after a zero-terminated string at `o`. -/
def afterZero (inp : Bytes) (o : Nat) : Option Nat := ((inp.drop o).findIdx? (· = 0)).map (fun k => o + k + 1)

/-- The offset after a gzip header; or, where it is not all there or a byte or its check is wrong, how it stops and the input bytes
of which a bit has been used. -/
def gzipHeader (inp : Bytes) : Except (DecStop × Nat) Nat :=
  let b := fun k => leAt inp k 1
  let more : Except (DecStop × Nat) Nat := .error (.more, inp.length)
  if inp.length > 0 ∧ b 0 ≠ 0x1F then .error (.format, 1)
  else if inp.length > 1 ∧ b 1 ≠ 0x8B then .error (.format, 2)
  else if inp.length > 2 ∧ b 2 ≠ 8 then .error (.format, 3)
  else if inp.length > 3 ∧ b 3 ≥ 32 then .error (.format, 4)
  else if inp.length < 10 then more
  else
    let flg := b 3
    let extra : Option Nat :=
      if flg.testBit 2 then
        if inp.length < 12 then none else some (12 + leAt inp 10 2)
      else some 10
    let name := extra.bind (fun o => if flg.testBit 3 then afterZero inp o else some o)
    let comment := name.bind (fun o => if flg.testBit 4 then afterZero inp o else some o)
    match comment with
    | none => more
    | some o =>
      if flg.testBit 1 then
        if inp.length < o + 2 then more
        else if leAt inp o 2 = crc32 (inp.take o) % 65536 then .ok (o + 2) else .error (.mismatch, o + 2)
      else if inp.length < o then more else .ok o

/-- A gzip member. -/
def decodeGzip (inp : Bytes) : Decoded :=
  match gzipHeader inp with
  | .error e => ⟨[], e.2, e.1⟩
  | .ok o => match inflBlocks (bitInOf inp) 32768 (8 * inp.length + 1) ⟨8 * o, []⟩ with
    | (s, none) => s.trailer inp 8 (fun t =>
        leAt t 0 4 = crc32 s.bytes && leAt t 4 4 = s.out.length % 2 ^ 32)
    | (s, some e) => s.stop e

end Sys2Proof.Machine
end

