-- ==== Sys2Proof/Machine/Zstd.lean ====
section
/-! DEFINITION. Decompression of one Zstandard frame (R271; RFC 8878). A block is decoded once all of it is there. -/

namespace Sys2Proof.Machine

/-! ## Bit streams read backwards -/

/-- A stream read from its last bit: its value and the bits left, which fall below zero when more is read than there is. -/
structure BackIn where
  v : Nat
  off : Int
  deriving DecidableEq, Repr

/-- The stream of a byte string; its last byte's highest set bit marks the end. -/
def backInOf (b : Bytes) : Option BackIn :=
  let v := leNat b
  match b.getLast? with
  | none => none
  | some l => if l = 0 then none else some ⟨v, (Nat.log2 v : Int)⟩

/-- Reads `k` bits; bits before the first one are zero. -/
def BackIn.read (i : BackIn) (k : Nat) : Nat × BackIn :=
  let off := i.off - k
  let x := if 0 ≤ off then (i.v >>> off.toNat) % 2 ^ k
    else if i.off ≤ 0 then 0
    else (i.v % 2 ^ i.off.toNat) <<< (k - i.off.toNat)
  (x, ⟨i.v, off⟩)

/-! ## FSE tables -/

/-- A row of an FSE table: symbol, bits to read, and the base of the next state. -/
structure FseRow where
  sym : Nat
  bits : Nat
  base : Nat
  deriving DecidableEq, Repr, Inhabited

/-- An FSE table and its accuracy log. -/
structure Fse where
  log : Nat
  rows : List FseRow
  deriving DecidableEq, Repr

/-- Row of a state. -/
def Fse.row (t : Fse) (s : Nat) : FseRow := nth t.rows s default

/-- Reads a distribution from `pos`: probabilities (−1 for "less than 1") and the position after it. -/
def readProbs (i : BitIn) : Nat → Nat → Nat → List Int → Option (List Int × Nat)
  | 0, _, _, _ => none
  | fuel + 1, pos, remaining, acc =>
    if remaining = 0 then some (acc, pos)
    else
      let m := remaining + 1
      let k := Nat.log2 m + 1
      let full : Nat := match i.get pos k with
        | some x => x
        | none => (i.get pos (k - 1)).getD 0
      if pos + (k - 1) > i.n then none
      else
        let low := full % 2 ^ (k - 1)
        let thr := 2 ^ k - 1 - m
        let r : Nat × Nat := if low < thr then (low, k - 1)
          else (if full > 2 ^ (k - 1) - 1 then full - thr else full, k)
        let p : Int := (r.1 : Int) - 1
        let used := p.natAbs
        if used > remaining ∨ pos + r.2 > i.n then none
        else if p = 0 then
          match zeros i 100 (pos + r.2) 0 with
          | none => none
          | some (z, q) => readProbs i fuel q remaining (acc ++ List.replicate (z + 1) 0)
        else readProbs i fuel (pos + r.2) (remaining - used) (acc ++ [p])
where
  /-- Repeat flags after a zero probability. -/
  zeros (i : BitIn) : Nat → Nat → Nat → Option (Nat × Nat)
    | 0, _, _ => none
    | fuel + 1, pos, n => match i.get pos 2 with
      | none => none
      | some 3 => zeros i fuel (pos + 2) (n + 3)
      | some x => some (n + x, pos + 2)

/-- Places `k` times a symbol, stepping over the places of the low-probability symbols. -/
def spread (size high : Nat) : Nat → Nat → Nat → List Nat → List Nat × Nat
  | 0, _, pos, t => (t, pos)
  | k + 1, s, pos, t =>
    let t := setNth t pos s
    let step := size / 2 + size / 8 + 3
    let next := skip size high step size ((pos + step) % size)
    spread size high k s next t
where
  /-- The next place below `high`. -/
  skip (size high step : Nat) : Nat → Nat → Nat
    | 0, p => p
    | f + 1, p => if p < high then p else skip size high step f ((p + step) % size)

/-- Turns symbols by state into rows. -/
def fseRows (log : Nat) : List Nat → List Nat → List FseRow
  | [], _ => []
  | s :: t, desc =>
    let x := nth desc s 1
    let nb := log - Nat.log2 x
    ⟨s, nb, x * 2 ^ nb - 2 ^ log⟩ :: fseRows log t (modNth desc s (· + 1))

/-- The table of a distribution. -/
def fseTable (log : Nat) (probs : List Int) : Option Fse :=
  let size := 2 ^ log
  let idx := probs.zipIdx
  let lows := (idx.filter (fun p => p.1 = -1)).map (·.2)
  let high := size - lows.length
  let t0 := List.replicate high 0 ++ lows.reverse
  let r := idx.foldl (fun (acc : List Nat × Nat) p =>
    if p.1 > 0 then spread size high p.1.toNat p.2 acc.2 acc.1 else acc) (t0, 0)
  if r.2 ≠ 0 then none
  else some ⟨log, fseRows log r.1 (probs.map (fun p => if p = -1 then 1 else p.toNat))⟩

/-- Reads a table description at byte `o`: the table and the offset after it. -/
def readFse (b : Bytes) (o maxLog maxSym : Nat) : Option (Fse × Nat) :=
  let i := bitInOf (b.drop o)
  match i.get 0 4 with
  | none => none
  | some x =>
    let log := x + 5
    if log > maxLog then none
    else match readProbs i 300 4 (2 ^ log) [] with
      | none => none
      | some (ps, pos) =>
        if ps.length > maxSym + 1 then none
        else (fseTable log ps).map (fun t => (t, o + ceilDiv pos 8))

/-- The table of one symbol. -/
def rleFse (s : Nat) : Fse := ⟨0, [⟨s, 0, 0⟩]⟩

/-! ## Huffman literals -/

/-- A Huffman table: its widest code, and for each value of that many bits the symbol and its length. -/
structure ZHuff where
  bits : Nat
  rows : List (Nat × Nat)
  deriving DecidableEq, Repr

/-- The table of the given weights, the last one implied. -/
def zhuffOf (ws : List Nat) : Option ZHuff :=
  let sum := sumN (ws.map (fun w => if w = 0 then 0 else 2 ^ (w - 1)))
  if sum = 0 ∨ ws.any (· > 12) then none
  else
    let mb := Nat.log2 sum + 1
    let left := 2 ^ mb - sum
    if 2 ^ Nat.log2 left ≠ left ∨ mb > 11 then none
    else
      let all := ws ++ [Nat.log2 left + 1]
      let rows := (List.range mb).flatMap (fun k =>
        -- codes of weight k + 1, longest codes first
        (all.zipIdx.filter (fun p => p.1 = k + 1)).flatMap (fun p => List.replicate (2 ^ k) (p.2, mb - k)))
      some ⟨mb, rows⟩

/-- Weights from two interleaved states. -/
def fseWeights (t : Fse) : Nat → BackIn → Nat → Nat → List Nat → Option (List Nat)
  | 0, _, _, _, _ => none
  | fuel + 1, i, s1, s2, acc =>
    let r := t.row s1
    let x := i.read r.bits
    let acc := acc ++ [r.sym]
    if x.2.off < 0 then some (acc ++ [(t.row s2).sym])
    else fseWeights t fuel x.2 s2 (r.base + x.1) acc

/-- Reads a Huffman table description at byte `o`. -/
def readHuff (b : Bytes) (o : Nat) : Option (ZHuff × Nat) :=
  if b.length ≤ o then none
  else
    let h := leAt b o 1
    if h ≥ 128 then
      let n := h - 127
      let k := (n + 1) / 2
      if b.length < o + 1 + k then none
      else
        let ws := (List.range n).map (fun i => let x := leAt b (o + 1 + i / 2) 1; if i % 2 = 0 then x / 16 else x % 16)
        (zhuffOf ws).map (fun t => (t, o + 1 + k))
    else if b.length < o + 1 + h then none
    else
      let part := slice b (o + 1) h
      match readFse part 0 6 255 with
      | none => none
      | some (t, p) => match backInOf (part.drop p) with
        | none => none
        | some i =>
          let a := i.read t.log
          let c := a.2.read t.log
          if c.2.off < 0 then none
          else match fseWeights t 256 c.2 a.1 c.1 [] with
            | none => none
            | some ws => (zhuffOf ws).map (fun x => (x, o + 1 + h))

/-- Literals of one stream. -/
def huffRun (t : ZHuff) : Nat → BackIn → Nat → Bytes → Option Bytes
  | 0, _, _, _ => none
  | fuel + 1, i, s, acc =>
    if i.off > -(t.bits : Int) then
      let r := nth t.rows s (0, 0)
      let x := i.read r.2
      huffRun t fuel x.2 ((s * 2 ^ r.2 + x.1) % 2 ^ t.bits) (BitVec.ofNat 8 r.1 :: acc)
    else if i.off = -(t.bits : Int) then some acc.reverse else none

/-- Decodes one Huffman-coded stream. -/
def huffStream (t : ZHuff) (b : Bytes) : Option Bytes :=
  match backInOf b with
  | none => none
  | some i => let a := i.read t.bits; huffRun t (8 * b.length + 2) a.2 a.1 []

/-! ## Blocks -/

/-- What one block leaves for the next: Huffman table, sequence tables, and repeated offsets. -/
structure ZCtx where
  huff : Option ZHuff
  ll : Option Fse
  offs : Option Fse
  ml : Option Fse
  rep : Nat × Nat × Nat
  deriving DecidableEq, Repr

/-- The literals section at the start of a block: literals, the offset after it, and the table it leaves. -/
def readLiterals (b : Bytes) (c : ZCtx) : Option (Bytes × Nat × ZCtx) :=
  let h := leAt b 0 5
  let typ := h % 4
  let sf := h / 4 % 4
  if typ ≤ 1 then
    let hd : Nat × Nat := if sf % 2 = 0 then (1, h / 8 % 32) else if sf = 1 then (2, h / 16 % 4096) else (3, h / 16 % 2 ^ 20)
    let n := if typ = 0 then hd.2 else 1
    if b.length < hd.1 + n ∨ hd.2 > 131072 then none
    else some ((if typ = 0 then slice b hd.1 hd.2 else List.replicate hd.2 (BitVec.ofNat 8 (leAt b hd.1 1))), hd.1 + n, c)
  else
    let k := if sf ≤ 1 then 10 else if sf = 2 then 14 else 18
    let hl := if sf ≤ 1 then 3 else if sf = 2 then 4 else 5
    let regen := h / 16 % 2 ^ k
    let comp := h / 16 / 2 ^ k % 2 ^ k
    if b.length < hl + comp ∨ regen > 131072 then none
    else
      let part := slice b hl comp
      let tab : Option (ZHuff × Nat) := if typ = 2 then readHuff part 0 else c.huff.map (fun t => (t, 0))
      match tab with
      | none => none
      | some (t, o) =>
        let body := part.drop o
        let lits : Option Bytes :=
          if sf = 0 then huffStream t body
          else if body.length < 6 then none
          else
            let s1 := leAt body 0 2
            let s2 := leAt body 2 2
            let s3 := leAt body 4 2
            if body.length < 6 + s1 + s2 + s3 then none
            else match huffStream t (slice body 6 s1), huffStream t (slice body (6 + s1) s2),
              huffStream t (slice body (6 + s1 + s2) s3), huffStream t (body.drop (6 + s1 + s2 + s3)) with
              | some a, some b, some c, some d => some (a ++ b ++ c ++ d)
              | _, _, _, _ => none
        match lits with
        | some l => if l.length = regen then some (l, hl + comp, { c with huff := some t }) else none
        | none => none

/-- Predefined distributions (RFC 8878). -/
def llProbs : List Int := [4, 3, 2, 2, 2, 2, 2, 2, 2, 2, 2, 2, 2, 1, 1, 1, 2, 2, 2, 2, 2, 2, 2, 2, 2, 3, 2, 1, 1, 1, 1, 1, -1, -1, -1, -1]
def ofProbs : List Int := [1, 1, 1, 1, 1, 1, 2, 2, 2, 1, 1, 1, 1, 1, 1, 1, 1, 1, 1, 1, 1, 1, 1, 1, -1, -1, -1, -1, -1]
def mlProbs : List Int := [1, 4, 3, 2, 2, 2, 2, 2, 2] ++ List.replicate 37 1 ++ List.replicate 7 (-1)

/-- Base and extra bits of a literal-length code. -/
def llCode (c : Nat) : Nat × Nat :=
  if c < 16 then (c, 0)
  else nth [(16, 1), (18, 1), (20, 1), (22, 1), (24, 2), (28, 2), (32, 3), (40, 3), (48, 4), (64, 6)] (c - 16) (2 ^ (c - 19), c - 19)

/-- Base and extra bits of a match-length code. -/
def mlCode (c : Nat) : Nat × Nat :=
  if c < 32 then (c + 3, 0)
  else nth [(35, 1), (37, 1), (39, 1), (41, 1), (43, 2), (47, 2), (51, 3), (59, 3), (67, 4), (83, 4), (99, 5)] (c - 32)
    (2 ^ (c - 36) + 3, c - 36)

/-- The table that a mode gives for sequence codes: predefined, one symbol, described, or the one before. -/
def seqTable (b : Bytes) (o mode maxLog maxSym defLog : Nat) (def0 : List Int) (old : Option Fse) : Option (Fse × Nat) :=
  match mode with
  | 0 => (fseTable defLog def0).map (fun t => (t, o))
  | 1 => if b.length ≤ o ∨ leAt b o 1 > maxSym then none else some (rleFse (leAt b o 1), o + 1)
  | 2 => readFse b o maxLog maxSym
  | _ => old.map (fun t => (t, o))

/-- The offset of a sequence and the repeated offsets after it. -/
def seqOffset (v ll : Nat) (r : Nat × Nat × Nat) : Nat × (Nat × Nat × Nat) :=
  if v > 3 then (v - 3, (v - 3, r.1, r.2.1))
  else
    let i := v - 1 + (if ll = 0 then 1 else 0)
    match i with
    | 0 => (r.1, r)
    | 1 => (r.2.1, (r.2.1, r.1, r.2.2))
    | 2 => (r.2.2, (r.2.2, r.1, r.2.1))
    | _ => (r.1 - 1, (r.1 - 1, r.1, r.2.1))

/-- A sequence: literals to copy, length of the match, and its offset. -/
structure ZSeq where
  lits : Nat
  len : Nat
  off : Nat
  deriving DecidableEq, Repr

/-- Decodes `n` sequences. -/
def zseqs (ll offs ml : Fse) : Nat → BackIn → Nat → Nat → Nat → Nat × Nat × Nat → List ZSeq → Option (List ZSeq × (Nat × Nat × Nat))
  | 0, i, _, _, _, r, acc => if i.off = 0 then some (acc.reverse, r) else none
  | n + 1, i, sl, so, sm, r, acc =>
    let rl := ll.row sl
    let ro := offs.row so
    let rm := ml.row sm
    let x := i.read ro.sym
    let y := x.2.read (mlCode rm.sym).2
    let z := y.2.read (llCode rl.sym).2
    let l := (llCode rl.sym).1 + z.1
    let o := seqOffset (2 ^ ro.sym + x.1) l r
    if z.2.off < 0 ∨ o.1 = 0 then none
    else
      let s : ZSeq := ⟨l, (mlCode rm.sym).1 + y.1, o.1⟩
      if n = 0 then zseqs ll offs ml 0 z.2 sl so sm o.2 (s :: acc)
      else
        let a := z.2.read rl.bits
        let b := a.2.read rm.bits
        let c := b.2.read ro.bits
        zseqs ll offs ml n c.2 (rl.base + a.1) (ro.base + c.1) (rm.base + b.1) o.2 (s :: acc)

/-- Copies a match onto output kept latest first. -/
def zcopy (off : Nat) : Nat → Bytes → Bytes
  | 0, out => out
  | n + 1, out => zcopy off n (nth out (off - 1) 0 :: out)

/-- Carries out sequences: output latest first, literals left. -/
def zexec (window : Nat) : List ZSeq → Bytes → Bytes → Option (Bytes × Bytes)
  | [], lits, out => some (lits, out)
  | s :: t, lits, out =>
    if s.lits > lits.length then none
    else
      let out := (lits.take s.lits).reverse ++ out
      if s.off > out.length ∨ s.off > window then none
      else zexec window t (lits.drop s.lits) (zcopy s.off s.len out)

/-- A compressed block: output latest first. -/
def zblock (b : Bytes) (window : Nat) (c : ZCtx) (out : Bytes) : Option (Bytes × ZCtx) :=
  match readLiterals b c with
  | none => none
  | some (lits, o, c) =>
    if b.length ≤ o then none
    else
      let b0 := leAt b o 1
      let cnt : Nat × Nat := if b0 < 128 then (b0, o + 1) else if b0 < 255 then ((b0 - 128) * 256 + leAt b (o + 1) 1, o + 2)
        else (leAt b (o + 1) 2 + 0x7F00, o + 3)
      if cnt.1 = 0 then some (lits.reverse ++ out, c)
      else if b.length ≤ cnt.2 then none
      else
        let m := leAt b cnt.2 1
        if m % 4 ≠ 0 then none
        else match seqTable b (cnt.2 + 1) (m / 64) 9 35 6 llProbs c.ll with
          | none => none
          | some (ll, p) => match seqTable b p (m / 16 % 4) 8 31 5 ofProbs c.offs with
            | none => none
            | some (of0, q) => match seqTable b q (m / 4 % 4) 9 52 6 mlProbs c.ml with
              | none => none
              | some (ml, r) => match backInOf (b.drop r) with
                | none => none
                | some i =>
                  let x := i.read ll.log
                  let y := x.2.read of0.log
                  let z := y.2.read ml.log
                  match zseqs ll of0 ml cnt.1 z.2 x.1 y.1 z.1 c.rep [] with
                  | none => none
                  | some (ss, rep) => match zexec window ss lits out with
                    | none => none
                    | some (rest, out) => some (rest.reverse ++ out, { c with ll := some ll, offs := some of0, ml := some ml, rep := rep })

/-! ## Frames -/

/-- Blocks from `pos`: output latest first with the input used, and how it stopped; `none` at the end of the last
block. -/
def zblocks (b : Bytes) (window : Nat) : Nat → Nat → ZCtx → Bytes → List (Byte × Nat) → List (Byte × Nat) × Nat × Option DecStop
  | 0, pos, _, _, em => (em, pos, some .format)
  | fuel + 1, pos, c, out, em =>
    if b.length < pos + 3 then (em, b.length, some .more)
    else
      let h := leAt b pos 3
      let last := h % 2 = 1
      let typ := h / 2 % 4
      let n := h / 8
      let o := pos + 3
      if typ = 3 ∨ n > 131072 then (em, o, some .format)
      else
        let k := if typ = 1 then 1 else n
        let here := b.length - o
        if typ = 0 ∧ here < n then
          let em := ((List.range here).map (fun i => (BitVec.ofNat 8 (leAt b (o + i) 1), o + i + 1))).reverse ++ em
          (em, b.length, some .more)
        else if here < k then (em, b.length, some .more)
        else
          let r : Option (Bytes × ZCtx) :=
            if typ = 0 then some ((slice b o n).reverse ++ out, c)
            else if typ = 1 then some (List.replicate n (BitVec.ofNat 8 (leAt b o 1)) ++ out, c)
            else zblock (slice b o n) window c out
          match r with
          | none => (em, o + k, some .format)
          | some (out', c) =>
            let fresh := out'.take (out'.length - out.length)
            if fresh.length > 131072 then (em, o + k, some .format)
            else
              let m := fresh.length
              let em := (fresh.zipIdx.map (fun p => (p.1, if typ = 0 then o + (m - p.2) else o + k))) ++ em
              if last then (em, o + k, none) else zblocks b window fuel (o + k) c out' em

/-- The header of a frame at `o`: window, content size if given, whether a checksum follows, and the offset after it; or how it
stops, and the input bytes of which a bit has been used. -/
def zheader (b : Bytes) (o : Nat) : Except (DecStop × Nat) (Nat × Option Nat × Bool × Nat) :=
  if b.length < o + 5 then .error (.more, b.length)
  else
    let d := leAt b (o + 4) 1
    let single := d.testBit 5
    let fcs := d / 64
    let wl := if single then 0 else 1
    let dl := nth [0, 1, 2, 4] (d % 4) 0
    let fl := if fcs = 0 then (if single then 1 else 0) else 2 ^ fcs
    if d.testBit 3 then .error (.format, o + 5)
    else if b.length < o + 5 + wl + dl + fl then .error (.more, b.length)
    else
      let w := leAt b (o + 5) 1
      let base := 2 ^ (10 + w / 8)
      let size := leAt b (o + 5 + wl + dl) fl + (if fcs = 1 then 256 else 0)
      let content := if fl = 0 then none else some size
      let window := if single then size else base + base / 8 * (w % 8)
      if !single ∧ window > 2 ^ 23 then .error (.format, o + 6)
      else if leAt b (o + 5 + wl) dl ≠ 0 then .error (.format, o + 5 + wl + dl)
      else if window > 2 ^ 23 then .error (.format, o + 5 + wl + dl + fl)
      else .ok (window, content, d.testBit 2, o + 5 + wl + dl + fl)

/-- The frame at `o`. -/
def zframe (b : Bytes) (o : Nat) : Decoded :=
  match zheader b o with
  | .error e => ⟨[], e.2, e.1⟩
  | .ok (window, content, sum, p) =>
    match zblocks b window (b.length + 1) p ⟨none, none, none, none, (1, 4, 8)⟩ [] [] with
    | (em, q, some e) => ⟨em, q, e⟩
    | (em, q, none) =>
      let bytes := (em.map (·.1)).reverse
      if content.any (· ≠ bytes.length) then ⟨em, q, .mismatch⟩
      else if !sum then ⟨em, q, .ended⟩
      else if b.length < q + 4 then ⟨em, b.length, .more⟩
      else ⟨em, q + 4, if leAt b q 4 = (xxh64 bytes).toNat % 2 ^ 32 then .ended else .mismatch⟩

/-- Skips skippable frames; then the frame. -/
def zskip (b : Bytes) : Nat → Nat → Decoded
  | 0, o => ⟨[], o, .format⟩
  | fuel + 1, o =>
    if b.length < o + 4 then ⟨[], b.length, .more⟩
    else
      let m := leAt b o 4
      if m = 0xFD2FB528 then zframe b o
      else if m / 16 = 0x184D2A5 then
        if b.length < o + 8 then ⟨[], b.length, .more⟩
        else
          let n := leAt b (o + 4) 4
          if b.length < o + 8 + n then ⟨[], b.length, .more⟩ else zskip b fuel (o + 8 + n)
      else ⟨[], o + 4, .format⟩

/-- A Zstandard stream. -/
def decodeZstd (b : Bytes) : Decoded := zskip b (b.length + 1) 0

end Sys2Proof.Machine
end

