-- ==== Sys2Proof/Machine/Streams.lean ====
section
/-! DEFINITION. The stream engine (R264 to R271): checks, job slots, what a job reads and writes, the stream state and the
result record. The engine's own part of the state object is kept beside the memory (`EngSt.streams`). -/

namespace Sys2Proof.Machine

/-! ## Check values and headers -/

/-- Running check value of the uncompressed bytes (R269). -/
def streamCheck (wrapper : Nat) (b : Bytes) : Nat :=
  match wrapper with
  | 1 => adler32Run 1 b
  | 3 => (xxh64 b).toNat
  | _ => crc32 b

/-- The decoder of a wrapper (R271). -/
def decodeStream (wrapper : Nat) (b : Bytes) : Decoded :=
  match wrapper with
  | 0 => decodeRaw b
  | 1 => decodeZlib b
  | 2 => decodeGzip b
  | _ => decodeZstd b

/-- Byte 4 of a state header: direction and wrapper (R266). -/
def StreamD.kind (x : StreamD) : Nat := (if x.decompress then 1 else 0) + 2 * x.wrapper

/-- The 64 bytes of a state header (R266). -/
def stateHeader (kind flags consumed produced check : Nat) : Bytes :=
  let h := ascii "SSTA" ++ leBytes 1 kind ++ leBytes 1 flags ++ leBytes 2 0 ++ leBytes 8 consumed ++ leBytes 8 produced
    ++ leBytes 8 check ++ List.replicate 28 0
  h ++ leBytes 4 (crc32 h)

/-- The uncompressed bytes of a stream so far. -/
def StreamSt.plain (s : StreamSt) : Bytes :=
  if s.kind % 2 = 1 then (((decodeStream (s.kind / 2) s.input).out.map (·.1)).reverse).take s.produced else s.input

/-- The header of a stream's state. -/
def StreamSt.header (s : StreamSt) (busy : Bool) : Bytes :=
  stateHeader s.kind ((if s.resumable then 1 else 0) + (if busy then 2 else 0) + (if s.ended then 4 else 0)) s.input.length
    s.produced (streamCheck (s.kind / 2) s.plain)

/-- A new stream. -/
def StreamSt.start (place kind : Nat) : StreamSt := ⟨place, kind, [], 0, [], [], false, false, false⟩

/-! ## Jobs -/

/-- What a job does: the stream after it, the bytes it writes, the input bytes it consumed, and its status. -/
structure JobOut where
  st : StreamSt
  out : Bytes
  consumed : Nat
  status : Half
  deriving DecidableEq, Repr

/-- Output bytes in order until one has no space or would pass the expansion limit, which is looked at first: the bytes
written, and the input used and status where it stopped (R268). -/
def takeOut (limit room : Nat) : Nat → Nat → List (Byte × Nat) → Bytes × Option (Nat × Half)
  | _, _, [] => ([], none)
  | produced, written, e :: t =>
    if limit ≠ 0 ∧ produced + 1 > limit * e.2 then ([], some (e.2, Sts.expansionLimit))
    else if written ≥ room then ([], some (e.2, Sts.outputFull))
    else
      let r := takeOut limit room (produced + 1) (written + 1) t
      (e.1 :: r.1, r.2)

/-- A decompression job (R267, R268, R271). -/
def decompressJob (x : StreamD) (s : StreamSt) (src : Bytes) : JobOut :=
  let inp := s.input ++ src
  let dec := decodeStream x.wrapper inp
  let r := takeOut x.maxExpand x.dstLen s.produced 0 (dec.out.reverse.drop s.produced)
  let done := fun (used : Nat) (status : Half) (resumable ended : Bool) =>
    let used := max s.input.length (min used inp.length)
    (⟨{ s with input := inp.take used, produced := s.produced + r.1.length, resumable := resumable, ended := ended }, r.1,
      used - s.input.length, status⟩ : JobOut)
  match r.2, dec.stop with
  | some (used, st), _ => done used st true false
  | none, .more => if x.final then done inp.length Sts.formatError false false else done inp.length Sts.ok true false
  | none, .ended => done dec.used Sts.ok false true
  | none, .format => done dec.used Sts.formatError false false
  | none, .mismatch => done dec.used Sts.checkMismatch false false

/-- The header a wrapper begins with (R270). -/
def wrapHead (wrapper level : Nat) : Bytes :=
  match wrapper with
  | 1 => [0x78, if level ≤ 1 then 0x01 else if level ≤ 5 then 0x5E else if level = 6 then 0x9C else 0xDA]
  | 2 => [0x1F, 0x8B, 0x08, 0, 0, 0, 0, 0, 0, 0xFF]
  | _ => []

/-- The trailer a wrapper ends with. -/
def wrapTail (wrapper : Nat) (plain : Bytes) : Bytes :=
  match wrapper with
  | 1 => beBytes 4 (adler32Run 1 plain)
  | 2 => leBytes 4 (crc32 plain) ++ leBytes 4 plain.length
  | _ => []

/-- Stored blocks that hold some bytes, from a byte boundary on; `last` sets BFINAL of the last one (RFC 1951). -/
def storedBlocks (last : Bool) : Nat → Bytes → Bytes
  | 0, _ => []
  | fuel + 1, bs =>
    let n := min 65535 bs.length
    let end1 := last && bs.length ≤ 65535
    [if end1 then 1 else 0] ++ leBytes 2 n ++ leBytes 2 (65535 - n) ++ bs.take n
      ++ (if bs.length ≤ 65535 then [] else storedBlocks last fuel (bs.drop n))

/-- Some bytes as stored blocks; none for no bytes, unless they are the last. -/
def stored (last : Bool) (bs : Bytes) : Bytes := if bs.isEmpty && !last then [] else storedBlocks last (bs.length / 65535 + 1) bs

/-- Whether DEFLATE bytes end at a byte boundary after a whole block and decode to the given ones: an empty last block can follow
(R270, R271). -/
def deflateWhole (b plain : Bytes) : Bool :=
  let r := decodeRaw (b ++ stored true [])
  r.stop = .ended && r.used = b.length + 5 && (r.out.map (·.1)).reverse = plain

/-- The DEFLATE side of a compression stream after some jobs: the jobs, their input, the bytes emitted, and those that would end
the open block at a byte boundary. -/
structure Deflate where
  jobs : List (Bytes × Nat × Bool × Bool)
  plain : Bytes
  raw : Bytes
  tail : Bytes
  deriving DecidableEq, Repr

/-- Whether a job may emit the proposed bytes: with `final` they end the stream with BFINAL set, with `flush` they end with an empty
stored block, and what is emitted decodes to the input (R270). -/
def Deflate.allows (s : Deflate) (j : Bytes × Nat × Bool × Bool) (p : Bytes × Bytes) : Bool :=
  let b := s.raw ++ p.1
  let plain := s.plain ++ j.1
  if j.2.2.2 then
    let r := decodeRaw b
    r.stop = .ended && r.used = b.length && (r.out.map (·.1)).reverse = plain
  else if j.2.2.1 then p.2.isEmpty && deflateWhole b plain && b.drop (b.length - 4) = [0x00, 0x00, 0xFF, 0xFF]
  else deflateWhole (b ++ p.2) plain

/-- A job of a compression stream: the bytes that the device's compressor gives, where R270 allows them, else stored blocks (R270). -/
def Deflate.job (s : Deflate) (j : Bytes × Nat × Bool × Bool) : Deflate :=
  let p := Config.deflateOut (s.jobs ++ [j])
  let q : Bytes × Bytes :=
    if s.allows j p then p
    else if j.2.2.2 then (s.tail ++ stored true j.1, [])
    else if j.2.2.1 then (s.tail ++ stored false j.1 ++ [0x00, 0x00, 0x00, 0xFF, 0xFF], [])
    else ([], s.tail ++ stored false j.1)
  ⟨s.jobs ++ [j], s.plain ++ j.1, s.raw ++ q.1, q.2⟩

/-- The DEFLATE side of a stream after some jobs. -/
def deflateOf (jobs : List (Bytes × Nat × Bool × Bool)) : Deflate := jobs.foldl Deflate.job ⟨[], [], [], []⟩

/-- What a compression job that takes `src` adds to the stream's output. -/
def compressed (x : StreamD) (s : StreamSt) (src : Bytes) (flush final : Bool) : Bytes :=
  let was := deflateOf s.jobs
  (if s.jobs.isEmpty then wrapHead x.wrapper x.level else [])
    ++ ((was.job (src, x.level, flush, final)).raw.drop was.raw.length)
    ++ (if final then wrapTail x.wrapper (s.input ++ src) else [])

/-- Whether a job only writes what an earlier one could not: it brings no input, and asks for no end that is not in the output yet
(R268). DESIGN CHOICE (log entry 114): a job that repeats the flush of the job before, without input, while output is left, does not
flush a second time. -/
def StreamSt.onlyWrites (s : StreamSt) (x : StreamD) (src : Bytes) : Bool :=
  s.closed || (src.isEmpty && !s.backlog.isEmpty && !x.final
    && (!x.flush || s.jobs.getLast?.any (fun j => j.2.2.1)))

/-- A compression job (R268, R270). What an earlier job could not write comes first. -/
def compressJob (x : StreamD) (s : StreamSt) (src : Bytes) : JobOut :=
  if s.onlyWrites x src then
    let left := s.backlog.drop x.dstLen
    let out := s.backlog.take x.dstLen
    let ended := s.closed && left.isEmpty
    ⟨{ s with backlog := left, produced := s.produced + out.length, resumable := !ended, ended := ended }, out, 0,
      if left.isEmpty then Sts.ok else Sts.outputFull⟩
  else
    let given := fun (k : Nat) => s.backlog ++ compressed x s (src.take k) false false
    let all := s.backlog ++ compressed x s src x.flush x.final
    let full : Bool := decide (all.length > x.dstLen)
    -- input not taken when the output space is full: only so much that the space is full
    let k := min src.length (Config.deflateTaken (s.jobs ++ [(src, x.level, x.flush, x.final)]) (x.dstLen - s.backlog.length))
    let part := full && !x.flush && !x.final && decide ((given k).length ≥ x.dstLen)
    let n := if part then k else src.length
    let pend := if part then given k else all
    let job : Bytes × Nat × Bool × Bool := (src.take n, x.level, x.flush, x.final)
    let left := pend.drop x.dstLen
    let ended := x.final && left.isEmpty
    ⟨{ s with
        input := s.input ++ job.1, produced := s.produced + min pend.length x.dstLen, jobs := s.jobs ++ [job]
        backlog := left, closed := x.final, resumable := !ended, ended := ended },
      pend.take x.dstLen, n, if full then Sts.outputFull else Sts.ok⟩

/-- The 32 bytes of a result record (R269). -/
def resultRecord (o : JobOut) : Bytes :=
  leBytes 8 o.consumed ++ leBytes 8 o.out.length ++ leBytes 8 (streamCheck (o.st.kind / 2) o.st.plain)
    ++ leBytes 2 o.status.toNat ++ leBytes 6 ((if o.st.ended then 1 else 0) + (if o.st.resumable then 2 else 0))

/-! ## The state object -/

/-- The entry of a job's state object. -/
def StreamD.entry (x : StreamD) : Nat := handleIndex x.state

/-- The command in the address space of its state object, and the object's address. -/
def Dev.stateCmd (d : Dev) (c : Cmd) : Cmd × Wide :=
  match (d.entry (streamD c.desc).entry).payload with
  | .memory asid va _ => ({ c with asid := asid }, va)
  | _ => (c, 0)

/-- The place of a state object in the global physical map: what its first byte is mapped to; an object that is not mapped has none
of its own. -/
def Dev.streamPlace (d : Dev) (c : Cmd) : Nat :=
  let sc := d.stateCmd c
  match (d.translate (sc.1.req engCompression) sc.2 accWrite).2 with
  | .ok leaf level => match d.physical leaf level sc.2.toNat with
    | .here a => a
    | .there dev a => dev * 2 ^ 40 + a
  | _ => 2 ^ 60 + (streamD c.desc).entry

/-- The engine's part of the state of an object: that at its place or, for an object that software has copied whole, one with the
header it holds; without one the stream is as new (log entry 115). -/
def Dev.streamSt (d : Dev) (place kind : Nat) (header : Bytes) : StreamSt :=
  let here := d.eng.streams.find? (fun s => s.place = place && s.kind = kind && (header.isEmpty || s.header false = header))
  let any := d.eng.streams.find? (fun s => s.kind = kind && s.header false = header)
  match here, any with
  | some s, _ => s
  | none, some s => { s with place := place }
  | none, none => StreamSt.start place kind

/-- Stores the engine's part of a state. -/
def Dev.setStreamSt (d : Dev) (s : StreamSt) : Dev :=
  { d with eng := { d.eng with streams := d.eng.streams.filter (fun x => x.place ≠ s.place) ++ [s] } }

/-- What the engine writes to a state object: its header and, with free values, engine state after it (R266). DESIGN CHOICE (log entry
115): the engine state proper stands in `EngSt.streams`, and of the object's other bytes the model writes the 192 that follow the
header; which of them the device writes is not an interface. -/
def Dev.stateWrites (d : Dev) (c : Cmd) (s : StreamSt) (busy : Bool) : Dev × List VWrite :=
  let r := d.freeBytes 192
  (r.1, [⟨(d.stateCmd c).2, s.header busy ++ r.2, false⟩])

/-- A job is running. -/
def Cmd.jobRuns (c : Cmd) : Bool :=
  match c.run with
  | .stream true => true
  | .streamEnd _ _ _ _ => true
  | _ => false

/-- A job waits for a slot. -/
def Cmd.jobWaits (c : Cmd) : Bool :=
  match c.run with
  | .stream false => true
  | _ => false

/-- Jobs running and waiting (CPR_STREAM_STATUS). -/
def Dev.jobsRunning (d : Dev) : Nat := (d.sub.cmds.filter Cmd.jobRuns).length
def Dev.jobsWaiting (d : Dev) : Nat := (d.sub.cmds.filter Cmd.jobWaits).length

/-- Writes a state header with no record of its faults: a job that ends early leaves its state not resumable (R268). -/
def Dev.dropStream (d : Dev) (c : Cmd) : Dev :=
  let x := streamD c.desc
  let s := { d.streamSt (d.streamPlace c) x.kind [] with resumable := false }
  let sc := d.stateCmd c
  let q := sc.1.req engCompression
  let p := (d.setStreamSt s).splitRequest q sc.2 64 accWrite
  p.2.foldl (fun d p => (d.partWrite q p.1 (slice (s.header false) (p.1 - sc.2).toNat p.2.1) p.2.2).1) p.1

/-! ## Running -/

/-- Performs what a finished job has left to write: output, header, result record; then the command ends. -/
def Dev.jobEnd (d : Dev) (c : Cmd) (out head result : List VWrite) (st : Half) : Dev :=
  match Dev.cmdWrites c engCompression d out with
  | (d, .wait, l) => d.setRun c.ring c.serial (.streamEnd l head result st)
  | (d, .fail s va, _) => (d.dropStream c).endCmd c.ring c.serial s va noUnit
  | (d, .ok, _) => match Dev.cmdWrites (d.stateCmd c).1 engCompression d head with
    | (d, .wait, l) => d.setRun c.ring c.serial (.streamEnd [] l result st)
    | (d, .fail s va, _) => (d.dropStream c).endCmd c.ring c.serial s va noUnit
    | (d, .ok, _) => match Dev.cmdWrites c engCompression d result with
      | (d, .wait, l) => d.setRun c.ring c.serial (.streamEnd [] [] l st)
      | (d, .fail s va, _) => (d.dropStream c).endCmd c.ring c.serial s va noUnit
      | (d, .ok, _) => d.endCmd c.ring c.serial st 0 noUnit

/-- A running job: it reads its input, and does all that the input and the output space allow (R268). -/
def Dev.jobOn (d : Dev) (c : Cmd) : Dev :=
  let x := streamD c.desc
  match d.cmdRead c engCompression x.src x.srcLen with
  | (d, .wait, _) => d
  | (d, .fail s va, _) => (d.dropStream c).endCmd c.ring c.serial s va noUnit
  | (d, .ok, src) =>
    let s := d.streamSt (d.streamPlace c) x.kind []
    let o := if x.decompress then decompressJob x s src else compressJob x s src
    let d := d.setStreamSt o.st
    let d := (d.bump Fld.CPR_STREAM_IN_count 0 o.consumed).bump Fld.CPR_STREAM_OUT_count 0 o.out.length
    let d := (d.count 0x0070 o.consumed (c.attr none)).count 0x0071 o.out.length (c.attr none)
    let h := d.stateWrites c o.st false
    h.1.jobEnd c (if o.out.isEmpty then [] else [⟨x.dst, o.out, false⟩]) h.2 [⟨x.result, resultRecord o, false⟩] o.status

/-- The header that a job to be resumed has read. -/
def Dev.readHeader (d : Dev) (c : Cmd) : Bytes :=
  (held (((d.cmd? c.ring c.serial).getD c).input) (d.stateCmd c).2.toNat 64).getD []

/-- A job takes a slot: its state is marked busy, anew for a new stream, and it runs (R266). -/
def Dev.jobStart (d : Dev) (c : Cmd) : Dev :=
  let x := streamD c.desc
  let p := d.streamPlace c
  let s : StreamSt := if x.resume then d.streamSt p x.kind (d.readHeader c) else StreamSt.start p x.kind
  let s := { s with resumable := false }
  let h := d.stateWrites c s true
  match Dev.cmdWrites (d.stateCmd c).1 engCompression h.1 h.2 with
  | (d, .wait, _) => d.setRun c.ring c.serial (.stream false)
  | (d, .fail st va, _) => d.endCmd c.ring c.serial st va noUnit
  | (d, .ok, _) =>
    let d := ((d.setStreamSt s).freshInput c.ring c.serial).setRun c.ring c.serial (.stream true)
    match d.cmd? c.ring c.serial with
    | some c => d.jobOn c
    | none => d

/-- Step 3 of R265. -/
def streamEncodings (l : Line) : Bool :=
  let x := streamD l
  reservedZero l streamFields && x.result.toNat % 8 = 0
    && (x.decompress || (x.wrapper ≠ 3 && 1 ≤ x.level && x.level ≤ 9))

/-- Bytes a state object must hold (R265). -/
def StreamD.stateBytes (x : StreamD) : Nat := if x.wrapper = 3 then 8454144 else 65536

/-- Step 5 of R265: the saved header is whole, of this kind and resumable, and no running job uses it. -/
def Dev.resumeOk (d : Dev) (x : StreamD) (place : Nat) (h : Bytes) : Bool :=
  leAt h 60 4 = crc32 (h.take 60) && leAt h 4 1 = x.kind && (leAt h 5 1).testBit 0
    && !d.sub.cmds.any (fun c => c.jobRuns && d.streamPlace c = place)

/-- A checked job runs when a slot is free and no other waits, and stream compression is usable (R427), or else waits; while 64
wait, the command waits at the head of its ring (R264). -/
def Dev.jobEnter (d : Dev) (c : Cmd) : Dev :=
  if d.jobsRunning < 8 ∧ d.jobsWaiting = 0 ∧ d.pwr.on.testBit 31 then d.jobStart c
  else if d.jobsWaiting < 64 then d.setRun c.ring c.serial (.stream false)
  else d

/-- STREAM_CODEC, either direction (R264 to R271). -/
def Dev.runStream (d : Dev) (c : Cmd) : Dev :=
  let x := streamD c.desc
  match c.run with
  | .stream true => d.jobOn c
  | .stream false => d
  | .streamEnd out head result st => d.jobEnd c out head result st
  | _ =>
    if !streamEncodings c.desc then d.fail c Sts.badDescriptor 3
    else if d.memLength x.entry < x.stateBytes then d.fail c Sts.badDescriptor 4
    else if !x.resume then d.jobEnter c
    else match d.cmdRead (d.stateCmd c).1 engCompression (d.stateCmd c).2 64 with
      | (d, .wait, _) => d
      | (d, .fail s va, _) => d.endCmd c.ring c.serial s va noUnit
      | (d, .ok, h) => if d.resumeOk x (d.streamPlace c) h then d.jobEnter c else d.fail c Sts.badDescriptor 5

/-- STREAM_JOB_START: the job that has waited longest takes a free slot (R264). -/
def Dev.jobFromQueue (d : Dev) : Dev :=
  match d.sub.cmds.find? Cmd.jobWaits with
  | some c => if d.jobsRunning < 8 ∧ !c.faulted ∧ d.pwr.on.testBit 31 then d.jobStart c else d
  | none => d

end Sys2Proof.Machine
end

