-- ==== Sys2Proof/Machine/Kill.lean ====
section
/-! DEFINITION. Ending a command before it is done: by a cut at the tick edge (R38), an ABORT (R354), a failed fault record
(R243), a terminated transfer (R247), an error response, or a reset (R408). -/

namespace Sys2Proof.Machine

/-- What is left behind by a command that ends early: a creation whose handle was not written is undone (R305, R326), a
kernel that was not translated is INCOMPLETE (R326), running and saved blocks go (R38, R354), a stream's state is not
resumable (R268), and what a committed STEP had to write is undefined (R288). -/
def Dev.abandon (d : Dev) (c : Cmd) : Dev :=
  let blocks := fun (d : Dev) =>
    let d := d.removeBlocks c.ring c.serial
    ({ d with par := { d.par with saved := d.par.saved.filter (fun s => !(s.block.ring = c.ring && s.block.serial = c.serial)) } } : Dev)
  match c.run with
  | .dispatch _ => blocks d
  | .pass _ => blocks d
  | .kernelLoad i => d.kernelIncomplete i
  | .writing _ _ detail _ =>
    let i := handleIndex detail
    if c.opcode = 0x12 then d.unmake i
    else if c.opcode = 0x20 then match (d.entry i).payload with
      | .kernel _ [] _ _ _ _ _ _ => d.unmake i
      | _ => d.kernelIncomplete i
    else if c.opcode = 0x58 then d.stepUndone c
    else d
  | .fabricFence i => if c.opcode = 0x12 then d.unmake i else d
  | .stream true => d.dropStream c
  | .streamEnd _ _ _ _ => d.dropStream c
  | .invalidate => { d with xlt := { d.xlt with queue := d.xlt.queue.filter (fun v => !(v.ring = c.ring && v.serial = c.serial)) } }
  | .preempt =>
    let d : Dev := { d with par := { d.par with preempting := d.par.preempting.filter (fun p => !(p.ring = c.ring && p.serial = c.serial)) } }
    let t := preRing c.desc
    d.modRing t (fun r => { r with saving := false })
  | _ => d

/-- Ends a command early with a status. Loads that are outstanding are given up; its stores and atomics are awaited before it
retires (R82, R302). A command that has ended keeps its status (R330). -/
def Dev.killCmd (d : Dev) (c : Cmd) (status : Half) (detail : Wide) (unit : Nat) : Dev :=
  if c.phase = .ended then d
  else ((d.dropLoads c.ring c.serial).abandon c).endCmd c.ring c.serial status detail unit

/-- The unit field of a cut or failed command: for a DISPATCH the brick of its lowest-indexed running block (R329). -/
def Dev.killUnit (d : Dev) (c : Cmd) : Nat :=
  match (d.lowestBlock c.ring c.serial).filter (fun _ => c.opcode = 0x21) with
  | some p => p.1
  | none => noUnit

/-- A cut at a tick edge (R38): a STEP that has committed goes on with its writes and reports TICK_OVERRUN (R288), and of a pass
the regions whose store is under way are left as R141 says. A command that completed in the edge's own clock or after it, and was not
aborted, reports TICK_OVERRUN instead of what it would have (R38, R76, R330). -/
def Dev.cutCmd (d : Dev) (c : Cmd) : Dev :=
  if c.phase = .ended then
    if c.status = Sts.aborted then d
    else d.modCmd c.ring c.serial (fun c => { c with status := Sts.tickOverrun, detail := d.tickCount, unit := noUnit })
  else match c.run with
  | .pass p => (d.cutPass c p).killCmd c Sts.tickOverrun d.tickCount (d.killUnit c)
  | .writing left _ _ _ =>
    if c.opcode = 0x58 then d.setRun c.ring c.serial (.writing left Sts.tickOverrun d.tickCount noUnit)
    else d.killCmd c Sts.tickOverrun d.tickCount noUnit
  | _ => d.killCmd c Sts.tickOverrun d.tickCount (d.killUnit c)

/-- SHARED_OPERATION_TIMEOUT: what a command has waited for while the device is FORMING fails after native_us (R393). -/
def Dev.sharedEnds (d : Dev) (ring : Nat) (serial : Wide) : Dev :=
  match d.cmd? ring serial with
  | some c => match c.run with
    | .step r => d.stepForming c r
    | _ => d.sharedTimedOut ring serial
  | none => d

/-- A command that has ended with OK and whose stores to other devices are not all performed reports a failure of one of
them (R330). -/
def Dev.failLate (d : Dev) (c : Cmd) (status : Half) (detail : Wide) : Dev :=
  d.modCmd c.ring c.serial (fun c => if c.status = Sts.ok then { c with status := status, detail := detail } else c)

end Sys2Proof.Machine
end

