-- ==== Sys2Proof/Machine/Roce.lean ====
section
/-! DEFINITION. RoCEv2 queue pairs (R362 to R365): the memory an R_Key names, accesses translated for a queue pair, the
receive area, and rate control. -/

namespace Sys2Proof.Machine

/-- Line rate of a port, in bits per second (R365). -/
def lineRate : Nat := 400000000000

/-- A queue pair that has done nothing. -/
def QpSt.idle : QpSt := ⟨0, lineRate, none, 0, none⟩

/-- Queue pair `q` beyond its registers. -/
def Dev.qp (d : Dev) (q : Nat) : QpSt := NMap.getD d.fab.qps q QpSt.idle

/-- Replaces queue pair `q`. -/
def Dev.setQp (d : Dev) (q : Nat) (x : QpSt) : Dev := { d with fab := { d.fab with qps := NMap.set d.fab.qps q x } }

/-- Answers a queue pair's peer. -/
def Dev.roceSay (d : Dev) (q : Nat) (r : RoceResp) : Dev := { d with fab := { d.fab with roceOut := (q, r) :: d.fab.roceOut } }

/-- A NAK that puts the queue pair in ERROR (R362, R363). -/
def Dev.roceNak (d : Dev) (q : Nat) (r : RoceResp) : Dev :=
  ((d.setQp q { d.qp q with fwd := none }).setFld Fld.FAB_QP_CTRL_state q 4).roceSay q r

/-- Whether a queue pair takes requests: it is in RTR or RTS and its port is up in Ethernet mode. -/
def Dev.qpReady (d : Dev) (q : Nat) : Bool :=
  let st := d.fld Fld.FAB_QP_CTRL_state q
  let p := d.port (d.fld Fld.FAB_QP_CTRL_port q)
  q < 4096 && (st = 2 || st = 3) && p.modeActive = 0 && p.linkUp

/-- The request of a queue pair: in its address space, against its partition. -/
def Dev.qpReq (d : Dev) (q : Nat) : Req :=
  ⟨gotikRing, 0, some (d.fld Fld.FAB_QP_CTRL_partition q), d.fld Fld.FAB_QP_CTRL_asid q, engOther, 0, 0, none, .none⟩

/-- Whether an R_Key's object takes the whole range `[va, va + n)` for a queue pair (R363). -/
def Dev.rkeyOk (d : Dev) (q : Nat) (rkey : Word) (va : Wide) (n : Nat) : Bool :=
  let i := rkey.toNat % 2 ^ 24
  let e := d.entry i
  i < handleEntries && e.state = .live && e.typ = typMemory && e.gen.toNat % 256 = rkey.toNat / 2 ^ 24
    && (match e.payload with
      | .memory asid b len => asid = d.fld Fld.FAB_QP_CTRL_asid q && b.toNat ≤ va.toNat && va.toNat + n ≤ b.toNat + len.toNat
      | _ => false)

/-- Outcome of placing a range. -/
inductive RoceRes where
  | ok
  | wait
  | bad
  deriving DecidableEq, Repr

/-- One part of a range after translation: its first byte and length, where it goes, and its leaf. -/
structure RocePart where
  va : Nat
  len : Nat
  at0 : Target
  leaf : Wide
  deriving DecidableEq, Repr

/-- Who asks for the accesses of a queue pair: the I/O die, for the queue pair's partition. -/
def Dev.qpAsker (d : Dev) (q : Nat) : Asker := .io (some (d.fld Fld.FAB_QP_CTRL_partition q))

/-- Translates a range for a queue pair, with every check, before any of it is performed (R363). No page boundary lies within
64 KiB. -/
def Dev.rocePlace (d : Dev) (q : Nat) (va : Wide) (n access : Nat) : Dev × RoceRes × List RocePart :=
  let r := d.qpReq q
  (pieces 65536 va.toNat n).foldl (fun (acc : Dev × RoceRes × List RocePart) p => match acc.2.1 with
    | .ok => match acc.1.translate r (BitVec.ofNat 64 p.1) access with
      | (d, .wait) => (d, if d.boot.dramOpen = true then .wait else .bad, [])
      | (d, .ok leaf level) =>
        let t := d.physical leaf level p.1
        (match t with
        | .here a =>
          if d.refused r.part false leaf a then (d, .bad, [])
          else match d.memGate a, regionOf a with
            | .wait, .dram _ => (d, .bad, [])
            | .fail _, .dram _ => (d, .bad, [])
            | .fail _, .window _ => (d, .bad, [])
            | .wait, .window _ => (d, .wait, [])
            | _, _ => (d, .ok, acc.2.2 ++ [⟨p.1, p.2, t, leaf⟩])
        | .there _ a => if farRefused a then (d, .bad, []) else (d, .ok, acc.2.2 ++ [⟨p.1, p.2, t, leaf⟩]))
      | (d, _) => (d, .bad, [])
    | _ => acc) (d, .ok, [])

/-- Pieces of the remote parts of a range: device, address and length, and the offset in the range. -/
def remotePieces (va : Nat) (ps : List RocePart) : List (Nat × Nat × Nat × Nat) :=
  ps.flatMap (fun p => match p.at0 with
    | .there dev a => (pieces 256 a p.len).map (fun x => (dev, x.1, x.2, p.va - va + (x.1 - a)))
    | .here _ => [])

/-- Performs the local parts of a write. -/
def Dev.roceStore (d : Dev) (q va : Nat) (ps : List RocePart) (bs : Bytes) : Dev :=
  ps.foldl (fun d p => match p.at0 with
    | .here a => (d.localWrite (d.qpAsker q) (bitsN p.leaf 7 6 ≠ 2) (some (bitsN p.leaf 53 52))
        (.queuePair q) a (slice bs (p.va - va) p.len)).1
    | .there _ _ => d) d

/-- Reads the local parts of a range; remote bytes are those that have been received, by offset. -/
def Dev.roceLoad (d : Dev) (q va : Nat) (ps : List RocePart) (got : List (Nat × Bytes)) : Dev × Bytes :=
  ps.foldl (fun (acc : Dev × Bytes) p => match p.at0 with
    | .here a =>
      let r := acc.1.readAt (d.qpAsker q) (bitsN p.leaf 7 6 ≠ 2) a p.len
      (r.1, acc.2 ++ r.2.2)
    | .there _ a =>
      (acc.1, acc.2 ++ (pieces 256 a p.len).flatMap (fun x =>
        ((got.find? (fun g => g.1 = p.va - va + (x.1 - a))).map (·.2)).getD (List.replicate x.2 0)))) (d, [])

/-- Sends the pieces of a request to other devices, on the lane for requests without a ring; the request then waits for
their answers. -/
def Dev.roceSend (d : Dev) (q kind op size : Nat) (f : RoceFwd) (ps : List (Nat × Nat × Nat × Nat)) (data : Bytes) : Dev × Acc :=
  let r := ps.foldl (fun (acc : Dev × Acc) x => match acc.2 with
    | .ok => acc.1.issue ⟨gotikRing, 0, kind, op, size, x.1, x.2.1, x.2.2.1, none, 0, .roce q x.2.2.2,
        if kind = 1 then [] else if kind = 2 then slice data x.2.2.2 x.2.2.1 else data⟩
    | g => (acc.1, g)) (d, .ok)
  match r.2 with
  | .ok => (r.1.setQp q { r.1.qp q with fwd := some { f with pieces := ps.length } }, .ok)
  | g => (d, g)

/-- A write of a whole range for a queue pair: bad when any of it may not be written; it waits when pieces go to other
devices. -/
def Dev.roceWriteTo (d : Dev) (q : Nat) (va : Wide) (bs : Bytes) : Dev × RoceRes :=
  match d.rocePlace q va bs.length accWrite with
  | (d, .ok, ps) => if (remotePieces va.toNat ps).isEmpty then (d.roceStore q va.toNat ps bs, .ok) else (d, .bad)
  | (d, r, _) => (d, r)

/-- A read of a whole range of this device for a queue pair. -/
def Dev.roceReadFrom (d : Dev) (q : Nat) (va : Wide) (n : Nat) : Dev × RoceRes × Bytes :=
  match d.rocePlace q va n accRead with
  | (d, .ok, ps) =>
    if (remotePieces va.toNat ps).isEmpty then
      let r := d.roceLoad q va.toNat ps []
      (r.1, .ok, r.2)
    else (d, .bad, [])
  | (d, r, _) => (d, r, [])

/-! ## The receive area (R364) -/

/-- Consumes the next receive slot: its fields and a SEND's data are written, the receive fence is signalled with the new
count, and the request is acknowledged. -/
def Dev.roceConsume (d : Dev) (q : Nat) (r : RoceReq) (withImm : Bool) : Dev :=
  let base := d.fldW Fld.FAB_QP_RECV_recv_base q
  let k := (d.qp q).count
  let slot := base + BitVec.ofNat 64 (4160 * (k.toNat % 2 ^ d.fld Fld.FAB_QP_CTRL_recv_log2 q))
  let ws : List (Wide × Bytes) := [(slot, leBytes 4 r.data.length)]
    ++ (if withImm then [(slot + 4, leBytes 4 r.imm.toNat)] else [])
    ++ [(slot + 8, leBytes 1 (if withImm then 1 else 0)), (slot + 12, leBytes 3 r.srcQpn.toNat)]
    ++ (if withImm ∨ r.data.isEmpty then [] else [(slot + 64, r.data)])
  let w := ws.foldl (fun (acc : Dev × RoceRes) x => match acc.2 with
    | .ok => acc.1.roceWriteTo q x.1 x.2
    | _ => acc) (d, .ok)
  match w with
  | (_, .wait) => d
  | (d, .bad) => d.roceNak q .nakAccess
  | (d, .ok) => match d.roceReadFrom q (base - 56) 8 with
    | (d, .ok, h) =>
      let d := d.signalHandle (BitVec.ofNat 64 (leNat h)) (some (k + 1))
      (d.setQp q { d.qp q with count := k + 1, fwd := none }).roceSay q .ack
    | (d, _, _) => d.roceNak q .nakAccess

/-- Whether the receive area is full; its consumer count is read each time. -/
def Dev.receiveFull (d : Dev) (q : Nat) : Dev × RoceRes × Bool :=
  match d.roceReadFrom q (d.fldW Fld.FAB_QP_RECV_recv_base q - 64) 8 with
  | (d, .ok, b) => (d, .ok, ((d.qp q).count.toNat + 2 ^ 64 - leNat b) % 2 ^ 64 = 2 ^ d.fld Fld.FAB_QP_CTRL_recv_log2 q)
  | (d, r, _) => (d, r, false)

/-- Whether a queue pair may take a request now: it is ready and none of its requests waits for another device. -/
def Dev.roceFree (d : Dev) (r : RoceReq) : Bool := d.qpReady r.qp && (d.qp r.qp).fwd.isNone

/-! ## Requests -/

/-- ROCE_SEND (R362, R364). -/
def Dev.roceSendRow (d : Dev) (r : RoceReq) : Dev :=
  if !d.roceFree r then d
  else
    let d := d.leaveIdle
    if r.data.length > 4096 then d.roceNak r.qp .nakInvalid
    else match d.receiveFull r.qp with
      | (_, .wait, _) => d
      | (d, .bad, _) => d.roceNak r.qp .nakAccess
      | (d, .ok, true) => d.roceSay r.qp .rnr
      | (d, .ok, false) => d.roceConsume r.qp r false

/-- An RDMA WRITE, with or without immediate, once its receive slot is known to be free (R363, R364). -/
def Dev.roceWriteGo (d : Dev) (r : RoceReq) (withImm : Bool) : Dev :=
  if !d.rkeyOk r.qp r.rkey r.va r.data.length then d.roceNak r.qp .nakAccess
  else match d.rocePlace r.qp r.va r.data.length accWrite with
    | (_, .wait, _) => d
    | (d, .bad, _) => d.roceNak r.qp .nakAccess
    | (d, .ok, ps) =>
      let far := remotePieces r.va.toNat ps
      if far.isEmpty then
        let d := d.roceStore r.qp r.va.toNat ps r.data
        if withImm then d.roceConsume r.qp r true else d.roceSay r.qp .ack
      else match d.roceSend r.qp 2 0 0 ⟨r, if withImm then .imm else .ack, 0, []⟩ far r.data with
        | (_, .wait) => d
        | (d, .fail _) => d.roceNak r.qp .nakAccess
        | (d, .ok) => d.roceStore r.qp r.va.toNat ps r.data

/-- ROCE_RDMA_WRITE (R363). -/
def Dev.roceWriteRow (d : Dev) (r : RoceReq) : Dev := if d.roceFree r then d.leaveIdle.roceWriteGo r false else d

/-- ROCE_RDMA_WRITE_IMM (R364). -/
def Dev.roceWriteImmRow (d : Dev) (r : RoceReq) : Dev :=
  if !d.roceFree r then d
  else match d.leaveIdle.receiveFull r.qp with
    | (_, .wait, _) => d
    | (d, .bad, _) => d.roceNak r.qp .nakAccess
    | (d, .ok, true) => d.roceSay r.qp .rnr
    | (d, .ok, false) => d.roceWriteGo r true

/-- ROCE_RDMA_READ (R363). -/
def Dev.roceReadRow (d : Dev) (r : RoceReq) : Dev :=
  if !d.roceFree r then d
  else
    let d := d.leaveIdle
    if !d.rkeyOk r.qp r.rkey r.va r.length then d.roceNak r.qp .nakAccess
    else match d.rocePlace r.qp r.va r.length accRead with
      | (_, .wait, _) => d
      | (d, .bad, _) => d.roceNak r.qp .nakAccess
      | (d, .ok, ps) =>
        let far := remotePieces r.va.toNat ps
        if far.isEmpty then
          let x := d.roceLoad r.qp r.va.toNat ps []
          x.1.roceSay r.qp (.data x.2)
        else match d.roceSend r.qp 1 0 0 ⟨r, .bytes, 0, []⟩ far [] with
          | (_, .wait) => d
          | (d, .fail _) => d.roceNak r.qp .nakAccess
          | (d, .ok) => d

/-- New value of a RoCEv2 atomic; none leaves the word. -/
def roceAtomicNew (op : RoceAtomicOp) (old : Nat) : Option Nat :=
  match op with
  | .fetchAdd v => some ((old + v.toNat) % 2 ^ 64)
  | .compareSwap c s => if old = c.toNat then some s.toNat else none

/-- ROCE_ATOMIC (R362, R363): on a naturally aligned 8-byte word. -/
def Dev.roceAtomicRow (d : Dev) (r : RoceReq) (op : RoceAtomicOp) : Dev :=
  if !d.roceFree r then d
  else
    let d := d.leaveIdle
    if r.va.toNat % 8 ≠ 0 then d.roceNak r.qp .nakInvalid
    else if !d.rkeyOk r.qp r.rkey r.va 8 then d.roceNak r.qp .nakAccess
    else match d.rocePlace r.qp r.va 8 accAtomic with
      | (_, .wait, _) => d
      | (d, .ok, [p]) =>
        (match p.at0 with
        | .here a =>
          match d.atomicHome (d.qpAsker r.qp) (bitsN p.leaf 7 6 ≠ 2) (some (bitsN p.leaf 53 52)) a 8 (roceAtomicNew op) with
          | (d, .ok, old) => d.roceSay r.qp (.data (leBytes 8 old))
          | (_, .wait, _) => d
          | (d, .fail _, _) => d.roceNak r.qp .nakAccess
        | .there dev a =>
          let x : Nat × Bytes := match op with
            | .fetchAdd v => (4, leBytes 8 v.toNat)
            | .compareSwap c s => (3, leBytes 8 c.toNat ++ leBytes 8 s.toNat)
          match d.roceSend r.qp 3 x.1 2 ⟨r, .old, 0, []⟩ [(dev, a, 8, 0)] x.2 with
          | (_, .wait) => d
          | (d, .fail _) => d.roceNak r.qp .nakAccess
          | (d, .ok) => d)
      | (d, _, _) => d.roceNak r.qp .nakAccess

/-- An answer to a piece of a forwarded request; the last one answers the queue pair's peer (R363). -/
def Dev.roceGot (d : Dev) (q piece : Nat) (payload : Bytes) : Dev :=
  match (d.qp q).fwd with
  | none => d
  | some f =>
    let f := { f with got := f.got ++ [(piece, payload)] }
    let d := d.setQp q { d.qp q with fwd := some f }
    if f.got.length < f.pieces then d
    else match f.ends with
      | .old => (d.setQp q { d.qp q with fwd := none }).roceSay q (.data payload)
      | .bytes => match d.rocePlace q f.req.va f.req.length accRead with
        | (d, .ok, ps) =>
          let x := d.roceLoad q f.req.va.toNat ps f.got
          (x.1.setQp q { x.1.qp q with fwd := none }).roceSay q (.data x.2)
        | (d, _, _) => d.roceNak q .nakAccess
      | .imm => d.roceConsume q f.req true
      | .ack => (d.setQp q { d.qp q with fwd := none }).roceSay q .ack

/-! ## Rates (R365) -/

/-- ROCE_ECN_CE: a marked packet is answered with a CNP, at most once per 50 µs. -/
def Dev.ecnMark (d : Dev) (q : Nat) : Dev :=
  let x := d.qp q
  if d.qpReady q ∧ x.cnpAt.all (fun t => t + 50000 ≤ d.now) then (d.setQp q { x with cnpAt := some d.now }).roceSay q .cnp else d

/-- ROCE_CNP_RECEIVE: the send rate halves, down to 1 Gb/s. -/
def Dev.cnpReceived (d : Dev) (q : Nat) : Dev :=
  if d.qpReady q then
    let x := d.qp q
    d.setQp q { x with rate := max 1000000000 (x.rate / 2), quietAt := d.now }
  else d

/-- ROCE_RATE_RECOVERY: each 55 µs without a CNP adds 20 Gb/s, up to the line rate. -/
def Dev.rateRise (d : Dev) (q : Nat) : Dev :=
  if d.qpReady q then
    let d := d.advanceTo ((d.qp q).quietAt + 55000)
    let x := d.qp q
    d.setQp q { x with rate := min lineRate (x.rate + 20000000000), quietAt := x.quietAt + 55000 }
  else d

end Sys2Proof.Machine
end

