-- ==== Sys2Proof/Machine/Replies.lean ====
section
/-! DEFINITION. What an answer to an outstanding fabric operation does (R82, R83, R196, R223, R301, R317, R363, R389): its
delivery or drop by slot and placement epoch (R350, R374), and its timeout (R374). -/

namespace Sys2Proof.Machine

/-- The address that a failed access other than a brick's carries: virtual when translated, else global physical (R329). -/
def FabOp.detail (o : FabOp) : Wide := BitVec.ofNat 64 (if o.asid.isSome then o.va else o.device * 2 ^ 40 + o.addr)

/-- The data of a read, at its global address. -/
def FabOp.data (o : FabOp) (payload : Bytes) : Nat × Bytes := (o.device * 2 ^ 40 + o.addr, payload.take o.len)

/-- Whether the operation is part of a descriptor fetch. -/
def Dev.isFetch (d : Dev) (o : FabOp) : Bool :=
  o.ring < 1024 && o.serial = (d.ring o.ring).fetch + 1 && (d.cmd? o.ring o.serial).isNone

/-- Whether an operation of a composition stream belongs to the slice that the stream composes now. -/
def Dev.ofSlice (d : Dev) (o : FabOp) : Bool := (d.stream (o.ring - 2048)).cur.any (fun r => BitVec.ofNat 64 r.no = o.serial)

/-- An operation of a composition stream succeeds: data that the present slice has asked for, a write of it, or a write of a slice
record (R189 to R191). -/
def Dev.streamDone (d : Dev) (o : FabOp) (payload : Bytes) : Dev :=
  let s := o.ring - 2048
  if o.kind = 1 then
    if d.ofSlice o then (d.modStream s (fun x => { x with remote := x.remote ++ [o.data payload] })).composeOn s else d
  else ((d.composeOn s).sliceWritten s).handOffs s

/-- An operation of a composition stream fails: the slice that made it, which may be the present one or one whose due edge has come,
is handled at its due edge (R196); the record of a hand-off is lost. -/
def Dev.streamFailed (d : Dev) (o : FabOp) (status : Half) : Dev :=
  let s := o.ring - 2048
  let mark := fun (r : SliceRun) =>
    if BitVec.ofNat 64 r.no = o.serial ∧ r.composed.isNone then { r with error := some (r.error.getD status) } else r
  (d.modStream s (fun x => { x with cur := x.cur.map mark, due := x.due.map mark })).handOffs s

/-- A read's data reaches the ring, composition stream or command that asked for it. -/
def Dev.readArrived (d : Dev) (o : FabOp) (payload : Bytes) : Dev :=
  if o.ring ≥ 2048 then d.streamDone o payload
  else if o.kind ≠ 1 then d
  else if d.isFetch o then d.modRing o.ring (fun r => { r with fetched := r.fetched ++ [o.data payload] })
  else d.modCmd o.ring o.serial (fun c => { c with remote := c.remote ++ [o.data payload] })

/-- A command's access fails: the slice of a composition stream ends (R196), a descriptor fetch stops its ring (R301), a
running command ends, and of an ended command a late store changes the status while its completion ring's accesses fail
with CQ_ERROR (R301, R330). -/
def Dev.accessFailed (d : Dev) (o : FabOp) (status : Half) : Dev :=
  if o.ring ≥ 2048 then d.streamFailed o status
  else if d.isFetch o then (d.stopRing o.ring 2).modRing o.ring (fun r => { r with fetched := [] })
  else match d.cmd? o.ring o.serial with
    | some c =>
      if c.phase ≠ .ended then d.killCmd c status o.detail noUnit
      else if c.recordDone ∨ o.kind = 1 then d.cqError c
      else d.failLate c status o.detail
    | none => d

/-- An access of a block fails: its dispatch or pass ends with the status, unless it has ended (R83, R330). While a PREEMPT saves the
ring the failure is recorded, and the dispatch ends at restore (R347). -/
def Dev.laneFailed (d : Dev) (r : BlockRef) (status : Half) : Dev := (d.noteFault r status).endFaulted r.ring r.serial

/-- A line that a pond writes back to another device fails: the command that asked for it ends, or the dispatch or pass whose store
it was (R79, R83). -/
def Dev.pondFailed (d : Dev) (o : FabOp) (ref : Option BlockRef) (status : Half) : Dev :=
  match ref with
  | some r => if r.ring = o.ring ∧ r.serial = o.serial then d.laneFailed r status else d.accessFailed o status
  | none => d.accessFailed o status

/-- The command that made a signal through a mirror, if it still waits for its home (R317). -/
def Dev.signaller (d : Dev) (o : FabOp) : Option Cmd :=
  (d.cmd? o.ring o.serial).filter (fun c => c.opcode = 0x15 && c.phase = .started)

/-- The entry of the mirror that a creation waits for. -/
def Cmd.mirrorEntry (c : Cmd) : Option Nat :=
  match c.run with
  | .fabricFence i => if c.opcode = 0x12 then some i else none
  | _ => none

/-- An operation succeeds with a payload. -/
def Dev.opDone (d : Dev) (o : FabOp) (payload : Bytes) : Dev :=
  match o.use with
  | .cmd => d.readArrived o payload
  | .lane r path t va skip len off fill => d.laneArrived r path t va skip len off fill (pondKey o.device o.addr) payload
  | .spring r n k tile row va off => d.rowArrived r n k tile row va off (payload.take o.len)
  | .pond _ _ => d
  | .prefetch n key => d.pondPrefetched n key payload
  | .fenceSignal _ => match d.signaller o with
    | some c => d.done c 0
    | none => d
  | .subscribe => match d.cmd? o.ring o.serial with
    | some c => match c.mirrorEntry with
      | some i => d.subscribed c i Sts.ok 0 (wideAt payload 0)
      | none => d
    | none => d
  | .sequence _ _ => d.readArrived o payload
  | .roce q piece => d.roceGot q piece (payload.take o.len)
  | .route => d.routeAcked

/-- An operation ends with a status other than OK; for NO_SLOT the payload names the exhausted table (R329). -/
def Dev.opFail (d : Dev) (o : FabOp) (status : Half) (payload : Bytes) : Dev :=
  match o.use with
  | .cmd => d.accessFailed o status
  | .lane r _ _ _ _ _ _ _ => d.laneFailed r status
  | .spring r _ _ _ _ _ _ => d.laneFailed r status
  | .pond _ ref => d.pondFailed o ref status
  | .prefetch _ _ => d
  | .fenceSignal _ => match d.signaller o with
    | some c => d.endCmd c.ring c.serial status 0 noUnit
    | none => d
  | .subscribe => match d.cmd? o.ring o.serial with
    | some c => match c.mirrorEntry with
      | some i => d.subscribed c i status (if status = Sts.noSlot then leAt payload 0 1 else 0) 0
      | none => d
    | none => d
  | .sequence ring serial => match d.cmd? ring serial with
    | some c => match c.run with
      | .step r => d.setRun ring serial (.step { r with failed := true })
      | _ => d
    | none => d
  | .roce q _ => d.roceNak q .nakAccess
  | .route => d.routeAcked

/-- Whether the response to an operation is delivered (R350): the ring's epoch is that of the issue and the ring is not
DISABLED, or a PREEMPT of the ring awaits this store or atomic. -/
def Dev.deliverable (d : Dev) (o : FabOp) : Bool :=
  let r := d.ring o.ring
  !o.dead && (o.ring ≥ 1024 || (r.state ≠ .disabled && (r.epoch = o.epoch || (r.saving && (o.kind = 2 || o.kind = 3)))))

/-- An outstanding operation's slot becomes free, and with it local store that waited for it (R222). -/
def Dev.freeOp (d : Dev) (o : FabOp) : Dev := (d.withOps (d.fab.ops.filter (fun x => x.slot ≠ o.slot))).dropHolds

/-- A dropped response is counted (R350, R453). -/
def Dev.staleDrop (d : Dev) : Dev := (d.bump Fld.PAR_STALE_EPOCH_count 0 1).count 0x00A0 1 (.free Option.none)

/-- A RESPONSE frame for this device: delivered when slot, generation and epoch match, else dropped (R350, R374). -/
def Dev.response (d : Dev) (h : MortarHdr) (payload : Bytes) : Dev :=
  match d.fab.ops.find? (fun o => o.slot = h.slot && o.gen = h.slotGen) with
  | none => d.staleDrop
  | some o =>
    let d := d.freeOp o
    let d := if h.epoch ≠ o.epoch ∨ !d.deliverable o then d.staleDrop
      else if h.status = Sts.ok then d.opDone o payload
      else d.opFail o h.status payload
    d.retryBlocks

/-- When an operation times out: native or tunnelled (R374). -/
def Dev.opDeadline (d : Dev) (o : FabOp) : Nat :=
  o.issued + (if o.tunnel then 1000000 * d.fld Fld.FAB_OP_TIMEOUT_tunnel_ms 0 else 1000 * d.fld Fld.FAB_OP_TIMEOUT_native_us 0)

/-- OP_TIMEOUT: no matching response has come within the timeout; the operation ends with PARTITIONED and its slot is free
(R374). -/
def Dev.opTimedOut (d : Dev) (slot : Nat) : Dev :=
  match d.fab.ops.find? (fun o => o.slot = slot) with
  | none => d
  | some o =>
    let d := (d.advanceTo (d.opDeadline o)).freeOp o
    (if d.deliverable o then d.opFail o Sts.partitioned [] else d).retryBlocks

end Sys2Proof.Machine
end

