-- ==== Sys2Proof/Machine/Trust.lean ====
section
/-! DEFINITION. Keys, certificates and signature blocks (R434 to R436), Gotik images (R437), the measurement log (R439) and
the attestation report (R440). -/

namespace Sys2Proof.Machine

/-! ## DER -/

/-- One DER element at the head of a byte string: its tag, its whole length and its content. -/
def derHead (b : Bytes) : Option (Nat × Nat × Bytes) :=
  let n := leAt b 1 1
  let k := if n < 128 then 0 else n - 128
  let len := if n < 128 then n else beAt b 2 k
  let all := 2 + k + len
  if b.length < 2 ∨ k > 3 ∨ n = 128 ∨ b.length < all then none else some (leAt b 0 1, all, slice b (2 + k) len)

/-- The elements of a byte string; `fuel` bounds their number. -/
def derList : Nat → Bytes → Option (List (Nat × Bytes × Bytes))
  | 0, _ => none
  | fuel + 1, b =>
    if b.isEmpty then some []
    else match derHead b with
      | none => none
      | some (tag, n, c) => (derList fuel (b.drop n)).map (fun l => (tag, b.take n, c) :: l)

/-- The elements inside a SEQUENCE. -/
def derSeq (b : Bytes) : Option (List (Nat × Bytes × Bytes)) :=
  match derHead b with
  | some (0x30, n, c) => if n = b.length then derList (c.length + 1) c else none
  | _ => none

/-- The DER SubjectPublicKeyInfo of an X.509 v3 certificate: the element of tbsCertificate after subject. -/
def certSpki (cert : Bytes) : Option Bytes :=
  match derSeq cert with
  | some ((0x30, tbs, _) :: _) => match derSeq tbs with
    | some ((0xA0, _, _) :: _ :: _ :: _ :: _ :: _ :: (0x30, spki, _) :: _) => some spki
    | _ => none
  | _ => none

/-- An RSA public key: modulus and exponent. -/
structure RsaKey where
  n : Nat
  e : Nat
  deriving DecidableEq, Repr

/-- The RSA key in a SubjectPublicKeyInfo. -/
def spkiKey (spki : Bytes) : Option RsaKey :=
  match derSeq spki with
  | some [_, (0x03, _, bs)] => match derSeq (bs.drop 1) with
    | some [(0x02, _, n), (0x02, _, e)] => some ⟨beNat n, beNat e⟩
    | _ => none
  | _ => none

/-- The key of a certificate with its key hash (R435). -/
def certKey (cert : Bytes) : Option (Bytes × RsaKey) :=
  match certSpki cert with
  | some s => (spkiKey s).map (fun k => (sha256 s, k))
  | none => none

/-! ## Signature blocks (R435, R436) -/

/-- Bytes of a signature block. -/
def sigSize : Nat := 448

/-- The vendor's key, of which the spec gives only the hash that a fuse holds. Its exponent is PRESUMED that of R434. -/
def Nv.vendorKey (nv : Nv) : RsaKey := ⟨nv.vendorModulus, 65537⟩

/-- Whether an object ends in a signature block of a signer, key hash and key (R436). -/
def blockVerifies (obj : Bytes) (signer : Nat) (hash : Bytes) (k : RsaKey) : Bool :=
  let s := obj.length - sigSize
  let b := obj.drop s
  sigSize ≤ obj.length && slice b 0 4 = ascii "PSSG" && leAt b 4 1 = 1 && leAt b 5 1 = signer && leAt b 8 4 = s
    && slice b 32 32 = hash && pssVerify k.n k.e (k.n.log2 + 1) 32 (obj.take (s + 64)) (slice b 64 384)

/-- The owner's certificate key, when an owner is bound. -/
def Nv.ownerKey (nv : Nv) : Option (Bytes × RsaKey) :=
  match nv.ownerKeyHash, certKey nv.ownerCert with
  | some h, some (g, k) => if h = g then some (h, k) else none
  | _, _ => none

/-- Whether an object is signed with the owner key, or, while no owner is bound, the vendor key (R438, R442). -/
def Nv.ownerSigned (nv : Nv) (obj : Bytes) : Bool :=
  match nv.ownerKeyHash with
  | none => blockVerifies obj 0 nv.vendorKeyHash nv.vendorKey
  | some _ => match nv.ownerKey with
    | some (h, k) => blockVerifies obj 1 h k
    | none => false

/-- Whether an object is signed with the vendor key. -/
def Nv.vendorSigned (nv : Nv) (obj : Bytes) : Bool := blockVerifies obj 0 nv.vendorKeyHash nv.vendorKey

/-- Whether a membership list with its signature block verifies; never while no owner is bound (R390, R435). -/
def Nv.listSigned (nv : Nv) (obj : Bytes) : Bool := nv.ownerKeyHash.isSome && nv.ownerSigned obj

/-- Whether a Gotik image is acceptable (R437). -/
def Nv.imageOk (nv : Nv) (img : Bytes) : Bool :=
  slice img 0 4 = ascii "PSGI" && leAt img 12 4 ≤ 67108864 && img.length = 64 + leAt img 12 4 + sigSize
    && leAt img 8 4 ≤ 63 && nv.rollback ≤ leAt img 8 4 && nv.vendorSigned img

/-- security_version and advance_floor of an image. -/
def imageVersion (img : Bytes) : Nat := leAt img 8 4
def imageAdvances (img : Bytes) : Bool := leAt img 4 1 % 2 = 1

/-! ## The measurement log (R439) -/

/-- A measurement register. -/
def Dev.meas (d : Dev) (r : Nat) : Bytes := (List.range 4).flatMap (fun k => leBytes 8 (d.fld Fld.SEC_MEAS_value (4 * r + k)))

/-- Sets a measurement register. -/
def Dev.setMeas (d : Dev) (r : Nat) (x : Bytes) : Dev :=
  (List.range 4).foldl (fun (d : Dev) k => d.setFld Fld.SEC_MEAS_value (4 * r + k) (wideAt x (8 * k))) d

/-- Extends digest `x` into register `r` and appends a log entry of a kind, or sets log_overflow. The entry's name is not
given by the spec: its bytes are free. -/
def Dev.extend (d : Dev) (r kind : Nat) (x : Bytes) : Dev :=
  let d := d.setMeas r (sha256 (d.meas r ++ x))
  let n := d.fld Fld.SEC_LOG_COUNT_count 0
  if n < 2048 then
    let g := d.fresh
    let name := (List.range 24).map (fun i => Config.freeByte g.1 i)
    let e := leBytes 1 r ++ leBytes 1 kind ++ leBytes 2 0 ++ leBytes 4 n ++ name ++ x
    let d := (List.range 16).foldl (fun (d : Dev) j =>
      d.setFld Fld.SEC_LOG_log (16 * n + j) (BitVec.ofNat 64 (leAt e (4 * j) 4))) g.2
    d.setFld Fld.SEC_LOG_COUNT_count 0 (BitVec.ofNat 64 (n + 1))
  else d.setFld Fld.SEC_STATUS_log_overflow 0 1

/-- Whether a register belongs to the measurement log, which retention SRAM keeps through DEEP. -/
def measReg (off : Nat) : Bool :=
  (0xE00100 ≤ off && off < 0xE00200) || off = 0xE00200 || (0xE10000 ≤ off && off < 0xE30000)

/-! ## Attestation (R440) -/

/-- The report before its signature, as the device stands. -/
def Dev.reportHead (d : Dev) (nv : Nv) : Bytes :=
  let bound := nv.ownerKeyHash.isSome
  let flags := (if bound then 1 else 0) + (if d.fld Fld.SEC_STATUS_debug 0 ≠ 0 then 2 else 0)
    + 4 * d.fld Fld.SEC_STATUS_log_overflow 0 + (if d.boot.optionsDefault then 8 else 0)
  ascii "PSAT" ++ leBytes 1 1 ++ leBytes 1 flags ++ leBytes 2 d.addr ++ leBytes 2 0x9600 ++ leBytes 1 0xB1 ++ leBytes 1 0
    ++ leBytes 4 d.boot.securityVersion
    ++ (List.range 4).flatMap (fun k => leBytes 8 (d.fld Fld.SEC_ATTEST_NONCE_nonce k))
    ++ slice nv.identityDigest 0 32 ++ slice (nv.ownerKeyHash.getD []) 0 32
    ++ leBytes 4 (d.fld Fld.FAB_EPOCH_domain_epoch 0) ++ leBytes 4 nv.listVersion
    ++ leBytes 4 (d.fld Fld.FAB_STATE_side 0 + 4 * d.fld Fld.FAB_STATE_role 0)
    ++ leBytes 4 (d.fld Fld.FAB_MGR_manager_addr 0)
    ++ (List.range 8).flatMap d.meas ++ leBytes 4 (d.fld Fld.SEC_LOG_COUNT_count 0) ++ List.replicate 60 0

/-- A signature block of signer IDENTITY over bytes that precede it. -/
def Nv.signBlock (nv : Nv) (head : Bytes) : Bytes :=
  let hash := match certSpki nv.identityCert with
    | some s => sha256 s
    | none => List.replicate 32 0
  let b := ascii "PSSG" ++ leBytes 1 1 ++ leBytes 1 2 ++ leBytes 2 0 ++ leBytes 4 head.length ++ List.replicate 20 0 ++ hash
  b ++ slice (Config.identitySign (head ++ b)) 0 384

/-- ATTEST_GO: the snapshot of a report, unless one is in progress. -/
def Dev.attestStart (d : Dev) (nv : Nv) : Dev :=
  if d.sec.attesting.isSome then d else { d with sec := { d.sec with attesting := some (d.reportHead nv) } }

/-- ATTEST_DONE: the report is signed, placed in SEC_REPORT and announced, within 20 ms. -/
def Dev.attestEnd (d : Dev) (nv : Nv) : Dev :=
  match d.sec.attesting with
  | none => d
  | some head =>
    let r := head ++ nv.signBlock head
    let d := (List.range 224).foldl (fun (d : Dev) j =>
      d.setFld Fld.SEC_REPORT_report j (BitVec.ofNat 64 (leAt r (4 * j) 4))) d
    ({ d with sec := { d.sec with attesting := none } } : Dev).setFld Fld.SEC_STATUS_attest_done 0 1

end Sys2Proof.Machine
end

