-- ==== Sys2Proof/Machine/Wake.lean ====
section
/-! DEFINITION. Wake sources and the lost-edge window (R420 to R422). -/

namespace Sys2Proof.Machine

/-- Encoding of a power state (R415). -/
def PState.code : PState → Nat
  | .run => 0 | .idle => 1 | .sleep => 2 | .deep => 3 | .off => 4

/-- Encoding of a wake source in PWR_WAKE_CAUSE. -/
def wakeCode : WakeSource → Nat
  | .wakeN => 1 | .signalDetect _ => 2 | .wakeFrame _ => 3 | .inbound _ => 4 | .alertFall => 5 | .tickAlarm => 6 | .deepTimer => 7

/-- Edge sources: all others are levels (R421). -/
def wakeEdge : WakeSource → Bool
  | .wakeFrame _ => true | .inbound _ => true | .alertFall => true | _ => false

/-- Whether port group `p` stays powered in SLEEP. -/
def Dev.kept (d : Dev) (p : Nat) : Bool := p < 8 && (d.fld Fld.PWR_WAKE_EN_keep_ports 0).testBit p

/-- Whether the device drives ALERT_N low (R464): halted, in FAULT, or over its cap. -/
def Dev.alerts (d : Dev) : Bool := d.boot.halted || d.boot.phase = 6 || d.pwr.capExceeded

/-- Whether a source is enabled and acts in a state (R421, R470). -/
def Dev.wakes (d : Dev) (st : PState) (w : WakeSource) : Bool :=
  let low : Bool := st = .sleep || st = .deep
  match w with
  | .wakeN => (low && d.fld Fld.PWR_WAKE_EN_wake_n 0 = 1) || (st = .off && !d.pins.tripped)
  | .signalDetect p =>
    low && p < 8 && (d.fld Fld.PWR_WAKE_EN_sd_ports 0).testBit p && (st = .deep || !d.kept p || !d.pwr.on.testBit (32 + p))
  | .tickAlarm => st = .sleep && d.fld Fld.PWR_WAKE_EN_tick_alarm 0 = 1 && d.fld Fld.PWR_WAKE_PENDING_tick_alarm 0 = 1
  | .deepTimer => low && d.fld Fld.PWR_WAKE_EN_deep_timer 0 = 1 && d.fld Fld.PWR_WAKE_PENDING_deep_timer 0 = 1
  | .wakeFrame p => st = .sleep && d.fld Fld.PWR_WAKE_EN_inbound 0 = 1 && d.kept p && (d.port p).modeActive = 0
  | .inbound p => st = .sleep && d.fld Fld.PWR_WAKE_EN_inbound 0 = 1 && d.kept p
  | .alertFall => low && d.fld Fld.PWR_WAKE_EN_alert 0 = 1 && !d.alerts

/-- Records a refusal or abandonment: 1 BUSY, 2 WOKEN, 3 STATE (PWR_STATUS). -/
def Dev.powerError (d : Dev) (reason : Nat) : Dev :=
  (d.setFld Fld.PWR_STATUS_error 0 1).setFld Fld.PWR_STATUS_reason 0 (BitVec.ofNat 64 reason)

/-- Every pond and lake slice writes back its dirty lines (step 2 of R419). -/
def Dev.drainCaches (d : Dev) : Dev :=
  let d := (d.cleanPonds (d.bricks.map (·.1))).1
  (d.lakeLines (fun _ _ => true)).foldl (fun (d : Dev) l => d.cleanLine Asker.none l) d

/-- An entry is abandoned: the device is in RUN (R420). DESIGN CHOICE (log entry 117): step 2 of R419 has been performed and step 3,
which takes effect with W, has not. -/
def Dev.abandonEntry (d : Dev) : Dev := (d.drainCaches.withPwr { d.pwr with entering := none }).powerError 2

/-- An exit from SLEEP or DEEP begins: PWR_WAKE_CAUSE is written, and from SLEEP the tags are invalidated from then on (R13, R209,
R422, R425). -/
def Dev.startWake (d : Dev) (cause rewake : Nat) : Dev :=
  if d.pwr.waking.isSome then d
  else
    let d := ((d.setFld Fld.PWR_WAKE_CAUSE_from_state 0 (BitVec.ofNat 64 d.pwr.state.code)).setFld Fld.PWR_WAKE_CAUSE_rewake 0
      (BitVec.ofNat 64 rewake)).setFld Fld.PWR_WAKE_CAUSE_cause 0 (BitVec.ofNat 64 cause)
    { d.withPwr { d.pwr with waking := some d.now } with mem := { d.mem with tagInit := d.mem.tagInit || d.pwr.state = .sleep } }

/-- Whether the lost-edge window of an entry has begun: the eight AO cycles before W (R419, R422). -/
def Dev.inLostWindow (d : Dev) : Bool :=
  match d.pwr.entering with
  | some (_, w) => w ≤ d.now + 320
  | none => false

/-- Inbound edge events: those that arrive on a port (R420, R421). -/
def wakeInbound : WakeSource → Bool
  | .wakeFrame _ => true | .inbound _ => true | _ => false

/-- A wake source acts: it abandons an entry that has not reached its window, or starts the exit from SLEEP or DEEP. An edge
in the window is lost, and a level is sampled at W. An inbound edge event of the wake source table abandons an entry into DEEP or OFF
too (R420 to R422). -/
def Dev.wakeBy (d : Dev) (w : WakeSource) : Dev :=
  match d.pwr.entering with
  | some (st, _) =>
    if d.inLostWindow then d
    else if d.wakes st w || (wakeInbound w && d.wakes .sleep w) then d.abandonEntry else d
  | none => if (d.pwr.state = .sleep ∨ d.pwr.state = .deep) ∧ d.wakes d.pwr.state w then d.startWake (wakeCode w) 0 else d

end Sys2Proof.Machine
end

