-- ==== Sys2Proof/Machine/Election.lean ====
section
/-! DEFINITION. The fabric domain's events (chapter 17): HELLOs and neighbours, REPORTs and ASSIGNs, membership lists, the
election of a manager, sides, leases and rejoins, and the wake frame (R376). -/

namespace Sys2Proof.Machine

/-! ## Arrival -/

/-- Whether discovery runs on a hop now (R379). -/
def Dev.discHop (d : Dev) (hop : Nat) : Bool := d.discoveryHops.contains hop

/-- A DISCOVERY frame arrives on a hop: a native one is accepted in order by the link layer (R370, R371). -/
def Dev.discTaken (d : Dev) (hop : Nat) (payload : Bytes) : Dev :=
  if hop < 8 then
    let h : MortarHdr := {
      kind := 7, vl := 7, lenDw := ceilDiv payload.length 4, linkSeq := (d.port hop).rxSeq, dst := 0xFFF, src := 0, op := 0
      size := 0, slot := 0, slotGen := 0, epoch := 0, status := 0, address := 0 }
    d.frameTaken hop ⟨h, payload, true⟩
  else d

/-- Runs an action on a DISCOVERY payload of a type, which is dropped when its version, type or length is wrong (R379). -/
def Dev.onDisc (d : Dev) (typ hop : Nat) (payload : Bytes) (act : Dev → Dev) : Dev :=
  if !d.discHop hop then d
  else
    let d := d.discTaken hop payload
    if discOk typ payload then act d else d

/-! ## HELLOs (R379 to R381) -/

/-- The manager or coordinator raises manager_seq once per hello_us (R381). -/
def Dev.raiseSeq (d : Dev) : Dev :=
  if d.role ≠ 0 ∧ d.fab.dom.seqTick + d.helloNs ≤ d.now then
    d.withDom { d.fab.dom with seq := d.fab.dom.seq + 1, seqAt := d.now, seqTick := d.now }
  else d

/-- HELLO: sent at once when a field has changed, else hello_us after the last one on the hop (R379, R380). -/
def Dev.helloSend (d : Dev) (nv : Nv) (hop : Nat) : Dev :=
  if !d.discHop hop then d
  else
    let me := nv.identityDigest
    let d := match NMap.get? d.fab.dom.said hop with
      | some (t, b) => if b = (d.hello me nv.listVersion hop).bytes then d.advanceTo (t + d.helloNs) else d
      | none => d
    let d := d.raiseSeq
    let b := (d.hello me nv.listVersion hop).bytes
    let d := d.sendDisc hop b
    d.withDom { d.fab.dom with said := NMap.set d.fab.dom.said hop (d.now, b) }

/-- Since when this device is its own best candidate; a manager or coordinator that another candidate outranks gives up its
role (R382, R394). -/
def Dev.noteBest (d : Dev) (me : Bytes) : Dev :=
  match d.best me with
  | some c =>
    if c.digest = me then d.withDom { d.fab.dom with bestSince := some (d.fab.dom.bestSince.getD d.now) }
    else (if d.role ≠ 0 then d.setRole 0 else d).withDom { d.fab.dom with bestSince := none }
  | none => d.withDom { d.fab.dom with bestSince := none }

/-- Sends this device's REPORT to its parent (R383). -/
def Dev.reportSelf (d : Dev) (me : Bytes) : Dev :=
  match d.parent me with
  | some hop => (reportBytes d.addr me d.links).foldl (fun (d : Dev) b => d.sendDisc hop b) d
  | none => d

/-- What a REPORT of this device depends on: its links, and the candidate and hop toward which it goes. -/
def Dev.reportKey (d : Dev) (me : Bytes) : List Adjacency × Option (Bytes × Option Nat) :=
  (d.links, (d.best me).map (fun c => (c.digest, c.via)))

/-- A change of this device's neighbours or best candidate is reported (R379). -/
def Dev.reportIfChanged (old d : Dev) (me : Bytes) : Dev :=
  if old.reportKey me = d.reportKey me then d else d.reportSelf me

/-- A follower takes over what its parent's HELLO says: the manager, and, while manager_seq advances, the side (R393); a
higher epoch makes homes on the owning side send their fences again (R394). -/
def Dev.follow (d : Dev) (h : Hello) (advanced : Bool) : Dev :=
  let resend : Bool := d.fld Fld.FAB_EPOCH_domain_epoch 0 < h.epoch && d.side = 1
  let d := d.setFld Fld.FAB_MGR_manager_addr 0 (BitVec.ofNat 64 h.manager)
  let d := if advanced then d.setSideTo h.side else d
  let d := if d.fld Fld.FAB_EPOCH_domain_epoch 0 < h.epoch then d.setFld Fld.FAB_EPOCH_domain_epoch 0 (BitVec.ofNat 64 h.epoch) else d
  if resend then d.resendFences else d

/-! ## Membership lists (R390, R391) -/

/-- Asks a neighbour for a chunk of its list. -/
def Dev.askList (d : Dev) (hop version chunk : Nat) : Dev :=
  d.sendDisc hop (leBytes 1 4 ++ leBytes 1 1 ++ leBytes 2 0 ++ leBytes 4 version ++ leBytes 2 chunk ++ leBytes 2 0)

/-- The first chunk that has not arrived. -/
def ListFetch.next (f : ListFetch) : Nat :=
  ((List.range (f.chunks.length + 1)).find? (fun i => !f.chunks.any (fun c => c.1 = i))).getD 0

/-- A neighbour's newer list is fetched in chunks; a HELLO of the same neighbour repeats the request that is open. -/
def Dev.fetchList (d : Dev) (inForce hop : Nat) (h : Hello) : Dev :=
  if h.list ≤ inForce then d
  else match d.fab.dom.fetching with
    | some f =>
      if f.version < h.list then (d.withDom { d.fab.dom with fetching := some ⟨h.list, hop, []⟩ }).askList hop h.list 0
      else if f.hop = hop then d.askList hop f.version f.next
      else d
    | none => (d.withDom { d.fab.dom with fetching := some ⟨h.list, hop, []⟩ }).askList hop h.list 0

/-- HELLO_RECEIVE: the neighbour, the highest manager_seq, the ranking and what the device follows (R380, R381, R391, R393). -/
def Dev.helloTaken (d : Dev) (nv : Nv) (hop : Nat) (payload : Bytes) : Dev :=
  d.onDisc 1 hop payload (fun (d : Dev) =>
    let me := nv.identityDigest
    let h := helloOf payload
    let old := NMap.get? d.fab.dom.neighbours hop
    let advanced : Bool := match old with
      | some n => n.hello.digest ≠ h.digest || n.hello.seq < h.seq
      | none => true
    let seqAt := match old with
      | some n => if advanced then d.now else n.seqAt
      | none => d.now
    let d1 := d.withDom { d.fab.dom with
      neighbours := NMap.set d.fab.dom.neighbours hop ⟨h, d.now, seqAt⟩
      seqAt := if d.fab.dom.seq < h.seq then d.now else d.fab.dom.seqAt
      seq := max d.fab.dom.seq h.seq }
    let d1 := d1.noteBest me
    let d1 := if d1.role = 0 ∧ d1.parent me = some hop then d1.follow h (d.fab.dom.seq < h.seq) else d1
    (Dev.reportIfChanged d d1 me).fetchList nv.listVersion hop h)

/-- LIST_REQ: a chunk of the list in force is sent (R379). -/
def Dev.listAsked (d : Dev) (nv : Nv) (hop : Nat) (payload : Bytes) : Dev :=
  d.onDisc 4 hop payload (fun (d : Dev) =>
    let v := leAt payload 4 4
    let k := leAt payload 8 2
    let n := ceilDiv nv.list.length 240
    if nv.listVersion ≠ 0 ∧ v = nv.listVersion ∧ k < n then
      d.sendDisc hop (leBytes 1 5 ++ leBytes 1 1 ++ leBytes 2 0 ++ leBytes 4 v ++ leBytes 2 k ++ leBytes 2 n ++ leBytes 4 0
        ++ (nv.list.drop (240 * k)).take 240)
    else d)

/-- A complete list is adopted while the side is OWNING, when its version is higher than the one in force and it verifies; it
is extended into M3. Any other one is discarded (R390, R391, R439). -/
def Dev.listArrived (d : Dev) (nv : Nv) (version : Nat) (bytes : Bytes) : Dev × Nv :=
  let d := d.withDom { d.fab.dom with fetching := none }
  match listOf bytes with
  | some l =>
    if d.side = 1 ∧ l.version = version ∧ nv.listVersion < l.version ∧ bytes.length = listSize bytes + sigSize
        ∧ nv.listSigned bytes = true then
      (d.extend 3 4 (sha256 bytes), { nv with list := bytes })
    else (d, nv)
  | none => (d, nv)

/-- LIST_DATA: a chunk of the list being fetched; the next one is asked for, or the list is complete (R391). -/
def Dev.listData (d : Dev) (nv : Nv) (hop : Nat) (payload : Bytes) : Dev × Nv :=
  let d0 := d
  let d := d0.onDisc 5 hop payload (fun d => d)
  match d.fab.dom.fetching with
  | none => (d, nv)
  | some f =>
    if d0.discHop hop = false ∨ discOk 5 payload = false ∨ f.hop ≠ hop ∨ leAt payload 4 4 ≠ f.version then (d, nv)
    else
      let k := leAt payload 8 2
      let n := leAt payload 10 2
      let f : ListFetch := { f with chunks := if k < n ∧ !f.chunks.any (fun c => c.1 = k) then f.chunks ++ [(k, payload.drop 16)] else f.chunks }
      if f.next < n then ((d.withDom { d.fab.dom with fetching := some f }).askList hop f.version f.next, nv)
      else
        let part := fun (i : Nat) => ((f.chunks.find? (fun c => c.1 = i)).map (·.2)).getD []
        d.listArrived nv f.version ((List.range n).flatMap part)

/-! ## REPORTs and ASSIGNs (R383, R384) -/

/-- Every outstanding operation to a device ends with PARTITIONED (R384). -/
def Dev.endOpsWith (d : Dev) (which : FabOp → Bool) : Dev :=
  (d.fab.ops.filter which).foldl (fun (d : Dev) o =>
    let d := d.freeOp o
    if d.deliverable o then d.opFail o Sts.partitioned [] else d) d

/-- A device has changed its address: it loses its management grant, and operations to it end (R384, R444). -/
def Dev.addressLeft (d : Dev) (a : Nat) : Dev :=
  let d := (List.range 4).foldl (fun (d : Dev) i =>
    let g := d.fldW Fld.SEC_MGMT_SRC_grants 0
    if bitsN g (12 * i + 11) (12 * i) = a then
      d.setFld Fld.SEC_MGMT_SRC_grants 0 (BitVec.ofNat 64 (g.toNat - a * 4096 ^ i))
    else d) d
  d.endOpsWith (fun o => o.device = a)

/-- Records a fragment of a device's REPORT and the hop it came from. -/
def Dev.recordReport (d : Dev) (hop : Nat) (payload : Bytes) : Dev :=
  let digest := slice payload 8 32
  let addr := leAt payload 4 2 % 4096
  let frag := leAt payload 2 1
  let ls := reportLinks payload
  let known := d.fab.dom.members.find? (fun m => m.digest = digest)
  let old : Member := known.getD ⟨digest, addr, [], hop, false⟩
  let m : Member := { old with addr := addr, via := hop, links := (NMap.set old.links frag ls).filter (fun e => e.1 < leAt payload 3 1) }
  let d := d.withDom { d.fab.dom with
    members := if known.isSome then d.fab.dom.members.map (fun x => if x.digest = digest then m else x) else d.fab.dom.members ++ [m] }
  if known.isSome ∧ old.addr ≠ 0 ∧ old.addr ≠ addr then d.addressLeft old.addr else d

/-- REPORT: its origin and hop are recorded; it goes on to the parent, or, at an owning manager, addresses are assigned. -/
def Dev.reportTaken (d : Dev) (nv : Nv) (hop : Nat) (payload : Bytes) : Dev :=
  d.onDisc 2 hop payload (fun (d : Dev) =>
    let me := nv.identityDigest
    if slice payload 8 32 = me then d
    else
      let d := d.recordReport hop payload
      match d.parent me with
      | some p => d.sendDisc p payload
      | none => if d.role = 1 ∧ d.side = 1 then d.assignStep nv.inForce me else d)

/-- This device adopts an assigned address; with a nonzero address that changes, its operations end (R383, R384). -/
def Dev.adoptAddress (d : Dev) (payload : Bytes) : Dev :=
  let a := leAt payload 4 4 % 4096
  let d := if d.addr ≠ 0 ∧ d.addr ≠ a then d.endOpsWith (fun _ => true) else d
  let d := d.setFld Fld.FAB_ADDR_addr 0 (BitVec.ofNat 64 a)
  let d := d.setFld Fld.FAB_MGR_manager_addr 0 (BitVec.ofNat 64 (leAt payload 4 4 / 4096 % 4096))
  let d := d.setFld Fld.FAB_EPOCH_domain_epoch 0 (BitVec.ofNat 64 (max (leAt payload 8 4) (d.fld Fld.FAB_EPOCH_domain_epoch 0)))
  d.setFld Fld.FAB_WEIGHT_total 0 (BitVec.ofNat 64 (leAt payload 12 4))

/-- ASSIGN: the target adopts the address; any other device sends it out of the hop its target's REPORT came from (R383). -/
def Dev.assignTaken (d : Dev) (nv : Nv) (hop : Nat) (payload : Bytes) : Dev :=
  d.onDisc 3 hop payload (fun (d : Dev) =>
    let target := slice payload 16 32
    if target = nv.identityDigest then d.adoptAddress payload
    else match d.fab.dom.members.find? (fun m => m.digest = target) with
      | some m => d.sendDisc m.via payload
      | none => d)

/-! ## Losing neighbours and managers (R381, R382) -/

/-- NEIGHBOUR_LOST: three intervals without a HELLO, or the link is down. -/
def Dev.neighbourGone (d : Dev) (nv : Nv) (hop : Nat) : Dev :=
  match NMap.get? d.fab.dom.neighbours hop with
  | none => d
  | some n =>
    let me := nv.identityDigest
    let d0 := if d.discHop hop then d.advanceTo (n.heard + 3 * d.helloNs) else d
    let d1 := d0.withDom { d0.fab.dom with
      neighbours := NMap.erase d0.fab.dom.neighbours hop
      said := NMap.erase d0.fab.dom.said hop
      members := d0.fab.dom.members.filter (fun m => m.via ≠ hop)
      fetching := d0.fab.dom.fetching.filter (fun f => f.hop ≠ hop) }
    Dev.reportIfChanged d0 (d1.noteBest me) me

/-- MANAGER_LOST: manager_seq has not advanced for manager_timeout_us. A device that followed a manager, or ranks another device
first, drops that candidate, counts the election, and is FORMING, or NON_OWNING when its component has no eligible device (R382,
R392). -/
def Dev.managerGone (d : Dev) (nv : Nv) : Dev :=
  let me := nv.identityDigest
  let lost := ((d.best me).filter (fun c => c.digest ≠ me)).map (·.digest)
  if d.role ≠ 0 ∨ (lost = none ∧ d.fld Fld.FAB_MGR_manager_addr 0 = 0) then d
  else
    let d0 := d.advanceTo (d.fab.dom.seqAt + d.managerNs)
    let d1 := (d0.withDom { d0.fab.dom with
      dropped := lost.toList.map (fun x => (x, d0.fab.dom.seq)) ++ d0.fab.dom.dropped }).bump Fld.FAB_ELECTIONS_count 0 1
    let d1 := d1.setFld Fld.FAB_MGR_manager_addr 0 0
    let d1 := d1.setSideTo (if (d1.candidates me).isEmpty then 2 else 0)
    Dev.reportIfChanged d0 (d1.noteBest me) me

/-! ## Managers (R382, R384, R387, R392 to R394) -/

/-- What a manager or coordinator does when its view of the topology changes: it decides the side, assigns addresses while it
owns, and rewrites the routes (R384, R387, R392). -/
def Dev.govern (d : Dev) (nv : Nv) : Dev :=
  let me := nv.identityDigest
  let l := nv.inForce
  let d := d.decideSide l me
  let d := if d.side = 1 then (d.assignStep l me).decideSide l me else d
  d.rewrite l me

/-- MANAGER_ELECTED: an eligible device that was its own best candidate for settle_us, with no manager or coordinator known,
takes a role, that of coordinator in a component that does not own; it keeps its address or takes the lowest free one (R382,
R392). Without a list, one that knows no earlier total counts the devices it knows. -/
def Dev.managerChosen (d : Dev) (nv : Nv) : Dev :=
  let me := nv.identityDigest
  match d.best me, d.fab.dom.bestSince with
  | some c, some t =>
    if d.eligible ∧ c.digest = me ∧ d.role = 0 then
      let d := d.advanceTo (t + d.settleNs)
      let used := ((d.nodes me).map Node.addr).filter (fun a => a ≠ 0)
      let d := if d.addr ≠ 0 then d else d.setFld Fld.FAB_ADDR_addr 0 (BitVec.ofNat 64 ((lowestFree used).getD 0))
      let d := d.setFld Fld.FAB_MGR_manager_addr 0 (BitVec.ofNat 64 d.addr)
      let d := d.withDom { d.fab.dom with routes := [] }
      (d.govern nv).raiseSeq
    else d
  | _, _ => d

/-- SIDE_DECIDE (R392). -/
def Dev.sideDecided (d : Dev) (nv : Nv) : Dev := if d.role = 0 then d else d.govern nv

/-- LEASE_EXPIRY: a follower that has not seen manager_seq advance within 4 × hello_us is FORMING (R393). -/
def Dev.leaseEnded (d : Dev) : Dev :=
  if d.role = 0 ∧ d.side = 1 then (d.advanceTo (d.fab.dom.seqAt + 4 * d.helloNs)).setSideTo 0 else d

/-- REJOIN: at the owning manager, when a link has joined its component to another one through hop `hop` of some device: the
addresses are kept and completed, the routes rewritten, the epoch raised and OWNING announced, and exported fences sent again
(R394). -/
def Dev.rejoined (d : Dev) (nv : Nv) (hop : Nat) : Dev :=
  if d.role = 1 ∧ d.side = 1 ∧ (NMap.get? d.fab.dom.neighbours hop).isSome then
    let me := nv.identityDigest
    let l := nv.inForce
    let d := (d.assignStep l me).rewrite l me
    let d := d.bump Fld.FAB_EPOCH_domain_epoch 0 1
    let d := d.decideSide l me
    (d.bump Fld.FAB_REJOINS_count 0 1).resendFences
  else d

/-! ## The wake frame (R376) -/

/-- WAKE_FRAME: a frame for this device, by address or digest, on an Ethernet-mode port whose group is powered. -/
def Dev.wakeFrameIn (d : Dev) (nv : Nv) (port : Nat) (b : Bytes) : Dev :=
  let target := leAt b 6 2 % 4096
  let mine : Bool := if leAt b 5 1 % 2 = 1 then target = 0xFFF || (target = d.addr && d.addr ≠ 0)
    else slice b 8 8 = slice nv.identityDigest 0 8
  if (d.port port).powered ∧ (d.port port).modeActive = 0 ∧ 16 ≤ b.length ∧ slice b 0 4 = ascii "PSWK" ∧ leAt b 4 1 = 1 ∧ mine then
    d.wakeBy (.wakeFrame port)
  else d

end Sys2Proof.Machine
end

