-- ==== Sys2Proof/Machine/Maintain.lean ====
section
/-! DEFINITION. Range maintenance of ponds and lake (R210 to R214), lake ways and tags (R204, R205, R209), and the block
codec's own operations: write-back, merge, recoding and the compressible window (R249, R255, R256, R263, R272). -/

namespace Sys2Proof.Machine

/-! ## The mapped pages of a range -/

/-- Entries of a table at a level (R226). -/
def tableEntries : Nat → Nat
  | 0 => 8192
  | 3 => 32
  | _ => 512

/-- A page of a range: its bytes from `lo` to `hi` in the global physical map, in which device 0 stands for this device, the first
one's virtual address, and the leaf. -/
structure MapPage where
  lo : Nat
  hi : Nat
  va : Nat
  leaf : Wide
  deriving DecidableEq, Repr

/-- The leaves that map `[lo, hi)` below the table at `base` on a level, with their levels and first addresses; entries
that are invalid, malformed or unreadable map nothing. -/
def Dev.leavesFrom (d : Dev) (lo hi : Nat) : Nat → Nat → Nat → Nat → List (Nat × Nat × Wide)
  | 0, _, _, _ => []
  | fuel + 1, level, base, first =>
    let step := 2 ^ entryLog2 level
    let i0 := (lo - first) / step
    let i1 := min (tableEntries level) (ceilDiv (hi - first) step)
    (List.range (i1 - i0)).flatMap (fun j =>
      let i := i0 + j
      match d.readEntry Asker.none (base + 8 * i) with
      | (_, .ok, e) =>
        if !bit e 0 ∨ d.malformed level e then []
        else if bit e 1 then [(first + i * step, level, e)]
        else d.leavesFrom lo hi fuel (level + 1) (bitsN e 39 8 * 256) (first + i * step)
      | _ => [])

/-- The parts of a virtual range that lie on mapped pages, on this device and others (R211). -/
def Dev.mappedPages (d : Dev) (asid lo hi : Nat) : List MapPage :=
  if d.fld Fld.XLT_AS_CTRL_enable asid = 0 ∨ hi ≤ lo then []
  else (d.leavesFrom lo hi 4 0 (d.fld Fld.XLT_AS_ROOT_root asid * 65536) 0).map (fun p =>
    let (va, level, e) := p
    let x := max lo va
    let y := min hi (va + 2 ^ pageLog2 level)
    let a := match d.physical e level x with
      | .here a => a
      | .there dev a => dev * 2 ^ 40 + a
    ⟨a, a + (y - x), x, e⟩)

/-- Widens a page's part to lines, or to 256-byte blocks where the mapping is compressed (R211). -/
def MapPage.widen (p : MapPage) : MapPage :=
  let g := if bitsN p.leaf 53 52 ≠ 0 then 256 else 64
  { p with lo := p.lo / g * g, hi := ceilDiv p.hi g * g }

/-- Whether a pond holds a line dirty. -/
def Dev.lineDirty (d : Dev) (n key : Nat) : Bool := (NMap.get? (d.brick n).pond key).any (fun l => l.dirty ≠ 0)

/-- The page of a list that holds a line. -/
def pageOfLine (ps : List MapPage) (line : Nat) : Option MapPage := ps.find? (fun p => p.lo ≤ 64 * line && 64 * line < p.hi)

/-! ## Maintenance -/

/-- What an operation does to lines of a page: an INVALIDATE over a page that is not writable cleans first (R211). -/
def MapPage.op (p : MapPage) (op : Nat) : Nat := if op = 1 ∧ !bit p.leaf 3 then 2 else op

/-- One pond line under an operation of a command; a dirty line that cannot go home yet stays. -/
def Dev.maintainPondLine (d : Dev) (c : Cmd) (n key op : Nat) : Dev :=
  let d := if op = 1 then d else d.cleanPondLine n key (some (c.ring, c.serial))
  if op = 0 ∨ (op = 2 ∧ d.lineDirty n key = true) then d
  else d.modBrick n (fun b => { b with pond := NMap.erase b.pond key })

/-- One lake line under an operation. -/
def Dev.maintainLakeLine (d : Dev) (q : Asker) (line op : Nat) : Dev :=
  let d := if op = 1 then d else d.cleanLine q line
  if op = 0 then d else d.dropLine line

/-- The pond lines of a die's bricks on a list of pages, with what an operation does to each. -/
def Dev.pondLines (d : Dev) (die op : Nat) (ps : List MapPage) : List (Nat × Nat × Nat) :=
  (d.bricks.filter (fun (e : Nat × Brick) => e.1 / 48 = die)).flatMap (fun (e : Nat × Brick) =>
    e.2.pond.filterMap (fun l => (pageOfLine ps l.1).map (fun p => (e.1, l.1, p.op op))))

/-- An engine's operation over a list of pages: the ponds of its die's bricks, then the lake lines homed on its die and
those its ponds wrote back to (R211). Side buffers are not maintained (R208). -/
def Dev.maintainDie (d : Dev) (c : Cmd) (die op : Nat) (pondOnly : Bool) (ps : List MapPage) : Dev :=
  let ponds := d.pondLines die op ps
  let d := ponds.foldl (fun d x => d.maintainPondLine c x.1 x.2.1 x.2.2) d
  if pondOnly then d
  else
    let lines := d.mem.lake.filterMap (fun l => match pageOfLine ps l.1 with
      | some p => if dieOf (64 * l.1) = die ∨ ponds.any (fun x => x.2.1 = l.1) then some (l.1, p.op op) else none
      | none => none)
    lines.foldl (fun d x => d.maintainLakeLine ⟨none, if c.gotik then none else some c.context, some die⟩ x.1 x.2) d

/-- Whether an engine's operation over a list of pages has written every line back. -/
def Dev.maintained (d : Dev) (die op : Nat) (ps : List MapPage) : Bool :=
  (d.pondLines die op ps).all (fun x => x.2.2 = 1 || !d.lineDirty x.1 x.2.1)

/-- Operations of a die, the running one first. -/
def Dev.maintQueue (d : Dev) (die : Nat) : List MaintOp := NMap.getD d.eng.maintQueue die []

/-- Replaces the operations of a die. -/
def Dev.setMaint (d : Dev) (die : Nat) (q : List MaintOp) : Dev :=
  { d with eng := { d.eng with maintQueue := if q.isEmpty then NMap.erase d.eng.maintQueue die else NMap.set d.eng.maintQueue die q } }

/-- Whether a descriptor's range fits in the virtual space (R210). -/
def rangeFits (l : Line) : Bool := (mntBase l).toNat + (mntLength l).toNat ≤ 2 ^ 52

/-- MAINTAIN: its checks, and its place in both engines' queues; while a queue is full the command waits (R210, R213). -/
def Dev.runMaintain (d : Dev) (c : Cmd) : Dev :=
  match c.run with
  | .maintain _ => d
  | _ =>
    if mntOp c.desc = 3 ∨ !reservedZero c.desc mntFields ∨ !rangeFits c.desc then d.fail c Sts.badDescriptor 0
    else if mntLength c.desc = 0 then d.done c 0
    else if (d.maintQueue 0).length < 17 ∧ (d.maintQueue 1).length < 17 then
      let o : MaintOp := ⟨c.ring, c.serial⟩
      ((d.setMaint 0 (d.maintQueue 0 ++ [o])).setMaint 1 (d.maintQueue 1 ++ [o])).setRun c.ring c.serial (.maintain [0, 1])
    else d

/-- MAINTENANCE_OP_START: the oldest operation of a die runs; when both engines have finished with it the command ends
(R211, R213). It stays while a dirty line cannot go home. An operation whose command has ended leaves its queue. -/
def Dev.maintStart (d : Dev) (die : Nat) : Dev :=
  match d.maintQueue die with
  | [] => d
  | o :: rest =>
    match d.cmd? o.ring o.serial with
    | none => d.setMaint die rest
    | some c => match c.run with
      | .maintain left =>
        match d.dramGate with
        | .wait => d
        | .fail s => (d.setMaint die rest).endCmd c.ring c.serial s 0 noUnit
        | .ok =>
          let lo := (mntBase c.desc).toNat
          let ps := (d.mappedPages c.asid lo (lo + (mntLength c.desc).toNat)).map MapPage.widen
          let d := d.maintainDie c die (mntOp c.desc) (mntPondOnly c.desc) ps
          if !d.maintained die (mntOp c.desc) ps then d
          else
            let d := d.setMaint die rest
            let left := left.filter (· ≠ die)
            if left.isEmpty then d.done c 0 else d.setRun c.ring c.serial (.maintain left)
      | _ => d.setMaint die rest

/-! ## Ways and tags -/

/-- LAKE_MEM_WAYS_CHANGE, a write of MEM_LAKE_MEM_WAYS: ways that enter memory mode are written back and their window bytes read as
zero; ways that leave it lose theirs (R204, R205). -/
def Dev.setMemWays (d : Dev) (mask : Nat) : Dev :=
  let old := d.memWays
  let enter := (setBitsOf mask 16).filter (fun w => !old.testBit w)
  let d := enter.foldl (fun d w => d.flushWays (2 ^ w)) d
  let d := (setBitsOf (old ^^^ mask) 16).foldl (fun (d : Dev) w => d.setWay w Store.zero) d
  d.setFld Fld.MEM_LAKE_MEM_WAYS_way_mask 0 (BitVec.ofNat 64 mask)

/-- Starts a tag invalidation of the whole lake and every pond: nothing that they held is left (R209). -/
def Dev.startTagInit (d : Dev) : Dev :=
  let d := d.bricks.foldl (fun (d : Dev) (e : Nat × Brick) => d.dropPond e.1) d
  { d with mem := { d.mem with lake := [], side := [], missed := [], tagInit := true } }

/-- The tags that were being invalidated are (R209). -/
def Dev.tagsDone (d : Dev) : Dev :=
  if d.mem.tagInit then { d.startTagInit with mem := { d.startTagInit.mem with tagInit := false } } else d

/-! ## Blocks of the compressible window -/

/-- CODEC_BLOCK_WRITE_BACK: a held block is encoded in its target mode and leaves the lake (R256). -/
def Dev.blockBack (d : Dev) (a : Nat) : Dev :=
  let line := a / 256 * 4
  if d.dramGate = .ok ∧ d.inCwin a ∧ (NMap.get? d.mem.lake line).isSome then (d.cleanLine Asker.none line).dropLine line else d

/-- CODEC_BLOCK_MERGE: a write of part of a block that the lake does not hold is decoded, merged and encoded in the home
slice (R255, R256). -/
def Dev.blockMerge (d : Dev) (a : Nat) (data : Bytes) (target : Option Nat) : Dev :=
  if d.dramGate = .ok ∧ d.inCwin a ∧ a % 256 + data.length ≤ 256 ∧ (NMap.get? d.mem.lake (a / 256 * 4)).isNone
      ∧ target.all (fun t => t ≤ 2) then
    d.blockWrite Asker.none false target a data
  else d

/-- One block is written back from every pond and stored in a mode with the bytes it decodes to (R263). -/
def Dev.recodeBlock (d : Dev) (c : Cmd) (b mode : Nat) : Dev :=
  let lines := blockLines b
  let d := d.bricks.foldl (fun d (e : Nat × Brick) => lines.foldl (fun d k => d.cleanPondLine e.1 k (some (c.ring, c.serial))) d) d
  let r := d.blockData b
  let d := if r.2 then d.bump Fld.CPR_CODEC_BAD_count 0 1 else d
  let d := d.storeBlock ⟨none, if c.gotik then none else some c.context, none⟩ b mode r.1
  d.withLake (lines.foldl (fun lk k => NMap.modify lk k (fun l => { l with dirty := false, mode := mode })) d.mem.lake)

/-- Blocks of the compressible window on a writable page. -/
def Dev.recodeBlocks (d : Dev) (p : MapPage) : List Nat :=
  if bit p.leaf 3 then
    let lo := p.lo / 256
    ((List.range (ceilDiv p.hi 256 - lo)).map (fun i => 256 * (lo + i))).filter (fun b => b < dramSize && d.inCwin b)
  else []

/-- CODEC_RECODE (R263). -/
def Dev.runRecode (d : Dev) (c : Cmd) : Dev :=
  let mode := mntOp c.desc
  if mode = 3 ∨ !reservedZero c.desc recodeFields ∨ !rangeFits c.desc then d.fail c Sts.badDescriptor 0
  else if mntLength c.desc = 0 then d.done c 0
  else match d.dramGate with
    | .wait => d
    | .fail s => d.endCmd c.ring c.serial s 0 noUnit
    | .ok =>
      let lo := (mntBase c.desc).toNat
      let ps := d.mappedPages c.asid lo (lo + (mntLength c.desc).toNat)
      ((ps.flatMap (fun p => d.recodeBlocks p)).foldl (fun d b => d.recodeBlock c b mode) d).done c 0

/-! ## The window's registers (R272) -/

/-- CPR_CWIN_WRITE by a source that may write: base_gib changes only while the window is disabled, and a write that would
break R272 changes neither and sets cwin_error. -/
def Dev.cwinWrite (d : Dev) (src : RegSource) (value : Word) : Dev :=
  if d.mayWrite src then
    let v := value.toNat
    let size0 := d.fld Fld.CPR_CWIN_size_gib 0
    let base0 := d.fld Fld.CPR_CWIN_base_gib 0
    let size := (WriteRule.range 0 144).value size0 (v / 256 % 256)
    let base := if size0 = 0 then (WriteRule.range 0 143).value base0 (v % 256) else base0
    let side := d.fld Fld.CPR_SIDE_BASE_side_base 0 * 65536
    let d := if v.testBit 16 then d.setFld Fld.CPR_CWIN_cwin_error 0 0 else d
    if size ≠ 0 ∧ (base + size > 144 ∨ side + size * 2 ^ 24 > dramSize
        ∨ (side < (base + size) * 2 ^ 30 ∧ base * 2 ^ 30 < side + size * 2 ^ 24)) then
      d.setFld Fld.CPR_CWIN_cwin_error 0 1
    else (d.setFld Fld.CPR_CWIN_base_gib 0 (BitVec.ofNat 64 base)).setFld Fld.CPR_CWIN_size_gib 0 (BitVec.ofNat 64 size)
  else d

end Sys2Proof.Machine
end

