-- ==== Sys2Proof/Machine/Faults.lean ====
section
/-! DEFINITION. Walks outside any command, fault batches that close or find room (R237 to R240), and invalidations (R245 to
R248). -/

namespace Sys2Proof.Machine

/-! ## Walks and batches -/

/-- TABLE_WALK: a request that no ring makes is translated; a miss walks the table and caches the leaf, and a fault is
recorded (R226 to R238). -/
def Dev.tableWalk (d : Dev) (asid part : Nat) (va : Wide) (access length : Nat) : Dev :=
  let q : Req := ⟨0xFFFF, 0, some part, asid, engOther, 0, 0, none, .none⟩
  match d.translate q va access with
  | (d, .fault k l) => d.recordFault asid (q.record va (max 1 (min 4096 length)) k l access false)
  | (d, _) => d

/-- The access kind of a request (R238). -/
def accessOf (write atomic execute : Bool) : Nat :=
  if execute then accExecute else if atomic then accAtomic else if write then accWrite else accRead

/-- FAULT_BATCH_CLOSE: the batch window of the open batch has passed (R239). -/
def Dev.batchWindow (d : Dev) (asid : Nat) : Dev :=
  match (d.space asid).open? with
  | some _ => (d.advanceTo ((d.space asid).openSince + d.fld Fld.XLT_BATCH_WINDOW_window_ns 0)).closeBatch asid
  | none => d

/-- Whether the stream of a record still waits for it (R244). -/
def Dev.streamWaits (d : Dev) (r : FaultRec) : Bool :=
  match r.stream with
  | .lane ref path thread va => (d.findBlock ref).any (fun e => e.2.paths.any (fun p => p.id = path && p.lanes.any (fun l =>
      l.thread = thread && l.parts.any (fun x => x.va = va && x.state = .fault))))
  | .spring ref n k tile row va => (d.spring n k).run.any (fun x => x.ownedBy ref && x.parts.any (fun y =>
      y.tile = tile && y.row = row && y.part.va = va && y.part.state = .fault))
  | .cmd ring serial => (d.cmd? ring serial).any (fun c => c.faulted)
  | .fetch ring => (d.ring ring).fetchFault
  | .none => true

/-- Whether a further record can be written: the fault ring has room and the open batch is not full (R239, R240). -/
def Dev.batchRoom (d : Dev) (asid : Nat) : Bool :=
  let s := d.space asid
  s.prod - s.cons < d.fringSize asid && (match s.open? with
    | some b => decide (b.recs.length < 256)
    | none => true)

/-- Writes waiting records while there is room; `fuel` bounds their number. A record whose stream has ended is not
written. -/
def Dev.writeWaiting (asid : Nat) : Nat → Dev → Dev
  | 0, d => d
  | fuel + 1, d =>
    let s := d.space asid
    match s.waiting with
    | [] => d
    | r :: rest =>
      if !d.streamWaits r then Dev.writeWaiting asid fuel (d.setSpace asid { s with waiting := rest })
      else if d.batchRoom asid then
        Dev.writeWaiting asid fuel ((d.setSpace asid { s with waiting := rest }).putRecord asid r)
      else d

/-- FAULT_RING_ROOM: room has appeared, and the records of stalled streams are written (R240). -/
def Dev.ringRoom (d : Dev) (asid : Nat) : Dev := Dev.writeWaiting asid (d.space asid).waiting.length d

/-! ## Invalidation -/

/-- XLT_INVALIDATE: checked and put into the queue; while 32 wait, the command waits at the head of its ring (R245,
R246). -/
def Dev.runInvalidate (d : Dev) (c : Cmd) : Dev :=
  let l := c.desc
  let lo := (invBase l).toNat
  let n := (invLength l).toNat
  match c.run with
  | .invalidate => d
  | _ =>
    if !reservedZero l invFields ∨ (!invAll l ∧ lo + n > 2 ^ 52) then d.fail c Sts.badDescriptor 0
    else if !invAll l ∧ n = 0 then d.done c 0
    else if d.xlt.queue.length ≥ 32 then d
    else
      let v : Inval := ⟨c.ring, c.serial, frsAsid l, if invAll l then 0 else lo, if invAll l then 2 ^ 52 else lo + n, 0, []⟩
      ({ d with xlt := { d.xlt with queue := d.xlt.queue ++ [v] } } : Dev).setRun c.ring c.serial .invalidate

/-- A range widened outward to the pages that the covered leaves, in the tables or cached, map (R245). -/
def Dev.widenRange (d : Dev) (v : Inval) : Inval :=
  let pages := (d.leavesFrom v.lo v.hi 4 0 (d.fld Fld.XLT_AS_ROOT_root v.asid * 65536) 0).map (fun p => (p.1, 2 ^ pageLog2 p.2.1))
    ++ (d.xlt.cache.filter (fun x => x.asid = v.asid && x.va < v.hi && v.lo < x.va + x.size)).map (fun x => (x.va, x.size))
  { v with lo := pages.foldl (fun m p => min m p.1) v.lo, hi := pages.foldl (fun m p => max m (p.1 + p.2)) v.hi }

/-- Whether a transfer used a translation of the range of an invalidation. -/
def FabOp.inRange (o : FabOp) (v : Inval) : Bool := !o.dead && o.asid = some v.asid && v.lo ≤ o.va && o.va < v.hi

/-- INVALIDATION_START: the oldest queued invalidation starts; cached translations of its range are dropped from every
engine, and the transfers that used them are those it waits for (R246, R248). -/
def Dev.invalStart (d : Dev) : Dev :=
  match d.xlt.running, d.xlt.queue with
  | none, v :: rest =>
    let w := d.widenRange v
    let w := { w with start := d.now, old := (d.fab.ops.filter (fun o => o.inRange w)).map (fun o => (o.slot, o.gen)) }
    { d with xlt := { d.xlt with
      queue := rest, running := some w
      cache := d.xlt.cache.filter (fun x => !(x.asid = w.asid && x.va < w.hi && w.lo < x.va + x.size)) } }
  | _, _ => d

/-- Transfers that the running invalidation still waits for. -/
def Dev.oldOps (d : Dev) (v : Inval) : List FabOp := d.fab.ops.filter (fun o => !o.dead && v.old.contains (o.slot, o.gen))

/-- INVALIDATION_TIMEOUT: at XLT_INV_TIMEOUT every remaining transfer is terminated with INVALIDATED (R246, R247). -/
def Dev.invalTimeout (d : Dev) : Dev :=
  match d.xlt.running with
  | none => d
  | some v =>
    let d := d.advanceTo (v.start + d.fld Fld.XLT_INV_TIMEOUT_timeout_ns 0)
    let ops := d.oldOps v
    let d := d.bump Fld.XLT_INV_TERMINATED_count 0 ops.length
    let d := d.withOps (d.fab.ops.map (fun o => if ops.contains o then { o with dead := true } else o))
    ops.foldl (fun d o => d.opFail o Sts.invalidated []) d

/-- INVALIDATION_COMPLETE: every such transfer has finished or was terminated; the command completes with OK (R246). -/
def Dev.invalDone (d : Dev) : Dev :=
  match d.xlt.running with
  | none => d
  | some v =>
    if (d.oldOps v).isEmpty then
      let d : Dev := { d with xlt := { d.xlt with running := none } }
      (d.endCmd v.ring v.serial Sts.ok 0 noUnit).hist 19 ((d.now - v.start) / 1000)
    else d

end Sys2Proof.Machine
end

