-- ==== Sys2Proof/Machine/Partition.lean ====
section
/-! DEFINITION. Partitions (chapter 15): PARTCFG commits and control rings (R334 to R337), automatic pre-emption and saved
blocks (R344, R345), PREEMPT and RESTORE (R346 to R352), and ABORT (R353 to R356). -/

namespace Sys2Proof.Machine

/-- The device with another partition state. -/
def Dev.withPar (d : Dev) (x : ParSt) : Dev := { d with par := x }

/-! ## Saving blocks (R341, R345, R347) -/

/-- The block for which an operation of a lane or of a spring runs. -/
def FabOp.block? (o : FabOp) : Option BlockRef :=
  match o.use with
  | .lane r _ _ _ _ _ _ _ => some r
  | .spring r _ _ _ _ _ _ => some r
  | _ => none

/-- Whether an outstanding operation is a load or tile fetch of a block. -/
def FabOp.loadsFor (o : FabOp) (r : BlockRef) : Bool := !o.dead && o.kind = 1 && o.block? = some r

/-- A part as it is saved: a load that is outstanding is abandoned and issued again after restore, and so is an access stopped on a
fault; stores and atomics are awaited (R347, R351). -/
def PartRun.saved (p : PartRun) (load : Bool) : PartRun :=
  if load ∧ p.left > 0 then { p with issued := 0, left := 0, state := .todo }
  else if p.state = .fault then { p with state := .todo }
  else p

/-- An instruction as it is saved. -/
def PathRun.saved (p : PathRun) : PathRun :=
  let remoteLoad := p.remote.all (fun r => r.kind = 1)
  { p with lanes := p.lanes.map (fun l => { l with parts := l.parts.map (fun x => x.saved (l.does p.op = .load && remoteLoad)) }) }

/-- The springs of brick `n` that a block owns, as saved: parts that were not complete are fetched again at restore (R223). -/
def Dev.ownedSprings (d : Dev) (n : Nat) (b : Block) : List (Nat × Spring) :=
  (List.range 4).filterMap (fun k =>
    let s := d.spring n k
    match s.run with
    | some r =>
      if r.ownedBy b.bref then
        some (k, { s with run := some { r with parts := r.parts.map (fun x => { x with part := x.part.saved true }) } })
      else none
    | none => none)

/-- Saves one block and takes it off its brick. Its remote loads and tile fetches are abandoned, to be issued again (R347,
R351). -/
def Dev.saveBlock (d : Dev) (part : Nat) (record : Option Nat) (n : Nat) (b : Block) : Dev × SavedBlock :=
  let s : SavedBlock := ⟨part, record, { b with paths := b.paths.map PathRun.saved }, d.lsRead n b 0 b.lsBytes, d.ownedSprings n b⟩
  let d := d.withOps (d.fab.ops.map (fun o => if o.loadsFor b.bref then { o with dead := true } else o))
  (d.takeOff n (fun y => y.isRef b.bref), s)

/-- Records of a partition's own save area that hold blocks. -/
def Dev.usedRecords (d : Dev) (p : Nat) : List Nat := (d.par.saved.filter (fun s => s.part = p)).filterMap (·.record)

/-- The lowest record that holds none. -/
def Dev.freeRecord (d : Dev) (p : Nat) : Nat :=
  let u := d.usedRecords p
  ((List.range (u.length + 1)).find? (fun k => !u.contains k)).getD u.length

/-- save_off of R344. -/
def Dev.saveOff (d : Dev) (p : Nat) : Nat := d.cfld Fld.PAR_P_SAVE_save_off p * 65536

/-- Bytes of a save header and of a brick record (R341). -/
def saveHeader : Nat := 262144
def brickRecord : Nat := 819200

/-- Bytes that a save writes and that are not an interface (R342): nothing is known of them but where they were made. -/
def savedBytes (seed n : Nat) : Bytes := (List.range n).map (Config.freeByte seed)

/-- Where record `k` of a partition's own save area lies; nowhere if the partition owns no group (R344). -/
def Dev.recordPlace (d : Dev) (p k : Nat) : Option Nat :=
  let gs := setBitsOf (d.cfld Fld.PAR_P_GROUPS_group_mask p) 24
  if gs.isEmpty then none
  else some (0x180000000 * nth gs (k % gs.length) 0 + d.saveOff p + saveHeader + brickRecord * (k / gs.length))

/-- A record of a partition's own save area is written (R342, R344). -/
def Dev.writeRecordAt (d : Dev) (p k : Nat) : Dev :=
  match d.recordPlace p k with
  | some a => let f := d.fresh; (f.2.localWrite Asker.none true (some 0) .local a (savedBytes f.1 brickRecord)).1
  | none => d

/-- Saves the blocks of one brick that satisfy a test into one record of the partition's save area; they are counted (R345). -/
def Dev.saveOn (d : Dev) (p n : Nat) (test : Block → Bool) : Dev :=
  let k := d.freeRecord p
  let bs := (d.brick n).blocks.filter test
  bs.foldl (fun (d : Dev) b =>
    let r := d.saveBlock p (some k) n b
    r.1.withPar { r.1.par with saved := r.1.par.saved ++ [r.2] }) ((d.writeRecordAt p k).bump Fld.PAR_PREEMPTS_count 0 bs.length)

/-- Whether a block belongs to one of the clusters that have a block in a list. -/
def Block.inClusters (b : Block) (bs : List Block) : Bool :=
  bs.any (fun x => x.ring = b.ring && x.serial = b.serial && x.clusterBase = b.clusterBase)

/-- Saves the blocks of a brick, with the whole of their clusters (R345). -/
def Dev.saveBrick (d : Dev) (p n : Nat) : Dev :=
  let bs := (d.brick n).blocks
  (d.bricksWith (fun b => b.inClusters bs)).foldl (fun (d : Dev) m => (d.saveOn p m (fun b => b.inClusters bs)).cleanPond m) d

/-! ## PARTCFG (R334 to R337) -/

/-- Partitions with a pending commit. -/
def Dev.pendingParts (d : Dev) : List Nat := (List.range 8).filter (fun p => (d.staged? (.part p)).isSome)

/-- The masks of a partition: walls, groups and ways. -/
def Dev.masks (d : Dev) (p : Nat) : Nat × Nat × Nat :=
  (d.cfld Fld.PAR_P_MASKS_wall_mask p, d.cfld Fld.PAR_P_GROUPS_group_mask p, d.cfld Fld.PAR_P_MASKS_way_mask p)

/-- Whether two partitions' sets overlap. -/
def masksMeet (a b : Nat × Nat × Nat) : Bool := a.1 &&& b.1 ≠ 0 || a.2.1 &&& b.2.1 ≠ 0 || a.2.2 &&& b.2.2 ≠ 0

/-- Whether the save area fits within each owned group for `n` bricks (R344). -/
def Dev.saveFits (d : Dev) (p n : Nat) : Bool :=
  let g := popcount (d.cfld Fld.PAR_P_GROUPS_group_mask p) 24
  g = 0 || d.saveOff p + saveHeader + brickRecord * ceilDiv n g ≤ 0x180000000

/-- The reason for which partition `p`'s commit is refused, if any: `t` is the device as if every commit still running had
taken effect (R335). -/
def Dev.partFails (d t : Dev) (p : Nat) : Option Nat :=
  let on : Bool := t.cfld Fld.PAR_P_CTRL_enable p = 1
  let was : Bool := d.cfld Fld.PAR_P_CTRL_enable p = 1
  let m := t.masks p
  let overlap := (List.range 8).any (fun q => q ≠ p && t.cfld Fld.PAR_P_CTRL_enable q = 1 && masksMeet m (t.masks q))
  let gone := if was then (d.partWalls p).filter (fun w => !(on && m.1.testBit w)) else []
  let held := gone.any (fun w => (List.range 8).any (fun k => !(d.brick (8 * w + k)).blocks.isEmpty))
  let bricks := max (8 * popcount m.1 12) (if was then (d.partBricks p).length else 0)
  let layout : Bool := (on && (d.fld Fld.XLT_AS_CTRL_enable (t.cfld Fld.PAR_P_CRING_CFG_asid p) = 0
      || (t.cfldW Fld.PAR_P_CRING_value p).toNat % 64 ≠ 0 || !t.saveFits p bricks))
    || (m.2.1 = 0 && held)
  let busy := (d.ringsOf p).any (fun i => i ≠ p) || d.par.preempting.any (fun x => (d.ring x.target).part = p)
  firstReason [(on && overlap, 1), (on && (m.1 = 0 || m.2.2 = 0), 2), (layout, 3),
    (on && d.committed p 1024 > t.partCapacity p, 4), (was && !on && busy, 5)]

/-- The device as if the commits of the listed partitions had taken effect. -/
def Dev.tryCommits (d : Dev) (ps : List Nat) : Dev := ps.foldl (fun (d : Dev) p => d.tryGroup (.part p)) d

/-- The rounds of R335: those refused, with their reasons, leave, until a round refuses none. -/
def Dev.partRounds : Nat → Dev → List Nat → Dev × List Nat
  | 0, d, ps => (d, ps)
  | fuel + 1, d, ps =>
    let t := d.tryCommits ps
    let bad := ps.filterMap (fun p => (d.partFails t p).map (fun r => (p, r)))
    if bad.isEmpty then (d, ps)
    else Dev.partRounds fuel (bad.foldl (fun (d : Dev) b => d.refuseGroup (.part b.1) b.2) d)
      (ps.filter (fun p => !bad.any (fun b => b.1 = p)))

/-- The control ring that Gotik creates for a partition (R336). -/
def Dev.controlRing (d : Dev) (p : Nat) : Ring :=
  let k := d.cfld Fld.PAR_P_CRING_CFG_size_log2 p
  let base := d.cfldW Fld.PAR_P_CRING_value p
  { Ring.absent with
    sizeLog2 := k, asid := d.cfld Fld.PAR_P_CRING_CFG_asid p, part := p, cls := 2, cqMode := 2
    dbSource := d.cfld Fld.PAR_P_CRING_CFG_db_source p, dbId := d.cfld Fld.PAR_P_CRING_CFG_db_id p, cqLog2 := k
    base := base, cqBase := base + BitVec.ofNat 64 (64 * 2 ^ k), cqCons := base + BitVec.ofNat 64 (96 * 2 ^ k)
    state := .running }

/-- A wall leaves a partition (R337): its blocks are saved, its ponds written back and invalidated, its local stores
zero. -/
def Dev.wallLeaves (d : Dev) (p w : Nat) : Dev :=
  (List.range 8).foldl (fun (d : Dev) k =>
    let n := 8 * w + k
    let d := d.saveBrick p n
    ((d.cleanPond n).dropPond n).modBrick n (fun b =>
      { b with ls := Store.zero, drain := none, springs := b.springs.map (fun s => if s.run.isSome then s else Spring.idle) })) d

/-- A pass whose partition has other bricks now: its courses and units that were on bricks that have left go to the bricks that
remain (R143, R147, R337; log entry 112). -/
def PassRun.moveTo (p : PassRun) (bricks : List Nat) : PassRun :=
  let q := { p with bricks := bricks }
  let opened := p.opened.map (fun u => if bricks.contains u.brick then u else { u with brick := q.owner u.unit })
  { q with
    opened := opened
    courses := p.courses.map (fun x => match x.stage, opened.find? (fun u => u.course = some x.no) with
      | .fragment, some u => { x with bricks := bricks.filter (fun n => n / 8 = u.brick / 8) }
      | _, _ =>
        let own := bricks.filter (fun n => x.bricks.any (fun m => m / 48 = n / 48))
        { x with bricks := if own.isEmpty then bricks else own }) }

/-- The tiles of the open units of a pass take local store on the bricks that hold them now (R148). -/
def Dev.holdTiles (d : Dev) (c : Cmd) (p : PassRun) : Dev :=
  let mine := fun (h : LsHold) => h.tile && h.ring = c.ring && h.serial = c.serial
  let d : Dev := { d with bricks := d.bricks.map (fun (e : Nat × Brick) => (e.1, { e.2 with holds := e.2.holds.filter (fun h => !mine h) })) }
  p.opened.foldl (fun (d : Dev) u => d.modBrick u.brick (fun b => { b with holds := b.holds ++ [⟨c.ring, c.serial, true, u.unit, p.tileBytes⟩] })) d

/-- The passes of a partition go on with the bricks that it has now (R337). -/
def Dev.movePasses (d : Dev) (part : Nat) : Dev :=
  d.sub.cmds.foldl (fun (d : Dev) c => match c.run with
    | .pass p =>
      if c.part = part then
        let q := p.moveTo (d.partBricks part)
        (d.setPass c q).holdTiles c q
      else d
    | _ => d) d

/-- PARTCFG_TAKE_EFFECT at a tick edge (R335 to R337). -/
def Dev.takeParts (d : Dev) : Dev :=
  let r := Dev.partRounds 8 d d.pendingParts
  let old := r.1
  let d := r.2.foldl (fun (d : Dev) p => d.acceptGroup (.part p)) old
  let d := r.2.foldl (fun (d : Dev) p =>
    if old.cfld Fld.PAR_P_CTRL_enable p = 1 then
      ((old.partWalls p).filter (fun w => !(d.cfld Fld.PAR_P_CTRL_enable p = 1 && (d.partWalls p).contains w))).foldl
        (fun (d : Dev) w => d.wallLeaves p w) d
    else d) d
  let d := r.2.foldl (fun (d : Dev) p => d.movePasses p) d
  r.2.foldl (fun (d : Dev) p =>
    let was := old.cfld Fld.PAR_P_CTRL_enable p
    let on := d.cfld Fld.PAR_P_CTRL_enable p
    if was = 0 ∧ on = 1 then d.setRing p (d.controlRing p)
    else if was = 1 ∧ on = 0 ∧ (d.ring p).state ≠ .disabled then d.modRing p (fun x => { x with state := .destroying })
    else d) d

/-! ## Automatic pre-emption (R345) -/

/-- Whether a brick may be pre-empted: it holds blocks, all of them of BEST work or of FIRM work beyond its budget. -/
def Dev.preemptable (d : Dev) (n : Nat) : Bool :=
  let b := d.brick n
  !b.live.isEmpty && b.live.all (fun x => (d.ring x.ring).cls = 2 || ((d.ring x.ring).cls = 1 && !(d.ring x.ring).inBudget))

/-- HARD or FIRM work within its budget that no brick of the partition has room for. -/
def Dev.pressing (d : Dev) (p : Nat) : Option Cmd :=
  ((d.waitingWork p).find? (fun w => d.grantRank w.cmd < 2 && d.cannotPlace w)).map (·.cmd)

/-- Whether a request of a block or of one of its springs is outstanding (R345). -/
def Dev.blockBusy (d : Dev) (n : Nat) (b : Block) : Bool :=
  !b.paths.isEmpty || !b.releases.isEmpty || d.fab.ops.any (fun o => !o.dead && o.block? = some b.bref)
    || (List.range 4).any (fun k => (d.spring n k).run.any (fun r => r.ownedBy b.bref && r.parts.any (fun x => x.part.state ≠ .done)))

/-- AUTO_PREEMPT: after 20 µs of such a wait the brick with the fewest resident courses among those that may be pre-empted is
saved, once its outstanding requests have completed and if the save area has room (R345). -/
def Dev.autoPreempt (d : Dev) (p : Nat) : Dev :=
  match d.pressing p, minBy (fun n => (d.brick n).courses) ((d.partBricks p).filter d.preemptable) with
  | some c, some n =>
    let bs := (d.brick n).blocks
    let bricks := d.bricksWith (fun b => b.inClusters bs)
    let blocks := bricks.flatMap (fun m => ((d.brick m).blocks.filter (fun b => b.inClusters bs)).map (fun b => (m, b)))
    let busy := blocks.any (fun e => d.blockBusy e.1 e.2)
    let room := d.cfld Fld.PAR_P_GROUPS_group_mask p ≠ 0
      && ((d.usedRecords p).eraseDups).length + bricks.length ≤ (d.partBricks p).length
    if d.cfld Fld.PAR_P_CTRL_auto_preempt p = 1 ∧ busy = false ∧ room = true then
      (d.advanceTo (c.startAt + 20000)).saveBrick p n
    else d
  | _, _ => d

/-- Puts a saved block on brick `n`: on the quadrant and local store that it gets there, with its springs; its abandoned
loads and unfinished tiles are issued again, and translation prefetch starts again at head (R42, R223, R345, R351). -/
def Dev.putSaved (d : Dev) (c : Cmd) (s : SavedBlock) (n : Nat) : Dev :=
  let d := d.putBlock c n s.block
  match d.findBlock s.block.bref with
  | none => d
  | some (n, x) =>
    let d := s.springs.foldl (fun (d : Dev) e => d.setSpring n e.1 e.2) (d.lsWrite n x 0 s.ls)
    let d := (x.paths.map (·.id)).foldl (fun (d : Dev) id => d.runPath x.bref id) d
    s.springs.foldl (fun (d : Dev) e => (d.prefetchTiles n e.1).pump n e.1) d

/-- SAVED_BLOCK_RESTORE: the first saved unit in grant order goes to bricks of its partition that have room, and whose springs of the
numbers that it owns are idle (R345). -/
def Dev.restoreUnit (d : Dev) (p : Nat) (bricks : List Nat) : Dev :=
  match minBy (fun (w : Work) => d.grantRank w.cmd) ((d.waitingWork p).filter (·.saved)) with
  | none => d
  | some w =>
    let c := w.cmd
    match (d.savedUnits p c).find? (fun u => u.map (·.block.index) = w.blocks) with
    | none => d
    | some unit =>
      let idle := (unit.zip bricks).all (fun e => e.1.springs.all (fun s => (d.spring e.2 s.1).run.isNone))
      if placementOk unit.length bricks ∧ bricks.all (fun n => w.bricks.contains n && d.roomOn w.room n) ∧ idle ∧ !d.outranked c bricks then
        match d.cleanPonds (bricks.filter (fun n => (d.brick n).split ≠ w.room.split)) with
        | (d, false) => d
        | (d, true) =>
          let d := d.withPar { d.par with saved := d.par.saved.filter (fun s => !unit.contains s) }
          (unit.zip bricks).foldl (fun (d : Dev) e => d.putSaved c e.1 e.2) d
      else d

/-! ## PREEMPT (R346 to R349) -/

/-- The placement epoch after an advance: it skips what outstanding operations of the ring still record (R349). -/
def Dev.nextEpoch (d : Dev) (i : Nat) : Nat :=
  let e := (d.ring i).epoch
  let held := (d.fab.ops.filter (fun o => o.ring = i)).map (·.epoch)
  ((List.range (held.length + 1)).map (fun k => (e + 1 + k) % 65536)).find? (fun v => !held.contains v) |>.getD ((e + 1) % 65536)

/-- Whether a virtual range is mapped writable and uncompressed; `none` while a walk waits. -/
def Dev.rangeWritable (d : Dev) (c : Cmd) (va n : Nat) : Option Bool :=
  let req := c.req engOther
  (pieces 65536 va n).foldl (fun acc p => match acc with
    | some true => (match (d.translate req (BitVec.ofNat 64 p.1) accWrite).2 with
      | .ok leaf _ => some (decide (bitsN leaf 53 52 = 0))
      | .wait => none
      | _ => some false)
    | x => x) (some true)

/-- Bytes that a save of a partition's bricks may need. -/
def Dev.saveBytes (d : Dev) (p : Nat) : Nat := saveHeader + brickRecord * (d.partBricks p).length

/-- Step 2 of R347 for one command: an unsatisfied wait, and one for a TRANSLATING kernel, is set back to not started. -/
def Dev.setBack (d : Dev) (c : Cmd) : Dev :=
  let back := fun (d : Dev) =>
    let k := (c.ring, c.serial)
    (d.withWatch (d.sub.slots.filter (· ≠ k)) (d.sub.parked.filter (· ≠ k))).modCmd c.ring c.serial (fun c => { c with phase := .accepted, run := .none })
  if c.phase ≠ .started then d
  else if c.opcode = 0x14 then
    if d.satisfied (handleIndex (waitFence c.desc)) (waitValue c.desc) then d.done c 0 else back d
  else match c.run with
    | .kernelWait => back d
    | _ => d

/-- PREEMPT: checked, then step 1 and the judgement of step 2; the rest follows at the save point (R346, R347). -/
def Dev.runPreempt (d : Dev) (c : Cmd) : Dev :=
  let l := c.desc
  let i := preRing l
  let r := d.ring i
  match c.run with
  | .preempt => d
  | _ =>
    if !reservedZero l preFields ∨ r.part ≠ c.part ∨ !(r.state = .running || r.state = .stopped) ∨ r.saving ∨ (i < 8 ∧ !c.gotik)
        ∨ (preSave l).toNat % 65536 ≠ 0 ∨ preBytes l < d.saveBytes c.part then d.fail c Sts.badDescriptor 0
    else match d.rangeWritable c (preSave l).toNat (preBytes l) with
      | none => d
      | some false => d.fail c Sts.badDescriptor 0
      | some true =>
        let e := d.nextEpoch i
        let d := (d.stopRing i 5).modRing i (fun r => { r with epoch := e, saving := true })
        let dispatched := fun (o : FabOp) => o.block?.any (fun r => (d.cmd? r.ring r.serial).any (fun x => x.opcode = 0x21))
        let d := d.withOps (d.fab.ops.map (fun (o : FabOp) =>
          if o.ring = i ∧ o.kind = 1 ∧ dispatched o then { o with dead := true } else o))
        let d := d.withPar { d.par with preempting := d.par.preempting ++ [⟨c.ring, c.serial, i⟩] }
        let d := (d.sub.cmds.filter (fun x => x.ring = i)).foldl (fun (d : Dev) x => d.setBack x) d
        d.setRun c.ring c.serial .preempt

/-- Whether a ring being saved has reached its save point: no started command but a DISPATCH runs, no ended command can still
retire, and its remote stores and atomics are acknowledged (R347, R348). -/
def Dev.atSavePoint (d : Dev) (i : Nat) : Bool :=
  (d.sub.cmds.filter (fun x => x.ring = i)).all (fun x => match x.phase with
    | .accepted => true
    | .started => x.opcode = 0x21
    | .ended => !d.mayStart x)
  && !d.fab.ops.any (fun o => o.ring = i && !o.dead && (o.kind = 2 || o.kind = 3))

/-- A save header's 64 bytes (R342). -/
def headerBytes (restored remote : Bool) (device epoch ring bricks handles : Nat) (fetch doorbell : Wide) : Bytes :=
  let h := ascii "PSAV" ++ leBytes 1 1 ++ leBytes 1 (1 + (if restored then 2 else 0) + (if remote then 4 else 0)) ++ leBytes 2 device
    ++ leBytes 2 epoch ++ leBytes 2 ring ++ leBytes 2 bricks ++ leBytes 2 handles ++ leBytes 8 fetch.toNat
    ++ leBytes 8 doorbell.toNat ++ List.replicate 28 0
  h ++ leBytes 4 (crc32 h)

/-- Where brick record `k` of a save area lies (R341). -/
def recordAt (save : Wide) (k : Nat) : Wide := save + BitVec.ofNat 64 (saveHeader + brickRecord * k)

/-- What a save writes: its brick records, what follows the header's first 64 bytes when there is anything to hold, and those 64 bytes
last (R341, R342). -/
def saveWrites (save : Wide) (seed bricks : Nat) (empty : Bool) (head : Bytes) : List VWrite :=
  (List.range bricks).map (fun k => ⟨recordAt save k, savedBytes (seed + k) brickRecord, false⟩)
    ++ (if empty then [] else [⟨save + 64, savedBytes (seed + bricks) (saveHeader - 64), false⟩]) ++ [⟨save, head, false⟩]

/-- PREEMPT_SAVE_POINT: steps 4 and 5 of R347. -/
def Dev.savePoint (d : Dev) (i : Nat) : Dev :=
  match d.par.preempting.find? (fun p => p.target = i) with
  | none => d
  | some p => match d.cmd? p.ring p.serial with
    | none => d
    | some c =>
      if !d.atSavePoint i ∨ !c.active then d
      else
        let l := c.desc
        let r := d.ring i
        let bricks := d.bricksWith (fun b => b.ring = i)
        let cmds := d.sub.cmds.filter (fun c => c.ring = i)
        let refs := cmds.flatMap (·.refs)
        let head := headerBytes false (preRemote l) d.addr r.epoch i bricks.length refs.eraseDups.length r.fetch r.doorbell
        let seeds := (List.range bricks.length).map (d.freeCtr + ·)
        let ws := saveWrites (preSave l) d.freeCtr bricks.length (bricks.isEmpty && cmds.isEmpty) head
        match d.cleanPonds bricks with
        | (d, false) => d
        | (d, true) => if !d.atSavePoint i then d else match Dev.cmdWrites c engOther d ws with
        | (d, .wait, _) => d
        | (d, .fail s va, _) => d.killCmd c s va noUnit
        | (d, .ok, _) =>
          let d : Dev := { d with freeCtr := d.freeCtr + bricks.length + 1 }
          let x := bricks.foldl (fun (acc : Dev × List SavedBlock) n =>
            ((acc.1.brick n).blocks.filter (fun b => b.ring = i)).foldl (fun (acc : Dev × List SavedBlock) b =>
              let s := acc.1.saveBlock c.part none n b
              (s.1, acc.2 ++ [s.2])) acc) (d, [])
          let d := x.1
          let own := (d.par.saved.filter (fun s => s.block.ring = i)).map (fun s => { s with record := none })
          let d := if preRemote l then d.drop refs else d
          let d := d.withCmds (d.sub.cmds.filter (fun x => x.ring ≠ i))
          let d := d.withPar { d.par with
            saves := d.par.saves ++ [⟨head, { r with saving := false }, cmds, x.2 ++ own, seeds⟩]
            saved := d.par.saved.filter (fun s => s.block.ring ≠ i)
            preempting := d.par.preempting.filter (fun q => q ≠ p) }
          (d.setRing i Ring.absent).done c 0

/-! ## RESTORE (R352) -/

/-- Where the handles of a descriptor lie (R302, and the tables of R320 on). -/
def handleOffsets (l : Line) : List Nat :=
  8 :: (match hdrOpcode l with
    | 0x11 => if rctlOp l = 0 then [32] else []
    | 0x13 => [16, 24]
    | 0x14 => [16]
    | 0x15 => [16]
    | 0x20 => [56]
    | 0x21 => [16, 48]
    | 0x30 => [40, 48]
    | 0x50 => [40]
    | _ => [])

/-- The handle map read from memory: old and new handle. -/
def handleMap (b : Bytes) : List (Wide × Wide) := (List.range (b.length / 16)).map (fun i => (wideAt b (16 * i), wideAt b (16 * i + 8)))

/-- A saved handle after the map: 0 names nothing; an unlisted one is kept with target LOCAL and lost with REMOTE. -/
def mapHandle (m : List (Wide × Wide)) (remote : Bool) (h : Wide) : Option Wide :=
  if h = 0 then some h
  else match m.find? (fun e => e.1 = h) with
    | some e => some e.2
    | none => if remote then none else some h

/-- Replaces 8 bytes of a descriptor. -/
def setWide (l : Line) (o : Nat) (v : Wide) : Line := lineOf (splice (lineBytes l) o (leBytes 8 v.toNat))

/-- A saved command with the new ring and its handles mapped: its descriptor, and whether every handle it names is mapped and
current. -/
def Dev.mapDesc (d : Dev) (m : List (Wide × Wide)) (remote : Bool) (l : Line) : Line × Bool :=
  (handleOffsets l).foldl (fun (acc : Line × Bool) o =>
    match mapHandle m remote (dwide l o) with
    | some h => (setWide acc.1 o h, acc.2 && (h = 0 || d.usable h))
    | none => (acc.1, false)) (l, true)

/-- A saved command in its new ring: cut if it was running from a HARD ring, ended if a remote store failed, STALE_HANDLE where
a handle is gone, while its own fence is signalled if it is current; otherwise it goes on, with references to its handles. -/
def Dev.restoreCmd (d : Dev) (m : List (Wide × Wide)) (remote : Bool) (ring part asid : Nat) (c : Cmd) : Dev × Cmd :=
  let x := d.mapDesc m remote c.desc
  let refs := ((handleOffsets x.1).map (fun o => dwide x.1 o)).filter (· ≠ 0) |>.map handleIndex
  let ended := fun (c : Cmd) (s : Half) (detail : Wide) => { c with phase := CmdPhase.ended, status := s, detail := detail, unit := noUnit, run := RunState.none }
  let d := if remote then d else d.drop c.refs
  let c := { c with ring := ring, part := part, asid := asid, faulted := false, remote := [], input := [], endAt := d.now }
  if !x.2 then
    let f := (mapHandle m remote (hdrFence c.desc)).filter (fun h => h ≠ 0 && d.usable h)
    let refs := f.toList.map handleIndex
    (refs.foldl (fun (d : Dev) i => d.takeRef i) d, { (if c.phase = .ended then c else ended c Sts.staleHandle 0) with
      desc := setWide c.desc 8 (f.getD 0), refs := refs })
  else
    let d := refs.foldl (fun (d : Dev) i => d.takeRef i) d
    let c := { c with desc := x.1, refs := refs }
    match c.phase, c.run with
    | .started, .dispatch r =>
      (match r.remoteFault with
      | some (s, b) => (d, ended c s (BitVec.ofNat 64 b))
      | none => if c.cls = 0 then (d, ended c Sts.tickOverrun d.tickCount)
          else (d, { c with run := .dispatch { r with kernel := handleIndex (dispatchD x.1).kernel } }))
    | .started, _ => if c.cls = 0 then (d, ended c Sts.tickOverrun d.tickCount) else (d, c)
    | _, _ => (d, c)

/-- The save whose header and brick records are these: the integrity check of every record (R342, R352). -/
def Dev.saveOf (d : Dev) (head records : Bytes) : Option Save :=
  d.par.saves.find? (fun s => s.header = head && s.seeds.flatMap (fun k => savedBytes k brickRecord) = records)

/-- RESTORE (R352). -/
def Dev.runRestore (d : Dev) (c : Cmd) : Dev :=
  let l := c.desc
  let i := resRing l
  let bad := fun (d : Dev) => d.fail c Sts.badDescriptor 0
  let stop := fun (d : Dev) (r : Res) => match r with
    | .fail s va => d.endCmd c.ring c.serial s va noUnit
    | _ => d
  if !reservedZero l resFields ∨ i < 8 ∨ (d.ring i).state ≠ .disabled ∨ d.fld Fld.XLT_AS_CTRL_enable (resAsid l) = 0
      ∨ resCount l > 1024 ∨ (resSave l).toNat % 65536 ≠ 0 ∨ (resMap l).toNat % 16 ≠ 0 then bad d
  else match d.cmdRead c engOther (resSave l) 64 with
    | (d, .ok, h) =>
      let n := leAt h 12 2
      let f := leAt h 5 1
      let remote : Bool := f / 4 % 2 = 1
      if slice h 0 4 ≠ ascii "PSAV" ∨ leAt h 4 1 ≠ 1 ∨ leAt h 60 4 ≠ crc32 (slice h 0 60) ∨ f % 2 = 0 ∨ f / 2 % 2 = 1
          ∨ (!remote ∧ leAt h 6 2 % 4096 ≠ d.addr) ∨ n > (d.partBricks c.part).length then bad d
      else match Dev.readRanges c engOther d ((List.range n).map (fun k => (recordAt (resSave l) k, brickRecord))) with
        | (d, .ok, rs) => (match d.saveOf h rs with
          | none => bad d
          | some s =>
            if !d.admits c.part i s.ring.cls s.ring.budget then d.fail c Sts.budgetRejected 0
            else match d.cmdRead c engOther (resMap l) (16 * resCount l) with
              | (d, .ok, mb) =>
                let done := headerBytes true remote (leAt h 6 2 % 4096) s.ring.epoch (leAt h 10 2 % 1024) n (leAt h 14 2) s.ring.fetch s.ring.doorbell
                (match Dev.cmdWrites c engOther d [⟨resSave l, done, false⟩] with
                | (d, .ok, _) =>
                  let m := handleMap mb
                  let d := d.setRing i { s.ring with
                    asid := resAsid l, part := c.part, state := .running, stopReason := 0, used := 0
                    fetchFault := false, fetched := [], saving := false }
                  let x := s.cmds.foldl (fun (acc : Dev × List Cmd) y =>
                    let z := acc.1.restoreCmd m remote i c.part (resAsid l) y
                    (z.1, acc.2 ++ [z.2])) (d, [])
                  let d := x.1.withCmds (x.1.sub.cmds ++ x.2)
                  let live := s.blocks.filter (fun b => x.2.any (fun y => y.serial = b.block.serial && y.phase = .started))
                  let d := d.withPar { d.par with
                    saves := d.par.saves.filter (· ≠ s)
                    saved := d.par.saved ++ live.map (fun b => { b with
                      part := c.part, block := { b.block with ring := i }
                      springs := b.springs.map (fun e => (e.1, { e.2 with run := e.2.run.map (fun r => { r with ring := i }) })) }) }
                  d.done c 0
                | (d, r, _) => stop d r)
              | (d, r, _) => stop d r)
        | (d, r, _) => stop d r
    | (d, r, _) => stop d r

/-! ## ABORT (R353 to R356) -/

/-- Step 4 of R354 for one command: it retires with its record written, unless the completion ring cannot take it, and its
fence signalled; a shared fence of a FORMING device ends with PARTITIONED. -/
def Dev.abortRetire (d : Dev) (ring : Nat) (serial : Wide) : Dev :=
  match d.cmd? ring serial with
  | none => d
  | some c =>
    let d := if c.recordDone ∨ !d.wantsRecord c ∨ c.gotik then d
      else match d.cqRoom c with
        | (d, .ok, true) =>
          let r := d.ring c.ring
          let va := r.cqBase + BitVec.ofNat 64 (32 * (r.cqProd.toNat % 2 ^ r.cqLog2))
          (match d.transferWrite c.cqReq ⟨va, recordBytes c.desc c.serial c.status c.detail c.unit c.ring d.tickCount, false⟩ with
          | (d, .ok, _) => d.modRing c.ring (fun r => { r with cqProd := r.cqProd + 1, cqStalled := false })
          | (d, _, _) => d)
        | (d, .ok, false) => d.bump Fld.PAR_ABORT_CQ_DROPS_count 0 1
        | (d, _, _) => d
    let d := d.finishCmd { c with recordDone := true }
    match d.cmd? ring serial with
    | some c => (d.drop c.refs).withCmds (d.sub.cmds.filter (fun x => !(x.ring = ring && x.serial = serial)))
    | none => d

/-- Aborts the listed rings and commands: steps 1 to 4 of R354. -/
def Dev.abortRings (d : Dev) (rings : List Nat) (more : List Cmd) : Dev :=
  let d := rings.foldl (fun (d : Dev) i =>
    let e := d.nextEpoch i
    d.modRing i (fun r => { r with state := .aborted, epoch := e, fetchFault := false, fetched := [], saving := false })) d
  let savers := d.par.preempting.filter (fun p => rings.contains p.target)
  let d := savers.foldl (fun (d : Dev) p => match d.cmd? p.ring p.serial with
    | some c => d.killCmd c Sts.aborted 0 noUnit
    | none => d) d
  let d := d.withOps (d.fab.ops.map (fun o => if rings.contains o.ring then { o with dead := true } else o))
  let cs := (d.sub.cmds.filter (fun c => rings.contains c.ring)) ++ more
  let d := cs.foldl (fun (d : Dev) c => (d.killCmd c Sts.aborted 0 noUnit).dropOps c.ring c.serial) d
  let d := d.withPar { d.par with saved := d.par.saved.filter (fun s => !rings.contains s.block.ring) }
  cs.foldl (fun (d : Dev) c => d.abortRetire c.ring c.serial) d

/-- ABORT with scope RING (R353, R354). -/
def Dev.runAbortRing (d : Dev) (c : Cmd) : Dev :=
  let i := abtRing c.desc
  if !reservedZero c.desc abtFields ∨ (d.ring i).state = .disabled ∨ (d.ring i).part ≠ c.part ∨ (i < 8 ∧ !c.gotik) then
    d.fail c Sts.badDescriptor 0
  else (d.abortRings [i] []).done c 0

/-- ABORT with scope PARTITION: every ring of the partition but its control ring, and that ring's own started commands
(R353, R354). -/
def Dev.runAbortPartition (d : Dev) (c : Cmd) : Dev :=
  if !reservedZero c.desc abtFields then d.fail c Sts.badDescriptor 0
  else
    let rings := (d.ringsOf c.part).filter (fun i => i ≠ c.part)
    let own := d.sub.cmds.filter (fun x => x.ring = c.part && x.phase = .started && x.serial ≠ c.serial)
    ((d.abortRings rings own).failSlices c.part Sts.isolated).done c 0

end Sys2Proof.Machine
end

