-- ==== Sys2Proof/Machine/Tick.lean ====
section
/-! DEFINITION. The tick generator (R24 to R33, R41, R473): edges, phase correction, lock states, the TICKCFG group, its time
sources, and what happens at an edge (R38 to R40, R315, R335, R413). -/

namespace Sys2Proof.Machine

/-- The device with another tick generator. -/
def Dev.withTick (d : Dev) (x : TickGen) : Dev := { d with tick := x }

/-- Committed phase (R24). -/
def Dev.phaseNs (d : Dev) : Nat := d.cfld Fld.TICK_PHASE_NS_phase_ns 0

/-- The selected source: 0 FREE, 1 PPS10M, 2 PTP. -/
def Dev.tickSource (d : Dev) : Nat := d.fld Fld.TICK_SOURCE_source 0

/-- Encoding of a lock state. -/
def LockState.code : LockState → Nat
  | .free => 0 | .acquiring => 1 | .locked => 2 | .holdover => 3

/-- The remainder of `x` modulo `p` that lies nearest to zero: in `(-p/2, p/2]`. -/
def centred (x : Int) (p : Nat) : Int :=
  let r := x % (p : Int)
  if 2 * r > (p : Int) then r - p else r

/-- The phase error of an edge at `t`: its distance from the nearest grid point, positive when it is late (R25, R29). -/
def Dev.phaseError (d : Dev) (t : Nat) : Int := centred ((t : Int) - d.tick.epoch - d.phaseNs) d.period

/-- The number of the grid point for which an edge at `t` stands. -/
def Dev.gridIndex (d : Dev) (t : Nat) : Int := ((t : Int) - d.phaseError t - d.tick.epoch - d.phaseNs) / (d.period : Int)

/-- TICK_COUNT takes a value. -/
def Dev.setCount (d : Dev) (v : Wide) : Dev := d.setFld Fld.TICK_COUNT_count 0 v

/-- Under PTP the count is the grid index from the first entry into LOCKED (R25). -/
def Dev.renumber (d : Dev) : Dev :=
  if d.tick.numbered ∧ d.tickSource = 2 then d.setCount (BitVec.ofInt 64 (d.gridIndex d.tick.lastEdge)) else d

/-! ## The next edge (R29, R31, R473) -/

/-- Where the edge after the one at `e` falls, when nothing is corrected: one period later. -/
def TickGen.plain (g : TickGen) (p : Nat) : TickGen := { g with nextEdge := g.lastEdge + p, advance := 1, stepping := false }

/-- Where the edge after the one at `lastEdge` falls: in ACQUIRING and LOCKED an error within TICK_STEP_LIMIT is slewed, and
a larger one is removed by one long tick (R29). -/
def Dev.nextTick (d : Dev) : Dev :=
  let g := d.tick
  let p := d.period
  if g.lock = .acquiring ∨ g.lock = .locked then
    if g.err.natAbs ≤ d.fld Fld.TICK_STEP_LIMIT_step_limit_ns 0 then
      let m : Int := max 1 (p / 4096)
      let s : Int := max (-m) (min m g.err)
      d.withTick { g with nextEdge := ((g.lastEdge : Int) + p - s).toNat, advance := 1, stepping := false, err := g.err - s }
    else
      let k : Nat := if g.err > 0 then 2 else 1
      d.withTick { g with
        nextEdge := ((g.lastEdge : Int) - g.err + k * p).toNat, advance := k, stepping := true, err := 0 }
  else d.withTick (g.plain p)

/-! ## TICKCFG (R31, R32) -/

/-- The reason for which a TICKCFG set is refused; `t` is the device as if it were in force (R32). -/
def Dev.tickFails (t : Dev) : Option Nat :=
  let p := t.cfld Fld.TICK_PERIOD_NS_period_ns 0
  let a := t.cfld Fld.TICK_ADMIT_admit_permille 0
  firstReason [(p < 62500 || 50000000 < p, 1), (p ≤ t.phaseNs, 2), (a < 500 || 1000 < a, 3),
    ((List.range 8).any (fun q => t.partCapacity q < t.committed q 1024), 4)]

/-- The grid moves at edge `E` under FREE: the epoch becomes E − phase_old, and the next edge is the first point of the new
grid at least one new period after E (R31). -/
def Dev.reanchorFree (d : Dev) (phaseOld : Nat) : Dev :=
  let g := d.tick
  let p := d.period
  let epoch : Int := (g.lastEdge : Int) - phaseOld
  let late := (((d.phaseNs : Int) - phaseOld) % (p : Int)).toNat
  d.withTick { g with epoch := epoch, nextEdge := g.lastEdge + p + late, advance := 1, stepping := false, reanchor := false }

/-- The staged set of TICKCFG, where there is one, is refused or takes effect; whether it has (R32, R412). -/
def Dev.settleTickCfg (d : Dev) : Dev × Bool :=
  if (d.staged? .tick).isNone then (d, false)
  else match (d.tryGroup .tick).tickFails with
    | some n => (d.refuseGroup .tick n, false)
    | none => (d.acceptGroup .tick, true)

/-- TICKCFG at the edge just placed: the staged set is refused or takes effect, and where the next edge falls (R31, R32). A
commit written in the clock of the edge waits for the following one. Under PTP the count is the index in the new grid, in HOLDOVER
too (R25). -/
def Dev.takeTickCfg (d : Dev) : Dev :=
  let old := d.phaseNs
  let r := if d.tick.commitAt < d.tick.lastEdge then d.settleTickCfg else (d, false)
  let d := r.1
  if r.2 then
    if d.tickSource = 0 then d.reanchorFree old
    else if d.tickSource = 1 then ({ d with tick := { d.tick with anchored := false, err := 0, reanchor := false } } : Dev).nextTick
    else
      let e := if d.tick.anchored ∧ d.tick.lock ≠ .holdover then d.phaseError d.tick.lastEdge else 0
      let d : Dev := { d with tick := { d.tick with err := e, reanchor := false } }
      d.renumber.nextTick
  else if d.tick.reanchor ∧ d.tickSource = 0 then d.reanchorFree old
  else d.nextTick

/-! ## What happens at an edge -/

/-- Whether a command is cut at an edge that falls at `t`: HARD work fetched before it, and composition commands of every ring, that
had not completed in an earlier I/O clock (R36, R38); a STEP that an edge has cut already goes on with its writes (R288). -/
def Cmd.cutAt (t : Nat) (c : Cmd) : Bool :=
  c.tickBound && (c.phase ≠ .ended || (t ≤ c.endAt && c.status ≠ Sts.aborted))
    && (match c.run with
      | .writing _ st _ _ => st ≠ Sts.tickOverrun
      | _ => true)

/-- HARD_CUT: HARD work that has not completed ends with TICK_OVERRUN, and counts as an overrun of depth 1 (R38, R40). -/
def Dev.hardCut (d : Dev) : Dev :=
  (d.sub.cmds.filter (Cmd.cutAt d.tick.lastEdge)).foldl (fun (d : Dev) c =>
    match d.cmd? c.ring c.serial with
    | some x => if x.cutAt d.tick.lastEdge then ((d.cutCmd x).hist 0 1).count 0x0041 1 (x.attr Option.none) else d
    | none => d) d

/-- Brick time used in the tick that ends, per enabled partition, in permille of capacity (R37, R448). -/
def Dev.budgetUse (d : Dev) : Dev :=
  (List.range 8).foldl (fun (d : Dev) p =>
    if d.cfld Fld.PAR_P_CTRL_enable p = 1 then
      let used := sumN ((d.ringsOf p).map (fun i => (d.ring i).used))
      let cap := d.partCapacity p * 1000 * brickTimeUnit
      d.hist (48 + p) (if cap = 0 then 0 else used * 1000 / cap)
    else d) d

/-- A new tick begins: no ring has used brick time in it yet, and running commands have crossed one more edge (R37, R40). -/
def Dev.newTick (d : Dev) : Dev :=
  let d := d.withRings (d.sub.rings.map (fun (e : Nat × Ring) => (e.1, { e.2 with used := 0 })))
  let d := d.withCmds (d.sub.cmds.map (fun c => if c.phase = .started then { c with edges := c.edges + 1 } else c))
  d.withMeter { d.meter with edges := d.meter.edges + 1 }

/-- TICK_ALARM: at the first edge, since the register was written, at which the count has reached or passed alarm_count the
alarm is latched; all ones never fires. It ends IDLE and may wake the device (R41, R417, R421; DEDUCED, log entry 107: the
count need not pass the value at that very edge). -/
def Dev.tickAlarm (d : Dev) : Dev :=
  let a := (d.fldW Fld.TICK_ALARM_alarm_count 0).toNat
  if a ≠ 2 ^ 64 - 1 ∧ d.tick.alarmFired = false ∧ a ≤ d.tickCount.toNat then
    (((d.withTick { d.tick with alarmFired := true }).setFld Fld.PWR_WAKE_PENDING_tick_alarm 0 1).leaveIdle).wakeBy .tickAlarm
  else d

/-- A write to TICK_ALARM: the alarm may fire again. -/
def Dev.alarmWrite (d : Dev) (off width : Nat) (v : Wide) : Dev :=
  (d.withTick { d.tick with alarmFired := false }).regStore off width v

/-- TICK_EDGE: the generator places its next edge (R25 to R41). -/
def Dev.tickEdge (d : Dev) : Dev :=
  if !d.tick.running then d
  else
    let d := d.advanceTo d.tick.nextEdge
    let g := d.tick
    let d := d.withTick { g with lastEdge := g.nextEdge }
    let d := d.setCount (d.tickCount + BitVec.ofNat 64 g.advance)
    let d := if g.stepping then d.bump Fld.TICK_STATUS_step_count 0 1 else d
    let d := d.hardCut.budgetUse.newTick
    let d := d.takeTickCfg.takeParts.settleDomains
    d.tickAlarm.slicesDue.examineParked

/-- TICK_COMMIT: a write of 1 to TICK_COMMIT.commit (R31, R412). -/
def Dev.tickCommit (d : Dev) (src : RegSource) : Dev :=
  if d.mayWrite src then
    let d := d.leaveIdle.stage .tick
    d.withTick { d.tick with commitAt := d.now }
  else d

/-! ## Sources (R25 to R27, R366) -/

/-- TICK_SOURCE_SELECT: a write to TICK_SOURCE. A change of source acts at once: the state becomes ACQUIRING, or FREE, whose
epoch is anchored again at the next edge (R25, R31). -/
def Dev.tickSelect (d : Dev) (src : RegSource) (value : Word) : Dev :=
  if d.mayWrite src then
    let old := d.fld Fld.TICK_SOURCE_source 0
    let d := d.regStore (Reg.TICK_SOURCE.at 0) 4 (value.setWidth 64)
    let s := d.fld Fld.TICK_SOURCE_source 0
    if s = old then d
    else d.withTick { d.tick with
      lock := if s = 0 then .free else .acquiring
      good := 0, anchored := false, numbered := false, err := 0, reanchor := decide (s = 0), lastPps := none
      syncRx := none, syncOrigin := none, delayTx := none, pathDelay := 0 }
  else d

/-- The tick generator at the end of an exit from DEEP: it restarts from the TICK configuration that Gotik has restored, on the
grid of R473, in lock state ACQUIRING (R41). -/
def Dev.restartTick (d : Dev) : Dev :=
  let d := d.settleTickCfg.1
  d.withTick { d.tick with lock := .acquiring, nextEdge := d.tick.lastEdge + d.period + d.phaseNs, reanchor := false }

/-- A measurement of the phase error: it is reported, and four in succession within ±100 ns bring LOCKED (R26, R29). What is
left to correct is the error that the edge already under way will have, so that its own slew or step is not made twice. Under PTP
the count stays the grid index, however far the grid has moved (R25). -/
def Dev.measured (d : Dev) : Dev :=
  let e := d.phaseError d.tick.lastEdge
  let d := d.setFld Fld.TICK_PHASE_ERR_phase_err_ns 0 ((BitVec.ofInt 32 e).setWidth 64)
  let g := d.tick
  let lock : LockState := if g.lock = .holdover then .acquiring else g.lock
  let good := if e.natAbs ≤ 100 then g.good + 1 else 0
  let now : Bool := decide (good ≥ 4) && lock = .acquiring
  let d := d.withTick { g with err := d.phaseError g.nextEdge, good := min good 4, lock := if now then .locked else lock }
  let d := if now ∧ d.tickSource = 2 then d.withTick { d.tick with numbered := true } else d
  d.renumber

/-- HOLDOVER: nothing is corrected (R27, R29). -/
def Dev.holdOver (d : Dev) : Dev := d.withTick { d.tick with lock := .holdover, good := 0, err := 0 }

/-- PPS_EDGE: a 1PPS rising edge under PPS10M. Without the 10 MHz input nothing is measured: neither input alone is a source. The
first edge accepted gives the epoch; each is measured against the grid. In LOCKED an edge more than 1 µs off its expected time is
not accepted (R25 to R27). -/
def Dev.ppsEdge (d : Dev) : Dev :=
  if d.tickSource ≠ 1 ∨ !d.tick.running then d
  else if !d.tick.tenMHz then d.withTick { d.tick with good := 0 }
  else
    let g := d.tick
    let second : Int := 1000000000
    let off : Int := match g.lastPps with
      | some t => centred ((d.now : Int) - t) 1000000000
      | none => 0
    if g.lock = .locked ∧ off.natAbs > 1000 then d
    else
      let epoch : Int := if g.anchored then
          let dt : Int := (d.now : Int) - g.epoch
          (d.now : Int) - (dt - centred dt 1000000000) / second * second
        else d.now
      (d.withTick { g with epoch := epoch, anchored := true, lastPps := some d.now }).measured

/-- In LOCKED to a source, the source is lost at a time: HOLDOVER. -/
def Dev.loseLock (d : Dev) (source t : Nat) : Dev :=
  if d.tick.lock = .locked ∧ d.tickSource = source then (d.advanceTo t).holdOver else d

/-- LOCK_LOST: in LOCKED the loss of the source brings HOLDOVER (R27): no 1PPS edge within 1 µs of its time for two seconds,
no 10 MHz for 10 µs, or no usable Sync in four intervals. The 10 MHz input stays lost, in any lock state, until it is back. -/
def Dev.lockLost (d : Dev) (cause : LossCause) : Dev :=
  let g := d.tick
  match cause with
  | .pps => d.loseLock 1 (g.lastPps.getD d.now + 2000001000)
  | .tenMHz =>
    let d := d.loseLock 1 (d.now + 10000)
    d.withTick { d.tick with tenMHz := false }
  | .tenMHzBack => d.withTick { g with tenMHz := true }
  | .sync => d.loseLock 2 (g.lastSync + 4 * (1000000000 * 2 ^ d.fld Fld.FAB_PTP_log_sync 0 / 65536))

/-- A Sync whose origin time is known gives the PTP epoch and a measurement (R25, R366). -/
def Dev.syncDone (d : Dev) (origin : Nat) : Dev :=
  match d.tick.syncRx with
  | none => d
  | some rx =>
    let g := d.tick
    (d.withTick { g with
      epoch := (rx : Int) - origin - g.pathDelay, anchored := true, syncOrigin := some origin, lastSync := d.now }).measured

/-- PTP_MESSAGE: a message of the device's domain on an Ethernet-mode port: as a slave on ptp_port, and as a boundary clock
on ports with ptp_master (R366). -/
def Dev.ptpMessage (d : Dev) (port : Nat) (m : PtpMsg) : Dev :=
  let p := d.port port
  if p.modeActive ≠ 0 ∨ !p.linkUp ∨ m.domain ≠ d.fld Fld.FAB_PTP_domain 0 then d
  else
    let slave : Bool := d.tickSource = 2 && d.fld Fld.TICK_SOURCE_ptp_port 0 = port && d.tick.running
    match m.kind with
    | .sync twoStep origin =>
      if slave then
        let d := d.withTick { d.tick with syncRx := some d.now, delayTx := some d.now }
        let d := d.setPort port { p with sent := .ptp ⟨m.domain, .delayReq⟩ :: p.sent }
        if twoStep then d else d.syncDone origin
      else d
    | .followUp origin => if slave then d.syncDone origin else d
    | .delayResp received =>
      if slave then match d.tick.syncRx, d.tick.syncOrigin, d.tick.delayTx with
        | some t2, some t1, some t3 =>
          d.withTick { d.tick with pathDelay := (((t2 : Int) - t1 + ((received : Int) - t3)) / 2).toNat }
        | _, _, _ => d
      else d
    | .delayReq =>
      if d.fld Fld.FAB_P_CTRL_ptp_master port = 1 then
        d.setPort port { p with sent := .ptp ⟨m.domain, .delayResp d.now⟩ :: p.sent }
      else d
    | .announce _ => d
    | .peerDelay => d
    | .management => d

/-- PTP_SYNC_SEND: a boundary clock sends a two-step Sync, its Follow_Up and an Announce of clockClass 248 (R366). -/
def Dev.ptpSync (d : Dev) (port : Nat) : Dev :=
  let p := d.port port
  if d.fld Fld.FAB_P_CTRL_ptp_master port = 1 ∧ p.modeActive = 0 ∧ p.linkUp then
    let d := d.advanceTo (p.lastSync + 1000000000 * 2 ^ d.fld Fld.FAB_PTP_log_sync 0 / 65536)
    let dom := d.fld Fld.FAB_PTP_domain 0
    d.setPort port { p with
      lastSync := d.now
      sent := .ptp ⟨dom, .announce 248⟩ :: .ptp ⟨dom, .followUp d.now⟩ :: .ptp ⟨dom, .sync true 0⟩ :: p.sent }
  else d

end Sys2Proof.Machine
end

