-- ==== Sys2Proof/Machine/Reset.lean ====
section
/-! DEFINITION. Power input, resets and boot (chapter 18, R460, R470): the reset classes and what each keeps (R398, R408 to
R411), boot phases 0, 1, 3 and 4 (R400 to R407), and the watchdog. -/

namespace Sys2Proof.Machine

/-! ## The state after a reset (R401, R404, R411, R473) -/

/-- A reset of the whole device at time `t`: `depth` 3 is a device reset and 6 a cold reset (R10, R11, R398, R411). -/
def Dev.restart (d : Dev) (depth cls source t : Nat) : Dev :=
  let g := d.freeCtr
  { now := t, freeCtr := g + 97, boot := BootSt.start t cls source, pwr := PwrSt.start t
    pins := { d.pins with holdPhase2 := false, tap := 0, tdo := none }, tick := TickGen.start t
    regs := d.regs.clear depth everywhere, mem := MemSt.start (Store.undefined g)
    bricks := bricksAtReset (g + 1), sub := SubSt.start, xlt := ⟨[], [], [], none⟩, par := ⟨[], [], []⟩, eng := ⟨[], []⟩
    cmp := ⟨[], []⟩, seq := ⟨[], []⟩, fab := FabSt.start, sec := ⟨none, none⟩
    meter := RecSt.start t }

/-- A device reset from a source, counted (R398, R410). -/
def Dev.deviceReset (d : Dev) (source t : Nat) : Dev := (d.restart 3 1 source t).bump Fld.RST_COUNTS_device 0 1

/-- A cold reset from a source (R398). -/
def Dev.coldReset (d : Dev) (source t : Nat) : Dev := d.restart 6 0 source t

/-- A device reset limited to phase 2: every register field of a Kept through value narrower than DEEP takes its Reset value, the
counters and the measurement log among them, side buffers are lost, and option loading begins again at its first byte. What phases
0 and 1 gave stands: the invalidated tags, and the image that runs, whose measurement is extended again (R11, R403, R439). -/
def Dev.restartPhase2 (d : Dev) (source t : Nat) : Dev :=
  let n := d.fld Fld.RST_BOOT_STATUS_p2_restarts 0
  let d : Dev := { d.loseSides with
    now := t, regs := d.regs.clear 4 everywhere, tick := TickGen.start t, meter := RecSt.start t, sec := ⟨none, none⟩
    boot := { d.boot with kick := t, causeSource := source, causeClass := 1, optionsDefault := false } }
  let d := d.extend 0 1 d.boot.imageDigest
  (d.setFld Fld.RST_BOOT_STATUS_p2_restarts 0 (BitVec.ofNat 64 (satAdd 8 n 1))).bump Fld.RST_COUNTS_device 0 1

/-- A reset that restarts phase 2 while the device is in it, and the device otherwise (R397, R403). -/
def Dev.resetOrPhase2 (d : Dev) (source t : Nat) : Dev :=
  if d.boot.phase = 2 ∧ !d.boot.halted then d.restartPhase2 source t else d.deviceReset source t

/-! ## Whether the device runs -/

/-- Whether the I/O core runs: the input is good, and the device is neither in DEEP nor in OFF (R415). -/
def Dev.live (d : Dev) : Bool := d.pins.powerGood && d.pwr.state ≠ .deep && d.pwr.state ≠ .off

/-! ## The input (R398, R403, R460, R470) -/

/-- Every rail goes off: what was in the device is lost. Retention goes with the standby rail. -/
def Dev.railsOff (d : Dev) (source vin : Nat) (standby : Bool) : Dev :=
  let r := if standby then d.pwr.retained else none
  let d := d.coldReset source d.now
  { d with
    pins := { d.pins with vinMv := vin, powerGood := false, standby := standby }
    pwr := { d.pwr with retained := r } }

/-- POWER_ON: power-good rises once the input has stayed at or above 40 V for 10 ms, and a cold reset starts boot; phase 2
that a brown-out holds restarts then (R398, R403, R460). -/
def Dev.powerOn (d : Dev) : Dev :=
  if d.pins.holdPhase2 then
    let t := d.now + 10000000
    { d with
      now := t, tick := TickGen.start t, boot := { d.boot with kick := t }
      pins := { d.pins with holdPhase2 := false, vinMv := 48000, powerGood := true } }
  else if d.pins.powerGood then d
  else
    let d := d.coldReset d.boot.causeSource (d.now + 10000000)
    { d with pins := { d.pins with powerGood := true, standby := true, vinMv := 48000 } }

/-- BROWN_OUT: the input stays below 36 V for `us` microseconds. In phase 2, with the standby rail in regulation, phase 2
restarts when the input is good again; otherwise the cold reset of source BROWN_OUT begins at the next power-good (R398,
R403). A device in OFF has nothing to lose. -/
def Dev.brownOut (d : Dev) (us : Nat) (standby : Bool) : Dev :=
  if us < 50 ∨ !d.pins.powerGood then d
  else
    let t := d.now + 1000 * us
    if d.pwr.state = .off ∧ standby then d
    else if d.boot.phase = 2 ∧ !d.boot.halted ∧ d.live ∧ standby then
      let d := d.restartPhase2 1 t
      { d with pins := { d.pins with holdPhase2 := true, vinMv := 35000 } }
    else ({ d with now := t } : Dev).railsOff 1 35000 standby

/-- STANDBY_RAIL_LOSS: below 20 V the standby rail leaves regulation, retention is lost and THERM_TRIP_N is released (R470).
A device that was running has browned out (R398). -/
def Dev.standbyLoss (d : Dev) : Dev :=
  let source := if d.pins.powerGood then (if d.pwr.state = .off then 0 else 1) else d.boot.causeSource
  let d := d.railsOff source 0 false
  { d with pins := { d.pins with tripped := false } }

/-- RESET_N: a low pulse of `lowNs` ns. Below 120 ns it is ignored, from 200 ns on it qualifies, and between them the
outcome is free; the reset starts at its release (R396, R397). -/
def Dev.resetPin (d : Dev) (lowNs : Nat) : Dev :=
  if !d.pins.powerGood ∨ d.pwr.state = .off ∨ lowNs < 120 then d
  else
    let g := d.fresh
    let d := if lowNs < 200 then g.2 else d
    if lowNs ≥ 200 ∨ Config.freeBool g.1 then d.resetOrPhase2 3 (d.now + lowNs) else { d with now := d.now + lowNs }

/-! ## Reset registers (R398, R474) -/

/-- The source that a write to a reset register records, if it may write: management 4, fabric manager 5, Gotik 7. -/
def Dev.resetSource (d : Dev) (src : RegSource) : Option Nat :=
  match src with
  | .mgmt => some 4
  | .manager => some 5
  | .gotik => some 7
  | .mortar a => if d.isManager a then some 5 else if d.granted a then some 4 else none
  | .option => none
  | .other => none

/-- RST_DEVICE_RESET: a write with the key 0x5244 and go 1 (R398, R474). -/
def Dev.resetWrite (d : Dev) (src : RegSource) (value : Word) : Dev :=
  match d.resetSource src with
  | some s => if value.toNat / 65536 = 0x5244 ∧ value.toNat % 2 = 1 then d.deviceReset s d.now else d
  | none => d

/-- FW_WATCHDOG: RST_WDOG.timeout_ms pass without a kick while Gotik runs (R398, R403). -/
def Dev.watchdogExpires (d : Dev) : Dev :=
  if d.fld Fld.RST_WDOG_enable 0 = 1 ∧ 2 ≤ d.boot.phase ∧ !d.boot.halted ∧ !d.pins.holdPhase2 then
    let t := max d.now (d.boot.kick + 1000000 * d.fld Fld.RST_WDOG_timeout_ms 0)
    d.resetOrPhase2 6 t
  else d

/-- RST_WDOG_KICK: any write by Gotik restarts the count. -/
def Dev.kick (d : Dev) (src : RegSource) : Dev :=
  if src = .gotik then { d with boot := { d.boot with kick := d.now } } else d

/-! ## Partition reset (R408) -/

/-- The registers of partition `p`, whose bricks are given: its PAR sub-block, its grow reserve, its counter mirror and the
registers of its bricks. -/
def partRegs (p : Nat) (bricks : List Nat) (off : Nat) : Bool :=
  (0xA01000 + 256 * p ≤ off && off < 0xA01100 + 256 * p) || off = 0x300000 + 4 * p || off = 0x300020 + 4 * p
    || off = 0x1000040 + 8 * p || bricks.any (fun n => 0x200000 + 4096 * n ≤ off && off < 0x201000 + 4096 * n)

/-- A reset of partition `p` (R399, R408): its rings stop and advance their epochs, transfers and commands end, saved blocks
go, its fields of none and block take their Reset values, its rings become DISABLED with their release signals made (R294), its ways are written back and
invalidated, its ponds invalidated; then, when it is enabled, its control ring is created again. -/
def Dev.partReset (d : Dev) (p : Nat) : Dev :=
  let rings := d.ringsOf p
  let d := ((d.abortRings rings []).failSlices p Sts.isolated).loseSides
  let d := d.withPar { d.par with saved := d.par.saved.filter (fun s => s.part ≠ p) }
  let d := d.flushWays (d.cfld Fld.PAR_P_MASKS_way_mask p)
  let bricks := d.partBricks p
  let d : Dev := { d with regs := d.regs.clear 2 (partRegs p bricks) }
  let d := rings.foldl (fun (d : Dev) i => (d.ring i).release.foldl (fun d f => (d.signalKept f.fence (some f.value)).drop [f.fence]) d) d
  let d := d.withRings (d.sub.rings.filter (fun e => !rings.contains e.1))
  let d := bricks.foldl (fun (d : Dev) n =>
    let g := d.fresh
    g.2.setBrick n { Brick.fresh with ls := Store.undefined g.1 }) d
  if d.cfld Fld.PAR_P_CTRL_enable p = 1 then d.setRing p (d.controlRing p) else d

/-- A class of reset that is not of the whole device is recorded as the last one and counted (R398). -/
def Dev.recordReset (d : Dev) (cls source : Nat) (count : Fld) : Dev :=
  ({ d with boot := { d.boot with causeClass := cls, causeSource := source } } : Dev).bump count 0 1

/-- RST_PART_RESET: a write that sets bit p of start resets partition p (R408, R474). -/
def Dev.partResetWrite (d : Dev) (src : RegSource) (value : Word) : Dev :=
  match d.resetSource src with
  | some s => (setBitsOf value.toNat 8).foldl (fun (d : Dev) p =>
      (d.leaveIdle.recordReset 2 s Fld.RST_COUNTS_partition).partReset p) d
  | none => d

/-! ## Block reset (R409) -/

/-- Registers of a block that can be reset alone. Stream registers of composition are kept. -/
def blockRegs (kind unit off : Nat) : Bool :=
  match kind with
  | 0 => 0x200000 + 4096 * unit ≤ off && off < 0x201000 + 4096 * unit
  | 2 => 0x400000 ≤ off && off < 0x410000
  | 3 => 0x700018 ≤ off && off < 0x700020
  | 4 => 0x800000 ≤ off && off < 0x900000
  | 5 => 0xB09000 + 256 * unit ≤ off && off < 0xB09100 + 256 * unit
  | 6 => off = 0x500010 + 4 * unit
  | _ => false

/-- Units of each kind of block. -/
def blockUnits : Nat → Nat
  | 0 => 96 | 1 => 2 | 2 => 1 | 3 => 1 | 4 => 1 | 5 => 8 | 6 => 2 | _ => 0

/-- Ends commands that satisfy a test with ISOLATED; their transfers end with it (R408, R409). -/
def Dev.isolate (d : Dev) (test : Cmd → Bool) : Dev :=
  (d.sub.cmds.filter (fun c => test c && c.phase = .started)).foldl (fun (d : Dev) c =>
    (d.killCmd c Sts.isolated 0 noUnit).dropOps c.ring c.serial) d

/-- Whether a pass bins on a front-end: a primitive of it is being shaded or listed there (R143, R154). -/
def Cmd.binsOn (c : Cmd) (fe : Nat) : Bool :=
  match c.run with
  | .pass p => p.phase = .bin && (p.prims.any (fun x => x.fe = fe) || p.current.any (fun x => x.prim.fe = fe))
  | _ => false

/-- Whether a pass has the tiles of a unit on a brick (R147). -/
def Cmd.tilesOn (c : Cmd) (n : Nat) : Bool :=
  match c.run with
  | .pass p => p.opened.any (fun u => u.brick = n)
  | _ => false

/-- What a block reset does to the work on the block (R409). -/
def Dev.blockWork (d : Dev) (kind unit : Nat) : Dev :=
  match kind with
  | 0 =>
    let bs := (d.brick unit).blocks.filter (fun b => !b.done)
    let d := ((bs.filter (fun b => b.stage = .compute)).map (fun b => (b.ring, b.serial))).eraseDups.foldl (fun (d : Dev) k =>
      match minBy (fun b : Block => b.index) (bs.filter (fun b => b.ring = k.1 && b.serial = k.2)) with
      | some b => (d.dropOps k.1 k.2).endByBlock unit b Sts.isolated
      | none => d) d
    let d := d.isolate (fun c => c.tilesOn unit || bs.any (fun b => b.stage ≠ .compute && b.ring = c.ring && b.serial = c.serial))
    let g := d.fresh
    g.2.setBrick unit { Brick.fresh with ls := Store.undefined g.1 }
  | 1 => d.isolate (fun c => c.opcode = 0x30 && c.binsOn unit)
  | 2 => (List.range 8).foldl (fun (d : Dev) p => d.failSlices p Sts.isolated) d
  | 3 => d.isolate (fun c => c.opcode = 0x50 && !c.waitsAtHead)
  | 4 => d.isolate (fun c => c.opcode = 0x58)
  | 5 => d.linkDown unit
  | 6 =>
    let d := d.isolate (fun c => c.opcode = 0x40 && !c.waitsAtHead)
    (d.setMaint 0 []).setMaint 1 []
  | _ => d

/-- RST_BLOCK_RESET: a write names a kind and a unit; one outside the table changes nothing (R409, R474). -/
def Dev.blockResetWrite (d : Dev) (src : RegSource) (value : Word) : Dev :=
  match d.resetSource src with
  | some s =>
    let kind := value.toNat / 256 % 16
    let unit := value.toNat % 256
    if unit < blockUnits kind then
      let d := (d.leaveIdle.recordReset 3 s Fld.RST_COUNTS_block).loseSides.blockWork kind unit
      { d with regs := d.regs.clear 1 (blockRegs kind unit) }
    else d
  | none => d

/-! ## Boot (R400 to R407) -/

/-- The device is booting: in a phase, not halted, its input good. -/
def Dev.booting (d : Dev) (phase : Nat) : Bool := d.live && d.boot.phase = phase && !d.boot.halted && !d.pins.holdPhase2

/-- Time passes to the typical end of a phase, counted from the anchor. -/
def Dev.phaseEnds (d : Dev) (ns : Nat) : Dev := d.advanceTo (d.boot.anchor + ns)

/-- A report goes out on UART_TX (R465). -/
def Dev.report (d : Dev) (r : ConsoleReport) : Dev := { d with pins := { d.pins with console := r :: d.pins.console } }

/-- A byte arrives on UART_RX: it is ignored unless SEC_STATUS.debug is FULL (R465). No row of the command table carries it. -/
def Dev.uartRx (d : Dev) (b : Byte) : Dev :=
  if d.fld Fld.SEC_STATUS_debug 0 = 2 then { d with pins := { d.pins with uartIn := b :: d.pins.uartIn } } else d

/-- The device halts, and reports the failing phase (R400). -/
def Dev.halt (d : Dev) : Dev := ({ d with boot := { d.boot with halted := true } } : Dev).report (.halted d.boot.phase)

/-- The device enters a phase, and reports it (R400, R465). -/
def Dev.toPhase (d : Dev) (n : Nat) : Dev := ({ d with boot := { d.boot with phase := n } } : Dev).report (.progress n)

/-- BOOT_PHASE_0: fuses load and tags are invalidated, or an uncorrectable fuse word halts the device (R400). -/
def Dev.phase0 (d : Dev) (fuseOk : Bool) : Dev :=
  if d.booting 0 then
    let d := d.phaseEnds 2000000
    if fuseOk then d.tagsDone.toPhase 1 else d.halt
  else d

/-- Gotik starts from an image of a slot, which is measured first (R437). -/
def Dev.startGotik (d : Dev) (slot : Nat) (img : Bytes) : Dev :=
  let d := d.extend 0 1 (sha256 img)
  ({ d with boot := { d.boot with
    slot := slot, imageDigest := sha256 img, securityVersion := imageVersion img, kick := d.now } } : Dev).toPhase 2

/-- BOOT_PHASE_1: the image in slot 0, or else that in slot 1, is verified and started; with neither the device halts
(R400, R437). -/
def Dev.phase1 (d : Dev) (nv : Nv) : Dev :=
  if d.booting 1 then
    let d := d.phaseEnds 60000000
    if nv.imageOk nv.slot0 then d.startGotik 0 nv.slot0
    else if nv.imageOk nv.slot1 then d.startGotik 1 nv.slot1
    else d.halt
  else d

/-- A failing unit puts the device in FAULT: RST_FAULT names it, held signals and accesses end, rings stop and their
commands end with ISOLATED (R407). -/
def Dev.deviceFault (d : Dev) (phase kind unit : Nat) : Dev :=
  let d := ((d.setFld Fld.RST_FAULT_phase 0 (BitVec.ofNat 64 phase)).setFld Fld.RST_FAULT_kind 0 (BitVec.ofNat 64 kind)).setFld
    Fld.RST_FAULT_unit 0 (BitVec.ofNat 64 unit)
  let d := ({ d with boot := { d.boot with phase := 6 } } : Dev).report (.fault phase kind unit)
  let d := d.sub.cmds.foldl (fun (d : Dev) c => (d.killCmd c Sts.isolated 0 noUnit).dropOps c.ring c.serial) d
  let d := d.withRings (d.sub.rings.map (fun (e : Nat × Ring) =>
    (e.1, if e.2.state = .disabled then e.2 else { e.2 with state := .stopped })))
  { d with sub := { d.sub with heldSignals := [] } }

/-- BOOT_PHASE_3: early service; port groups that are requested are powered, and the walls check themselves (R400, R404). -/
def Dev.phase3 (d : Dev) (check : SelfCheck) : Dev :=
  if d.booting 3 then
    let d := d.phaseEnds 150000000
    let d := (List.range 8).foldl (fun (d : Dev) p =>
      if d.domainWanted (32 + p) ∧ !d.pwr.on.testBit (32 + p) then
        (d.withPwr { d.pwr with on := d.pwr.on + 2 ^ (32 + p) }).portOn p
      else d) d
    match check with
    | some (kind, unit) => d.deviceFault 3 kind unit
    | none => (d.toPhase 4).settleDomains
  else d

/-- The slowest of a wall's target, its capped point, P4 in early service and P7 while every wall is forced (R430). -/
def Dev.effective (d : Dev) (w : Nat) : Nat :=
  max (max (d.fld Fld.PWR_WALL_target w) (d.wall w).cap)
    (max (if d.boot.phase < 5 then 4 else 0) (if d.pwr.forced then 7 else 0))

/-- Replaces a wall's state. -/
def Dev.setWall (d : Dev) (w : Nat) (x : WallSt) : Dev := d.withPwr { d.pwr with walls := NMap.set d.pwr.walls w x }

/-- Walls whose effective point is not the one they run at begin to change; a wall that is changing is redirected, and its change
ends with DVFS_CHANGE (R429). -/
def Dev.settleWalls (d : Dev) : Dev :=
  (List.range 12).foldl (fun (d : Dev) w =>
    let x := d.wall w
    if d.effective w = x.current ∨ x.changing then d else d.setWall w { x with changing := true }) d

/-- Fence signals held at the closed wrapper are performed in order, and pushed to subscribers (R317, R405). -/
def Dev.performHeld (d : Dev) : Dev :=
  let l := d.sub.heldSignals
  l.foldl (fun (d : Dev) s =>
    let r := d.signalWord s.1 s.2
    if r.1 then r.2.pushWord s.1 else r.2) { d with sub := { d.sub with heldSignals := [] } }

/-- DRAM_TRAINING_END: a failing stack puts the device in FAULT; else Gotik sets the ways and the prefetch mode of full
service, opens the wrapper, moves the walls to their points and sets phase FULL (R406, R407). Training does not end while DRAM is
in self-refresh (R419). -/
def Dev.trainingEnd (d : Dev) (check : SelfCheck) : Dev :=
  if d.booting 4 ∧ (d.pwr.state = .run ∨ d.pwr.state = .idle) then
    let d := d.phaseEnds 1200000000
    match check with
    | some (kind, unit) => d.deviceFault 4 kind unit
    | none =>
      let d := d.setMemWays (d.fld Fld.RST_FULL_SERVICE_full_ways 0)
      let d := d.setFld Fld.MEM_PREFETCH_MODE_mode 0 0
      let d : Dev := { d with boot := { d.boot with dramOpen := true } }
      (d.performHeld.toPhase 5).settleWalls.retryBlocks
  else d

end Sys2Proof.Machine
end

