-- ==== Sys2Proof/Machine/Power.lean ====
section
/-! DEFINITION. Power states, DVFS and power capping (chapter 19, R461, R468 to R470). -/

namespace Sys2Proof.Machine

/-- Sources that may write registers that the spec has Gotik write: PWR_CTRL.target, PWR_DOMAIN_EN, MEM_LAKE_MEM_WAYS and
MEM_PREFETCH_MODE (R205, R206, R418, R423, R426). -/
def Dev.mayWriteG (d : Dev) (src : RegSource) : Bool := src = .gotik || d.mayWrite src

/-! ## IDLE (R417) -/

/-- The conditions of R417 other than the delay. A reset is in progress until early service begins (R404). -/
def Dev.quiet (d : Dev) : Bool :=
  decide (3 ≤ d.boot.phase) && d.sub.cmds.isEmpty
    && d.sub.rings.all (fun (e : Nat × Ring) => !(e.2.state = .running && e.2.fetch.toNat < e.2.doorbell.toNat))
    && (List.range 64).all (fun s => d.cfld Fld.CMP_S_CTRL_enable s = 0)
    && d.bricks.all (fun (e : Nat × Brick) => e.2.springs.all (fun s => s.run.isNone))
    && d.eng.maintQueue.isEmpty && d.pwr.walls.all (fun (e : Nat × WallSt) => !e.2.changing) && d.regs.staged.isEmpty

/-- AUTO_IDLE: with auto_idle 1, idle_us with nothing to do bring IDLE; side buffers are lost (R208). -/
def Dev.autoIdle (d : Dev) : Dev :=
  if d.fld Fld.PWR_CTRL_auto_idle 0 = 1 ∧ d.pwr.state = .run ∧ d.pwr.entering.isNone ∧ d.quiet then
    let d := d.advanceTo (d.now + 1000 * d.fld Fld.PWR_CTRL_idle_us 0)
    d.loseSides.withPwr { d.pwr with state := .idle, since := d.now }
  else d

/-! ## Entering SLEEP, DEEP and OFF (R416, R418 to R422) -/

/-- A write of a lower state to target: refused with STATE outside RUN and with BUSY while something runs; else entry
begins, with W at most 100 µs away (R416, R418, R419). -/
def Dev.enter (d : Dev) (src : RegSource) (st : PState) : Dev :=
  if d.mayWriteG src then
    let d := d.leaveIdle
    if d.pwr.state ≠ .run ∨ d.pwr.entering.isSome then d.powerError 3
    else if !d.quiet then d.powerError 1
    else
      let g := d.fresh
      g.2.withPwr { d.pwr with entering := some (st, d.now + 40 * (9 + Config.freeNat g.1 % 2492)) }
  else d

/-- A write of RUN to target: it abandons an entry before its lost-edge window, or starts the exit from SLEEP; anywhere else
it is refused with STATE (R416, R420). -/
def Dev.targetRun (d : Dev) (src : RegSource) : Dev :=
  if d.mayWriteG src then
    let d := d.leaveIdle
    if d.pwr.entering.isSome then (if d.inLostWindow then d.powerError 3 else d.abandonEntry)
    else if d.pwr.state = .sleep then d.startWake 8 0
    else d.powerError 3
  else d

/-- SLEEP takes hold: dirty lines have been written back, ponds and lake lose their contents, DRAM keeps its own in
self-refresh, and ports that are not kept are off (R205, R209, R411, R419, R424, R426). -/
def Dev.sleepNow (d : Dev) : Dev :=
  let d := d.drainCaches
  let g := d.freeCtr
  let d : Dev := { d with
    freeCtr := g + 112
    mem := { d.mem with
      lake := [], side := [], missed := []
      window := (setBitsOf d.memWays 16).map (fun w => (w, Store.undefined (g + 96 + w))) }
    bricks := d.bricks.map (fun (e : Nat × Brick) =>
      (e.1, { e.2 with pond := [], side := [], missed := [], ls := Store.undefined (g + e.1) }))
    boot := { d.boot with dramOpen := false } }
  let d := (List.range 8).foldl (fun (d : Dev) p => if d.kept p then d else (d.linkDown p).setPort p Port.idle) d
  let ports := (List.range 8).filter (fun p => d.kept p && d.pwr.on.testBit (32 + p))
  d.withPwr { d.pwr with
    state := .sleep, since := d.now, entering := none, powering := [], on := 2 ^ 46 + sumN (ports.map (fun p => 2 ^ (32 + p))) }

/-- What retention SRAM holds of the device for DEEP (R401, R439). -/
def Dev.resumeSet (d : Dev) (nv : Nv) : Retained :=
  { digest := d.boot.imageDigest, slot := d.boot.slot, securityVersion := d.boot.securityVersion
    optionsDefault := d.boot.optionsDefault, options := if d.boot.optionsDefault then [] else nv.options.writes
    meas := d.regs.file.filter (fun e => measReg e.1), overflow := d.fld Fld.SEC_STATUS_log_overflow 0 = 1 }

/-- DEEP takes hold: only fields of DEEP and OFF and the resume set are left, and the tick generator stops (R41, R411). -/
def Dev.deepNow (d : Dev) (nv : Nv) : Dev :=
  let r := d.resumeSet nv
  let d := d.restart 4 d.boot.causeClass d.boot.causeSource d.now
  { d with tick := { d.tick with running := false }, pwr := { d.pwr with state := .deep, on := 0, retained := some r } }

/-- OFF takes hold: only fields of OFF are left (R411, R419). -/
def Dev.offNow (d : Dev) : Dev :=
  let d := d.restart 5 d.boot.causeClass d.boot.causeSource d.now
  { d with tick := { d.tick with running := false }, pwr := { d.pwr with state := .off, on := 0 } }

/-- A wake from OFF is a cold reset of source OFF_WAKE (R398, R422). -/
def Dev.offWake (d : Dev) : Dev := d.coldReset 2 d.now

/-- The level sources asserted at W, as pins and latches show them. -/
def Dev.levels (d : Dev) : List WakeSource :=
  (if d.pins.wakeLow then [.wakeN] else []) ++ (setBitsOf d.pins.detect 8).map WakeSource.signalDetect
    ++ [.tickAlarm, .deepTimer]

/-- POWER_STATE_REACHED: at W the new state takes hold, and a level source that is enabled and asserted starts the exit at
once, with rewake 1 (R419, R422). -/
def Dev.stateReached (d : Dev) (nv : Nv) (asserted : Option WakeSource) : Dev :=
  match d.pwr.entering with
  | none => d
  | some (st, w) =>
    let d := d.advanceTo w
    let d := match st with
      | .sleep => d.sleepNow
      | .deep => d.deepNow nv
      | .off => d.offNow
      | _ => d
    match (asserted.toList ++ d.levels).find? (fun x => !wakeEdge x && d.wakes st x) with
    | some x => if st = .off then d.offWake else d.startWake (wakeCode x) 1
    | none => d

/-- What a wake event does to the pins. -/
def PinSt.seen (p : PinSt) (w : WakeSource) : PinSt :=
  match w with
  | .wakeN => { p with wakeLow := true }
  | .signalDetect k => if k < 8 ∧ !p.detect.testBit k then { p with detect := p.detect + 2 ^ k } else p
  | .alertFall => { p with alertLow := true }
  | _ => p

/-- WAKE_EVENT: a wake source acts (R420 to R422). -/
def Dev.wakeEvent (d : Dev) (w : WakeSource) : Dev :=
  if !d.pins.powerGood then d
  else
    let d : Dev := { d with pins := d.pins.seen w }
    if d.pwr.state = .off then (if d.wakes .off w then d.offWake else d) else d.wakeBy w

/-- DEEP_TIMER: the timer expires so many AO cycles after W, is latched, and wakes the device (R421). -/
def Dev.deepTimer (d : Dev) : Dev :=
  let n := (d.fldW Fld.PWR_DEEP_TIMER_ao_cycles 0).toNat
  if n ≠ 0 ∧ (d.pwr.state = .sleep ∨ d.pwr.state = .deep) then
    ((d.advanceTo (d.pwr.since + 40 * n)).setFld Fld.PWR_WAKE_PENDING_deep_timer 0 1).wakeBy .deepTimer
  else d

/-- SLEEP_EXIT: domains are powered, DRAM leaves self-refresh, tags are invalidated, walls reach their points, and the device
is in RUN; held accesses proceed (R209, R405, R425). -/
def Dev.sleepExit (d : Dev) : Dev :=
  match d.pwr.state, d.pwr.waking with
  | .sleep, some t =>
    let d := d.advanceTo (t + 300000)
    let d : Dev := { d with
      mem := { d.mem with tagInit := false }, boot := { d.boot with dramOpen := decide (d.boot.phase = 5) } }
    let d := d.loseSides
    let old := d.pwr.on
    let up := (List.range 48).filter (fun n => d.domainWanted n)
    let d := d.withPwr { d.pwr with state := .run, since := d.now, waking := none, on := sumN (up.map (2 ^ ·)) }
    let d := (List.range 8).foldl (fun (d : Dev) p =>
      if up.contains (32 + p) ∧ !old.testBit (32 + p) then d.portOn p else d) d
    let d := (List.range 12).foldl (fun (d : Dev) w =>
      let x := d.wall w
      d.setWall w { x with current := d.effective w, changing := false, capping := false }) d
    (if d.boot.dramOpen then d.performHeld else d).retryBlocks
  | _, _ => d

/-! ## DVFS and capping (R429 to R432, R461) -/

/-- DVFS_CHANGE: a wall reaches its effective point, voltage and frequency in the order of R429. The samples after a move of capping
are those at the new points (R431). -/
def Dev.dvfsDone (d : Dev) (w : Nat) : Dev :=
  let x := d.wall w
  if w < 12 ∧ x.changing then
    let d := if x.capping then d.withPwr { d.pwr with lastMove := d.now } else d
    d.setWall w { x with current := d.effective w, changing := false, capping := false }
  else d

/-- The limit that capping acts against, in mW: the lower of PWR_CAP.cap_w and 13.5 A times the mean input voltage (R461). -/
def Dev.capMw (d : Dev) (meanMv : Nat) : Nat := min (1000 * d.fld Fld.PWR_CAP_cap_w 0) (27 * meanMv / 2)

/-- The measured mean input power. -/
def Dev.measuredW (d : Dev) (meanW : Nat) : Dev := d.withPwr { d.pwr with avgW := min meanW 1023, nowW := min meanW 1023 }

/-- Whether capping can move a wall one point slower, and one point faster (R431). -/
def Dev.canSlow (d : Dev) (w : Nat) : Bool := d.effective w < d.fld Fld.PWR_WALL_floor w
def Dev.canQuicken (d : Dev) (w : Nat) : Bool := d.fld Fld.PWR_WALL_target w < (d.wall w).cap

/-- POWER_CAP_MOVE: a full 1 ms of samples after the walls have reached the points of the last move, the mean over it moves walls
one point slower when it exceeds the limit, and one point faster when it lies below 95 % of it (R431, R461). -/
def Dev.capMove (d : Dev) (meanW meanMv : Nat) : Dev :=
  if d.pwr.state ≠ .run ∧ d.pwr.state ≠ .idle then d
  else if d.pwr.walls.any (fun (e : Nat × WallSt) => e.2.capping) then d.measuredW meanW
  else
    let d := (d.advanceTo (d.pwr.lastMove + 1000000)).measuredW meanW
    let lim := d.capMw meanMv
    let d := if 1000 * meanW > lim then d else d.withPwr { d.pwr with capExceeded := false }
    let slow : Bool := decide (1000 * meanW > lim)
    let quick : Bool := decide (100000 * meanW < 95 * lim)
    let ws := (List.range 12).filter (fun w => if slow then d.canSlow w else quick && d.canQuicken w)
    if ws.isEmpty then d
    else
      let d := ws.foldl (fun (d : Dev) w =>
        let x := d.wall w
        d.setWall w { x with cap := if slow then d.effective w + 1 else x.cap - 1, capping := true }) d
      let d := (d.withPwr { d.pwr with lastMove := d.now }).settleWalls.bump Fld.PWR_CAP_STEPS_count 0 1
      d.withPwr { d.pwr with walls := d.pwr.walls.map (fun (e : Nat × WallSt) => (e.1, { e.2 with capping := e.2.capping && e.2.changing })) }

/-- CAP_EXCEEDED: every wall is at its floor and the mean still exceeds the limit for 10 ms (R432). -/
def Dev.overCap (d : Dev) (meanW meanMv : Nat) : Dev :=
  if (d.pwr.state = .run ∨ d.pwr.state = .idle) ∧ (List.range 12).all (fun w => !d.canSlow w) ∧ 1000 * meanW > d.capMw meanMv then
    let d := (d.advanceTo (d.pwr.lastMove + 10000000)).measuredW meanW
    d.withPwr { d.pwr with capExceeded := true }
  else d

/-- THERMAL_FORCE: more than 650 W for 1 ms, or 100 °C, force every wall to P7 (R432). -/
def Dev.force (d : Dev) (meanW hottestC : Nat) : Dev :=
  if (650 < meanW ∨ 100 ≤ hottestC) ∧ !d.pwr.forced ∧ (d.pwr.state = .run ∨ d.pwr.state = .idle) then
    ((d.measuredW meanW).withPwr { (d.measuredW meanW).pwr with forced := true }).settleWalls.bump Fld.PWR_CAP_FORCED_count 0 1
  else d

/-- THERMAL_FORCE_RELEASE: neither condition has held for 1 ms (R432). -/
def Dev.forceEnd (d : Dev) (meanW hottestC : Nat) : Dev :=
  if meanW ≤ 650 ∧ hottestC < 100 ∧ d.pwr.forced then
    ((d.measuredW meanW).withPwr { (d.measuredW meanW).pwr with forced := false }).settleWalls
  else d

/-- THERMAL_TRIP: at 110 °C every rail but the standby rail goes off and THERM_TRIP_N is latched low; the device is then as
in OFF (R470). -/
def Dev.thermTrip (d : Dev) (hottestC : Nat) : Dev :=
  if 110 ≤ hottestC ∧ d.pins.powerGood ∧ d.pwr.state ≠ .off then
    let d := d.offNow
    { d with pins := { d.pins with tripped := true } }
  else d

/-- OVERVOLTAGE: above 62 V for 10 µs every rail goes off, the standby rail included; the device starts again with a cold
reset of source POWER_ON (R460). -/
def Dev.overvoltage (d : Dev) (mv us : Nat) : Dev :=
  if 62000 < mv ∧ 10 ≤ us then ({ d with now := d.now + 1000 * us } : Dev).railsOff 0 mv false else d

/-- Whether an input is beyond its absolute maximum: over 80 V, or over 72 V for more than 100 ms (R460). -/
def beyondMaximum (mv us : Nat) : Bool := decide (80000 < mv) || (decide (72000 < mv) && decide (100000 < us))

end Sys2Proof.Machine
end

