-- ==== Sys2Proof/Machine/Recorder.lean ====
section
/-! DEFINITION. The event recorder (R445 to R451) and the performance counters (R452 to R456). -/

namespace Sys2Proof.Machine

/-! ## Rounds (R445, R446, R450, R451) -/

/-- The pending minimum and maximum of a pair merged into its register (R445, R449). -/
def Dev.mergePair (d : Dev) (j : Nat) (lo hi : Int) : Dev :=
  let old := d.regs.get (Reg.REC_EXT.at j) Reg.REC_EXT.reset
  let mn := min (signed 32 (bitsN old 31 0)) lo
  let mx := max (signed 32 (bitsN old 63 32)) hi
  (d.setFld Fld.REC_EXT_min j ((BitVec.ofInt 32 mn).setWidth 64)).setFld Fld.REC_EXT_max j ((BitVec.ofInt 32 mx).setWidth 64)

/-- Applies the accumulator: bins add their pending counts, pairs widen, REC_SEQ advances by 2 and the accumulator is empty. -/
def Dev.applyRound (d : Dev) : Dev :=
  let d := d.meter.bins.foldl (fun (d : Dev) e => d.bump Fld.REC_HIST_bin e.1 e.2) d
  let d := d.meter.ext.foldl (fun (d : Dev) e => d.mergePair e.1 e.2.1 e.2.2) d
  (d.setFld Fld.REC_SEQ_seq 0 (d.fldW Fld.REC_SEQ_seq 0 + 2)).withMeter { d.meter with bins := [], ext := [], lastRound := d.now }

/-- Whether something is pending. -/
def Dev.recPending (d : Dev) : Bool := !d.meter.bins.isEmpty || !d.meter.ext.isEmpty

/-- RECORDER_ROUND: at most one every 10 µs, only when something is pending and hold is 0 (R445, R446, R450). -/
def Dev.recRound (d : Dev) : Dev :=
  if d.recPending ∧ d.fld Fld.REC_CTRL_hold 0 = 0 then (d.advanceTo (d.meter.lastRound + 10000)).applyRound else d

/-- Clears every bin and pair and the accumulator in one round (R451). -/
def Dev.recClear (d : Dev) : Dev :=
  let d : Dev := { d with regs := { d.regs with file := d.regs.file.filter (fun e => !(0xF01000 ≤ e.1 && e.1 < 0xF03400)) } }
  let d := (d.setFld Fld.REC_SEQ_seq 0 (d.fldW Fld.REC_SEQ_seq 0 + 2)).withMeter { d.meter with bins := [], ext := [] }
  (d.bump Fld.REC_CLEAR_COUNT_count 0 1).setFld Fld.REC_CLEAR_SEQ_seq 0 (d.fldW Fld.REC_SEQ_seq 0)

/-- RECORDER_WINDOW_END: each windowed histogram gains one entry, the events of its kind in the period (R448). -/
def Dev.windowEnd (d : Dev) : Dev :=
  let d := d.advanceTo (d.meter.windowAt + 1000000 * d.fld Fld.REC_WINDOW_window_ms 0)
  let hs := (List.range 7).map (24 + ·) ++ (List.range 16).map (32 + ·)
  let d := hs.foldl (fun (d : Dev) h => d.hist h (NMap.getD d.meter.window h 0)) d
  d.withMeter { d.meter with window := [], windowAt := d.now }

/-- REC_CTRL_HOLD: a write of hold, by a source that may write: any such writer may release it, and one that sets it while it
is set changes nothing (R3, R450). -/
def Dev.recHold (d : Dev) (src : RegSource) (hold : Bool) : Dev :=
  if !d.mayWrite src then d
  else if !hold then d.setFld Fld.REC_CTRL_hold 0 0
  else if d.fld Fld.REC_CTRL_hold 0 = 0 then
    (d.setFld Fld.REC_CTRL_hold 0 1).withMeter { d.meter with holdAt := d.now }
  else d

/-- HOLD_EXPIRY: 1 ms after the write that set it, hold clears and hold_expired is set (R450). -/
def Dev.holdEnd (d : Dev) : Dev :=
  if d.fld Fld.REC_CTRL_hold 0 = 1 then
    ((d.advanceTo (d.meter.holdAt + 1000000)).setFld Fld.REC_CTRL_hold 0 0).setFld Fld.REC_STATUS_hold_expired 0 1
  else d

/-! ## Extremes (R449) -/

/-- The value of a pair's quantity: what the device knows itself, or else the sensor's sample; none where the source is not
enabled or not powered. -/
def Dev.pairValue (d : Dev) (s : Sample) : Option Int :=
  let j := s.pair
  let sensor : Int := s.value.toInt
  if j < 12 then (if d.pwr.on.testBit j then some sensor else none)
  else if j < 20 then some sensor
  else if j = 20 then some (d.pins.vinMv : Int)
  else if j = 21 then some (d.pwr.nowW : Int)
  else if j = 22 then some sensor
  else if j < 35 then (if d.pwr.on.testBit (j - 23) then some sensor else none)
  else if j = 35 then
    (if d.tick.lock = .locked ∨ d.tick.lock = .holdover then some (signed 32 (d.fld Fld.TICK_PHASE_ERR_phase_err_ns 0)) else none)
  else if j < 44 then
    (if d.cfld Fld.SEQ_P_CTRL_enable (j - 36) = 1 then
      some (((d.pool (j - 36)).free (d.poolCfg (j - 36)) : Nat) : Int) else none)
  else none

/-- EXTREMES_SAMPLE: every 1 ms each pair samples its quantity into the accumulator (R445, R449). -/
def Dev.sample (d : Dev) (l : List Sample) : Dev :=
  let d := d.advanceTo (d.meter.lastSample + 1000000)
  let d := d.withMeter { d.meter with lastSample := d.now }
  l.foldl (fun (d : Dev) s => match d.pairValue s with
    | some v =>
      let old := NMap.getD d.meter.ext s.pair (v, v)
      d.withMeter { d.meter with ext := NMap.set d.meter.ext s.pair (min old.1 v, max old.2 v) }
    | none => d) d

/-! ## Counters (R452 to R456) -/

/-- PMC_CTRL_FREEZE: a write of PMC_CTRL stops or restarts every counter (R452). -/
def Dev.pmcCtrl (d : Dev) (src : RegSource) (value : Word) : Dev :=
  if d.mayWrite src then d.regStore (Reg.PMC_CTRL.at 0) 4 (value.setWidth 64) else d

/-- Fixed counter `k` (R454): I/O clocks, lake clocks, retired commands and tick edges since device reset. -/
def Dev.fixed (d : Dev) (k : Nat) : Nat :=
  match k with
  | 0 => d.now - d.meter.began
  | 1 => d.meter.lakeNs * 6 / 5
  | 2 => d.meter.retired
  | _ => d.meter.edges

/-- BW_WINDOW_CLOSE: a port's window closes, and its figures are shown together (R455). -/
def Dev.bwClose (d : Dev) (p : Nat) : Dev :=
  if p < 8 then
    let d := d.advanceTo (NMap.getD d.meter.bwAt p 0 + d.fld Fld.PMC_BW_WINDOW_window_ns 0)
    let d := (d.setFld Fld.PMC_BW_TX_tx_last p (BitVec.ofNat 64 (NMap.getD d.meter.tx p 0))).setFld Fld.PMC_BW_RX_rx_last p
      (BitVec.ofNat 64 (NMap.getD d.meter.rx p 0))
    let d := d.bump Fld.PMC_BW_SERIAL_window_serial p 1
    d.withMeter { d.meter with
      tx := NMap.erase d.meter.tx p, rx := NMap.erase d.meter.rx p, bwAt := NMap.set d.meter.bwAt p d.now }
  else d

/-- PMC_BW_WINDOW_WRITE: the windows in progress are discarded and new ones begin (R455). -/
def Dev.bwWrite (d : Dev) (src : RegSource) (value : Word) : Dev :=
  if d.mayWrite src then
    let d := d.regStore (Reg.PMC_BW_WINDOW.at 0) 4 (value.setWidth 64)
    d.withMeter { d.meter with tx := [], rx := [], bwAt := (List.range 8).map (fun p => (p, d.now)) }
  else d

/-- Writes a partition's mirror: its sequence word even again, the fixed counters, and the counters it owns, or zeros in the
last update (R456). -/
def Dev.putMirror (d : Dev) (p : Nat) (last : Bool) : Dev :=
  let base := 4096 * d.fld Fld.PMC_P_MIRROR_mirror_base p
  match d.localRead base 8 with
  | (d, .ok, bs) =>
    let q := leNat bs
    let cnt := (List.range 256).flatMap (fun n =>
      leBytes 8 (if !last && d.fld Fld.PMC_SEL_owner n = p then (d.fldW Fld.PMC_CNT_count n).toNat else 0))
    let fix := (List.range 4).flatMap (fun k => leBytes 8 (d.fixed k))
    let d := (d.localWrite Asker.none true none .local (base + 64) fix).1
    let d := (d.localWrite Asker.none true none .local (base + 128) cnt).1
    (d.localWrite Asker.none true none .local base (leBytes 8 (q - q % 2 + 2))).1
  | (d, _, _) => d

/-- MIRROR_WRITE: every period, in full service, for a partition whose mirror is enabled (R456). -/
def Dev.mirror (d : Dev) (p : Nat) : Dev :=
  if p < 8 ∧ (d.fld Fld.PMC_USER_EN_user_en 0).testBit p ∧ d.fld Fld.PMC_P_MIRROR_enable p = 1 ∧ d.boot.phase = 5 then
    let d := (d.advanceTo (NMap.getD d.meter.lastMirror p 0 + 1000 * d.fld Fld.PMC_MIRROR_PERIOD_period_us 0)).leaveIdle
    (d.withMeter { d.meter with lastMirror := NMap.set d.meter.lastMirror p d.now }).putMirror p false
  else d

end Sys2Proof.Machine
end

