-- ==== Sys2Proof/Machine/Security.lean ====
section
/-! DEFINITION. Signed commands (R327, R441 to R444, R451). -/

namespace Sys2Proof.Machine

/-- The fields of a signed command block (R441). -/
structure SignedBlock where
  op : Nat
  seq : Wide
  target : Bytes
  payload : Bytes
  bytes : Bytes
  deriving DecidableEq, Repr

/-- Where the signature block of a block begins (R441). -/
def signedStart (b : Bytes) : Nat := roundUp (64 + leAt b 48 4) 8

/-- A block whose magic, version, op, zero bytes and length hold (R441, R443). -/
def signedBlock (b : Bytes) : Option SignedBlock :=
  let n := leAt b 48 4
  let s := signedStart b
  if slice b 0 4 = ascii "PSCM" ∧ leAt b 4 1 = 1 ∧ 1 ≤ leAt b 5 1 ∧ leAt b 5 1 ≤ 6 ∧ leAt b 6 2 = 0 ∧ leAt b 52 12 = 0
      ∧ b.length = s + sigSize ∧ leAt b (64 + n) (s - 64 - n) = 0 then
    some ⟨leAt b 5 1, wideAt b 8, slice b 16 32, slice b 64 n, b⟩
  else none

/-- Whether a block's signer and key hash are those its operation requires (R442, R443). -/
def Nv.signerOk (nv : Nv) (x : SignedBlock) : Bool :=
  let s := x.bytes.length - sigSize
  let signer := leAt x.bytes (s + 5) 1
  let hash := slice x.bytes (s + 32) 32
  if x.op = 6 then signer = 3 && (match certKey x.payload with
    | some (h, _) => hash = h
    | none => false)
  else match nv.ownerKeyHash with
    | some h => signer = 1 && hash = h
    | none => signer = 0 && hash = nv.vendorKeyHash

/-- Whether a block's signature verifies (R436, R443). -/
def Nv.signedOk (nv : Nv) (x : SignedBlock) : Bool :=
  if x.op = 6 then match certKey x.payload with
    | some (h, k) => blockVerifies x.bytes 3 h k
    | none => false
  else nv.ownerSigned x.bytes

/-- The management grants held. -/
def Dev.grants (d : Dev) : List Nat :=
  (List.range 4).map (fun i => bitsN (d.fldW Fld.SEC_MGMT_SRC_grants 0) (12 * i + 11) (12 * i))

/-- Whether the payload of an operation that reads nothing more satisfies it (R442, R443). -/
def Nv.payloadOk (nv : Nv) (x : SignedBlock) : Bool :=
  let p := x.payload
  match x.op with
  | 1 => p.isEmpty
  | 2 => (match listOf p with
      | some l => nv.listSigned p && p.length = listSize p + sigSize && nv.listVersion < l.version
      | none => false)
  | 3 => p.length = 48 && leAt p 12 4 = 0
  | 4 => p.length = 1 && (leAt p 0 1 = 1 || leAt p 0 1 = 2)
  | 5 => p.length = 2 && leAt p 0 2 < 4095
  | 6 => p.length ≤ 4096 && (certKey p).isSome
  | _ => false

/-- The first failing check of a block, with its reason (R443). Those of an image are made when it has been read. -/
def Dev.signedFails (d : Dev) (nv : Nv) (x : SignedBlock) : Option Nat :=
  let zeroTarget : Bool := x.op = 2 && x.target.all (fun b => b = 0)
  firstReason [(!(x.target = slice nv.identityDigest 0 32 || zeroTarget), 2), (x.op ≠ 2 && x.seq.toNat ≤ nv.cmdSeq.toNat, 3),
    (!nv.signerOk x, 4), (!nv.signedOk x, 5),
    ((x.op = 6 && nv.ownerKeyHash.isSome) || (x.op = 5 && leAt x.payload 0 2 ≠ 0 && !(d.grants.contains 0)), 6),
    (!nv.payloadOk x, 7)]

/-- Whether no signed command accepted earlier is still in flight: they run one at a time over the device (R444). -/
def Dev.signedTurn (d : Dev) (c : Cmd) : Bool :=
  match d.sub.cmds.find? (fun x => x.opcode = 0x70 && x.phase ≠ .ended) with
  | some x => x.ring = c.ring && x.serial = c.serial
  | none => true

/-- Ends a signed command whose block fails. -/
def Dev.authFailed (d : Dev) (c : Cmd) (reason : Nat) : Dev := d.fail c Sts.authFailed reason

/-- Sets the grants. -/
def Dev.setGrants (d : Dev) (l : List Nat) : Dev :=
  d.setFld Fld.SEC_MGMT_SRC_grants 0 (BitVec.ofNat 64 (sumN ((List.range 4).map (fun i => nth l i 0 * 4096 ^ i))))

/-- What an operation does once its block has passed (R391, R444, R451). seq is written for every operation, MEMBERSHIP too, as R443
says of a block that passes. -/
def Dev.signedAct (d : Dev) (nv : Nv) (c : Cmd) (x : SignedBlock) (img : Bytes) : Dev × Nv :=
  let nv := { nv with cmdSeq := x.seq }
  let p := x.payload
  match x.op with
  | 1 => (d.recClear.done c 0, nv)
  | 2 =>
    if d.side = 1 then ((d.extend 3 4 (sha256 p)).done c 0, { nv with list := p })
    else (d.fail c Sts.partitioned 0, nv)
  | 3 => ((d.extend 6 7 (sha256 img)).done c 0, { nv with
      slot0 := img, slot1 := img, rollback := if imageAdvances img then max nv.rollback (imageVersion img) else nv.rollback })
  | 4 => (((d.setFld Fld.SEC_STATUS_debug 0 (BitVec.ofNat 64 (max (leAt p 0 1) (d.fld Fld.SEC_STATUS_debug 0)))).extend 5 6 (sha256 p)).done c 0, nv)
  | 5 =>
    let a := leAt p 0 2
    let l := d.grants
    let k := (l.findIdx? (· = 0)).getD 0
    let l := if a = 0 then [0, 0, 0, 0] else if l.contains a then l else l.set k a
    (((d.setGrants l).extend 5 8 (sha256 p)).done c 0, nv)
  | 6 => ((d.extend 4 5 (sha256 p)).done c 0, { nv with ownerKeyHash := (certKey p).map (·.1), ownerCert := p })
  | _ => (d, nv)

/-- A SIGNED_COMMAND of operation `op`: the block is read and checked in the order of R443, and acts. The rows share the
descriptor: a block of another operation belongs to another row, and a block that has no form fails in every row. -/
def Dev.runSigned (d : Dev) (nv : Nv) (op : Nat) (c : Cmd) : Dev × Nv :=
  let n := sgnLength c.desc
  if !reservedZero c.desc sgnFields ∨ (sgnBlock c.desc).toNat % 8 ≠ 0 ∨ n = 0 ∨ 65536 < n then (d.fail c Sts.badDescriptor 0, nv)
  else if !d.signedTurn c then (d, nv)
  else match d.cmdRead c engOther (sgnBlock c.desc) n with
    | (d1, .wait, _) => (d1, nv)
    | (d1, .fail s va, _) => (d1.endCmd c.ring c.serial s va noUnit, nv)
    | (d1, .ok, b) => match signedBlock b with
      | none => (d1.authFailed c 1, nv)
      | some x =>
        if x.op ≠ op then (d, nv)
        else match d1.signedFails nv x with
          | some r => (d1.authFailed c r, nv)
          | none =>
            if op = 1 ∧ d1.fld Fld.REC_CTRL_hold 0 = 1 then (d1, nv)
            else if op = 3 then
              match d1.cmdRead c engOther (wideAt x.payload 0) (leAt x.payload 8 4) with
              | (d2, .wait, _) => (d2, nv)
              | (d2, .fail s va, _) => (d2.endCmd c.ring c.serial s va noUnit, nv)
              | (d2, .ok, img) =>
                if sha256 img = slice x.payload 16 32 ∧ nv.imageOk img then d2.signedAct nv c x img else (d2.authFailed c 7, nv)
            else d1.signedAct nv c x []

/-- Runs a signed-command row on the command of a source. -/
def Dev.signedRow (d : Dev) (nv : Nv) (src : CmdSource) (op : Nat) : Dev × Nv :=
  match src with
  | .ring i s => match d.cmd? i s with
    | some c => if c.active && isOp 0x70 c.desc && i < 1024 then d.runSigned nv op c else (d, nv)
    | none => (d, nv)
  | .gotik part asid l =>
    if isOp 0x70 l then
      match d.gotikCmd part asid l with
      | (d, some c) =>
        let r := if c.active then d.runSigned nv op c else (d, nv)
        (r.1.sweepGotik, r.2)
      | (d, none) => (d, nv)
    else (d, nv)

end Sys2Proof.Machine
end

