-- ==== Sys2Proof/Machine/Resume.lean ====
section
/-! DEFINITION. FAULT_RESUME (R241 to R244, R248). -/

namespace Sys2Proof.Machine

/-- What a started ring command does when its row runs, by opcode; FAULT_RESUME itself and SIGNED_COMMAND are not here. -/
def Dev.runCmd (d : Dev) (c : Cmd) : Dev :=
  match c.opcode with
  | 0x01 => d.runNop c
  | 0x10 => d.runRingCreate c
  | 0x11 => if rctlOp c.desc = 1 then d.runRingRestart c else if rctlOp c.desc = 2 then d.runRingBudget c else d.runRingDestroy c
  | 0x12 => d.runObjCreate c
  | 0x13 => d.runObjFree c
  | 0x14 => d.runFenceWait c
  | 0x15 => d.runFenceSignal c
  | 0x20 => d.runKernelLoad c
  | 0x21 => d.runDispatch c
  | 0x30 => d.runRenderPass c
  | 0x38 => d.runPoseSubmit c
  | 0x39 => d.runLayerPublish c
  | 0x40 => d.runMaintain c
  | 0x49 => d.runInvalidate c
  | 0x50 => d.runStream c
  | 0x51 => d.runRecode c
  | 0x58 => d.runStep c
  | 0x60 => if abtPartition c.desc then d.runAbortPartition c else d.runAbortRing c
  | 0x61 => d.runPreempt c
  | 0x62 => d.runRestore c
  | _ => d

/-- A signed command goes on: the operation that its block names acts. -/
def Dev.signedAgain (d : Dev) (nv : Nv) (ring : Nat) (serial : Wide) : Dev × Nv :=
  (List.range 6).foldl (fun (acc : Dev × Nv) k => match acc.1.cmd? ring serial with
    | some c => if c.active then acc.1.runSigned acc.2 (k + 1) c else acc
    | none => acc) (d, nv)

/-- A stopped command goes on: a started one runs on, an ended one retires (R242). -/
def Dev.replayCmd (d : Dev) (nv : Nv) (ring : Nat) (serial : Wide) : Dev × Nv :=
  let d := d.modCmd ring serial (fun c => { c with faulted := false })
  match d.cmd? ring serial with
  | none => (d, nv)
  | some c =>
    if c.phase = .ended then (d.retireCmd ring serial, nv)
    else
      let r := if c.opcode = 0x70 then d.signedAgain nv ring serial else (d.runCmd c, nv)
      (if c.gotik then r.1.sweepGotik else r.1, r.2)

/-- Replays one record: the access that it stopped is made again (R236, R242). A command or ring that has a further record waits for
that one. -/
def Dev.replayRecord (asid : Nat) (acc : Dev × Nv) (r : FaultRec) : Dev × Nv :=
  let d := acc.1
  let nv := acc.2
  if !d.streamWaits r then acc
  else match r.stream with
    | .lane ref path thread va => (d.replayLane ref path thread va, nv)
    | .spring ref n k tile row va => ((d.replayRow ref n k tile row va).prefetchTiles n k, nv)
    | .cmd ring serial => d.replayCmd nv ring serial
    | .fetch ring => ((d.modRing ring (fun r => { r with fetchFault := false })).fetchDescriptor ring, nv)
    | .none => (d.tableWalk asid r.part r.va r.access r.len, nv)

/-- Replaces the records of a batch. -/
def Dev.setRecords (d : Dev) (asid no : Nat) (rs : List FaultRec) : Dev :=
  let s := d.space asid
  d.setSpace asid { s with batches := s.batches.map (fun b => if b.no = no then { b with recs := rs } else b) }

/-- Replays records of batch `no` one after another; those still to be replayed and those to be failed stay open meanwhile. -/
def Dev.replayAll (asid no : Nat) (failed : List FaultRec) : Dev × Nv → List FaultRec → Dev × Nv
  | acc, [] => (acc.1.setRecords asid no failed, acc.2)
  | acc, r :: rest =>
    Dev.replayAll asid no failed (Dev.replayRecord asid (acc.1.setRecords asid no (rest ++ failed), acc.2) r) rest

/-- Records of other batches than `no`, or not written yet, that stop the same access as a record. -/
def Dev.sameAccess (d : Dev) (asid no : Nat) (r : FaultRec) : Nat :=
  let s := d.space asid
  (((s.batches.filter (fun b => b.no ≠ no)).flatMap (·.recs) ++ s.waiting).filter (fun x =>
    x.stream = r.stream && x.va.toNat < r.va.toNat + r.len && r.va.toNat < x.va.toNat + x.len)).length

/-- Replays that fault again count: `before` is the device before them (R242). -/
def Dev.countRefaults (d before : Dev) (asid no : Nat) (rs : List FaultRec) : Dev :=
  rs.foldl (fun (d : Dev) r =>
    if before.sameAccess asid no r < d.sameAccess asid no r then
      (d.bump Fld.XLT_REFAULTS_count 0 1).count 0x0031 1 ⟨if r.ring < 1024 then some r.part else Option.none, r.context, Option.none⟩
    else d) d

/-- The status with which a failed record ends its stream (R243). -/
def FaultRec.status (r : FaultRec) : Half := if r.kind = kindPermission then Sts.permissionFault else Sts.translationFault

/-- Fails one record: its stream ends (R243); a pass carries the address and the brick (R329). -/
def Dev.failRecord (d : Dev) (r : FaultRec) : Dev :=
  if !d.streamWaits r then d
  else
    let block := fun (ref : BlockRef) => match d.findBlock ref with
      | some (n, b) =>
        if d.isDispatch ref.ring ref.serial then d.endByBlock n b r.status else d.endWork ref.ring ref.serial r.status r.va n
      | none => d
    match r.stream with
    | .lane ref _ _ _ => block ref
    | .spring ref _ _ _ _ _ => block ref
    | .cmd ring serial => match d.cmd? ring serial with
      | some c =>
        if c.phase = .ended then (d.cqError c).modCmd ring serial (fun c => { c with faulted := false })
        else
          let d := d.killCmd c r.status r.va noUnit
          if c.gotik then d.sweepGotik else d
      | none => d
    | .fetch ring => (d.stopRing ring 1).modRing ring (fun r => { r with fetchFault := false, fetched := [] })
    | .none => d

/-- Drops the cached translations of the pages that records name (R242). -/
def Dev.dropRecordPages (d : Dev) (asid : Nat) (rs : List FaultRec) : Dev :=
  { d with xlt := { d.xlt with cache := d.xlt.cache.filter (fun x =>
    !(x.asid = asid && rs.any (fun r => x.va < r.va.toNat + r.len && r.va.toNat < x.va + x.size))) } }

/-- Frees a leading run of resumed batches; `fuel` bounds their number (R242). -/
def AsSt.freeLeading : Nat → AsSt → AsSt
  | 0, s => s
  | fuel + 1, s =>
    match s.batches with
    | b :: t => if b.resumed then
        AsSt.freeLeading fuel { s with batches := t, cons := s.cons + b.recs.length, consBatch := b.no }
      else s
    | [] => s

/-- FAULT_RESUME: a closed batch that has not been resumed is resumed as one: translations dropped, records replayed and
failed as the mask says, entries freed (R241, R242). -/
def Dev.runResume (d : Dev) (nv : Nv) (c : Cmd) : Dev × Nv :=
  let asid := frsAsid c.desc
  let no := frsBatch c.desc
  match (d.space asid).batches.find? (fun b => b.no = no && b.closed && !b.resumed) with
  | none => (d.fail c Sts.badDescriptor 0, nv)
  | some b =>
    if !reservedZero c.desc frsFields then (d.fail c Sts.badDescriptor 0, nv)
    else
      let failed := (b.recs.zipIdx.filter (fun e => frsFails c.desc e.2)).map (·.1)
      let again := (b.recs.zipIdx.filter (fun e => !frsFails c.desc e.2)).map (·.1)
      let d := d.dropRecordPages asid b.recs
      let r := Dev.replayAll asid no failed (d, nv) again
      let r := (r.1.countRefaults d asid no again, r.2)
      let s := r.1.space asid
      let r := (r.1.setSpace asid { s with batches := s.batches.map (fun x =>
        if x.no = no then { x with recs := b.recs, resumed := true } else x) }, r.2)
      let d := failed.foldl (fun (d : Dev) f => d.failRecord f) r.1
      let s := d.space asid
      let d := d.setSpace asid (AsSt.freeLeading s.batches.length s)
      ((d.done c 0).hist 10 ((d.now - b.closedAt) / 1000), r.2)

/-- Runs FAULT_RESUME on the command of a source. -/
def Dev.resumeRow (d : Dev) (nv : Nv) (src : CmdSource) : Dev × Nv :=
  match src with
  | .ring i s => match d.cmd? i s with
    | some c => if c.active && isOp 0x48 c.desc && i < 1024 then d.runResume nv c else (d, nv)
    | none => (d, nv)
  | .gotik part asid l =>
    if isOp 0x48 l then
      match d.gotikCmd part asid l with
      | (d, some c) =>
        let r := if c.active then d.runResume nv c else (d, nv)
        (r.1.sweepGotik, r.2)
      | (d, none) => (d, nv)
    else (d, nv)

end Sys2Proof.Machine
end

