-- ==== Sys2Proof/Machine/Window.lean ====
section
/-! DEFINITION. The set-up register window: what a write of each register does (R3 to R9, R19, R20, and the chapter of each
register), and what a read returns, hardware fields computed from the state (R8, R373). -/

namespace Sys2Proof.Machine

/-! ## Writes -/

/-- A write to the register of a queue pair: only `state` changes outside RESET, and a queue pair that enters RESET forgets
what it has done. -/
def Dev.qpWrite (d : Dev) (off width q : Nat) (new v : Wide) : Dev :=
  let old := d.regs.get (Reg.FAB_QP_CTRL.at q) Reg.FAB_QP_CTRL.reset
  if off = Reg.FAB_QP_CTRL.at q then
    let v := if bitsN old 2 0 = 0 then new else setBits old 2 0 (bits new 2 0)
    let d := d.regStore off 4 v
    if bitsN old 2 0 ≠ 0 ∧ d.fld Fld.FAB_QP_CTRL_state q = 0 then
      { d with fab := { d.fab with qps := NMap.erase d.fab.qps q } }
    else d
  else if bitsN old 2 0 = 0 then d.regStore off width v
  else d

/-- A write to XLT_AS_CTRL_n: fring_log2 changes only while enable was 0. -/
def Dev.asCtrlWrite (d : Dev) (n : Nat) (new : Wide) : Dev :=
  let off := Reg.XLT_AS_CTRL.at n
  let old := d.regs.get off Reg.XLT_AS_CTRL.reset
  d.regStore off 4 (if bit old 0 then setBits new 6 2 (bits old 6 2) else new)

/-- A write to PWR_CAP: a cap outside 300 to 650 W sets cap_error and keeps the old one. -/
def Dev.capWrite (d : Dev) (v : Wide) : Dev :=
  let d := d.regStore (Reg.PWR_CAP.at 0) 4 v
  if bitsN v 9 0 < 300 ∨ 650 < bitsN v 9 0 then d.setFld Fld.PWR_CAP_cap_error 0 1 else d

/-- A write to PMC_USER_EN: a partition whose bit is cleared has its mirror written once more, with zeros (R456). -/
def Dev.userEnWrite (d : Dev) (v : Wide) : Dev :=
  let old := d.fld Fld.PMC_USER_EN_user_en 0
  let d := d.regStore (Reg.PMC_USER_EN.at 0) 4 v
  ((setBitsOf old 8).filter (fun p => !v.getLsbD p && d.fld Fld.PMC_P_MIRROR_enable p = 1 && d.boot.phase = 5)).foldl
    (fun (d : Dev) p => d.putMirror p true) d

/-- A write to PWR_CTRL.target (R416). -/
def Dev.powerTarget (d : Dev) (src : RegSource) (target : Nat) : Dev :=
  match target with
  | 0 => d.targetRun src
  | 2 => d.enter src .sleep
  | 3 => d.enter src .deep
  | 4 => d.enter src .off
  | _ => d

/-- Whether a source may write a register: those of R3, Gotik for the registers that it is said to write, and for the reset
registers the sources of R474. -/
def Dev.mayWriteReg (d : Dev) (src : RegSource) (off : Nat) : Bool :=
  if off = Reg.RST_DEVICE_RESET.off ∨ off = Reg.RST_PART_RESET.off ∨ off = Reg.RST_BLOCK_RESET.off then (d.resetSource src).isSome
  else if off = Reg.RST_WDOG_KICK.off then src = .gotik
  else if off = Reg.PWR_CTRL.off ∨ off = Reg.PWR_DOMAIN_EN.off ∨ off = Reg.MEM_LAKE_MEM_WAYS.off ∨ off = Reg.MEM_PREFETCH_MODE.off then
    d.mayWriteG src
  else d.mayWrite src

/-- A write to XLT_AS_FENCE_n: the register holds a reference to the fence that it names (R239, R307). -/
def Dev.asFenceWrite (d : Dev) (n off width : Nat) (v : Wide) : Dev :=
  let d := d.regStore off width v
  let o := Reg.XLT_AS_FENCE.at n
  d.regRef o (d.regs.get o Reg.XLT_AS_FENCE.reset)

/-- What a write does that reaches element `i` of register `r`: `new` is the whole register as offered. -/
def Dev.regWrite (d : Dev) (nv : Nv) (src : RegSource) (r : RegDef) (i off width : Nat) (new v : Wide) : Dev :=
  let w : Word := new.setWidth 32
  let o := r.off
  if o = Reg.TICK_SOURCE.off then d.tickSelect src w
  else if o = Reg.TICK_COMMIT.off then (if bit new 0 then d.tickCommit src else d)
  else if o = Reg.TICK_ALARM.off then d.alarmWrite off width v
  else if o = Reg.CMP_S_COMMIT.off then
    let d := if bit new 0 then d.outgeomStage src i else d
    if bit new 1 then d.cmatrixStage src i else d
  else if o = Reg.MEM_LAKE_MEM_WAYS.off then d.setMemWays (w.toNat % 65536)
  else if o = Reg.XLT_AS_CTRL.off then d.asCtrlWrite i new
  else if o = Reg.XLT_AS_FENCE.off then d.asFenceWrite i off width v
  else if o = Reg.XLT_AS_ROOT.off ∨ o = Reg.XLT_AS_FRING.off then
    (if d.fld Fld.XLT_AS_CTRL_enable i = 0 then d.regStore off width v else d)
  else if o = Reg.CPR_CWIN.off then d.cwinWrite src w
  else if o = Reg.CPR_SIDE_BASE.off then (if d.fld Fld.CPR_CWIN_size_gib 0 = 0 then d.regStore off width v else d)
  else if o = Reg.SEQ_P_COMMIT.off then (if bit new 0 then d.poolStage src i else d)
  else if o = Reg.PAR_P_COMMIT.off then (if bit new 0 then d.commitBy src (.part i) else d)
  else if o = Reg.FAB_RT.off then d.rtWrite i w.toNat
  else if o = Reg.FAB_P_CTRL.off then d.portMode src i w
  else if Reg.FAB_QP_CTRL.off ≤ o ∧ o < Reg.FAB_QP_CTRL.off + 0x40 then d.qpWrite off width i new v
  else if o = Reg.RST_DEVICE_RESET.off then d.resetWrite src w
  else if o = Reg.RST_PART_RESET.off then d.partResetWrite src w
  else if o = Reg.RST_BLOCK_RESET.off then d.blockResetWrite src w
  else if o = Reg.RST_WDOG_KICK.off then d.kick src
  else if o = Reg.PWR_CTRL.off then (if d.mayWrite src then d.regStore off width v else d).powerTarget src (w.toNat % 8)
  else if o = Reg.PWR_CAP.off then d.capWrite new
  else if o = Reg.PWR_DOMAIN_EN.off then (d.regStore off width v).settleDomains
  else if o = Reg.PWR_WALL.off then (d.regStore off width v).settleWalls
  else if o = Reg.SEC_ATTEST_CTRL.off then (if bit new 0 then d.attestStart nv else d)
  else if o = Reg.REC_CTRL.off then d.recHold src (bit new 0)
  else if o = Reg.PMC_CTRL.off then d.pmcCtrl src w
  else if o = Reg.PMC_USER_EN.off then d.userEnWrite new
  else if o = Reg.PMC_BW_WINDOW.off then d.bwWrite src w
  else d.regStore off width v

/-- A write of a register is answered with a status (R3). -/
def Dev.answered (d : Dev) (src : RegSource) (off : Nat) (status : Half) : Dev :=
  { d with sec := { d.sec with answer := some (src, off, status) } }

/-- The status of a write from a source to the register at an offset (R3). -/
def Dev.writeStatus (d : Dev) (src : RegSource) (off : Nat) : Half := if d.mayWriteReg src off then Sts.ok else Sts.authFailed

/-- A write of `v` with a width in bytes to a window offset: from a source that may not write it changes nothing and ends with
AUTH_FAILED (R3); one of a wrong width or alignment, or to a reserved offset, changes nothing (R4, R6). A write ends IDLE
(R417). -/
def Dev.windowWrite (d : Dev) (nv : Nv) (src : RegSource) (off width : Nat) (v : Wide) : Dev × Half :=
  match d.reach off width v with
  | none =>
    let st := if d.mayWrite src then Sts.ok else Sts.authFailed
    (d.answered src off st, st)
  | some (r, i, new) =>
    let st := d.writeStatus src r.off
    ((if st = Sts.ok then d.leaveIdle.regWrite nv src r i off width new v else d).answered src off st, st)

/-! ## Reads -/

/-- A 64-bit value of a number. -/
def wide (n : Nat) : Wide := BitVec.ofNat 64 n

/-- 0 or 1. -/
def bitN (b : Bool) : Nat := if b then 1 else 0

/-- BRK_STATUS. A split change of R55 is in progress while a brick that drains for one is empty; its blocks are still running
before (R56, R66). -/
def Brick.status (b : Brick) : Nat :=
  2 ^ 20 * bitN b.live.isEmpty + 2 ^ 19 * bitN (b.drain.isSome && b.vacant) + 2 ^ 16 * b.split + 2 ^ 8 * b.live.length + b.courses

/-- SUB_R_CFG. -/
def Ring.cfg (r : Ring) : Nat :=
  2 ^ 37 * r.cqLog2 + 2 ^ 25 * r.dbId + 2 ^ 23 * r.dbSource + 2 ^ 21 * r.cqMode + 2 ^ 19 * r.cls + 2 ^ 16 * r.part
    + 2 ^ 8 * r.asid + r.sizeLog2

/-- SEQ_ENT_A. -/
def SeqEnt.wordA (e : SeqEnt) : Nat :=
  2 ^ 32 * e.length + 2 ^ 19 * e.rows + 2 ^ 16 * e.pool + 2 ^ 12 * e.prio + 2 ^ 8 * bitN e.lossy + 2 ^ 6 * e.held + e.state

/-- SEQ_ENT_B. -/
def SeqEnt.wordB (e : SeqEnt) : Nat := 2 ^ 16 * e.stamp + 2 ^ 4 * e.peerDevice + 2 * e.peerPool

/-- FAB_P_STATUS. -/
def Port.status (p : Port) : Nat := 8 * p.modeActive + 4 * bitN p.linkUp + 2 * bitN p.pcsLock + bitN p.signal

/-- RST_BOOT_STATUS without p2_restarts. -/
def BootSt.status (b : BootSt) : Nat := 32 * bitN b.halted + 16 * b.slot + 8 * bitN b.optionsDefault + b.phase

/-- Whether a pass bins on a front-end, and whether one waits there for a chunk (RAS_FE_STATUS). -/
def Dev.feStatus (d : Dev) : Nat :=
  let stalled := fun (fe : Nat) => d.sub.cmds.any (fun c => match c.run with
    | .pass p => (p.stalled.map (·.1)) = some fe
    | _ => false)
  let busy := fun (fe : Nat) => d.sub.cmds.any (fun c => c.binsOn fe)
  8 * bitN (stalled 1) + 4 * bitN (stalled 0) + 2 * bitN (busy 1) + bitN (busy 0)

/-- What the hardware fields of a register's element show; other fields come from the register file. -/
def Dev.hwValue (d : Dev) (nv : Nv) (r : RegDef) (i : Nat) : Nat :=
  let o := r.off
  if o = Reg.TICK_STATUS.off then d.tick.lock.code
  else if o = Reg.BRK_STATUS.off then (d.brick i).status
  else if o = Reg.CMP_S_COMMIT_STATUS.off then 2 ^ 10 * bitN (decide ((d.geo i).ticks * d.period < (d.geo i).lead))
  else if o = Reg.BRK_QUAD_COURSES.off then sumN ((List.range 4).map (fun q => 256 ^ q * (d.brick i).quadCourses q))
  else if o = Reg.BRK_QUAD_REGS.off then sumN ((List.range 4).map (fun q => 256 ^ q * ((d.brick i).quadRegs q / 1024)))
  else if o = Reg.RAS_GROW_FREE.off then d.growFree i
  else if o = Reg.RAS_FE_STATUS.off then d.feStatus
  else if o = Reg.MEM_LAKE_STATUS.off then bitN d.mem.tagInit
  else if o = Reg.MEM_MAINT_STATUS.off then 256 * ((d.maintQueue i).length - 1) + bitN (!(d.maintQueue i).isEmpty)
  else if o = Reg.XLT_INV_STATUS.off then 256 * d.xlt.queue.length + bitN d.xlt.running.isSome
  else if o = Reg.XLT_AS_PROD.off then 2 ^ 32 * (d.space i).batch + (d.space i).prod % 2 ^ 32
  else if o = Reg.XLT_AS_CONS.off then 2 ^ 32 * (d.space i).consBatch + (d.space i).cons % 2 ^ 32
  else if o = Reg.XLT_AS_STATUS.off then
    256 * (((d.space i).open?.map (fun b => b.recs.length)).getD 0) + 2 * bitN (d.space i).open?.isSome
      + bitN (decide ((d.space i).prod - (d.space i).cons ≥ d.fringSize i))
  else if o = Reg.CPR_STREAM_STATUS.off then 256 * d.jobsWaiting + d.jobsRunning
  else if o = Reg.SEQ_P_FREE.off then (if (d.poolCfg i).enable then (d.pool i).free (d.poolCfg i) else 0)
  else if o = Reg.SEQ_P_GUEST.off then (d.pool i).guestCount
  else if o = Reg.SEQ_ENT_A.off then (d.seqEnt i).wordA
  else if o = Reg.SEQ_ENT_B.off then (d.seqEnt i).wordB
  else if o = Reg.SEQ_ENT_C.off then (d.seqEnt i).pages.length
  else if o = Reg.SUB_WATCH.off then 64 * d.sub.parked.length + d.sub.slots.length
  else if o = Reg.SUB_TABLES.off then
    2 ^ 38 * d.fabricSlots + 2 ^ 21 * d.fenceCount
      + (d.sub.entries.filter (fun (e : Nat × Entry) => e.2.state = .live || e.2.state = .dying)).length
  else if o = Reg.SUB_R_CFG.off then (d.ring i).cfg
  else if o = Reg.SUB_R_BASE.off then (d.ring i).base.toNat
  else if o = Reg.SUB_R_FETCH.off then (d.ring i).fetch.toNat
  else if o = Reg.SUB_R_DOORBELL.off then (d.ring i).doorbell.toNat
  else if o = Reg.SUB_R_STATUS.off then d.ringStatus i
  else if o = Reg.SUB_R_BUDGET.off then (d.ring i).budget
  else if o = Reg.PAR_P_STATUS.off then
    256 * (d.par.saved.filter (fun s => s.part = i && s.record.isSome)).length
      + bitN (d.par.preempting.any (fun p => (d.ring p.target).part = i))
  else if o = Reg.PAR_R_EPOCH.off then (d.ring i).epoch
  else if o = Reg.FAB_LIST_VER.off then nv.listVersion
  else if o = Reg.FAB_P_STATUS.off then (d.port i).status
  else if o = Reg.FAB_P_MAC.off then nth nv.macs i 0
  else if o = Reg.RST_BOOT_STATUS.off then d.boot.status
  else if o = Reg.RST_CAUSE.off then 16 * d.boot.causeSource + d.boot.causeClass
  else if o = Reg.PWR_STATUS.off then 8 * bitN d.pwr.entering.isSome + d.pwr.state.code
  else if o = Reg.PWR_POWER.off then 2 ^ 31 * bitN d.pwr.capExceeded + 2 ^ 16 * d.pwr.avgW + d.pwr.nowW
  else if o = Reg.PWR_DOMAIN_ON.off then d.pwr.on
  else if o = Reg.PWR_WALL.off then 2 ^ 16 * bitN (d.wall i).changing + 2 ^ 12 * (d.wall i).current + 2 ^ 8 * d.effective i
  else if o = Reg.SEC_STATUS.off then
    64 * bitN (d.sub.cmds.any (fun c => c.opcode = 0x70 && c.phase = .started)) + 16 * bitN d.sec.attesting.isSome
      + bitN nv.ownerKeyHash.isSome
  else if o = Reg.SEC_ROLLBACK.off then nv.rollback
  else if o = Reg.SEC_CMD_SEQ.off then nv.cmdSeq.toNat
  else if o = Reg.SEC_CERT_LEN.off then 2 ^ 16 * nv.ownerCert.length + nv.identityCert.length
  else if o = Reg.SEC_CERT.off then leAt nv.identityCert (4 * i) 4
  else if o = Reg.SEC_OWNER_CERT.off then leAt nv.ownerCert (4 * i) 4
  else if o = Reg.PMC_FIX.off then d.fixed i
  else 0

/-- Registers whose whole value is computed. -/
def fullyComputed (off : Nat) : Bool :=
  off = Reg.XLT_AS_PROD.off || off = Reg.XLT_AS_CONS.off || off = Reg.PMC_FIX.off
    || off = Reg.FAB_LIST_VER.off || off = Reg.SEC_CMD_SEQ.off

/-- The fields of a register that hardware shows. -/
def RegDef.hwMask (r : RegDef) : Wide :=
  if fullyComputed r.off then BitVec.allOnes 64
  else if r.off = Reg.CMP_S_COMMIT_STATUS.off then setBits 0 10 10 1 -- lead_clamped, set while R176 clamps the lead
  else r.fields.foldl (fun (m : Wide) f => if f.hw then setBits m f.hi f.lo (BitVec.allOnes 64) else m) 0

/-- The value of a register's element as a read returns it. -/
def Dev.regValue (d : Dev) (nv : Nv) (r : RegDef) (i : Nat) : Wide :=
  let m := r.hwMask
  (d.regs.get (r.at i) r.reset &&& ~~~m) ||| (wide (d.hwValue nv r i) &&& m)

/-- A read of a width in bytes at a window offset: zero with a wrong width or alignment, and at a reserved offset (R4, R5,
R6). -/
def Dev.setupRead (d : Dev) (nv : Nv) (off width : Nat) : Bytes :=
  match findRegHalf off with
  | none => List.replicate width 0
  | some (r, i, upper) =>
    let v := (d.regValue nv r i).toNat
    if width = 8 ∧ r.width = 64 ∧ !upper then leBytes 8 v
    else if width = 4 then leBytes 4 (if upper then v / 2 ^ 32 else v)
    else List.replicate width 0

end Sys2Proof.Machine
end

