-- ==== Sys2Proof/Machine/Mortar.lean ====
section
/-! DEFINITION. Mortar requests from other devices (R316, R317, R373, R405, R424), responses (R374), forwarding (R388), tunnels
(R375), and translated accesses to other devices (R389). -/

namespace Sys2Proof.Machine

/-! ## Frames -/

/-- Whether a frame has the payload that its header gives (R368). -/
def frameWhole (f : MortarFrame) : Bool :=
  match f.hdr.kind with
  | 1 => f.payload.isEmpty && f.hdr.lenDw ≤ 64
  | 3 => f.payload.length = (if f.hdr.op = 3 then 16 else 8)
  | 5 => f.payload.length = 8
  | 6 => f.payload.length = 16
  | _ => f.payload.length = 4 * f.hdr.lenDw && f.hdr.lenDw ≤ 64

/-- Whether a frame's source is a device address; any other frame but DISCOVERY is dropped (R373). -/
def frameSourced (f : MortarFrame) : Bool := f.hdr.src ≠ 0 && f.hdr.src ≠ 0xFFF

/-- Whether a frame is addressed to this device (R373, R377). -/
def Dev.forMe (d : Dev) (f : MortarFrame) : Bool := f.hdr.dst = d.addr && d.addr ≠ 0

/-- What serving a request gives: its status and payload, or none while it is held. -/
abbrev Served := Dev × Option (Half × Bytes)

/-! ## Memory (R373, R405, R424) -/

/-- The answer to an access of local memory: one that the closed DRAM wrapper stops is held in SLEEP and otherwise ISOLATED
(R405, R424). -/
def Dev.memAnswer (d0 : Dev) (r : Dev × Acc × Bytes) : Served :=
  match r with
  | (d, .ok, bs) => (d, some (Sts.ok, bs))
  | (d, .fail s, _) => (d, some (s, []))
  | (_, .wait, _) => (d0, if d0.pwr.state = .sleep then none else some (Sts.isolated, []))

/-- Whether a device may read a window offset: the manager and management clients all of it, any device of the domain the GLB
and SEC blocks (R21, R373). -/
def Dev.mayReadWindow (d : Dev) (src o : Nat) : Bool :=
  d.mayWrite (.mortar src) || o < 0x100000 || (0xE00000 ≤ o && o < 0xF00000)

/-- READ (R373). -/
def Dev.serveRead (d : Dev) (nv : Nv) (h : MortarHdr) : Served :=
  let a := h.address.toNat % 2 ^ 40
  let n := 4 * h.lenDw
  match regionOf a with
  | .regs o =>
    if d.mayReadWindow h.src o then
      (d, some (Sts.ok, d.setupRead nv o n))
    else (d, some (Sts.authFailed, []))
  | _ => d.memAnswer (d.readAt Asker.none true a n)

/-- WRITE (R373): to a doorbell slot, a doorbell from its source (R298). -/
def Dev.serveWrite (d : Dev) (nv : Nv) (h : MortarHdr) (p : Bytes) : Served :=
  let a := h.address.toNat % 2 ^ 40
  match regionOf a with
  | .regs o =>
    let r := d.windowWrite nv (.mortar h.src) o p.length (BitVec.ofNat 64 (leNat p))
    (r.1, some (r.2, []))
  | _ =>
    let r := d.localWrite Asker.none true none (.device h.src) a p
    d.memAnswer (r.1, r.2, [])

/-- The atomic that a frame's op and size name (R368): the operation and its size in bytes. -/
def atomOfCode (op size : Nat) : Option (AtomOp × Nat) :=
  let n := nth [2, 4, 8] size 0
  if op = 14 then (if n = 2 then some (.fadd, 2) else none)
  else if op = 13 then (if n = 4 then some (.fadd, 4) else none)
  else if n < 4 then none
  else (nth [some AtomOp.load, some .store, some .exchange, some .cas, some (.add .add), some (.add .sub), some (.minMax .smin),
    some (.minMax .smax), some (.minMax .umin), some (.minMax .umax), some (.bitwise .band), some (.bitwise .bor),
    some (.bitwise .bxor)] op none).map (fun o => (o, n))

/-- The operand of an ATOMIC, or compare then swap (R368). -/
def atomPayload (op : AtomOp) (p : Bytes) : LaneAtomic :=
  if op = .cas then ⟨0, 0, wideAt p 8, wideAt p 0, none⟩ else ⟨0, 0, wideAt p 0, 0, none⟩

/-- ATOMIC (R85, R373): performed in the home slice, with the target mode of the side record (R255); the response returns the old value. A doorbell slot takes no atomics: one
reads zero and writes nothing (R297). -/
def Dev.serveAtomic (d : Dev) (h : MortarHdr) (op : AtomOp) (n : Nat) (p : Bytes) : Served :=
  let a := h.address.toNat % 2 ^ 40
  match regionOf a with
  | .regs _ => (d, some (Sts.authFailed, []))
  | .doorbell _ _ => (d, some (Sts.ok, leBytes 8 0))
  | _ =>
    let r := d.atomicHome Asker.none true none a n (fun old => op.result n old (atomPayload op p))
    d.memAnswer (r.1.afterMax op n a r.2.1 r.2.2, r.2.1, leBytes 8 r.2.2)

/-- DOORBELL (R298, R373). -/
def Dev.serveDoorbell (d : Dev) (h : MortarHdr) (p : Bytes) : Served :=
  if h.address.toNat < 1024 then (d.offer (.device h.src) h.address.toNat (wideAt p 0), some (Sts.ok, []))
  else (d, some (Sts.permissionFault, []))

/-! ## Fences (R316 to R318) -/

/-- The status of naming an exported fence by a handle: current, and a FENCE (R316). -/
def Dev.homeFence (d : Dev) (h : Wide) : Half :=
  if !d.current h then Sts.staleHandle else if handleType h ≠ typFence then Sts.badObjectType else Sts.ok

/-- Whether a request held since a time has waited native_us while FORMING (R393). -/
def Dev.heldTooLong (d : Dev) (since : Nat) : Bool := decide (since + 1000 * d.fld Fld.FAB_OP_TIMEOUT_native_us 0 ≤ d.now)

/-- SIGNAL and INCREMENT: a signal through a mirror is performed at home and acknowledged (R317). On the non-owning side it is
PARTITIONED, and while the device is FORMING it is held (R318, R393). -/
def Dev.serveSignal (d : Dev) (since : Nat) (handle : Wide) (v : Option Wide) : Served :=
  let s := d.homeFence handle
  if s ≠ Sts.ok then (d, some (s, []))
  else match d.signalEntry gotikRing 0 (handleIndex handle) v with
    | (d, .ok) => (d, some (Sts.ok, []))
    | (d, .fail s) => (d, some (s, []))
    | (_, .wait) => if d.heldTooLong since then (d, some (Sts.partitioned, [])) else (d, none)

/-- The mirrors of a device's fence on this device: entry and word. -/
def Dev.mirrorsOf (d : Dev) (home : Nat) (handle : Wide) : List (Nat × Nat) :=
  d.sub.entries.filterMap (fun (e : Nat × Entry) => match e.2.payload with
    | .mirror off hm h _ => if hm = home ∧ h = handle ∧ (e.2.state = .live ∨ e.2.state = .dying) then some (e.1, off) else none
    | _ => none)

/-- UPDATE: home's value is applied to its mirrors as a signal (R317). -/
def Dev.serveUpdate (d : Dev) (home : Nat) (handle v : Wide) : Served :=
  let ms := d.mirrorsOf home handle
  if ms.isEmpty then (d, some (Sts.staleHandle, []))
  else (ms.foldl (fun (d : Dev) m => (d.signalWord m.2 (some v)).2) d, some (Sts.ok, []))

/-- SUBSCRIBE: home answers with its value and counts the subscription; it may lack an export slot, or the fence may have 64
subscriber devices (R316, R329). An export is a shared object: off the owning side the request is PARTITIONED or held (R318, R393). -/
def Dev.serveSubscribe (d : Dev) (since src : Nat) (handle : Wide) : Served :=
  let s := d.homeFence handle
  let i := handleIndex handle
  let subs := NMap.getD d.sub.exports i []
  if s ≠ Sts.ok then (d, some (s, []))
  else if d.sharedGate = .wait ∧ !d.heldTooLong since then (d, none)
  else if d.sharedGate ≠ .ok then (d, some (Sts.partitioned, []))
  else if subs.isEmpty ∧ d.fabricSlots ≥ 256 then (d, some (Sts.noSlot, leBytes 4 4))
  else if !subs.contains src ∧ subs.eraseDups.length ≥ 64 then (d, some (Sts.noSlot, leBytes 4 5))
  else match (d.entry i).payload.word with
    | none => (d, some (Sts.badObjectType, []))
    | some off =>
      let r := d.memAnswer (d.localRead off 8)
      match r.2 with
      | some (st, v) =>
        if st = Sts.ok then
          ({ r.1 with sub := { r.1.sub with exports := NMap.set r.1.sub.exports i (subs ++ [src]) } }, some (st, v))
        else r
      | none => r

/-- UNSUBSCRIBE: one subscription ends; the export slot is free after the last one (R316). -/
def Dev.serveUnsubscribe (d : Dev) (src : Nat) (handle : Wide) : Served :=
  let i := handleIndex handle
  let subs := (NMap.getD d.sub.exports i []).erase src
  if !d.current handle then (d, some (Sts.staleHandle, []))
  else ({ d with sub := { d.sub with exports :=
      if subs.isEmpty then NMap.erase d.sub.exports i else NMap.set d.sub.exports i subs } }, some (Sts.ok, []))

/-- END: home's fence was freed, and its mirrors are LOST (R317). -/
def Dev.serveEnd (d : Dev) (home : Nat) (handle : Wide) : Served :=
  ((d.mirrorsOf home handle).foldl (fun (d : Dev) m =>
    d.setEntry m.1 { d.entry m.1 with payload := .mirror m.2 home handle true }) d, some (Sts.ok, []))

/-- A FENCE request by its op (R368). -/
def Dev.serveFence (d : Dev) (since : Nat) (h : MortarHdr) (p : Bytes) : Served :=
  let handle := wideAt p 0
  let v := wideAt p 8
  match h.op with
  | 0 => d.serveSignal since handle (some v)
  | 1 => d.serveSignal since handle none
  | 2 => d.serveUpdate h.src handle v
  | 3 => d.serveSubscribe since h.src handle
  | 4 => d.serveUnsubscribe h.src handle
  | _ => d.serveEnd h.src handle

/-! ## Requests -/

/-- Whether a frame is a request that R368 lists. -/
def frameRequest (f : MortarFrame) : Bool :=
  match f.hdr.kind with
  | 1 => true
  | 2 => true
  | 3 => (atomOfCode f.hdr.op f.hdr.size).isSome
  | 5 => true
  | 6 => f.hdr.op ≤ 5
  | _ => false

/-- Performs a request (R373). -/
def Dev.serve (d : Dev) (nv : Nv) (since : Nat) (f : MortarFrame) : Served :=
  match f.hdr.kind with
  | 1 => d.serveRead nv f.hdr
  | 2 => d.serveWrite nv f.hdr f.payload
  | 3 => match atomOfCode f.hdr.op f.hdr.size with
    | some (op, n) => d.serveAtomic f.hdr op n f.payload
    | none => (d, none)
  | 5 => d.serveDoorbell f.hdr f.payload
  | _ => d.serveFence since f.hdr f.payload

/-- Sends the one RESPONSE to a request, on the lane for responses (R369, R373). -/
def Dev.respond (d : Dev) (h : MortarHdr) (status : Half) (payload : Bytes) : Dev :=
  d.sendFrame ⟨{ kind := 4, vl := if h.vl = 2 then 5 else 4, lenDw := payload.length / 4, linkSeq := 0, dst := h.src, src := d.addr
                 op := 0, size := 0, slot := h.slot, slotGen := h.slotGen, epoch := h.epoch, status := status, address := 0 },
    payload, true⟩

/-- Holds an inbound request. -/
def Dev.holdInbound (d : Dev) (c : Instr) (since : Nat) : Dev :=
  { d with fab := { d.fab with inbound := d.fab.inbound ++ [(c, since)] } }

/-- The command that a held request stands for. -/
def frameCommand (port : Nat) (f : MortarFrame) : Instr :=
  match f.hdr.kind with
  | 1 => .mortarRead port f
  | 2 => .mortarWrite port f
  | 3 => .mortarAtomic port f
  | 5 => .mortarDoorbell port f
  | _ => .mortarFenceSignal port f

/-- Performs a request that has arrived and answers it, or holds it. -/
def Dev.answer (d : Dev) (nv : Nv) (port since : Nat) (f : MortarFrame) : Dev :=
  match d.serve nv since f with
  | (d, some (s, p)) => d.respond f.hdr s p
  | (d, none) => d.holdInbound (frameCommand port f) since

/-- A request for this device: it ends IDLE and is a wake event (R417, R421, R424); a frame that R368 does not list is dropped. -/
def Dev.requestIn (d : Dev) (nv : Nv) (port : Nat) (f : MortarFrame) : Dev :=
  if frameSourced f && frameWhole f && frameRequest f then (d.leaveIdle.wakeBy (.inbound port)).answer nv port d.now f else d

/-- Rows of requests: a frame of a kind and op, addressed to this device, that the link layer accepts. -/
def Dev.requestRow (d : Dev) (nv : Nv) (kind : Nat) (op : Option Nat) (port : Nat) (f : MortarFrame) : Dev :=
  if f.hdr.kind = kind ∧ op.all (fun o => f.hdr.op = o) ∧ d.forMe f then d.onFrame port f (fun d => d.requestIn nv port f) else d

/-- MORTAR_RESPONSE (R350, R374). -/
def Dev.responseRow (d : Dev) (port : Nat) (f : MortarFrame) : Dev :=
  if f.hdr.kind = 4 ∧ d.forMe f then d.onFrame port f (fun d => if frameSourced f then d.response f.hdr f.payload else d) else d

/-- A frame for another device goes on along its path, or is dropped (R373, R387, R388). -/
def Dev.forward (d : Dev) (f : MortarFrame) : Dev :=
  if frameSourced f ∧ f.hdr.dst ≠ 0xFFF then d.sendFrame { f with crcOk := true } else d

/-- FRAME_FORWARD. -/
def Dev.forwardRow (d : Dev) (port : Nat) (f : MortarFrame) : Dev :=
  if 1 ≤ f.hdr.kind ∧ f.hdr.kind ≤ 6 ∧ !d.forMe f then d.onFrame port f (fun d => d.forward f) else d

/-! ## Held requests (R393, R405, R424) -/

/-- Whether RoCEv2 requests are held: in SLEEP every one needs DRAM or the lake (R424). -/
def Dev.roceHolds (d : Dev) (r : RoceReq) : Bool := d.pwr.state = .sleep && d.roceFree r

/-- A RoCEv2 request: a packet to a queue pair is a wake event, and in SLEEP the request is held (R421, R424). -/
def Dev.roceIn (d : Dev) (c : Instr) (since : Nat) (r : RoceReq) (act : Dev → Dev) : Dev :=
  if d.roceHolds r then (d.wakeBy (.inbound (d.fld Fld.FAB_QP_CTRL_port r.qp))).holdInbound c since else act d

/-- Tries a held request again. -/
def Dev.retryInbound (d : Dev) (nv : Nv) (c : Instr) (since : Nat) : Dev :=
  match c with
  | .mortarRead p f => d.answer nv p since f
  | .mortarWrite p f => d.answer nv p since f
  | .mortarAtomic p f => d.answer nv p since f
  | .mortarDoorbell p f => d.answer nv p since f
  | .mortarFenceSignal p f => d.answer nv p since f
  | .roceSend r => d.roceIn c since r (fun d => d.roceSendRow r)
  | .roceRdmaWrite r => d.roceIn c since r (fun d => d.roceWriteRow r)
  | .roceRdmaWriteImm r => d.roceIn c since r (fun d => d.roceWriteImmRow r)
  | .roceRdmaRead r => d.roceIn c since r (fun d => d.roceReadRow r)
  | .roceAtomic r op => d.roceIn c since r (fun d => d.roceAtomicRow r op)
  | _ => d

/-- Held requests are tried again in order of arrival, and what blocks wait for. -/
def Dev.serveHeld (d : Dev) (nv : Nv) : Dev :=
  let d := d.retrySignals
  (d.fab.inbound.foldl (fun (d : Dev) x => d.retryInbound nv x.1 x.2) { d with fab := { d.fab with inbound := [] } }).retryBlocks

/-- A congestion packet to a queue pair is a wake event too (R421). -/
def Dev.roceWakes (d : Dev) (q : Nat) : Dev :=
  if d.qpReady q then d.wakeBy (.inbound (d.fld Fld.FAB_QP_CTRL_port q)) else d

/-- A request of another device that has been held for native_us while this one is FORMING ends with PARTITIONED (R393). -/
def Dev.heldTimedOut (d : Dev) (nv : Nv) (i : Nat) : Dev :=
  match d.fab.inbound[i]? with
  | some (_, since) =>
    if d.side = 0 then (d.advanceTo (since + 1000 * d.fld Fld.FAB_OP_TIMEOUT_native_us 0)).serveHeld nv else d
  | none => d

/-- TAG_INVALIDATION: the tags have been invalidated; accesses that waited for them proceed (R209). In an exit from SLEEP they still
wait for the walls and DRAM (R425). -/
def Dev.tagsInvalid (d : Dev) (nv : Nv) : Dev :=
  if d.mem.tagInit then
    let d := d.tagsDone
    (if d.boot.dramOpen then d.performHeld else d).serveHeld nv
  else d

/-! ## Tunnels (R375) -/

/-- The frame in a tunnel's datagram: header, payload and CRC; none where the CRC fails or the length is not the header's. -/
def tunnelFrame (b : Bytes) : Option MortarFrame :=
  let n := b.length - 4
  let f : MortarFrame := ⟨hdrOfBytes b, slice b 24 (n - 24), true⟩
  if 28 ≤ b.length ∧ leAt b n 4 = crc32 (b.take n) ∧ frameWhole f then some f else none

/-- A DISCOVERY payload on a hop, by its type (R379). -/
def Dev.discovery (d : Dev) (nv : Nv) (hop : Nat) (p : Bytes) : Dev × Nv :=
  match leAt p 0 1 with
  | 1 => (d.helloTaken nv hop p, nv)
  | 2 => (d.reportTaken nv hop p, nv)
  | 3 => (d.assignTaken nv hop p, nv)
  | 4 => (d.listAsked nv hop p, nv)
  | 5 => d.listData nv hop p
  | _ => (d, nv)

/-- TUNNEL_DATAGRAM: a datagram to the tunnel's UDP port on an Ethernet-mode port; `source` is the tunnel neighbour whose
address it comes from. -/
def Dev.tunnelIn (d : Dev) (nv : Nv) (port : Nat) (source : Option Nat) (b : Bytes) : Dev × Nv :=
  let p := d.port port
  if port < 8 ∧ p.powered ∧ p.modeActive = 0 ∧ p.linkUp ∧ d.fld Fld.FAB_TUNNEL_udp_port 0 ≠ 0 then
    match tunnelFrame b with
    | none => (d, nv)
    | some f =>
      if f.hdr.kind = 7 then
        match source with
        | some k => d.discovery nv (8 + k) f.payload
        | none => (d, nv)
      else if !d.forMe f then (if f.hdr.kind ≤ 6 then d.forward f else d, nv)
      else if f.hdr.kind = 4 then (if frameSourced f then d.response f.hdr f.payload else d, nv)
      else (d.requestIn nv port f, nv)
  else (d, nv)

/-! ## Translated accesses to other devices (R389) -/

/-- What an operation of a remote access is for: a command, or, without a ring, nothing that waits. -/
def accessUse (r : RemoteAccess) : OpUse := if r.ring.isSome then .cmd else .pond 0 none

/-- The operation of a piece of a remote access of a command or of Gotik: `o` is its offset in the access. -/
def accessPiece (r : RemoteAccess) (a len o : Nat) : OpReq :=
  { ring := r.ring.getD gotikRing, serial := r.serial, kind := r.kind, op := r.op, size := r.size, device := r.device, addr := a
    len := len, asid := none, va := 0, use := accessUse r, payload := if r.kind = 2 then slice r.payload o len else r.payload }

/-- The pieces of a remote access, none of which crosses a 256-byte boundary: address, length and offset (R389). -/
def accessPieces (r : RemoteAccess) : List (Nat × Nat × Nat) :=
  if r.kind = 1 ∨ r.kind = 2 then (pieces 256 r.address r.length).map (fun p => (p.1, p.2, p.1 - r.address))
  else [(r.address, r.length, 0)]

/-- Whether a remote access has an issuer: a thread of a block that runs, a command, or Gotik. -/
def Dev.issuer (d : Dev) (r : RemoteAccess) : Bool :=
  match r.ring, r.block with
  | some g, some b => match d.findBlock ⟨g, r.serial, b⟩ with
    | some (_, x) => x.runs r.thread
    | none => false
  | some g, none => (d.cmd? g r.serial).isSome
  | none, _ => true

/-- A remote access of a command or of Gotik ends with a status before it is sent. -/
def Dev.remoteFailed (d : Dev) (r : RemoteAccess) (s : Half) : Dev :=
  match r.ring with
  | some g => d.endCmd g r.serial s (BitVec.ofNat 64 (r.device * 2 ^ 40 + r.address)) noUnit
  | none => d

/-- Sends the pieces of a remote access from one on, in order; those that must wait are held together. -/
def Dev.sendPieces (d : Dev) (r : RemoteAccess) (since : Nat) (hold : Dev → RemoteAccess × Nat → Dev) : List (Nat × Nat × Nat) → Dev
  | [] => d
  | p :: rest =>
    match d.issue (accessPiece r p.1 p.2.1 p.2.2) with
    | (d, .ok) => d.sendPieces r since hold rest
    | (d, .fail s) => d.remoteFailed r s
    | (d, .wait) => hold d ({ r with
        address := p.1, length := if r.kind = 1 ∨ r.kind = 2 then r.length - p.2.2 else r.length
        payload := if r.kind = 2 then r.payload.drop p.2.2 else r.payload }, since)

/-- Puts a held access at the end of the held ones. -/
def Dev.holdLast (d : Dev) (x : RemoteAccess × Nat) : Dev := { d with fab := { d.fab with held := d.fab.held ++ [x] } }

/-- Puts a held access back in its place. -/
def Dev.holdAt (i : Nat) (d : Dev) (x : RemoteAccess × Nat) : Dev :=
  { d with fab := { d.fab with held := d.fab.held.take i ++ [x] ++ d.fab.held.drop i } }

/-- REMOTE_ACCESS_ISSUE: each piece is sent, held or failed by the route entry (R389). One of a block is an instruction of the path
that issues it; one of a command or of Gotik is held behind an access to the same device that is held. -/
def Dev.remoteIssue (d : Dev) (r : RemoteAccess) : Dev :=
  if !d.issuer r ∨ r.device = d.addr ∨ r.kind < 1 ∨ 3 < r.kind then d
  else match r.ring, r.block with
  | some g, some b => d.withBlock ⟨g, r.serial, b⟩ (fun n x => d.startRemote n x r)
  | _, _ =>
  if d.fab.held.any (fun x => x.1.device = r.device) ∧ d.route r.device ≠ .none then d.holdLast (r, d.now)
  else d.sendPieces r d.now Dev.holdLast (accessPieces r)

/-- HELD_REMOTE_RELEASE: the first held access to its device is sent once the entry is valid, and ended with PARTITIONED when the
entry has gone or has been pending for native_us (R389). Where there is none, the accesses that blocks hold are tried again. -/
def Dev.remoteRelease (d : Dev) (i : Nat) : Dev :=
  match d.fab.held[i]? with
  | none => d.retryBlocks
  | some (r, since) =>
    if (d.fab.held.take i).any (fun x => x.1.device = r.device) then d
    else
      let d := if d.route r.device = .pending then d.advanceTo (NMap.getD d.fab.pendAt r.device 0 + 1000 * d.fld Fld.FAB_OP_TIMEOUT_native_us 0) else d
      let d : Dev := { d with fab := { d.fab with held := d.fab.held.eraseIdx i } }
      if d.issuer r then d.sendPieces r since (Dev.holdAt i) (accessPieces r) else d

/-- Whether a doorbell write from a source is accepted (R298, R407). -/
def Dev.takesDoorbell (d : Dev) (src : DbFrom) (i : Nat) : Bool :=
  (d.ring i).state ≠ .disabled && (d.ring i).accepts src && d.boot.phase ≠ 6

/-- The port that a doorbell write from another device or a queue pair comes in by. -/
def Dev.doorbellPort (d : Dev) (src : DbFrom) : Option Nat :=
  match src with
  | .local => none
  | .queuePair q => some (d.fld Fld.FAB_QP_CTRL_port q)
  | .device a => match d.route a with
    | .valid (hop :: _) => some hop
    | _ => none

/-- DOORBELL (R298): a doorbell write of this device, of another one or of a queue pair; accepted on a kept port it is a wake
event (R421). -/
def Dev.doorbellRow (d : Dev) (src : DbFrom) (i : Nat) (value : Wide) : Dev :=
  if i < 1024 then
    match d.doorbellPort src with
    | some p => if d.takesDoorbell src i then (d.offer src i value).wakeBy (.inbound p) else d.offer src i value
    | none => d.offer src i value
  else d

end Sys2Proof.Machine
end

