-- ==== Sys2Proof/Machine/Ethernet.lean ====
section
/-! DEFINITION. Ethernet mode (R360, R361, R376): which frames a port drops, pauses, and where a packet is delivered; Gotik's
answers to ARP, neighbour discovery and echo. -/

namespace Sys2Proof.Machine

/-! ## Checksums and addresses -/

/-- The sum of a byte string's big-endian 16-bit words, an odd last byte being the high one (RFC 1071). -/
def wordSum : Bytes → Nat
  | [] => 0
  | [a] => 256 * a.toNat
  | a :: b :: t => 256 * a.toNat + b.toNat + wordSum t

/-- Whether an internet checksum over words of this sum is right: the one's complement sum is all ones. -/
def sumOk (n : Nat) : Bool := n ≠ 0 && n % 65535 = 0

/-- The broadcast address. -/
def macBroadcast : Nat := 0xFFFFFFFFFFFF

/-- The multicast addresses of PTP (PRESUMED: IEEE 1588-2019): over Ethernet, over IPv4 and over IPv6. -/
def ptpMacs : List Nat := [0x011B19000000, 0x01005E000181, 0x333300000181]

/-- The PTP multicast group over IPv4. -/
def ptpGroup4 : Nat := 0xE0000181

/-- Whether an IPv6 address is a PTP multicast group, of any scope. -/
def isPtpGroup6 (a : Nat) : Bool := a / 2 ^ 120 = 0xFF && a % 2 ^ 112 = 0x181

/-- The destination address of flow control frames (IEEE 802.3). -/
def macControl : Nat := 0x0180C2000001

/-- A port's IPv4 address; 0 disables IPv4. -/
def Dev.ipv4 (d : Dev) (p : Nat) : Nat := d.fld Fld.FAB_P_IPV4_ipv4 p

/-- A port's IPv6 address; 0 disables IPv6. -/
def Dev.ipv6 (d : Dev) (p : Nat) : Nat := d.fld Fld.FAB_P_IPV6_HI_ipv6 p * 2 ^ 64 + d.fld Fld.FAB_P_IPV6_LO_ipv6 p

/-! ## Packets (R361) -/

/-- What a frame turns out to be. -/
inductive Packet where
  | drop
  | pfc (body : Bytes)
  /-- for Gotik, RoCEv2 or PTP: the frame's payload -/
  | unit (body : Bytes)
  | wake (body : Bytes)
  /-- a UDP datagram: source address as IPv6, destination port and payload -/
  | udp (source dst : Nat) (body : Bytes)
  deriving DecidableEq, Repr

/-- A UDP datagram: its length and, where it has one, its checksum are right (RFC 768). -/
def udpOf (source pseudo : Nat) (v6 : Bool) (b : Bytes) : Packet :=
  let n := beAt b 4 2
  let sum := beAt b 6 2
  let good : Bool := if sum = 0 then !v6 else sumOk (pseudo + 17 + n + wordSum (b.take n))
  if n < 8 ∨ b.length < n ∨ !good then .drop else .udp source (beAt b 2 2) (slice b 8 (n - 8))

/-- An IPv4 packet for a port: no options, no fragment, the header checksum right (R361). -/
def Dev.ipv4In (d : Dev) (p : Nat) (b : Bytes) : Packet :=
  let len := beAt b 2 2
  let src := beAt b 12 4
  let dst := beAt b 16 4
  let body := slice b 20 (len - 20)
  if b.length < 20 ∨ beAt b 0 1 ≠ 0x45 ∨ len < 20 ∨ b.length < len ∨ beAt b 6 2 % 16384 ≠ 0 ∨ !sumOk (wordSum (b.take 20)) then .drop
  else if d.ipv4 p = 0 ∨ (dst ≠ d.ipv4 p ∧ dst ≠ ptpGroup4) then .drop
  else if beAt b 9 1 = 17 then udpOf (0xFFFF * 2 ^ 32 + src) (wordSum (slice b 12 8)) false body
  else if beAt b 9 1 = 1 ∧ beAt body 0 2 = 0x0800 ∧ sumOk (wordSum body) then .unit b
  else .drop

/-- An IPv6 packet for a port: no extension header (R361). -/
def Dev.ipv6In (d : Dev) (p : Nat) (b : Bytes) : Packet :=
  let len := beAt b 4 2
  let src := beAt b 8 16
  let dst := beAt b 24 16
  let body := slice b 40 len
  let pseudo := wordSum (slice b 8 32)
  if b.length < 40 ∨ beAt b 0 1 / 16 ≠ 6 ∨ b.length < 40 + len then .drop
  else if d.ipv6 p = 0 ∨ (dst ≠ d.ipv6 p ∧ !isPtpGroup6 dst) then .drop
  else if beAt b 6 1 = 17 then udpOf src pseudo true body
  else if beAt b 6 1 = 58 ∧ (beAt body 0 2 = 0x8000 ∨ beAt body 0 2 = 0x8700) ∧ sumOk (pseudo + 58 + len + wordSum body) then .unit b
  else .drop

/-- What a frame is by its EtherType (R360, R361, R366, R376). 802.3 PAUSE frames are dropped. -/
def Dev.etherIn (d : Dev) (p typ : Nat) (b : Bytes) : Packet :=
  match typ with
  | 0x0800 => d.ipv4In p b
  | 0x86DD => d.ipv6In p b
  | 0x0806 => .unit b
  | 0x88F7 => .unit b
  | 0x88B5 => .wake b
  | 0x8808 => if beAt b 0 2 = 0x0101 then .pfc b else .drop
  | _ => .drop

/-- A frame without its FCS at a port: destination, then an 802.1Q tag with VID 1 to 4,094 or none, then its EtherType
(R360). A wake frame comes to the port's address or to broadcast (R376). -/
def Dev.frameIn (d : Dev) (nv : Nv) (p : Nat) (f : Bytes) : Packet :=
  let dst := beAt f 0 6
  let typ := beAt f 12 2
  let vid := beAt f 14 2 % 4096
  let direct : Bool := dst = nth nv.macs p 0 || dst = macBroadcast
  let mine : Bool := direct || ptpMacs.contains dst
  let tell := fun (x : Packet) => match x with
    | .wake b => if direct then .wake b else .drop
    | x => x
  if dst = macControl ∧ typ = 0x8808 then d.etherIn p typ (f.drop 14)
  else if !mine then .drop
  else if typ = 0x8100 then (if vid = 0 ∨ vid = 4095 then .drop else tell (d.etherIn p (beAt f 16 2) (f.drop 18)))
  else tell (d.etherIn p typ (f.drop 14))

/-! ## Delivery -/

/-- A priority-based flow control frame: each enabled priority of pfc_mask pauses for its time, in units of 512 bit times
(R360). -/
def Dev.pfcIn (d : Dev) (p : Nat) (b : Bytes) : Dev :=
  let mask := d.fld Fld.FAB_P_CTRL_pfc_mask p
  let v := beAt b 2 2
  d.modPort p (fun x => { x with
    paused := (List.range 8).filterMap (fun i =>
      if v.testBit i ∧ mask.testBit i then some (i, d.now + beAt b (4 + 2 * i) 2 * 128 / 100)
      else x.paused.find? (fun e => e.1 = i)) })

/-- Puts a payload before the unit that takes it. -/
def Dev.deliver (d : Dev) (p : Nat) (b : Bytes) : Dev := d.modPort p (fun x => { x with delivered := b :: x.delivered })

/-- The enabled tunnel neighbour with an address (R375, R386). -/
def Dev.tunnelSource (d : Dev) (ip : Nat) : Option Nat :=
  (List.range 16).find? (fun k => d.fld Fld.FAB_TUN_CTRL_enable k = 1
    && d.fld Fld.FAB_TUN_IP_HI_ip k * 2 ^ 64 + d.fld Fld.FAB_TUN_IP_LO_ip k = ip)

/-- A dropped frame (R360, R361). -/
def Dev.dropIn (d : Dev) (p : Nat) : Dev := d.bump Fld.FAB_P_DROPS_count p 1

/-- A UDP datagram, by its destination port (R361). -/
def Dev.udpIn (d : Dev) (nv : Nv) (p src dst : Nat) (b : Bytes) : Dev × Nv :=
  if dst = 4791 ∨ dst = 319 ∨ dst = 320 then (d.deliver p b, nv)
  else if dst ≠ 0 ∧ dst = d.fld Fld.CMP_POSE_UDP_udp_port 0 then (d.poseUdp p b, nv)
  else if dst ≠ 0 ∧ dst = d.fld Fld.FAB_TUNNEL_udp_port 0 then d.tunnelIn nv p (d.tunnelSource src) b
  else (d.dropIn p, nv)

/-- ETHERNET_FRAME_RECEIVE: a frame from destination address through FCS arrives on a powered port; `fcsOk` tells that neither the
FCS nor an uncorrected codeword marks it as errored (R358 to R361). In DISABLED every frame is dropped. -/
def Dev.ethernetIn (d : Dev) (nv : Nv) (p : Nat) (f : Bytes) (fcsOk : Bool) : Dev × Nv :=
  let x := d.port p
  if 8 ≤ p ∨ !x.powered then (d, nv)
  else if x.modeActive = 2 then (d.dropIn p, nv)
  else if x.modeActive ≠ 0 ∨ !x.linkUp then (d, nv)
  else
    let d := d.rxBytes p f.length
    if !fcsOk ∨ f.length < 64 ∨ 9216 < f.length then (d.dropIn p, nv)
    else match d.frameIn nv p (f.take (f.length - 4)) with
      | .drop => (d.dropIn p, nv)
      | .pfc b => (d.pfcIn p b, nv)
      | .unit b => (d.deliver p b, nv)
      | .wake b => (d.wakeFrameIn nv p b, nv)
      | .udp src dst b => d.udpIn nv p src dst b

/-- ARP_ND_ICMP: Gotik answers for the port's address where IPv4 or IPv6 is enabled on it (R361). -/
def Dev.netQuery (d : Dev) (nv : Nv) (p : Nat) (q : NetQuery) : Dev :=
  let x := d.port p
  let mac := nth nv.macs p 0
  let say := fun (a : NetAnswer) => d.modPort p (fun x => { x with sent := .net a :: x.sent })
  if 8 ≤ p ∨ x.modeActive ≠ 0 ∨ !x.linkUp then d
  else match q with
    | .arp ip toIp toMac => if ip ≠ 0 ∧ ip.toNat = d.ipv4 p then say (.arp ip mac toIp toMac) else d
    | .neighbour ip toIp toMac => if ip ≠ 0 ∧ ip.toNat = d.ipv6 p then say (.neighbour ip mac toIp toMac) else d
    | .echo4 ip toIp ident seq data => if ip ≠ 0 ∧ ip.toNat = d.ipv4 p then say (.echo4 ip toIp ident seq data) else d
    | .echo6 ip toIp ident seq data => if ip ≠ 0 ∧ ip.toNat = d.ipv6 p then say (.echo6 ip toIp ident seq data) else d

end Sys2Proof.Machine
end

