-- ==== Sys2Proof/Machine/Matrix.lean ====
section
/-! DEFINITION. Course-wide arithmetic: OpBlockMatMulAddSTOLKALOR (R92 to R109), OpConvertRoundedSTOLKALOR (R116 to
R130) and OpBlockQuantizeSTOLKALOR (R131 to R133), with the counters of stochastic rounding (R122, R123). -/

namespace Sys2Proof.Machine

/-! ## Classes and shapes (R93 to R97) -/

/-- The class of an element format: 0 16-bit float, 1 8-bit float, 2 narrow float, 3 8-bit integer, 4 4-bit integer. -/
def matrixClass : Nat → Nat
  | 0 => 0 | 1 => 0 | 2 => 1 | 3 => 1 | 4 => 2 | 5 => 2 | 6 => 2 | 7 => 3 | 8 => 3 | _ => 4

/-- K of a class (R97). -/
def matrixK : Nat → Nat
  | 0 => 16 | 1 => 32 | 2 => 64 | 3 => 32 | _ => 64

/-- Whether the formats and the block length may stand together (R94, R95). -/
def matrixOk (fa fb : Nat) (bl : Option Nat) : Bool :=
  let c := matrixClass fa
  fa ≤ 10 && fb ≤ 10 && matrixClass fb = c && (c ≠ 0 || fa = fb)
    && (match bl with
      | none => true
      | some l => (l = 16 || l = 32) && (c = 1 || c = 2))

/-- Element `e` of a lane's fragment (R102). -/
def fragElem (f : NumFmt) (regs : List Word) (e : Nat) : Nat := streamGet regs f.width e

/-- Element A[m][k], or B[k][n] with `m` the column (R102). -/
def fragAt (f : NumFmt) (frag : List (List Word)) (k m kk : Nat) : Nat :=
  let h := k / 2
  fragElem f (nth frag (m + 16 * (kk / h)) []) (kk % h)

/-- The scale byte of block `j` of row or column `m` (R104). -/
def scaleAt (k bl : Nat) (scales : List Word) (m j : Nat) : Nat :=
  let h := k / 2
  let first := j * bl
  let half := first / h
  let i := (first % h) / bl
  ((nth scales (m + 16 * half) 0).toNat / 256 ^ i) % 256

/-- Element C[m][n] of an accumulator fragment (R102). -/
def accAt (c : List (List Word)) (m n : Nat) : Word := nth (nth c (n + 16 * (m / 8)) []) (m % 8) 0

/-! ## Float classes -/

/-- Adds the two partial sums that one number of the order names, rounding once (R105). -/
def addStep (order : Nat) (l : List FVal) : List FVal :=
  let n := l.length
  let i := order % n
  let x := nth l i .nan
  let l := l.eraseIdx i
  let j := order / n % (n - 1)
  let y := nth l j .nan
  f32Val (Fmt.fp32.rne (x.add y)) :: l.eraseIdx j

/-- Adds partial sums until one is left; `fuel` bounds the number of additions. -/
def addAll : Nat → List Nat → List FVal → FVal
  | 0, _, l => l.headD .nan
  | fuel + 1, order, l => if l.length ≤ 1 then l.headD .nan else addAll fuel (order.drop 1) (addStep (order.headD 0) l)

/-- The exact terms of one element (R105, R107). -/
def floatTerms (fa fb : NumFmt) (k : Nat) (m : MatArgs) (row col : Nat) : List FVal :=
  (List.range k).map (fun kk =>
    let p := (fa.decode (fragAt fa m.a k row kk)).mul (fb.decode (fragAt fb m.b k col kk))
    match m.blockLength with
    | none => p
    | some bl => (p.mul (e8m0Val (scaleAt k bl m.scaleA row (kk / bl)))).mul (e8m0Val (scaleAt k bl m.scaleB col (kk / bl))))

/-- One element of a float-class result, its additions in the order of a free choice (R105). -/
def floatElem (fa fb : NumFmt) (k : Nat) (m : MatArgs) (free row col : Nat) : Word :=
  let ts := floatTerms fa fb k m row col
  BitVec.ofNat 32 (Fmt.fp32.rne (addAll k (Config.matrixOrder (free + 16 * row + col)) (f32Val (accAt m.c row col).toNat :: ts)))

/-! ## Integer classes -/

/-- The integer an element code stands for. -/
def intElem (f : NumFmt) (c : Nat) : Int :=
  match f with
  | .int true w => signed w c
  | _ => (c : Int)

/-- One element of an integer-class result, modulo 2^32 (R109). -/
def intDot (fa fb : NumFmt) (k : Nat) (m : MatArgs) (row col : Nat) : Word :=
  (List.range k).foldl (fun acc kk =>
    acc + BitVec.ofInt 32 (intElem fa (fragAt fa m.a k row kk) * intElem fb (fragAt fb m.b k col kk))) (accAt m.c row col)

/-! ## The instruction -/

/-- The eight result registers of a lane (R102). -/
def laneAcc (elem : Nat → Nat → Word) (lane : Nat) : List Word :=
  (List.range 8).map (fun r => elem (8 * (lane / 16) + r) (lane % 16))

/-- The quadrant of a course of a block (R44). -/
def Block.quadOf (b : Block) (course : Nat) : Nat := (b.quad + course) % 4

/-- Whether the path that issues a course-wide instruction holds all 32 lanes (R101). -/
def Block.wholeCourse (b : Block) (course : Nat) (active : List Nat) : Bool :=
  32 * course + 32 ≤ b.threads && (List.range 32).all (fun l => active.contains l && !b.exited.contains (32 * course + l))

/-- Whether the lanes of a path are lanes of the course that run. -/
def Block.pathRuns (b : Block) (course : Nat) (active : List Nat) : Bool :=
  !active.isEmpty && active.all (fun l => l < 32 && b.runs (32 * course + l))

/-- BLOCK_MAT_MUL_ADD: D = A × B + C over one course; a path of fewer than 32 lanes writes nothing and ends the dispatch
(R92 to R109). -/
def Dev.matMulAdd (d : Dev) (m : MatArgs) : Dev :=
  d.withBlock m.ref (fun n b =>
    match NumFmt.ofCode m.formatA, NumFmt.ofCode m.formatB with
    | some fa, some fb =>
      if matrixOk m.formatA m.formatB m.blockLength && b.pathRuns m.course m.active then
        if b.wholeCourse m.course m.active then
          let c := matrixClass m.formatA
          let k := matrixK c
          let d := d.count 0x0003 1 (d.blockAttr n b)
          let free := d.freeCtr
          let d := if c < 3 then { d with freeCtr := free + 256 } else d
          let elem := fun row col => if c < 3 then floatElem fa fb k m free row col else intDot fa fb k m row col
          (List.range 32).foldl (fun d l => d.give n m.ref (32 * m.course + l) (laneAcc elem l)) d
        else d.endByBlock n b Sts.matrixPartialCourse
      else d
    | _, _ => d)

/-! ## Stochastic rounding counters (R123) -/

/-- The dispatch a block belongs to. -/
def Dev.launchOf (d : Dev) (b : Block) : Option DispatchRun :=
  match d.cmd? b.ring b.serial with
  | some c => match c.run with
    | .dispatch r => some r
    | _ => none
  | none => none

/-- The counter of a launch on a quadrant of a brick. -/
def srCount (sr : List (Nat × Nat × Nat)) (n q : Nat) : Nat :=
  match sr.find? (fun e => e.1 = n && e.2.1 = q) with
  | some e => e.2.2
  | none => 0

/-- Advances the counter, which has 41 bits. -/
def Dev.srAdvance (d : Dev) (n : Nat) (b : Block) (q k : Nat) : Dev :=
  d.modCmd b.ring b.serial (fun c => match c.run with
    | .dispatch r => { c with run := .dispatch { r with
        sr := r.sr.map (fun e => if e.1 = n ∧ e.2.1 = q then (n, q, (e.2.2 + k) % 2 ^ 41) else e) } }
    | _ => c)

/-- A rounding mode from its encoding (R116). -/
def Rounding.ofCode : Nat → Option Rounding
  | 0 => some .nearestEven
  | 1 => some .towardZero
  | 2 => some .stochastic
  | _ => none

/-! ## OpConvertRoundedSTOLKALOR -/

/-- Whether a module may hold the conversion (R116, R118, R129). -/
def convOk (src tgt : NumFmt) (mode : Rounding) (overflow n : Nat) : Bool :=
  let intTgt := match tgt with | .int _ _ => true | _ => false
  let narrow := decide (tgt = .flt .e2m3) || decide (tgt = .flt .e3m2) || decide (tgt = .flt .e2m1)
  convertible src tgt && overflow ≤ 2 && 1 ≤ n && n ≤ 32
    && !(mode = .stochastic && (intTgt || decide (tgt = .e8m0) || decide (src = tgt)))
    && !(decide (tgt = .e8m0) && decide (src = .flt .fp32) && mode ≠ .towardZero)
    && !(overflow = 2 && (narrow || intTgt))

/-- CONVERT_ROUNDED: each lane of the path converts its elements; STOCHASTIC draws from the launch's counter on the
quadrant (R116 to R130). -/
def Dev.convert (d : Dev) (x : ConvArgs) : Dev :=
  d.withBlock x.ref (fun n b =>
    match NumFmt.ofCode x.source, NumFmt.ofCode x.target, Rounding.ofCode x.rounding with
    | some src, some tgt, some mode =>
      if convOk src tgt mode x.overflow x.count && b.pathRuns x.course (x.lanes.map (·.1)) then
        let q := b.quadOf x.course
        let r := d.launchOf b
        let seed := match d.cmd? b.ring b.serial with
          | some c => (dispatchD c.desc).seed
          | none => 0
        let c := srCount ((r.map (·.sr)).getD []) n q
        let ov := Overflow.resolve x.overflow tgt
        let d := x.lanes.foldl (fun d l =>
          let codes := (List.range x.count).map (fun i =>
            convertElem src tgt mode ov (draw seed n q (c + i) l.1) (streamGet l.2 src.width i))
          d.give n x.ref (32 * x.course + l.1) (streamPut tgt.width x.words codes)) d
        if mode = .stochastic then d.srAdvance n b q x.count else d
      else d
    | _, _, _ => d)

/-! ## OpBlockQuantizeSTOLKALOR -/

/-- BLOCK_QUANTIZE: one scale and 32 or 16 element codes for each block of lanes; a path of fewer than 32 lanes writes
nothing and ends the dispatch (R101, R131 to R133). -/
def Dev.quantize (d : Dev) (x : QuantArgs) : Dev :=
  d.withBlock x.ref (fun n b =>
    match NumFmt.ofCode x.target, Rounding.ofCode x.rounding with
    | some (.flt f), some mode =>
      if 2 ≤ x.target && x.target ≤ 6 && (x.blockLength = 16 || x.blockLength = 32) && b.pathRuns x.course x.active then
        if b.wholeCourse x.course x.active then
          let q := b.quadOf x.course
          let r := d.launchOf b
          let seed := match d.cmd? b.ring b.serial with
            | some c => (dispatchD c.desc).seed
            | none => 0
          let c := srCount ((r.map (·.sr)).getD []) n q
          let vals := (List.range 32).map (fun l => (f32Val (nth x.values l 0).toNat, draw seed n q c l))
          let blocks := if x.blockLength = 32 then [vals] else [vals.take 16, vals.drop 16]
          let outs := blocks.flatMap (fun v =>
            let z := quantizeBlock x.target f mode v
            z.2.map (fun e => [BitVec.ofNat 32 e, BitVec.ofNat 32 z.1]))
          let d := (List.range 32).foldl (fun d l => d.give n x.ref (32 * x.course + l) (nth outs l [0, 0])) d
          if mode = .stochastic then d.srAdvance n b q 1 else d
        else d.endByBlock n b Sts.matrixPartialCourse
      else d
    | _, _ => d)

end Sys2Proof.Machine
end

