-- ==== Sys2Proof/Machine/Options.lean ====
section
/-! DEFINITION. Option loading, boot phase 2 (R395, R438), and the exit from DEEP (R401). -/

namespace Sys2Proof.Machine

/-- Writes an option set; writes to the reset registers are skipped (R474). -/
def Dev.applyOptions (d : Dev) (nv : Nv) (ws : List (Nat × Nat × Wide)) : Dev :=
  ws.foldl (fun (d : Dev) w => (d.windowWrite nv .option w.1 w.2.1 w.2.2).1) d

/-- Whether the option block is accepted (R436, R438). -/
def Nv.optionsOk (nv : Nv) : Bool := !nv.options.signed.isEmpty && nv.ownerSigned nv.options.signed

/-- Option loading: an accepted block's writes are made and measured; otherwise the Reset values stay (R400, R438, R439). -/
def Dev.loadOptions (d : Dev) (nv : Nv) : Dev :=
  if nv.optionsOk then
    let d := (d.extend 1 2 (sha256 nv.options.signed)).applyOptions nv nv.options.writes
    d.extend 3 4 (sha256 (leBytes 4 (d.regs.get (Reg.FAB_DISC.at 0) Reg.FAB_DISC.reset).toNat))
  else { d with boot := { d.boot with optionsDefault := true } }

/-- The owner certificate and the kernel libraries that verify are measured (R438, R439). -/
def Dev.measureRest (d : Dev) (nv : Nv) : Dev :=
  let d := if nv.ownerKey.isSome then d.extend 4 5 (sha256 nv.ownerCert) else d
  (nv.libraries.filter nv.vendorSigned).foldl (fun (d : Dev) l => d.extend 2 3 (sha256 l)) d

/-- BOOT_PHASE_2: the option block is verified and its registers are written; boot continues either way (R400, R438). -/
def Dev.phase2 (d : Dev) (nv : Nv) : Dev :=
  if d.booting 2 then (((d.phaseEnds 80000000).loadOptions nv).measureRest nv).toPhase 3 else d

/-- The device out of DEEP with its retained set: in RUN at phase 3, the tick generator started anew, tags invalidated
(R41, R209, R401). -/
def Dev.outOfDeep (d : Dev) (r : Retained) (t : Nat) : Dev :=
  let d : Dev := { d with
    boot := { d.boot with
      phase := 3, slot := r.slot, imageDigest := r.digest, securityVersion := r.securityVersion
      optionsDefault := r.optionsDefault, anchor := t, kick := d.now }
    pwr := PwrSt.start d.now
    tick := TickGen.start d.now
    regs := { d.regs with file := r.meas.foldl (fun m e => NMap.set m e.1 e.2) d.regs.file } }
  (d.setFld Fld.SEC_STATUS_log_overflow 0 (BitVec.ofNat 64 (bitN r.overflow))).tagsDone.report (.progress 3)

/-- DEEP_EXIT: the image is reloaded and compared with the retained digest; on a match the measurement log and the option set
are restored, the tick generator restarts from it, and the device enters phase 3; else a device reset of source FW_WATCHDOG starts
(R41, R401, R439). -/
def Dev.deepExit (d : Dev) (nv : Nv) : Dev :=
  match d.pwr.state, d.pwr.waking, d.pwr.retained with
  | .deep, some t, some r =>
    if sha256 (if r.slot = 0 then nv.slot0 else nv.slot1) = r.digest then
      ((d.outOfDeep r t).applyOptions nv r.options).restartTick
    else d.deviceReset 6 d.now
  | _, _, _ => d

/-! ## The recorder's last rounds (R446) -/

/-- Before DEEP or OFF takes the accumulator, what is pending is applied (R446). -/
def Dev.lastRound (d : Dev) : Dev :=
  match d.pwr.entering with
  | some (.deep, _) => if d.recPending then d.applyRound else d
  | some (.off, _) => if d.recPending then d.applyRound else d
  | _ => d

end Sys2Proof.Machine
end

