-- ==== Sys2Proof/Machine/Pins.lean ====
section
/-! DEFINITION. The boundary-scan port (R466): the TAP controller of IEEE 1149.1. -/

namespace Sys2Proof.Machine

/-- The state of the TAP controller after a rising TCK (PRESUMED: IEEE 1149.1, which R466 names): 0 Test-Logic-Reset, 1
Run-Test/Idle, 2 to 8 Select-DR, Capture-DR, Shift-DR, Exit1-DR, Pause-DR, Exit2-DR, Update-DR, and 9 to 15 the same for IR. -/
def tapNext (s : Nat) (tms : Bool) : Nat :=
  match s, tms with
  | 0, true => 0 | 0, false => 1
  | 1, true => 2 | 1, false => 1
  | 2, true => 9 | 2, false => 3
  | 3, true => 5 | 3, false => 4
  | 4, true => 5 | 4, false => 4
  | 5, true => 8 | 5, false => 6
  | 6, true => 7 | 6, false => 6
  | 7, true => 8 | 7, false => 4
  | 8, true => 2 | 8, false => 1
  | 9, true => 0 | 9, false => 10
  | 10, true => 12 | 10, false => 11
  | 11, true => 12 | 11, false => 11
  | 12, true => 15 | 12, false => 13
  | 13, true => 14 | 13, false => 13
  | 14, true => 15 | 14, false => 11
  | 15, true => 2 | 15, false => 1
  | _, _ => 0

/-- The TAP controller at a state, with TDO driven in the two shift states only. What it shifts out is not given. -/
def Dev.tapAt (d : Dev) (s : Nat) : Dev :=
  if s = 4 ∨ s = 11 then
    let n := d.fresh
    { n.2 with pins := { n.2.pins with tap := s, tdo := some (Config.tdo n.1) } }
  else { d with pins := { d.pins with tap := s, tdo := none } }

/-- One TCK cycle; TRST_N low resets the controller. -/
def Dev.tapClock (d : Dev) (c : TapClock) : Dev := d.tapAt (if c.trstN then tapNext d.pins.tap c.tms else 0)

/-- BOUNDARY_SCAN: while debug is LOCKED the TAP is held in Test-Logic-Reset and TDO is high-impedance (R466). -/
def Dev.boundaryScan (d : Dev) (cs : List TapClock) : Dev :=
  if d.fld Fld.SEC_STATUS_debug 0 = 0 then d.tapAt 0 else cs.foldl (fun (d : Dev) c => d.tapClock c) d

end Sys2Proof.Machine
end

