-- ==== Sys2Proof/Machine/Act.lean ====
section
/-! DEFINITION. How a command acts on the machine: on the device while it serves commands, on its fuses and flash, or on its
supply and pins whatever its state. -/

namespace Sys2Proof.Machine

/-- What every command answers. -/
abbrev Answer := Host.Outcome State Fault Refusal

/-- Whether the device serves commands: it is powered and neither in DEEP nor in OFF (R415), not halted (R400), and phase 2 is
not held by a brown-out (R403). -/
def Dev.serves (d : Dev) : Bool := d.live && !d.boot.halted && !d.pins.holdPhase2

/-- A command that changes the device while it serves. -/
def State.act (s : State) (f : Dev → Dev) : Answer := .next (if s.dev.serves then { s with dev := f s.dev } else s)

/-- A command that may change fuses or flash too. -/
def State.actNv (s : State) (f : Dev → Nv → Dev × Nv) : Answer :=
  .next (if s.dev.serves then { s with dev := (f s.dev s.nv).1, nv := (f s.dev s.nv).2 } else s)

/-- An event of the supply, the pins or the power states, which decides for itself when it acts. -/
def State.always (s : State) (f : Dev → Dev) : Answer := .next { s with dev := f s.dev }

/-- Whether a source can issue commands: Gotik once it has started (R400, R437). -/
def Dev.ready (d : Dev) (src : CmdSource) : Bool :=
  match src with
  | .ring _ _ => true
  | .gotik _ _ _ => 2 ≤ d.boot.phase

/-- A row of the ring commands. -/
def State.ringRow (s : State) (src : CmdSource) (row : Line → Bool) (f : Dev → Cmd → Dev) : Answer :=
  s.act (fun d => if d.ready src then d.runRow src row f else d)

/-- A row of the signed commands, by op (R443). -/
def State.signedRow (s : State) (src : CmdSource) (op : Nat) : Answer :=
  s.actNv (fun d nv => if d.ready src then d.signedRow nv src op else (d, nv))

/-- A write of a register by a source that may write it ends IDLE (R3, R417). -/
def Dev.touch (d : Dev) (src : RegSource) (off : Nat) : Dev := if d.mayWriteReg src off then d.leaveIdle else d

/-- A row that is a write of a register, answered with its status (R3). -/
def State.regRow (s : State) (src : RegSource) (off : Nat) (f : Dev → Dev) : Answer :=
  s.act (fun d => (f (d.touch src off)).answered src off (d.writeStatus src off))

/-- A row that only a source of R3, or Gotik where the spec has it write, can perform; it is answered with its status (R3). -/
def State.regRowIf (s : State) (src : RegSource) (off : Nat) (f : Dev → Dev) : Answer :=
  s.act (fun d => (if d.mayWriteReg src off then f d.leaveIdle else d).answered src off (d.writeStatus src off))

/-- A discovery row: what the domain then allows is tried again (R393). -/
def State.domainRow (s : State) (f : Dev → Nv → Dev) : Answer := s.act (fun d => (f d s.nv).serveHeld s.nv)

end Sys2Proof.Machine
end

