-- ==== Sys2Proof/Machine/RowsBlocks.lean ====
section
/-! DEFINITION. The meaning of each command about dispatches, blocks and their lanes (chapters 3 to 6). -/

namespace Sys2Proof.Machine

/-- DISPATCH (R59): Checks a GLCompute launch and starts its blocks in linear index order. -/
def execDispatch (src : CmdSource) (s : State) : Answer := s.ringRow src (isOp 0x21) Dev.runDispatch

/-- BLOCK_PLACE (R44): A waiting block or cluster is placed on a brick once R44's conditions hold. -/
def execBlockPlace (ref : BlockRef) (bricks : List Nat) (s : State) : Answer := s.act (fun d => d.placeUnit ref bricks)

/-- BRICK_DRAIN_SELECT (R56): The scheduler chooses one brick of another split to drain for waiting work. -/
def execBrickDrainSelect (ref : BlockRef) (s : State) : Answer := s.act (fun d => d.selectDrain ref)

/-- BLOCK_EXIT (R65): A block's last lane exits and its slots and registers are released. -/
def execBlockExit (ref : BlockRef) (threads : List Nat) (s : State) : Answer := 
  s.act (fun d => (d.exitThreads ref threads).passAfter ref)

/-- DISPATCH_COMPLETE (R60): After the last block exits and all stores are performed, the dispatch completes and signals its
fence. -/
def execDispatchComplete (ring : Nat) (serial : Wide) (s : State) : Answer := s.act (fun d => d.completeDispatch ring serial)

/-- DIVERGENT_BARRIER (R74): When every non-exited lane of a block or cluster is blocked, the dispatch ends with
DIVERGENT_BARRIER. -/
def execDivergentBarrier (ref : BlockRef) (s : State) : Answer := s.act (fun d => d.divergentEnd ref)

/-- WATCHDOG (R75): A block's stall interval reaches BRK_STALL_LIMIT and the dispatch ends with WATCHDOG. -/
def execWatchdog (ref : BlockRef) (s : State) : Answer := s.act (fun d => d.watchdogEnd ref)

/-- OP_CONTROL_BARRIER (R72): A lane arrives at a barrier instance and blocks until every non-exited lane in scope has
arrived. -/
def execOpControlBarrier (ref : BlockRef) (scope : Scope) (site : Nat) (threads : List Nat) (s : State) : Answer :=
  s.act (fun d => d.controlBarrier ref scope site threads)

/-- KERNEL_LOAD_STORE (R81): The plain load or store of a path's lanes, split into naturally aligned parts. -/
def execKernelLoadStore (a : PathAccess) (s : State) : Answer := s.act (fun d => d.loadStore a)

/-- MEMORY_RELEASE (R79): A release at cluster, device or fabric scope writes back dirty pond lines and waits for remote
acknowledgements. -/
def execMemoryRelease (ref : BlockRef) (release : ReleaseArgs) (s : State) : Answer :=
  s.act (fun d => d.memRelease ref release.threads release.order)

/-- MEMORY_ACQUIRE (R79): An acquire at cluster scope or wider invalidates clean pond lines of the covered storage classes. -/
def execMemoryAcquire (ref : BlockRef) (order : MemOrder) (s : State) : Answer :=
  s.act (fun d => d.memAcquire ref order)

/-- ATOMIC_LOAD_STORE (R84): OpAtomicLoad or OpAtomicStore performed in its home slice or pond. -/
def execAtomicLoadStore (store : Bool) (a : AtomicArgs) (s : State) : Answer :=
  s.act (fun d => d.atomicRow (if store then .store else .load) a)

/-- ATOMIC_EXCHANGE (R84): OpAtomicExchange on integer or FP32. -/
def execAtomicExchange (a : AtomicArgs) (s : State) : Answer := s.act (fun d => d.atomicRow .exchange a)

/-- ATOMIC_COMPARE_EXCHANGE (R88): OpAtomicCompareExchange, at most one of equal comparators succeeding. -/
def execAtomicCompareExchange (a : AtomicArgs) (s : State) : Answer := s.act (fun d => d.atomicRow .cas a)

/-- ATOMIC_INTEGER_ADD (R84): Integer add, subtract, increment or decrement, wrapping. -/
def execAtomicIntegerAdd (k : AddKind) (a : AtomicArgs) (s : State) : Answer := s.act (fun d => d.atomicRow (.add k) a)

/-- ATOMIC_MIN_MAX (R84): Signed or unsigned integer atomic minimum or maximum. -/
def execAtomicMinMax (k : MinMaxKind) (a : AtomicArgs) (s : State) : Answer := s.act (fun d => d.atomicRow (.minMax k) a)

/-- ATOMIC_BITWISE (R84): Atomic AND, OR or XOR. -/
def execAtomicBitwise (k : BitKind) (a : AtomicArgs) (s : State) : Answer := s.act (fun d => d.atomicRow (.bitwise k) a)

/-- ATOMIC_FLOAT_ADD (R89): FP32 or FP16 atomic add rounded to nearest even. -/
def execAtomicFloatAdd (a : AtomicArgs) (s : State) : Answer := s.act (fun d => d.atomicRow .fadd a)

/-- CLUSTER_LOCAL_ACCESS (R64): A ClusterLocal access reaches a peer's local store or, when out of range, returns zero and
counts. -/
def execClusterLocalAccess (a : PathAccess) (s : State) : Answer := s.act (fun d => d.clusterLoadStore a)

/-- BLOCK_MAT_MUL_ADD (R92): OpBlockMatMulAddSTOLKALOR computes D = A x B + C over one course on the quadrant's matrix pipe.
-/
def execBlockMatMulAdd (m : MatArgs) (s : State) : Answer := s.act (fun d => d.matMulAdd m)

/-- CONVERT_ROUNDED (R116): OpConvertRoundedSTOLKALOR converts N elements with the chosen rounding and overflow mode. -/
def execConvertRounded (c : ConvArgs) (s : State) : Answer := s.act (fun d => d.convert c)

/-- BLOCK_QUANTIZE (R131): OpBlockQuantizeSTOLKALOR produces element codes and an E8M0 block scale across a course. -/
def execBlockQuantize (q : QuantArgs) (s : State) : Answer := s.act (fun d => d.quantize q)

end Sys2Proof.Machine
end

