-- ==== Sys2Proof/Machine/RowsDomain.lean ====
section
/-! DEFINITION. The meaning of each command about the fabric domain (chapter 17). -/

namespace Sys2Proof.Machine

/-- HELLO (R380): A HELLO is sent every hello_us on each link. -/
def execHello (hop : Nat) (s : State) : Answer := s.act (fun d => d.helloSend s.nv hop)

/-- HELLO_RECEIVE (R381): A received HELLO updates the neighbour and the ranking of candidates. -/
def execHelloReceive (hop : Nat) (payload : Bytes) (s : State) : Answer := s.domainRow (fun d nv => d.helloTaken nv hop payload)

/-- REPORT (R383): A REPORT is relayed toward the parent and its arrival hop recorded. -/
def execReport (hop : Nat) (payload : Bytes) (s : State) : Answer := s.act (fun d => d.reportTaken s.nv hop payload)

/-- ASSIGN (R383): An ASSIGN is relayed toward its target, which adopts the address. -/
def execAssign (hop : Nat) (payload : Bytes) (s : State) : Answer := s.domainRow (fun d nv => d.assignTaken nv hop payload)

/-- LIST_REQ (R379): A neighbour asks for a chunk of a newer membership list. -/
def execListReq (hop : Nat) (payload : Bytes) (s : State) : Answer := s.act (fun d => d.listAsked s.nv hop payload)

/-- LIST_DATA (R391): A chunk of a membership list arrives and a complete verified list is adopted. -/
def execListData (hop : Nat) (payload : Bytes) (s : State) : Answer := s.actNv (fun d nv => d.listData nv hop payload)

/-- NEIGHBOUR_LOST (R381): Three hello_us intervals pass without a HELLO and the neighbour is lost. -/
def execNeighbourLost (hop : Nat) (s : State) : Answer := s.act (fun d => d.neighbourGone s.nv hop)

/-- MANAGER_ELECTED (R382): An eligible device that was its own best candidate for settle_us becomes manager. -/
def execManagerElected (s : State) : Answer := s.domainRow (fun d nv => d.managerChosen nv)

/-- MANAGER_LOST (R382): manager_seq fails to advance for manager_timeout_us and a new election starts. -/
def execManagerLost (s : State) : Answer := s.act (fun d => d.managerGone s.nv)

/-- SIDE_DECIDE (R392): The manager or coordinator decides its component's side on a topology change. -/
def execSideDecide (s : State) : Answer := s.domainRow (fun d nv => d.sideDecided nv)

/-- LEASE_EXPIRY (R393): A device that has not seen manager_seq advance for 4 hello_us becomes FORMING. -/
def execLeaseExpiry (s : State) : Answer := s.act Dev.leaseEnded

/-- REJOIN (R394): A link joins an owning component to another and the manager re-forms the domain. -/
def execRejoin (hop : Nat) (s : State) : Answer := s.domainRow (fun d nv => d.rejoined nv hop)

/-- WAKE_FRAME (R376): A wake frame addressed to the device arrives on a kept Ethernet-mode port. -/
def execWakeFrame (port : Nat) (payload : Bytes) (s : State) : Answer := s.act (fun d => d.wakeFrameIn s.nv port payload)

end Sys2Proof.Machine
end

