-- ==== Sys2Proof/Machine/RowsGraphics.lean ====
section
/-! DEFINITION. The meaning of each command about the raster pipeline and composition (chapters 7 and 8). -/

namespace Sys2Proof.Machine

/-- RENDER_PASS (R140): Checks a pass, bins its draws, renders and stores every tile and completes. -/
def execRenderPass (src : CmdSource) (s : State) : Answer := s.ringRow src (isOp 0x30) Dev.runRenderPass

/-- HEAP_GROW_REQUEST (R156): A front-end with no free chunk stops binning and asks Gotik for chunks. -/
def execHeapGrowRequest (ring : Nat) (serial : Wide) (frontEnd : Nat) (s : State) : Answer :=
  s.act (fun d => d.growRequest ring serial frontEnd)

/-- HEAP_GROW_GRANT (R156): Gotik maps reserve chunks for the pass and binning resumes. -/
def execHeapGrowGrant (ring : Nat) (serial : Wide) (chunks : Nat) (s : State) : Answer :=
  s.act (fun d => d.growGrant ring serial chunks)

/-- HEAP_GROW_TIMEOUT (R156): No grant arrives within 20 µs and the PARTIAL or FAIL sequence starts. -/
def execHeapGrowTimeout (ring : Nat) (serial : Wide) (s : State) : Answer := s.act (fun d => d.growTimeout ring serial)

/-- POSE_SUBMIT (R178): Command that offers a 64-byte pose packet to its pose slot. -/
def execPoseSubmit (src : CmdSource) (s : State) : Answer := s.ringRow src (isOp 0x38) Dev.runPoseSubmit

/-- POSE_PACKET_UDP (R178): A pose datagram arriving on the pose UDP port is checked and accepted into its slot or discarded.
-/
def execPosePacketUdp (port : Nat) (payload : Bytes) (s : State) : Answer := s.act (fun d => d.poseUdp port payload)

/-- LAYER_PUBLISH (R182): Copies a layer descriptor and its image descriptors into the composition engine's copy. -/
def execLayerPublish (src : CmdSource) (s : State) : Answer := s.ringRow src (isOp 0x39) Dev.runLayerPublish

/-- POSE_LATCH (R176): lead_ns before a slice's due edge the engine latches the pose slot and starts composing the slice. -/
def execPoseLatch (stream : Nat) (s : State) : Answer := s.act (fun d => d.poseLatchRow stream)

/-- SLICE_DUE_EDGE (R190): At a slice's due edge its outcome is decided, the record written and the stream fence signalled.
-/
def execSliceDueEdge (stream : Nat) (s : State) : Answer := s.act (fun d => d.sliceDue stream)

/-- OUTGEOM_COMMIT (R197): Write of CMP_S_COMMIT.outgeom stages the stream's output geometry set. -/
def execOutgeomCommit (src : RegSource) (stream : Nat) (s : State) : Answer :=
  s.regRow src Reg.CMP_S_COMMIT.off (fun d => d.outgeomStage src stream)

/-- OUTGEOM_TAKE_EFFECT (R197): At the first slice-0 latch after the commit the staged OUTGEOM set is checked and committed
or refused. -/
def execOutgeomTakeEffect (stream : Nat) (s : State) : Answer := s.act (fun d => d.outgeomEffect stream)

/-- CMATRIX_COMMIT (R197): Write of CMP_S_COMMIT.cmatrix stages the colour matrix set. -/
def execCmatrixCommit (src : RegSource) (stream : Nat) (s : State) : Answer :=
  s.regRow src Reg.CMP_S_COMMIT.off (fun d => d.cmatrixStage src stream)

/-- CMATRIX_TAKE_EFFECT (R197): At the next slice latch the staged CMATRIX set is checked and committed or refused. -/
def execCmatrixTakeEffect (stream : Nat) (s : State) : Answer := s.act (fun d => d.cmatrixEffect stream)

end Sys2Proof.Machine
end

