-- ==== Sys2Proof/Machine/RowsMemory.lean ====
section
/-! DEFINITION. The meaning of each command about maintenance, translation, faults and compression (chapters 9 to 11). -/

namespace Sys2Proof.Machine

/-- MAINTAIN_CLEAN (R211): Writes back dirty lines of a range from ponds and lake. -/
def execMaintainClean (src : CmdSource) (s : State) : Answer :=
  s.ringRow src (fun l => isOp 0x40 l && (mntOp l = 0 || mntOp l = 3)) Dev.runMaintain

/-- MAINTAIN_INVALIDATE (R211): Discards lines of a range from ponds and lake. -/
def execMaintainInvalidate (src : CmdSource) (s : State) : Answer :=
  s.ringRow src (fun l => isOp 0x40 l && mntOp l = 1) Dev.runMaintain

/-- MAINTAIN_CLEAN_INVALIDATE (R211): Cleans and then discards lines of a range. -/
def execMaintainCleanInvalidate (src : CmdSource) (s : State) : Answer :=
  s.ringRow src (fun l => isOp 0x40 l && mntOp l = 2) Dev.runMaintain

/-- MAINTENANCE_OP_START (R213): A queued maintenance operation starts on its die's engine when the previous one ends. -/
def execMaintenanceOpStart (die : Nat) (s : State) : Answer := s.act (fun d => d.maintStart die)

/-- FAULT_RESUME (R242): Drops cached translations, replays or fails a batch's records and frees its entries. -/
def execFaultResume (src : CmdSource) (s : State) : Answer :=
  s.actNv (fun d nv => if d.ready src then d.resumeRow nv src else (d, nv))

/-- XLT_INVALIDATE (R246): Queues an invalidation of a range or address space. -/
def execXltInvalidate (src : CmdSource) (s : State) : Answer := s.ringRow src (isOp 0x49) Dev.runInvalidate

/-- INVALIDATION_START (R246): A queued invalidation starts, drops cached translations and waits for old transfers. -/
def execInvalidationStart (s : State) : Answer := s.act Dev.invalStart

/-- INVALIDATION_TIMEOUT (R246): At XLT_INV_TIMEOUT remaining old transfers are terminated with INVALIDATED. -/
def execInvalidationTimeout (s : State) : Answer := s.act Dev.invalTimeout

/-- INVALIDATION_COMPLETE (R246): Old transfers have ended, and the invalidation completes and signals its fence. -/
def execInvalidationComplete (s : State) : Answer := s.act Dev.invalDone

/-- TABLE_WALK (R227): A translation miss walks the four-level table and checks the leaf. -/
def execTableWalk (asid part : Nat) (va : Wide) (write atomic execute : Bool) (length : Nat) (s : State) : Answer :=
  s.act (fun d => d.tableWalk asid part va (accessOf write atomic execute) length)

/-- FAULT_BATCH_CLOSE (R239): A batch closes on 256 records, its window or a full ring, and the address space fence is
signalled. -/
def execFaultBatchClose (asid : Nat) (s : State) : Answer := s.act (fun d => d.batchWindow asid)

/-- FAULT_RING_ROOM (R240): Room appears in a full fault ring and a stalled stream's record is written. -/
def execFaultRingRoom (asid : Nat) (s : State) : Answer := s.act (fun d => d.ringRoom asid)

/-- STREAM_CODEC_COMPRESS (R268): Stream job that compresses input to DEFLATE, zlib or gzip. -/
def execStreamCodecCompress (src : CmdSource) (s : State) : Answer :=
  s.ringRow src (fun l => isOp 0x50 l && !(streamD l).decompress) Dev.runStream

/-- STREAM_CODEC_DECOMPRESS (R271): Stream job that decompresses DEFLATE, zlib, gzip or Zstandard input. -/
def execStreamCodecDecompress (src : CmdSource) (s : State) : Answer :=
  s.ringRow src (fun l => isOp 0x50 l && (streamD l).decompress) Dev.runStream

/-- STREAM_JOB_START (R268): An accepted stream job waiting in the queue starts when a job slot frees. -/
def execStreamJobStart (s : State) : Answer := s.act Dev.jobFromQueue

/-- CODEC_RECODE (R263): Rewrites every block of a range in a target mode with the bytes it decodes to. -/
def execCodecRecode (src : CmdSource) (s : State) : Answer := s.ringRow src (isOp 0x51) Dev.runRecode

/-- CODEC_BLOCK_WRITE_BACK (R256): A window block's lines are evicted from the lake and encoded in the block's target mode.
-/
def execCodecBlockWriteBack (addr : Nat) (s : State) : Answer := s.act (fun d => d.blockBack addr)

/-- CODEC_BLOCK_MERGE (R256): A partial write to a block not held in the lake is decoded, merged and re-encoded in the home
slice. -/
def execCodecBlockMerge (addr : Nat) (data : Bytes) (target : Option Nat) (s : State) : Answer :=
  s.act (fun d => d.blockMerge addr data target)

end Sys2Proof.Machine
end

