-- ==== Sys2Proof/Machine/RowsPartitions.lean ====
section
/-! DEFINITION. The meaning of each command about the sequence engine, partitions and signed commands (chapters 12, 15 and 20). -/

namespace Sys2Proof.Machine

/-- STEP (R280): Moves a pool's batch forward one token: departures, growth with suspensions, admissions, manifest. -/
def execStep (src : CmdSource) (s : State) : Answer := s.ringRow src (isOp 0x58) Dev.runStep

/-- GUEST_PAGE_REQUEST (R282): A peer pool accepts or refuses n guest pages for a MIGRATE victim. -/
def execGuestPageRequest (pool device pages : Nat) (s : State) : Answer := s.act (fun d => d.guestRequest pool device pages)

/-- POOLCFG_COMMIT (R289): Write of SEQ_P_COMMIT stages a pool configuration. -/
def execPoolcfgCommit (src : RegSource) (pool : Nat) (s : State) : Answer :=
  s.regRow src Reg.SEQ_P_COMMIT.off (fun d => d.poolStage src pool)

/-- POOLCFG_TAKE_EFFECT (R289): When no STEP of the pool runs, the staged set is checked and committed or refused. -/
def execPoolcfgTakeEffect (pool : Nat) (s : State) : Answer := s.act (fun d => d.poolEffect pool)

/-- ABORT_RING (R354): Aborts one ring, ending its work within 2 ms. -/
def execAbortRing (src : CmdSource) (s : State) : Answer :=
  s.ringRow src (fun l => isOp 0x60 l && !abtPartition l) Dev.runAbortRing

/-- ABORT_PARTITION (R354): Aborts every ring of the partition except the control ring within 2 ms. -/
def execAbortPartition (src : CmdSource) (s : State) : Answer :=
  s.ringRow src (fun l => isOp 0x60 l && abtPartition l) Dev.runAbortPartition

/-- PREEMPT (R347): Stops a ring, drains it, saves its bricks and commands to a save area and disables it. -/
def execPreempt (src : CmdSource) (s : State) : Answer := s.ringRow src (isOp 0x61) Dev.runPreempt

/-- PREEMPT_SAVE_POINT (R348): The drain ends and the brick records and header are written. -/
def execPreemptSavePoint (ring : Nat) (s : State) : Answer := s.act (fun d => d.savePoint ring)

/-- RESTORE (R352): Verifies a save area, recreates the ring and restores its saved blocks. -/
def execRestore (src : CmdSource) (s : State) : Answer := s.ringRow src (isOp 0x62) Dev.runRestore

/-- AUTO_PREEMPT (R345): Work within budget waits 20 µs for room and the scheduler saves the blocks of one brick. -/
def execAutoPreempt (part : Nat) (s : State) : Answer := s.act (fun d => d.autoPreempt part)

/-- SAVED_BLOCK_RESTORE (R345): Saved blocks are restored when bricks of the partition have room. -/
def execSavedBlockRestore (part : Nat) (bricks : List Nat) (s : State) : Answer := s.act (fun d => d.restoreUnit part bricks)

/-- PARTCFG_COMMIT (R335): Write of PAR_P_COMMIT stages a partition configuration for the next tick edge. -/
def execPartcfgCommit (src : RegSource) (part : Nat) (s : State) : Answer :=
  s.regRow src Reg.PAR_P_COMMIT.off (fun d => if part < 8 then d.commitBy src (.part part) else d)

/-- SIGNED_COMMAND_RECORDER_CLEAR (R451): Signed command that clears every histogram and extreme in one round. -/
def execSignedCommandRecorderClear (src : CmdSource) (s : State) : Answer := s.signedRow src 1

/-- SIGNED_COMMAND_MEMBERSHIP (R391): Signed command that installs a new membership list on an owning device. -/
def execSignedCommandMembership (src : CmdSource) (s : State) : Answer := s.signedRow src 2

/-- SIGNED_COMMAND_FIRMWARE_UPDATE (R444): Signed command that verifies an image and writes it to both flash slots. -/
def execSignedCommandFirmwareUpdate (src : CmdSource) (s : State) : Answer := s.signedRow src 3

/-- SIGNED_COMMAND_DEBUG_UNLOCK (R444): Signed command that opens boundary scan or full debug until the next device reset. -/
def execSignedCommandDebugUnlock (src : CmdSource) (s : State) : Answer := s.signedRow src 4

/-- SIGNED_COMMAND_MGMT_GRANT (R444): Signed command that grants or revokes a management address. -/
def execSignedCommandMgmtGrant (src : CmdSource) (s : State) : Answer := s.signedRow src 5

/-- SIGNED_COMMAND_OWNER_BIND (R444): Signed command that programs the owner key hash and stores the owner certificate. -/
def execSignedCommandOwnerBind (src : CmdSource) (s : State) : Answer := s.signedRow src 6

end Sys2Proof.Machine
end

