-- ==== Sys2Proof/Machine/RowsPorts.lean ====
section
/-! DEFINITION. The meaning of each command about the ports (chapter 16). -/

namespace Sys2Proof.Machine

/-- ETHERNET_FRAME_RECEIVE (R360): An Ethernet-mode port receives a frame and drops it or delivers it by EtherType and UDP
port. -/
def execEthernetFrameReceive (port : Nat) (frame : Bytes) (fcsOk : Bool) (s : State) : Answer :=
  s.actNv (fun d nv => d.ethernetIn nv port frame fcsOk)

/-- ARP_ND_ICMP (R361): Gotik answers ARP, IPv6 neighbour discovery and ICMP echo. -/
def execArpNdIcmp (port : Nat) (q : NetQuery) (s : State) : Answer := s.act (fun d => d.netQuery s.nv port q)

/-- ROCE_SEND (R364): A RoCEv2 SEND consumes a receive slot and signals the receive fence. -/
def execRoceSend (r : RoceReq) (s : State) : Answer := s.act (fun d => d.roceIn (.roceSend r) d.now r (fun d => d.roceSendRow r))

/-- ROCE_RDMA_WRITE (R363): A RoCEv2 RDMA WRITE is checked against its R_Key and performed or NAKed. -/
def execRoceRdmaWrite (r : RoceReq) (s : State) : Answer :=
  s.act (fun d => d.roceIn (.roceRdmaWrite r) d.now r (fun d => d.roceWriteRow r))

/-- ROCE_RDMA_WRITE_IMM (R364): A RoCEv2 RDMA WRITE with immediate writes data and consumes a receive slot. -/
def execRoceRdmaWriteImm (r : RoceReq) (s : State) : Answer :=
  s.act (fun d => d.roceIn (.roceRdmaWriteImm r) d.now r (fun d => d.roceWriteImmRow r))

/-- ROCE_RDMA_READ (R363): A RoCEv2 RDMA READ is checked and answered with data. -/
def execRoceRdmaRead (r : RoceReq) (s : State) : Answer :=
  s.act (fun d => d.roceIn (.roceRdmaRead r) d.now r (fun d => d.roceReadRow r))

/-- ROCE_ATOMIC (R362): A RoCEv2 fetch-add or compare-swap on an aligned 8-byte word. -/
def execRoceAtomic (r : RoceReq) (op : RoceAtomicOp) (s : State) : Answer :=
  s.act (fun d => d.roceIn (.roceAtomic r op) d.now r (fun d => d.roceAtomicRow r op))

/-- ROCE_ECN_CE (R365): A packet marked ECN-CE is answered with a CNP at most once per 50 µs per QP. -/
def execRoceEcnCe (qp : Nat) (s : State) : Answer := s.act (fun d => (d.roceWakes qp).ecnMark qp)

/-- ROCE_CNP_RECEIVE (R365): A received CNP halves the QP's send rate. -/
def execRoceCnpReceive (qp : Nat) (s : State) : Answer := s.act (fun d => (d.roceWakes qp).cnpReceived qp)

/-- ROCE_RATE_RECOVERY (R365): Each 55 µs without a CNP raises the QP's send rate by 20 Gb/s. -/
def execRoceRateRecovery (qp : Nat) (s : State) : Answer := s.act (fun d => d.rateRise qp)

/-- MORTAR_READ (R373): An inbound Mortar READ is performed untranslated and answered. -/
def execMortarRead (port : Nat) (f : MortarFrame) (s : State) : Answer := s.act (fun d => d.requestRow s.nv 1 none port f)

/-- MORTAR_WRITE (R373): An inbound Mortar WRITE is performed untranslated and answered. -/
def execMortarWrite (port : Nat) (f : MortarFrame) (s : State) : Answer := s.act (fun d => d.requestRow s.nv 2 none port f)

/-- MORTAR_ATOMIC (R373): An inbound Mortar ATOMIC is performed in the home slice and answered with the old value. -/
def execMortarAtomic (port : Nat) (f : MortarFrame) (s : State) : Answer := s.act (fun d => d.requestRow s.nv 3 none port f)

/-- MORTAR_RESPONSE (R374): A RESPONSE is delivered when slot, generation and epoch match, otherwise dropped. -/
def execMortarResponse (port : Nat) (f : MortarFrame) (s : State) : Answer := s.act (fun d => d.responseRow port f)

/-- MORTAR_DOORBELL (R373): An inbound DOORBELL frame offers a doorbell count from its source. -/
def execMortarDoorbell (port : Nat) (f : MortarFrame) (s : State) : Answer := s.act (fun d => d.requestRow s.nv 5 none port f)

/-- MORTAR_FENCE_SIGNAL (R317): A forwarded signal through a FABRIC_FENCE is performed at home and acknowledged. -/
def execMortarFenceSignal (port : Nat) (f : MortarFrame) (s : State) : Answer :=
  s.act (fun d => d.requestRow s.nv 6 (some 0) port f)

/-- MORTAR_FENCE_INCREMENT (R317): A forwarded increment signal is performed at home. -/
def execMortarFenceIncrement (port : Nat) (f : MortarFrame) (s : State) : Answer :=
  s.act (fun d => d.requestRow s.nv 6 (some 1) port f)

/-- MORTAR_FENCE_UPDATE (R317): Home's new value is applied to a subscriber's mirror as a signal. -/
def execMortarFenceUpdate (port : Nat) (f : MortarFrame) (s : State) : Answer :=
  s.act (fun d => d.requestRow s.nv 6 (some 2) port f)

/-- MORTAR_FENCE_SUBSCRIBE (R316): A device asks home to export a FENCE and answers with its value. -/
def execMortarFenceSubscribe (port : Nat) (f : MortarFrame) (s : State) : Answer :=
  s.act (fun d => d.requestRow s.nv 6 (some 3) port f)

/-- MORTAR_FENCE_UNSUBSCRIBE (R316): A subscription ends and home frees its export slot after the last one. -/
def execMortarFenceUnsubscribe (port : Nat) (f : MortarFrame) (s : State) : Answer :=
  s.act (fun d => d.requestRow s.nv 6 (some 4) port f)

/-- MORTAR_FENCE_END (R317): Home ends a subscription because its FENCE was freed and the mirror becomes LOST. -/
def execMortarFenceEnd (port : Nat) (f : MortarFrame) (s : State) : Answer := s.act (fun d => d.requestRow s.nv 6 (some 5) port f)

/-- FRAME_FORWARD (R388): A frame addressed to another device is forwarded on its hashed path or dropped. -/
def execFrameForward (port : Nat) (f : MortarFrame) (s : State) : Answer := s.act (fun d => d.forwardRow port f)

/-- LINK_ACK (R371): A LINK ACK frees acknowledged frames from the replay buffer and returns credits. -/
def execLinkAck (port : Nat) (f : MortarFrame) (s : State) : Answer := s.act (fun d => d.linkAck port f)

/-- LINK_NAK (R371): A LINK NAK makes the sender replay from the frame after the one named. -/
def execLinkNak (port : Nat) (f : MortarFrame) (s : State) : Answer := s.act (fun d => d.linkNak port f)

/-- LINK_FRAME_SEND (R370): The receiver sends a LINK frame at least every 64 frames and every 1 µs. -/
def execLinkFrameSend (port : Nat) (s : State) : Answer := s.act (fun d => d.linkSend port)

/-- REPLAY_TIMEOUT (R371): 10 µs without progress makes the sender replay from its oldest unacknowledged frame. -/
def execReplayTimeout (port : Nat) (s : State) : Answer := s.act (fun d => d.replayTimeout port)

/-- LINK_DOWN (R372): 16 replays without progress or loss of PCS lock takes the port down and it retrains. -/
def execLinkDown (port : Nat) (s : State) : Answer := s.act (fun d => d.linkDown port)

/-- LINK_UP (R359): A port reaches link_up in its configured mode. -/
def execLinkUp (port : Nat) (s : State) : Answer := s.act (fun d => d.linkIsUp port)

/-- OP_TIMEOUT (R374): An outstanding fabric operation with no matching response ends with PARTITIONED. -/
def execOpTimeout (slot : Nat) (s : State) : Answer := s.act (fun d => d.opTimedOut slot)

/-- TUNNEL_DATAGRAM (R375): A UDP datagram to the tunnel port carries a whole Mortar frame that is checked and handled. -/
def execTunnelDatagram (port : Nat) (source : Option Nat) (payload : Bytes) (s : State) : Answer :=
  s.actNv (fun d nv => d.tunnelIn nv port source payload)

/-- REMOTE_ACCESS_ISSUE (R389): A translated access through a fabric leaf is issued as Mortar frames, held or failed by the
route entry. -/
def execRemoteAccessIssue (r : RemoteAccess) (s : State) : Answer := s.act (fun d => d.remoteIssue r)

/-- HELD_REMOTE_RELEASE (R389): A request held on a pending route is sent when the entry becomes valid or ends after
native_us. -/
def execHeldRemoteRelease (index : Nat) (s : State) : Answer := s.act (fun d => d.remoteRelease index)

end Sys2Proof.Machine
end

