-- ==== Sys2Proof/Machine/RowsPower.lean ====
section
/-! DEFINITION. The meaning of each command about supply, reset, boot and power (chapters 18, 19 and 22). -/

namespace Sys2Proof.Machine

/-- POWER_ON (R398): Internal power-good rises and a cold reset starts boot. -/
def execPowerOn (s : State) : Answer := s.always Dev.powerOn

/-- BROWN_OUT (R398): The input stays below 36 V for 50 µs, causing a cold reset or a phase-2 restart. -/
def execBrownOut (us : Nat) (standby : Bool) (s : State) : Answer := s.always (fun d => d.brownOut us standby)

/-- OVERVOLTAGE (R460): The input exceeds 62 V for 10 µs and every rail turns off. -/
def execOvervoltage (mv us : Nat) (s : State) : Answer :=
  if beyondMaximum mv us then .fault .absoluteMaximum else s.always (fun d => d.overvoltage mv us)

/-- RESET_N (R396): A qualified low on RESET_N holds the device in reset and starts a device reset at release. -/
def execResetN (lowNs : Nat) (s : State) : Answer := s.always (fun d => d.resetPin lowNs)

/-- RST_DEVICE_RESET (R474): Write of RST_DEVICE_RESET with the key starts a device reset. -/
def execRstDeviceReset (src : RegSource) (value : Word) (s : State) : Answer :=
  s.regRow src Reg.RST_DEVICE_RESET.off (fun d => d.resetWrite src value)

/-- RST_PART_RESET (R408): Write of RST_PART_RESET starts a partition reset that completes within 2 ms. -/
def execRstPartReset (src : RegSource) (value : Word) (s : State) : Answer :=
  s.regRow src Reg.RST_PART_RESET.off (fun d => d.partResetWrite src value)

/-- RST_BLOCK_RESET (R409): Write of RST_BLOCK_RESET resets one block within 100 µs. -/
def execRstBlockReset (src : RegSource) (value : Word) (s : State) : Answer :=
  s.regRow src Reg.RST_BLOCK_RESET.off (fun d => d.blockResetWrite src value)

/-- FW_WATCHDOG (R398): The firmware watchdog expires without a kick and a device reset starts. -/
def execFwWatchdog (s : State) : Answer := s.act Dev.watchdogExpires

/-- RST_WDOG_KICK (R398): A write by Gotik restarts the firmware watchdog count. -/
def execRstWdogKick (src : RegSource) (s : State) : Answer :=
  s.regRow src Reg.RST_WDOG_KICK.off (fun d => d.kick src)

/-- BOOT_PHASE_0 (R400): Fuses load and tags are invalidated, or the device halts. -/
def execBootPhase0 (fuseOk : Bool) (s : State) : Answer := s.always (fun d => d.phase0 fuseOk)

/-- BOOT_PHASE_1 (R437): The boot ROM verifies a Gotik image and starts Gotik, or halts. -/
def execBootPhase1 (s : State) : Answer := s.always (fun d => d.phase1 s.nv)

/-- BOOT_PHASE_2 (R438): Gotik verifies the option block and writes its registers. -/
def execBootPhase2 (s : State) : Answer := s.always (fun d => d.phase2 s.nv)

/-- BOOT_PHASE_3 (R404): Early service begins, port groups power and walls self-check. -/
def execBootPhase3 (check : SelfCheck) (s : State) : Answer := s.always (fun d => d.phase3 check)

/-- DRAM_TRAINING_END (R406): DRAM training ends and Gotik moves the device into full service. -/
def execDramTrainingEnd (check : SelfCheck) (s : State) : Answer := s.always (fun d => (d.trainingEnd check).serveHeld s.nv)

/-- PWR_TARGET_SLEEP (R419): Write of PWR_CTRL.target SLEEP begins entry into SLEEP. -/
def execPwrTargetSleep (src : RegSource) (s : State) : Answer :=
  s.regRow src Reg.PWR_CTRL.off (fun d => d.enter src .sleep)

/-- PWR_TARGET_DEEP (R419): Write of PWR_CTRL.target DEEP begins entry into DEEP. -/
def execPwrTargetDeep (src : RegSource) (s : State) : Answer :=
  s.regRow src Reg.PWR_CTRL.off (fun d => d.enter src .deep)

/-- PWR_TARGET_OFF (R419): Write of PWR_CTRL.target OFF begins entry into OFF. -/
def execPwrTargetOff (src : RegSource) (s : State) : Answer :=
  s.regRow src Reg.PWR_CTRL.off (fun d => d.enter src .off)

/-- PWR_TARGET_RUN (R416): Write of PWR_CTRL.target RUN starts the return to RUN from SLEEP or an entry. -/
def execPwrTargetRun (src : RegSource) (s : State) : Answer :=
  s.regRow src Reg.PWR_CTRL.off (fun d => d.targetRun src)

/-- POWER_STATE_REACHED (R422): At AO cycle W the new state takes hold and level wake sources are sampled. -/
def execPowerStateReached (asserted : Option WakeSource) (s : State) : Answer :=
  s.always (fun d => d.lastRound.stateReached s.nv asserted)

/-- AUTO_IDLE (R417): After idle_us with nothing to do the device enters IDLE. -/
def execAutoIdle (s : State) : Answer := s.act Dev.autoIdle

/-- IDLE_EXIT (R417): An event needing bricks, lake or DRAM ends IDLE within 2 µs. -/
def execIdleExit (s : State) : Answer := s.act Dev.leaveIdle

/-- WAKE_EVENT (R421): An enabled wake source wakes the device or abandons an entry. -/
def execWakeEvent (w : WakeSource) (s : State) : Answer := s.always (fun d => d.wakeEvent w)

/-- SLEEP_EXIT (R425): The device powers domains, leaves self-refresh, invalidates tags and returns to RUN. -/
def execSleepExit (s : State) : Answer := s.always (fun d => d.sleepExit.serveHeld s.nv)

/-- DEEP_EXIT (R401): Exit from DEEP reloads and checks the Gotik image and enters phase 3. -/
def execDeepExit (s : State) : Answer := s.always (fun d => d.deepExit s.nv)

/-- DEEP_TIMER (R421): The DEEP timer expires and latches a wake. -/
def execDeepTimer (s : State) : Answer := s.always Dev.deepTimer

/-- DOMAIN_POWER_ON (R427): A switched domain becomes usable 10 µs after it is powered. -/
def execDomainPowerOn (domain : Nat) (s : State) : Answer := s.act (fun d => d.domainOn domain)

/-- DVFS_CHANGE (R429): A wall moves to a new effective point in voltage and frequency order. -/
def execDvfsChange (wall : Nat) (s : State) : Answer := s.act (fun d => d.dvfsDone wall)

/-- POWER_CAP_MOVE (R431): The capping controller moves walls one point slower or faster from the 1 ms mean. -/
def execPowerCapMove (meanW meanMv : Nat) (s : State) : Answer := s.act (fun d => d.capMove meanW meanMv)

/-- CAP_EXCEEDED (R432): Walls at their floor stay over the cap for 10 ms and ALERT_N is driven low. -/
def execCapExceeded (meanW meanMv : Nat) (s : State) : Answer := s.act (fun d => d.overCap meanW meanMv)

/-- THERMAL_FORCE (R432): Over 650 W or 100 °C forces every wall to P7 until released. -/
def execThermalForce (meanW hottestC : Nat) (s : State) : Answer := s.act (fun d => d.force meanW hottestC)

/-- THERMAL_TRIP (R470): A junction at 110 °C turns off every rail but standby and latches THERM_TRIP_N. -/
def execThermalTrip (hottestC : Nat) (s : State) : Answer := s.always (fun d => d.thermTrip hottestC)

end Sys2Proof.Machine
end

