-- ==== Sys2Proof/Machine/RowsRegisters.lean ====
section
/-! DEFINITION. The meaning of each command about set-up registers, attestation, the recorder and pins (chapters 9, 11, 16, 20 to 22). -/

namespace Sys2Proof.Machine

/-- LAKE_MEM_WAYS_CHANGE (R205): Write of MEM_LAKE_MEM_WAYS converts ways one at a time to or from memory mode. -/
def execLakeMemWaysChange (src : RegSource) (value : Word) (s : State) : Answer :=
  s.regRowIf src Reg.MEM_LAKE_MEM_WAYS.off (fun d => d.setMemWays (value.toNat % 65536))

/-- TAG_INVALIDATION (R209): Hardware invalidates lake and pond tags without write-back. -/
def execTagInvalidation (s : State) : Answer := s.act (fun d => d.tagsInvalid s.nv)

/-- LAKE_PREFETCH (R207): A demand miss also fetches the next line into the cache or side buffer. -/
def execLakePrefetch (addr : Nat) (brick : Option Nat) (s : State) : Answer := s.act (fun d => d.prefetch addr brick)

/-- CPR_CWIN_WRITE (R272): Write of CPR_CWIN enables, changes or is refused for the compressible window. -/
def execCprCwinWrite (src : RegSource) (value : Word) (s : State) : Answer :=
  s.regRow src Reg.CPR_CWIN.off (fun d => d.cwinWrite src value)

/-- FAB_P_CTRL_MODE (R359): Write of FAB_P_CTRL.mode takes the port down and up in the new mode. -/
def execFabPCtrlMode (src : RegSource) (port : Nat) (value : Word) (s : State) : Answer :=
  s.regRow src Reg.FAB_P_CTRL.off (fun d => d.portMode src port value)

/-- ATTEST_GO (R440): Write of go snapshots the measurements and starts a signed attestation report. -/
def execAttestGo (src : RegSource) (s : State) : Answer := s.regRowIf src Reg.SEC_ATTEST_CTRL.off (fun d => d.attestStart s.nv)

/-- ATTEST_DONE (R440): The signed report is placed in SEC_REPORT and attest_done is set. -/
def execAttestDone (s : State) : Answer := s.act (fun d => d.attestEnd s.nv)

/-- RECORDER_ROUND (R445): The recorder applies the accumulator to bins and pairs, advancing REC_SEQ by 2. -/
def execRecorderRound (s : State) : Answer := s.act Dev.recRound

/-- RECORDER_WINDOW_END (R448): A REC_WINDOW period ends and each windowed histogram gains one entry. -/
def execRecorderWindowEnd (s : State) : Answer := s.act Dev.windowEnd

/-- EXTREMES_SAMPLE (R449): Every 1 ms each extreme pair samples its quantity. -/
def execExtremesSample (samples : List Sample) (s : State) : Answer := s.act (fun d => d.sample samples)

/-- REC_CTRL_HOLD (R450): Write of REC_CTRL.hold stops or releases recorder rounds. -/
def execRecCtrlHold (src : RegSource) (hold : Bool) (s : State) : Answer :=
  s.regRow src Reg.REC_CTRL.off (fun d => d.recHold src hold)

/-- HOLD_EXPIRY (R450): Hold clears by itself 1 ms after it was set and hold_expired is set. -/
def execHoldExpiry (s : State) : Answer := s.act Dev.holdEnd

/-- PMC_CTRL_FREEZE (R452): Write of PMC_CTRL freezes or restarts all counters in one I/O clock. -/
def execPmcCtrlFreeze (src : RegSource) (value : Word) (s : State) : Answer :=
  s.regRow src Reg.PMC_CTRL.off (fun d => d.pmcCtrl src value)

/-- BW_WINDOW_CLOSE (R455): A port bandwidth window closes and tx_last, rx_last and window_serial update. -/
def execBwWindowClose (port : Nat) (s : State) : Answer := s.act (fun d => d.bwClose port)

/-- PMC_BW_WINDOW_WRITE (R455): Write of PMC_BW_WINDOW discards the window in progress and starts a new one. -/
def execPmcBwWindowWrite (src : RegSource) (value : Word) (s : State) : Answer :=
  s.regRow src Reg.PMC_BW_WINDOW.off (fun d => d.bwWrite src value)

/-- MIRROR_WRITE (R456): Every mirror period the device writes a partition's counter mirror. -/
def execMirrorWrite (part : Nat) (s : State) : Answer := s.act (fun d => d.mirror part)

/-- REGISTER_WRITE (R8): A write to a set-up register without its own row, subject to source, width and encoding checks. -/
def execRegisterWrite (src : RegSource) (offset width : Nat) (value : Wide) (s : State) : Answer :=
  s.act (fun d => (d.windowWrite s.nv src offset width value).1)

/-- STANDBY_RAIL_LOSS (R470): The 48 V input falls below 20 V, the standby rail leaves regulation, retention is lost and a
latched THERM_TRIP_N is released. -/
def execStandbyRailLoss (s : State) : Answer := s.always Dev.standbyLoss

/-- THERMAL_FORCE_RELEASE (R432): Once neither 650 W nor 100 °C has held for 1 ms, the forced P7 on every wall is released.
-/
def execThermalForceRelease (meanW hottestC : Nat) (s : State) : Answer := s.act (fun d => d.forceEnd meanW hottestC)

/-- SHARED_OPERATION_TIMEOUT (R393): A shared-object operation that waits while its device is FORMING ends with PARTITIONED
after native_us. -/
def execSharedOperationTimeout (ring : Nat) (serial : Wide) (s : State) : Answer :=
  s.act (fun d => if ring = gotikRing then d.heldTimedOut s.nv serial.toNat else d.sharedEnds ring serial)

/-- MORTAR_FRAME_DISCARD (R371): A received Mortar frame with a bad CRC or an unexpected sequence number is discarded and a
NAK naming the last in-order frame is sent. -/
def execMortarFrameDiscard (port : Nat) (f : MortarFrame) (s : State) : Answer := s.act (fun d => d.frameDiscard port f)

/-- BOUNDARY_SCAN (R466): TCK, TMS, TDI and TRST_N drive the IEEE 1149.1 TAP once DEBUG_UNLOCK has opened it. -/
def execBoundaryScan (clocks : List TapClock) (s : State) : Answer :=
  s.always (fun d => if d.live then d.boundaryScan clocks else d)

end Sys2Proof.Machine
end

