-- ==== Sys2Proof/Machine/RowsRings.lean ====
section
/-! DEFINITION. The meaning of each command about rings, objects, fences and kernels (chapters 13 and 14). -/

namespace Sys2Proof.Machine

/-- NOP (R324): Command that does nothing and completes with OK, signalling its fence in ring order. -/
def execNop (src : CmdSource) (s : State) : Answer := s.ringRow src (isOp 0x01) Dev.runNop

/-- RING_CREATE (R293): Control command that checks and creates a ring in RUNNING with its counts set to start. -/
def execRingCreate (src : CmdSource) (s : State) : Answer := s.ringRow src (isOp 0x10) Dev.runRingCreate

/-- RING_CONTROL_DESTROY (R294): Stops a ring's fetching and puts it in DESTROYING until its accepted commands retire. -/
def execRingControlDestroy (src : CmdSource) (s : State) : Answer :=
  s.ringRow src (fun l => isOp 0x11 l && (rctlOp l = 0 || rctlOp l = 3)) Dev.runRingDestroy

/-- RING_CONTROL_RESTART (R294): Sets a STOPPED ring's fetch count and returns the ring to RUNNING. -/
def execRingControlRestart (src : CmdSource) (s : State) : Answer :=
  s.ringRow src (fun l => isOp 0x11 l && rctlOp l = 1) Dev.runRingRestart

/-- RING_CONTROL_BUDGET (R294): Changes a ring's per-tick budget, subject to admission for HARD and FIRM rings. -/
def execRingControlBudget (src : CmdSource) (s : State) : Answer :=
  s.ringRow src (fun l => isOp 0x11 l && rctlOp l = 2) Dev.runRingBudget

/-- RING_DISABLED_RELEASE (R294): When a DESTROYING ring's last command retires, the ring becomes DISABLED and its release
fence is signalled. -/
def execRingDisabledRelease (ring : Nat) (s : State) : Answer := s.act (fun d => d.ringReleased ring)

/-- OBJ_CREATE (R305): Creates a MEMORY, FENCE or FABRIC_FENCE object and writes its handle to result. -/
def execObjCreate (src : CmdSource) (s : State) : Answer := s.ringRow src (isOp 0x12) Dev.runObjCreate

/-- OBJ_FREE (R308): Increments an entry's generation, drops the owner reference and completes. -/
def execObjFree (src : CmdSource) (s : State) : Answer := s.ringRow src (isOp 0x13) Dev.runObjFree

/-- OBJECT_ENTRY_FREED (R308): When an entry's reference count reaches 0 it becomes FREE and its release fence is signalled.
-/
def execObjectEntryFreed (index : Nat) (s : State) : Answer := s.act (fun d => d.freeEntry index)

/-- FENCE_WAIT (R313): Waits until a fence word reaches a value, taking a watch slot or parking. -/
def execFenceWait (src : CmdSource) (s : State) : Answer := s.ringRow src (isOp 0x14) Dev.runFenceWait

/-- FENCE_WAIT_SATISFIED (R315): A waited word is examined after a write to its line, and a satisfied wait ends with OK. -/
def execFenceWaitSatisfied (ring : Nat) (serial : Wide) (s : State) : Answer := s.act (fun d => d.waitDone ring serial)

/-- WAIT_TIMEOUT (R313): A FENCE_WAIT still unsatisfied at its timeout_ticks-th tick edge completes with WAIT_TIMEOUT. -/
def execWaitTimeout (ring : Nat) (serial : Wide) (s : State) : Answer := s.act (fun d => d.waitTimedOut ring serial)

/-- PARKED_WAIT_TAKES_SLOT (R315): When a watch slot is freed, the longest-parked wait takes it and is examined at once. -/
def execParkedWaitTakesSlot (s : State) : Answer := s.act Dev.unpark

/-- FENCE_SIGNAL (R314): Command that performs a max or increment signal on a fence and completes after it. -/
def execFenceSignal (src : CmdSource) (s : State) : Answer := s.ringRow src (isOp 0x15) Dev.runFenceSignal

/-- KERNEL_LOAD (R326): Creates a kernel object in TRANSLATING and hands the SPIR-V module to Gotik for translation. -/
def execKernelLoad (src : CmdSource) (s : State) : Answer := s.ringRow src (isOp 0x20) Dev.runKernelLoad

/-- KERNEL_TRANSLATION_END (R51): Translation ends in READY or REJECTED, the resource record is written and waiting commands
proceed or fail. -/
def execKernelTranslationEnd (index : Nat) (t : Translation) (s : State) : Answer := s.act (fun d => d.translationEnd index t)

end Sys2Proof.Machine
end

