-- ==== Sys2Proof/Machine/RowsSprings.lean ====
section
/-! DEFINITION. The meaning of each command about springs (chapter 9). -/

namespace Sys2Proof.Machine

/-- SPRING_DESCRIPTOR_STORE (R215): A plain store writes part of a spring's descriptor through the spring port. -/
def execSpringDescriptorStore (ref : BlockRef) (spring offset : Nat) (data : Bytes) (s : State) : Answer :=
  s.act (fun d => if spring < 4 ∧ offset < 64 then d.withBlock ref (fun n b => d.portStore n b (256 * spring + offset) data false) else d)

/-- SPRING_START (R217): A compare-exchange of the control word from 0 to 1 starts an idle spring and reads its descriptor.
-/
def execSpringStart (ref : BlockRef) (spring : Nat) (s : State) : Answer :=
  s.act (fun d => if spring < 4 then d.withBlock ref (fun n b => (d.portCas n b (256 * spring + 0x40) 8 0 1).1) else d)

/-- SPRING_STOP (R222): The owner stores 0 to the control word and the spring returns to idle. -/
def execSpringStop (ref : BlockRef) (spring : Nat) (s : State) : Answer :=
  s.act (fun d => if spring < 4 then d.withBlock ref (fun n b => d.portStore n b (256 * spring + 0x40) (leBytes 8 0) true) else d)

/-- SPRING_RELEASE (R221): The owner writes a mask to release ready slots for refill. -/
def execSpringRelease (ref : BlockRef) (spring : Nat) (mask : Byte) (s : State) : Answer :=
  s.act (fun d => if spring < 4 then d.withBlock ref (fun n b => d.portStore n b (256 * spring + 0x50) (leBytes 8 mask.toNat) false) else d)

/-- SPRING_TILE_FETCH (R218): A spring fetches the next tile into its slot once the tile slots earlier has been released. -/
def execSpringTileFetch (brick spring : Nat) (s : State) : Answer := s.act (fun d => d.tileFetch brick spring)

/-- SPRING_TILE_READY (R220): Every byte of a tile has arrived and its slot's ready bit is set with release semantics. -/
def execSpringTileReady (brick spring slot : Nat) (s : State) : Answer := s.act (fun d => d.tileReady brick spring slot)

/-- SPRING_PORT_BAD_ACCESS (R215): A disallowed spring-port access reads zero, writes nothing and counts in MEM_SPRING_ERR.
-/
def execSpringPortBadAccess (ref : BlockRef) (offset size : Nat) (store atomic : Bool) (s : State) : Answer :=
  s.act (fun d => d.withBlock ref (fun _ _ => if portAllows offset size store atomic then d else d.springErr))

end Sys2Proof.Machine
end

