-- ==== Sys2Proof/Machine/RowsSubmission.lean ====
section
/-! DEFINITION. The meaning of each command about doorbells, fetching, retirement and the site tick (chapters 2 and 13). -/

namespace Sys2Proof.Machine

/-- DOORBELL (R298): An 8-byte write to a doorbell slot offers a new doorbell count to a ring. -/
def execDoorbell (source : DbFrom) (ring : Nat) (value : Wide) (s : State) : Answer :=
  s.act (fun d => d.doorbellRow source ring value)

/-- DESCRIPTOR_FETCH (R299): A RUNNING ring reads its next descriptor and accepts it after its checks. -/
def execDescriptorFetch (ring : Nat) (s : State) : Answer := s.act (fun d => d.fetchDescriptor ring)

/-- COMMAND_START (R300): An accepted command starts once the command before it has retired or started with overlap. -/
def execCommandStart (ring : Nat) (serial : Wide) (s : State) : Answer := s.act (fun d => d.startCmd ring serial)

/-- COMMAND_RETIRE (R302): A command's stores are performed, its record written, its fence signalled and its references
dropped. -/
def execCommandRetire (ring : Nat) (serial : Wide) (s : State) : Answer := s.act (fun d => d.retireCmd ring serial)

/-- CQ_ROOM (R303): A re-read of cq_cons finds room and retirement stalled on a full completion ring proceeds. -/
def execCqRoom (ring : Nat) (s : State) : Answer := s.act (fun d => d.cqResume ring)

/-- TICK_EDGE (R25): The tick generator places an edge and TICK_COUNT advances. -/
def execTickEdge (s : State) : Answer := s.act Dev.tickEdge

/-- TICK_COMMIT (R31): Write of TICK_COMMIT submits the TICKCFG shadow set for the next tick edge. -/
def execTickCommit (src : RegSource) (s : State) : Answer :=
  s.regRow src Reg.TICK_COMMIT.off (fun d => d.tickCommit src)

/-- TICK_SOURCE_SELECT (R25): Write of TICK_SOURCE.source changes the lock source and lock state at once. -/
def execTickSourceSelect (src : RegSource) (value : Word) (s : State) : Answer :=
  s.regRow src Reg.TICK_SOURCE.off (fun d => d.tickSelect src value)

/-- PPS_EDGE (R26): A 1PPS rising edge is measured against the tick grid and the phase corrected. -/
def execPpsEdge (s : State) : Answer := s.act (fun d => d.ppsEdge)

/-- LOCK_LOST (R27): Missing 1PPS, 10 MHz or Sync for its limit moves the generator from LOCKED to HOLDOVER. -/
def execLockLost (cause : LossCause) (s : State) : Answer := s.act (fun d => d.lockLost cause)

/-- PTP_MESSAGE (R366): A PTP message is timestamped and processed as slave or boundary clock. -/
def execPtpMessage (port : Nat) (m : PtpMsg) (s : State) : Answer := s.act (fun d => d.ptpMessage port m)

/-- PTP_SYNC_SEND (R366): A boundary-clock port sends a two-step Sync at the FAB_PTP interval. -/
def execPtpSyncSend (port : Nat) (s : State) : Answer := s.act (fun d => d.ptpSync port)

end Sys2Proof.Machine
end

