-- ==== Sys2Proof/Machine/Dispatch.lean ====
section
/-! DEFINITION. The dispatch: each command has its meaning by one direct call. -/

namespace Sys2Proof.Machine

def exec (i : Instr) (s : State) : Host.Outcome State Fault Refusal :=
  match i with
  | .nop src => Sys2Proof.Machine.execNop src s
  | .ringCreate src => Sys2Proof.Machine.execRingCreate src s
  | .ringControlDestroy src => Sys2Proof.Machine.execRingControlDestroy src s
  | .ringControlRestart src => Sys2Proof.Machine.execRingControlRestart src s
  | .ringControlBudget src => Sys2Proof.Machine.execRingControlBudget src s
  | .ringDisabledRelease ring => Sys2Proof.Machine.execRingDisabledRelease ring s
  | .objCreate src => Sys2Proof.Machine.execObjCreate src s
  | .objFree src => Sys2Proof.Machine.execObjFree src s
  | .objectEntryFreed index => Sys2Proof.Machine.execObjectEntryFreed index s
  | .fenceWait src => Sys2Proof.Machine.execFenceWait src s
  | .fenceWaitSatisfied ring serial => Sys2Proof.Machine.execFenceWaitSatisfied ring serial s
  | .waitTimeout ring serial => Sys2Proof.Machine.execWaitTimeout ring serial s
  | .parkedWaitTakesSlot => Sys2Proof.Machine.execParkedWaitTakesSlot s
  | .fenceSignal src => Sys2Proof.Machine.execFenceSignal src s
  | .kernelLoad src => Sys2Proof.Machine.execKernelLoad src s
  | .kernelTranslationEnd index t => Sys2Proof.Machine.execKernelTranslationEnd index t s
  | .dispatch src => Sys2Proof.Machine.execDispatch src s
  | .blockPlace ref bricks => Sys2Proof.Machine.execBlockPlace ref bricks s
  | .brickDrainSelect ref => Sys2Proof.Machine.execBrickDrainSelect ref s
  | .blockExit ref threads => Sys2Proof.Machine.execBlockExit ref threads s
  | .dispatchComplete ring serial => Sys2Proof.Machine.execDispatchComplete ring serial s
  | .divergentBarrier ref => Sys2Proof.Machine.execDivergentBarrier ref s
  | .watchdog ref => Sys2Proof.Machine.execWatchdog ref s
  | .opControlBarrier ref scope site threads => Sys2Proof.Machine.execOpControlBarrier ref scope site threads s
  | .kernelLoadStore a => Sys2Proof.Machine.execKernelLoadStore a s
  | .memoryRelease ref release => Sys2Proof.Machine.execMemoryRelease ref release s
  | .memoryAcquire ref order => Sys2Proof.Machine.execMemoryAcquire ref order s
  | .atomicLoadStore store a => Sys2Proof.Machine.execAtomicLoadStore store a s
  | .atomicExchange a => Sys2Proof.Machine.execAtomicExchange a s
  | .atomicCompareExchange a => Sys2Proof.Machine.execAtomicCompareExchange a s
  | .atomicIntegerAdd k a => Sys2Proof.Machine.execAtomicIntegerAdd k a s
  | .atomicMinMax k a => Sys2Proof.Machine.execAtomicMinMax k a s
  | .atomicBitwise k a => Sys2Proof.Machine.execAtomicBitwise k a s
  | .atomicFloatAdd a => Sys2Proof.Machine.execAtomicFloatAdd a s
  | .clusterLocalAccess a => Sys2Proof.Machine.execClusterLocalAccess a s
  | .blockMatMulAdd m => Sys2Proof.Machine.execBlockMatMulAdd m s
  | .convertRounded c => Sys2Proof.Machine.execConvertRounded c s
  | .blockQuantize q => Sys2Proof.Machine.execBlockQuantize q s
  | .springDescriptorStore ref spring offset data => Sys2Proof.Machine.execSpringDescriptorStore ref spring offset data s
  | .springStart ref spring => Sys2Proof.Machine.execSpringStart ref spring s
  | .springStop ref spring => Sys2Proof.Machine.execSpringStop ref spring s
  | .springRelease ref spring mask => Sys2Proof.Machine.execSpringRelease ref spring mask s
  | .springTileFetch brick spring => Sys2Proof.Machine.execSpringTileFetch brick spring s
  | .springTileReady brick spring slot => Sys2Proof.Machine.execSpringTileReady brick spring slot s
  | .springPortBadAccess ref offset size store atomic => Sys2Proof.Machine.execSpringPortBadAccess ref offset size store atomic s
  | .renderPass src => Sys2Proof.Machine.execRenderPass src s
  | .heapGrowRequest ring serial frontEnd => Sys2Proof.Machine.execHeapGrowRequest ring serial frontEnd s
  | .heapGrowGrant ring serial chunks => Sys2Proof.Machine.execHeapGrowGrant ring serial chunks s
  | .heapGrowTimeout ring serial => Sys2Proof.Machine.execHeapGrowTimeout ring serial s
  | .poseSubmit src => Sys2Proof.Machine.execPoseSubmit src s
  | .posePacketUdp port payload => Sys2Proof.Machine.execPosePacketUdp port payload s
  | .layerPublish src => Sys2Proof.Machine.execLayerPublish src s
  | .poseLatch stream => Sys2Proof.Machine.execPoseLatch stream s
  | .sliceDueEdge stream => Sys2Proof.Machine.execSliceDueEdge stream s
  | .outgeomCommit src stream => Sys2Proof.Machine.execOutgeomCommit src stream s
  | .outgeomTakeEffect stream => Sys2Proof.Machine.execOutgeomTakeEffect stream s
  | .cmatrixCommit src stream => Sys2Proof.Machine.execCmatrixCommit src stream s
  | .cmatrixTakeEffect stream => Sys2Proof.Machine.execCmatrixTakeEffect stream s
  | .maintainClean src => Sys2Proof.Machine.execMaintainClean src s
  | .maintainInvalidate src => Sys2Proof.Machine.execMaintainInvalidate src s
  | .maintainCleanInvalidate src => Sys2Proof.Machine.execMaintainCleanInvalidate src s
  | .maintenanceOpStart die => Sys2Proof.Machine.execMaintenanceOpStart die s
  | .faultResume src => Sys2Proof.Machine.execFaultResume src s
  | .xltInvalidate src => Sys2Proof.Machine.execXltInvalidate src s
  | .invalidationStart => Sys2Proof.Machine.execInvalidationStart s
  | .invalidationTimeout => Sys2Proof.Machine.execInvalidationTimeout s
  | .invalidationComplete => Sys2Proof.Machine.execInvalidationComplete s
  | .tableWalk asid part va write atomic execute length => Sys2Proof.Machine.execTableWalk asid part va write atomic execute length s
  | .faultBatchClose asid => Sys2Proof.Machine.execFaultBatchClose asid s
  | .faultRingRoom asid => Sys2Proof.Machine.execFaultRingRoom asid s
  | .streamCodecCompress src => Sys2Proof.Machine.execStreamCodecCompress src s
  | .streamCodecDecompress src => Sys2Proof.Machine.execStreamCodecDecompress src s
  | .streamJobStart => Sys2Proof.Machine.execStreamJobStart s
  | .codecRecode src => Sys2Proof.Machine.execCodecRecode src s
  | .codecBlockWriteBack addr => Sys2Proof.Machine.execCodecBlockWriteBack addr s
  | .codecBlockMerge addr data target => Sys2Proof.Machine.execCodecBlockMerge addr data target s
  | .step src => Sys2Proof.Machine.execStep src s
  | .guestPageRequest pool device pages => Sys2Proof.Machine.execGuestPageRequest pool device pages s
  | .poolcfgCommit src pool => Sys2Proof.Machine.execPoolcfgCommit src pool s
  | .poolcfgTakeEffect pool => Sys2Proof.Machine.execPoolcfgTakeEffect pool s
  | .abortRing src => Sys2Proof.Machine.execAbortRing src s
  | .abortPartition src => Sys2Proof.Machine.execAbortPartition src s
  | .preempt src => Sys2Proof.Machine.execPreempt src s
  | .preemptSavePoint ring => Sys2Proof.Machine.execPreemptSavePoint ring s
  | .restore src => Sys2Proof.Machine.execRestore src s
  | .autoPreempt part => Sys2Proof.Machine.execAutoPreempt part s
  | .savedBlockRestore part bricks => Sys2Proof.Machine.execSavedBlockRestore part bricks s
  | .partcfgCommit src part => Sys2Proof.Machine.execPartcfgCommit src part s
  | .signedCommandRecorderClear src => Sys2Proof.Machine.execSignedCommandRecorderClear src s
  | .signedCommandMembership src => Sys2Proof.Machine.execSignedCommandMembership src s
  | .signedCommandFirmwareUpdate src => Sys2Proof.Machine.execSignedCommandFirmwareUpdate src s
  | .signedCommandDebugUnlock src => Sys2Proof.Machine.execSignedCommandDebugUnlock src s
  | .signedCommandMgmtGrant src => Sys2Proof.Machine.execSignedCommandMgmtGrant src s
  | .signedCommandOwnerBind src => Sys2Proof.Machine.execSignedCommandOwnerBind src s
  | .doorbell source ring value => Sys2Proof.Machine.execDoorbell source ring value s
  | .descriptorFetch ring => Sys2Proof.Machine.execDescriptorFetch ring s
  | .commandStart ring serial => Sys2Proof.Machine.execCommandStart ring serial s
  | .commandRetire ring serial => Sys2Proof.Machine.execCommandRetire ring serial s
  | .cqRoom ring => Sys2Proof.Machine.execCqRoom ring s
  | .tickEdge => Sys2Proof.Machine.execTickEdge s
  | .tickCommit src => Sys2Proof.Machine.execTickCommit src s
  | .tickSourceSelect src value => Sys2Proof.Machine.execTickSourceSelect src value s
  | .ppsEdge => Sys2Proof.Machine.execPpsEdge s
  | .lockLost cause => Sys2Proof.Machine.execLockLost cause s
  | .ptpMessage port m => Sys2Proof.Machine.execPtpMessage port m s
  | .ptpSyncSend port => Sys2Proof.Machine.execPtpSyncSend port s
  | .ethernetFrameReceive port frame fcsOk => Sys2Proof.Machine.execEthernetFrameReceive port frame fcsOk s
  | .arpNdIcmp port q => Sys2Proof.Machine.execArpNdIcmp port q s
  | .roceSend r => Sys2Proof.Machine.execRoceSend r s
  | .roceRdmaWrite r => Sys2Proof.Machine.execRoceRdmaWrite r s
  | .roceRdmaWriteImm r => Sys2Proof.Machine.execRoceRdmaWriteImm r s
  | .roceRdmaRead r => Sys2Proof.Machine.execRoceRdmaRead r s
  | .roceAtomic r op => Sys2Proof.Machine.execRoceAtomic r op s
  | .roceEcnCe qp => Sys2Proof.Machine.execRoceEcnCe qp s
  | .roceCnpReceive qp => Sys2Proof.Machine.execRoceCnpReceive qp s
  | .roceRateRecovery qp => Sys2Proof.Machine.execRoceRateRecovery qp s
  | .mortarRead port f => Sys2Proof.Machine.execMortarRead port f s
  | .mortarWrite port f => Sys2Proof.Machine.execMortarWrite port f s
  | .mortarAtomic port f => Sys2Proof.Machine.execMortarAtomic port f s
  | .mortarResponse port f => Sys2Proof.Machine.execMortarResponse port f s
  | .mortarDoorbell port f => Sys2Proof.Machine.execMortarDoorbell port f s
  | .mortarFenceSignal port f => Sys2Proof.Machine.execMortarFenceSignal port f s
  | .mortarFenceIncrement port f => Sys2Proof.Machine.execMortarFenceIncrement port f s
  | .mortarFenceUpdate port f => Sys2Proof.Machine.execMortarFenceUpdate port f s
  | .mortarFenceSubscribe port f => Sys2Proof.Machine.execMortarFenceSubscribe port f s
  | .mortarFenceUnsubscribe port f => Sys2Proof.Machine.execMortarFenceUnsubscribe port f s
  | .mortarFenceEnd port f => Sys2Proof.Machine.execMortarFenceEnd port f s
  | .frameForward port f => Sys2Proof.Machine.execFrameForward port f s
  | .linkAck port f => Sys2Proof.Machine.execLinkAck port f s
  | .linkNak port f => Sys2Proof.Machine.execLinkNak port f s
  | .linkFrameSend port => Sys2Proof.Machine.execLinkFrameSend port s
  | .replayTimeout port => Sys2Proof.Machine.execReplayTimeout port s
  | .linkDown port => Sys2Proof.Machine.execLinkDown port s
  | .linkUp port => Sys2Proof.Machine.execLinkUp port s
  | .opTimeout slot => Sys2Proof.Machine.execOpTimeout slot s
  | .tunnelDatagram port source payload => Sys2Proof.Machine.execTunnelDatagram port source payload s
  | .remoteAccessIssue r => Sys2Proof.Machine.execRemoteAccessIssue r s
  | .heldRemoteRelease index => Sys2Proof.Machine.execHeldRemoteRelease index s
  | .hello hop => Sys2Proof.Machine.execHello hop s
  | .helloReceive hop payload => Sys2Proof.Machine.execHelloReceive hop payload s
  | .report hop payload => Sys2Proof.Machine.execReport hop payload s
  | .assign hop payload => Sys2Proof.Machine.execAssign hop payload s
  | .listReq hop payload => Sys2Proof.Machine.execListReq hop payload s
  | .listData hop payload => Sys2Proof.Machine.execListData hop payload s
  | .neighbourLost hop => Sys2Proof.Machine.execNeighbourLost hop s
  | .managerElected => Sys2Proof.Machine.execManagerElected s
  | .managerLost => Sys2Proof.Machine.execManagerLost s
  | .sideDecide => Sys2Proof.Machine.execSideDecide s
  | .leaseExpiry => Sys2Proof.Machine.execLeaseExpiry s
  | .rejoin hop => Sys2Proof.Machine.execRejoin hop s
  | .wakeFrame port payload => Sys2Proof.Machine.execWakeFrame port payload s
  | .powerOn => Sys2Proof.Machine.execPowerOn s
  | .brownOut us standby => Sys2Proof.Machine.execBrownOut us standby s
  | .overvoltage mv us => Sys2Proof.Machine.execOvervoltage mv us s
  | .resetN lowNs => Sys2Proof.Machine.execResetN lowNs s
  | .rstDeviceReset src value => Sys2Proof.Machine.execRstDeviceReset src value s
  | .rstPartReset src value => Sys2Proof.Machine.execRstPartReset src value s
  | .rstBlockReset src value => Sys2Proof.Machine.execRstBlockReset src value s
  | .fwWatchdog => Sys2Proof.Machine.execFwWatchdog s
  | .rstWdogKick src => Sys2Proof.Machine.execRstWdogKick src s
  | .bootPhase0 fuseOk => Sys2Proof.Machine.execBootPhase0 fuseOk s
  | .bootPhase1 => Sys2Proof.Machine.execBootPhase1 s
  | .bootPhase2 => Sys2Proof.Machine.execBootPhase2 s
  | .bootPhase3 check => Sys2Proof.Machine.execBootPhase3 check s
  | .dramTrainingEnd check => Sys2Proof.Machine.execDramTrainingEnd check s
  | .pwrTargetSleep src => Sys2Proof.Machine.execPwrTargetSleep src s
  | .pwrTargetDeep src => Sys2Proof.Machine.execPwrTargetDeep src s
  | .pwrTargetOff src => Sys2Proof.Machine.execPwrTargetOff src s
  | .pwrTargetRun src => Sys2Proof.Machine.execPwrTargetRun src s
  | .powerStateReached asserted => Sys2Proof.Machine.execPowerStateReached asserted s
  | .autoIdle => Sys2Proof.Machine.execAutoIdle s
  | .idleExit => Sys2Proof.Machine.execIdleExit s
  | .wakeEvent w => Sys2Proof.Machine.execWakeEvent w s
  | .sleepExit => Sys2Proof.Machine.execSleepExit s
  | .deepExit => Sys2Proof.Machine.execDeepExit s
  | .deepTimer => Sys2Proof.Machine.execDeepTimer s
  | .domainPowerOn domain => Sys2Proof.Machine.execDomainPowerOn domain s
  | .dvfsChange wall => Sys2Proof.Machine.execDvfsChange wall s
  | .powerCapMove meanW meanMv => Sys2Proof.Machine.execPowerCapMove meanW meanMv s
  | .capExceeded meanW meanMv => Sys2Proof.Machine.execCapExceeded meanW meanMv s
  | .thermalForce meanW hottestC => Sys2Proof.Machine.execThermalForce meanW hottestC s
  | .thermalTrip hottestC => Sys2Proof.Machine.execThermalTrip hottestC s
  | .lakeMemWaysChange src value => Sys2Proof.Machine.execLakeMemWaysChange src value s
  | .tagInvalidation => Sys2Proof.Machine.execTagInvalidation s
  | .lakePrefetch addr brick => Sys2Proof.Machine.execLakePrefetch addr brick s
  | .cprCwinWrite src value => Sys2Proof.Machine.execCprCwinWrite src value s
  | .fabPCtrlMode src port value => Sys2Proof.Machine.execFabPCtrlMode src port value s
  | .attestGo src => Sys2Proof.Machine.execAttestGo src s
  | .attestDone => Sys2Proof.Machine.execAttestDone s
  | .recorderRound => Sys2Proof.Machine.execRecorderRound s
  | .recorderWindowEnd => Sys2Proof.Machine.execRecorderWindowEnd s
  | .extremesSample samples => Sys2Proof.Machine.execExtremesSample samples s
  | .recCtrlHold src hold => Sys2Proof.Machine.execRecCtrlHold src hold s
  | .holdExpiry => Sys2Proof.Machine.execHoldExpiry s
  | .pmcCtrlFreeze src value => Sys2Proof.Machine.execPmcCtrlFreeze src value s
  | .bwWindowClose port => Sys2Proof.Machine.execBwWindowClose port s
  | .pmcBwWindowWrite src value => Sys2Proof.Machine.execPmcBwWindowWrite src value s
  | .mirrorWrite part => Sys2Proof.Machine.execMirrorWrite part s
  | .registerWrite src offset width value => Sys2Proof.Machine.execRegisterWrite src offset width value s
  | .standbyRailLoss => Sys2Proof.Machine.execStandbyRailLoss s
  | .thermalForceRelease meanW hottestC => Sys2Proof.Machine.execThermalForceRelease meanW hottestC s
  | .sharedOperationTimeout ring serial => Sys2Proof.Machine.execSharedOperationTimeout ring serial s
  | .mortarFrameDiscard port f => Sys2Proof.Machine.execMortarFrameDiscard port f s
  | .boundaryScan clocks => Sys2Proof.Machine.execBoundaryScan clocks s

end Sys2Proof.Machine
end

