-- ==== Sys2Proof/Machine/Step.lean ====
section
/-! DEFINITION. One step: the command at the front of the queue runs; with none waiting, a nanosecond passes. -/

namespace Sys2Proof.Machine

/-- With no command waiting, a nanosecond passes. -/
def State.idle (s : State) : State := { s with dev := s.dev.advanceTo (s.dev.now + 1) }

/-- Takes the command at the front of the queue and runs it on the rest. -/
def step (s : State) : Host.Outcome State Fault Refusal :=
  match s.pending with
  | [] => .next s.idle
  | c :: rest => exec c { s with pending := rest }

/-- Puts the command that a word spells in front of the queue. -/
def State.withFetchWord (s : State) (nbits w : Nat) : State :=
  match decodeTableWord nbits w with
  | some c => { s with pending := c :: s.pending }
  | none => s

end Sys2Proof.Machine
end

