-- ==== Sys2Proof/WellFormed.lean ====
section
/-! DEFINITION. Well-formed commands: every number that names a unit is one the device has (chapters 1 to 22), frames fit their
header (R368), and an instruction gives a value for each lane it needs. -/

namespace Sys2Proof

/-- A ring (R292). -/
def ringWf (i : Nat) : Bool := i < 1024
/-- A queue of commands: a ring, or Gotik's own queue, number 1024 (R472). -/
def queueWf (i : Nat) : Bool := i ≤ 1024
/-- A brick (R15). -/
def brickWf (n : Nat) : Bool := n < 96
/-- A port (R357). -/
def portWf (p : Nat) : Bool := p < 8
/-- A hop code: a port or a tunnel neighbour (R386). -/
def hopWf (h : Nat) : Bool := h < 24
/-- A partition, or a pool. -/
def partWf (p : Nat) : Bool := p < 8
/-- An address space (R226). -/
def asidWf (a : Nat) : Bool := a < 256
/-- An output stream (R175). -/
def streamWf (s : Nat) : Bool := s < 64
/-- A queue pair (R362). -/
def qpWf (q : Nat) : Bool := q < 4096
/-- A spring of a brick. -/
def springWf (k : Nat) : Bool := k < 4
/-- A device address (R18, R384). -/
def deviceWf (a : Nat) : Bool := 0 < a && a < 0xFFF
/-- An entry of the handle table; index 0 is never allocated (R304). -/
def entryWf (i : Nat) : Bool := 0 < i && i < 1048576
/-- The source of a ring command. -/
def cmdSourceWf : CmdSource → Bool
  | .ring i _ => ringWf i
  | .gotik p a _ => partWf p && asidWf a
/-- The source of a register write. -/
def regSourceWf : RegSource → Bool
  | .mortar a => deviceWf a
  | .option => true
  | .manager => true
  | .mgmt => true
  | .gotik => true
  | .other => true
/-- The source of a doorbell. -/
def dbFromWf : DbFrom → Bool
  | .local => true
  | .device a => deviceWf a
  | .queuePair q => qpWf q
/-- A block. -/
def blockWf (r : BlockRef) : Bool := ringWf r.ring
/-- Lanes: different threads of a block of at most 1,024 (R43). -/
def threadsWf (l : List Nat) : Bool := l.all (fun t => decide (t < 1024)) && l.Nodup
/-- A load or store of a path: of 1 to 16 bytes for each of at most 32 lanes, all of which a store carries; an image access names
its texel in place of the address, and a store to one carries four words; an InputAttachment read may name its sample. -/
def pathWf (a : PathAccess) : Bool :=
  blockWf a.ref && threadsWf (a.lanes.map (·.thread)) && a.lanes.length ≤ 32 && 1 ≤ a.size && a.size ≤ 16
    && a.lanes.all (fun l => (!a.store || l.data.length = (if a.cls = .image then 16 else a.size)) 
      && (a.cls = .inputAttachment || l.image.isSome = (a.cls = .image)))
/-- An atomic: an operand size, and lanes of different threads (R84). -/
def atomicWf (a : AtomicArgs) : Bool :=
  blockWf a.ref && (a.size = 2 || a.size = 4 || a.size = 8) && threadsWf (a.lanes.map (·.thread))
/-- Registers of a lane that a fragment of A or B takes, by the code of its format: six for a 6-bit element (R97). -/
def fragRegs (format : Nat) : Nat := if format = 4 || format = 5 then 6 else 4
/-- A matrix instruction: the registers that its class takes in each of 32 lanes (R92, R97). -/
def matWf (m : MatArgs) : Bool :=
  blockWf m.ref && m.course < 32 && m.active.all (· < 32) && m.a.length = 32 && m.b.length = 32 && m.c.length = 32
    && m.scaleA.length = 32 && m.scaleB.length = 32 && m.a.all (fun r => r.length = fragRegs m.formatA)
    && m.b.all (fun r => r.length = fragRegs m.formatB) && m.c.all (fun r => r.length = 8)
/-- A conversion: registers of different lanes, and as many words of a result as it has components (R116, R117). -/
def convWf (c : ConvArgs) : Bool :=
  blockWf c.ref && c.course < 32 && c.lanes.all (fun l => decide (l.1 < 32)) && (c.lanes.map (·.1)).Nodup && 1 ≤ c.words
/-- A quantization: one value for each of 32 lanes (R131). -/
def quantWf (q : QuantArgs) : Bool := blockWf q.ref && q.course < 32 && q.active.all (· < 32) && q.values.length = 32
/-- A Mortar frame whose fields fit the header (R368). -/
def frameWf (f : MortarFrame) : Bool :=
  let h := f.hdr
  h.kind < 16 && h.vl < 8 && h.lenDw ≤ 64 && h.linkSeq < 4096 && h.dst < 4096 && h.src < 4096 && h.op < 16 && h.size < 4
    && h.slot < 16384 && h.slotGen < 4 && h.epoch < 65536 && f.payload.length % 4 = 0 && f.payload.length ≤ 256
/-- A remote access: a READ, WRITE or ATOMIC of another device (R389). -/
def remoteWf (r : RemoteAccess) : Bool :=
  r.ring.all ringWf && 1 ≤ r.kind && r.kind ≤ 3 && deviceWf r.device && r.address < 2 ^ 40 && 1 ≤ r.length
    && (r.kind ≠ 2 || r.payload.length = r.length)
/-- A request of a queue pair. -/
def roceWf (r : RoceReq) : Bool := qpWf r.qp
/-- A unit self-check, as RST_FAULT names units. -/
def checkWf (c : SelfCheck) : Bool := c.all (fun x => decide (x.1 < 16) && decide (x.2 < 256))
/-- A wake source. -/
def wakeWf : WakeSource → Bool
  | .signalDetect p => portWf p
  | .wakeFrame p => portWf p
  | .inbound p => portWf p
  | .wakeN => true
  | .tickAlarm => true
  | .deepTimer => true
  | .alertFall => true

/-- The check of a command. -/
def instrWf : Instr → Bool
  | .nop src => cmdSourceWf src
  | .ringCreate src => cmdSourceWf src
  | .ringControlDestroy src => cmdSourceWf src
  | .ringControlRestart src => cmdSourceWf src
  | .ringControlBudget src => cmdSourceWf src
  | .ringDisabledRelease ring => ringWf ring
  | .objCreate src => cmdSourceWf src
  | .objFree src => cmdSourceWf src
  | .objectEntryFreed index => entryWf index
  | .fenceWait src => cmdSourceWf src
  | .fenceWaitSatisfied ring _ => queueWf ring
  | .waitTimeout ring _ => queueWf ring
  | .parkedWaitTakesSlot => true
  | .fenceSignal src => cmdSourceWf src
  | .kernelLoad src => cmdSourceWf src
  | .kernelTranslationEnd index _ => entryWf index
  | .dispatch src => cmdSourceWf src
  | .blockPlace ref bricks => blockWf ref && bricks.all brickWf
  | .brickDrainSelect ref => blockWf ref
  | .blockExit ref threads => blockWf ref && threadsWf threads
  | .dispatchComplete ring _ => queueWf ring
  | .divergentBarrier ref => blockWf ref
  | .watchdog ref => blockWf ref
  | .opControlBarrier ref _ _ threads => blockWf ref && threadsWf threads
  | .kernelLoadStore a => pathWf a
  | .memoryRelease ref x => blockWf ref && threadsWf x.threads
  | .memoryAcquire ref _ => blockWf ref
  | .atomicLoadStore _ a => atomicWf a
  | .atomicExchange a => atomicWf a
  | .atomicCompareExchange a => atomicWf a
  | .atomicIntegerAdd _ a => atomicWf a
  | .atomicMinMax _ a => atomicWf a
  | .atomicBitwise _ a => atomicWf a
  | .atomicFloatAdd a => atomicWf a
  | .clusterLocalAccess a => pathWf a
  | .blockMatMulAdd m => matWf m
  | .convertRounded c => convWf c
  | .blockQuantize q => quantWf q
  | .springDescriptorStore ref spring offset data => blockWf ref && springWf spring && decide (offset < 0x10000) && (data.length = 4 || data.length = 8)
  | .springStart ref spring => blockWf ref && springWf spring
  | .springStop ref spring => blockWf ref && springWf spring
  | .springRelease ref spring _ => blockWf ref && springWf spring
  | .springTileFetch brick spring => brickWf brick && springWf spring
  | .springTileReady brick spring slot => brickWf brick && springWf spring && decide (slot < 8)
  | .springPortBadAccess ref offset _ _ _ => blockWf ref && decide (offset < 0x10000)
  | .renderPass src => cmdSourceWf src
  | .heapGrowRequest ring _ frontEnd => queueWf ring && decide (frontEnd < 2)
  | .heapGrowGrant ring _ _ => queueWf ring
  | .heapGrowTimeout ring _ => queueWf ring
  | .poseSubmit src => cmdSourceWf src
  | .posePacketUdp port _ => portWf port
  | .layerPublish src => cmdSourceWf src
  | .poseLatch stream => streamWf stream
  | .sliceDueEdge stream => streamWf stream
  | .outgeomCommit src stream => regSourceWf src && streamWf stream
  | .outgeomTakeEffect stream => streamWf stream
  | .cmatrixCommit src stream => regSourceWf src && streamWf stream
  | .cmatrixTakeEffect stream => streamWf stream
  | .maintainClean src => cmdSourceWf src
  | .maintainInvalidate src => cmdSourceWf src
  | .maintainCleanInvalidate src => cmdSourceWf src
  | .maintenanceOpStart die => decide (die < 2)
  | .faultResume src => cmdSourceWf src
  | .xltInvalidate src => cmdSourceWf src
  | .invalidationStart => true
  | .invalidationTimeout => true
  | .invalidationComplete => true
  | .tableWalk asid part _ _ _ _ length => asidWf asid && partWf part && decide (1 ≤ length) && decide (length ≤ 256)
  | .faultBatchClose asid => asidWf asid
  | .faultRingRoom asid => asidWf asid
  | .streamCodecCompress src => cmdSourceWf src
  | .streamCodecDecompress src => cmdSourceWf src
  | .streamJobStart => true
  | .codecRecode src => cmdSourceWf src
  | .codecBlockWriteBack addr => decide (addr < 2 ^ 40)
  | .codecBlockMerge addr data target => decide (addr < 2 ^ 40) && decide (addr % 256 + data.length ≤ 256) && target.all (fun t => decide (t ≤ 2))
  | .step src => cmdSourceWf src
  | .guestPageRequest pool device _ => partWf pool && deviceWf device
  | .poolcfgCommit src pool => regSourceWf src && partWf pool
  | .poolcfgTakeEffect pool => partWf pool
  | .abortRing src => cmdSourceWf src
  | .abortPartition src => cmdSourceWf src
  | .preempt src => cmdSourceWf src
  | .preemptSavePoint ring => ringWf ring
  | .restore src => cmdSourceWf src
  | .autoPreempt part => partWf part
  | .savedBlockRestore part bricks => partWf part && bricks.all brickWf
  | .partcfgCommit src part => regSourceWf src && partWf part
  | .signedCommandRecorderClear src => cmdSourceWf src
  | .signedCommandMembership src => cmdSourceWf src
  | .signedCommandFirmwareUpdate src => cmdSourceWf src
  | .signedCommandDebugUnlock src => cmdSourceWf src
  | .signedCommandMgmtGrant src => cmdSourceWf src
  | .signedCommandOwnerBind src => cmdSourceWf src
  | .doorbell source ring _ => dbFromWf source && ringWf ring
  | .descriptorFetch ring => ringWf ring
  | .commandStart ring _ => queueWf ring
  | .commandRetire ring _ => queueWf ring
  | .cqRoom ring => ringWf ring
  | .tickEdge => true
  | .tickCommit src => regSourceWf src
  | .tickSourceSelect src _ => regSourceWf src
  | .ppsEdge => true
  | .lockLost _ => true
  | .ptpMessage port _ => portWf port
  | .ptpSyncSend port => portWf port
  | .ethernetFrameReceive port _ _ => portWf port
  | .arpNdIcmp port _ => portWf port
  | .roceSend r => roceWf r
  | .roceRdmaWrite r => roceWf r
  | .roceRdmaWriteImm r => roceWf r
  | .roceRdmaRead r => roceWf r
  | .roceAtomic r _ => roceWf r
  | .roceEcnCe qp => qpWf qp
  | .roceCnpReceive qp => qpWf qp
  | .roceRateRecovery qp => qpWf qp
  | .mortarRead port f => portWf port && frameWf f
  | .mortarWrite port f => portWf port && frameWf f
  | .mortarAtomic port f => portWf port && frameWf f
  | .mortarResponse port f => portWf port && frameWf f
  | .mortarDoorbell port f => portWf port && frameWf f
  | .mortarFenceSignal port f => portWf port && frameWf f
  | .mortarFenceIncrement port f => portWf port && frameWf f
  | .mortarFenceUpdate port f => portWf port && frameWf f
  | .mortarFenceSubscribe port f => portWf port && frameWf f
  | .mortarFenceUnsubscribe port f => portWf port && frameWf f
  | .mortarFenceEnd port f => portWf port && frameWf f
  | .frameForward port f => portWf port && frameWf f
  | .linkAck port f => portWf port && frameWf f
  | .linkNak port f => portWf port && frameWf f
  | .linkFrameSend port => portWf port
  | .replayTimeout port => portWf port
  | .linkDown port => portWf port
  | .linkUp port => portWf port
  | .opTimeout slot => decide (slot < 16384)
  | .tunnelDatagram port source _ => portWf port && source.all (fun k => decide (k < 16))
  | .remoteAccessIssue r => remoteWf r
  | .heldRemoteRelease _ => true
  | .hello hop => hopWf hop
  | .helloReceive hop _ => hopWf hop
  | .report hop _ => hopWf hop
  | .assign hop _ => hopWf hop
  | .listReq hop _ => hopWf hop
  | .listData hop _ => hopWf hop
  | .neighbourLost hop => hopWf hop
  | .managerElected => true
  | .managerLost => true
  | .sideDecide => true
  | .leaseExpiry => true
  | .rejoin hop => hopWf hop
  | .wakeFrame port _ => portWf port
  | .powerOn => true
  | .brownOut _ _ => true
  | .overvoltage _ _ => true
  | .resetN _ => true
  | .rstDeviceReset src _ => regSourceWf src
  | .rstPartReset src _ => regSourceWf src
  | .rstBlockReset src _ => regSourceWf src
  | .fwWatchdog => true
  | .rstWdogKick src => regSourceWf src
  | .bootPhase0 _ => true
  | .bootPhase1 => true
  | .bootPhase2 => true
  | .bootPhase3 check => checkWf check
  | .dramTrainingEnd check => checkWf check
  | .pwrTargetSleep src => regSourceWf src
  | .pwrTargetDeep src => regSourceWf src
  | .pwrTargetOff src => regSourceWf src
  | .pwrTargetRun src => regSourceWf src
  | .powerStateReached asserted => asserted.all wakeWf
  | .autoIdle => true
  | .idleExit => true
  | .wakeEvent w => wakeWf w
  | .sleepExit => true
  | .deepExit => true
  | .deepTimer => true
  | .domainPowerOn domain => decide (domain < 48)
  | .dvfsChange wall => decide (wall < 12)
  | .powerCapMove _ _ => true
  | .capExceeded _ _ => true
  | .thermalForce _ _ => true
  | .thermalTrip _ => true
  | .lakeMemWaysChange src _ => regSourceWf src
  | .tagInvalidation => true
  | .lakePrefetch addr brick => decide (addr < 2 ^ 40) && brick.all brickWf
  | .cprCwinWrite src _ => regSourceWf src
  | .fabPCtrlMode src port _ => regSourceWf src && portWf port
  | .attestGo src => regSourceWf src
  | .attestDone => true
  | .recorderRound => true
  | .recorderWindowEnd => true
  | .extremesSample samples => samples.all (fun x => decide (x.pair < 128))
  | .recCtrlHold src _ => regSourceWf src
  | .holdExpiry => true
  | .pmcCtrlFreeze src _ => regSourceWf src
  | .bwWindowClose port => portWf port
  | .pmcBwWindowWrite src _ => regSourceWf src
  | .mirrorWrite part => partWf part
  | .registerWrite src offset width _ => regSourceWf src && decide (offset < 2 ^ 26) && (width = 1 || width = 2 || width = 4 || width = 8)
  | .standbyRailLoss => true
  | .thermalForceRelease _ _ => true
  | .sharedOperationTimeout ring _ => queueWf ring
  | .mortarFrameDiscard port f => portWf port && frameWf f
  | .boundaryScan _ => true

end Sys2Proof
end

