-- ==== Sys2Proof/Safety.lean ====
section
/-! DEFINITION. What claims about the machine are said in: when a row finds the command it acts on, which steps are safe, and
what fuses and flash keep. -/

namespace Sys2Proof.Machine

/-! ## The command of a row -/

/-- The command that a row of a ring command acts on, with the device as it stands then. From a ring it is the started command
of that serial, and the device is as it was; from Gotik it is the command in Gotik's queue with that descriptor, accepted and
started now unless it was (R300, R472). None where the row has nothing to act on. -/
def Dev.issued (d : Dev) (src : CmdSource) (row : Line → Bool) : Option (Dev × Cmd) :=
  match src with
  | .ring i s =>
    match d.cmd? i s with
    | some c => if c.active && row c.desc && i < 1024 then some (d, c) else none
    | none => none
  | .gotik part asid l =>
    if 2 ≤ d.boot.phase ∧ row l then
      match d.gotikCmd part asid l with
      | (d, some c) => if c.active then some (d, c) else none
      | (_, none) => none
    else none

/-- What follows a row: a command of Gotik's queue that has ended leaves it (R472); one of a ring stays until it retires
(R302). -/
def settled (src : CmdSource) (d : Dev) : Dev :=
  match src with
  | .ring _ _ => d
  | .gotik _ _ _ => d.sweepGotik

/-- The device serves commands, and the row finds command `c` of the source on the device `d`. -/
def Starts (s : State) (src : CmdSource) (row : Line → Bool) (d : Dev) (c : Cmd) : Prop :=
  s.dev.serves = true ∧ s.dev.issued src row = some (d, c)

/-- The machine with another device; fuses, flash and the queue stay. -/
def State.withDev (s : State) (d : Dev) : State := { s with dev := d }

/-- The device serves commands, and block `b` that `r` names is resident on brick `n` and runs; blocks of a dispatch whose ring is
being saved have stopped, those of a pass run on (R347). -/
def Resident (s : State) (r : BlockRef) (n : Nat) (b : Block) : Prop :=
  s.dev.serves = true ∧ s.dev.findBlock r = some (n, b) ∧ b.done = false ∧ ((s.dev.ring r.ring).saving && b.stage = .compute) = false

/-! ## Instructions of lanes -/

/-- Brick `n` holds block `b`, and the list of bricks is in its one form. -/
def Dev.Holds (d : Dev) (n : Nat) (b : Block) : Prop :=
  NMap.rising d.bricks = true ∧ d.findBlock b.bref = some (n, b)

/-- Block `b` with another instruction in progress. -/
def Block.withPath (b : Block) (p : PathRun) : Block := { b with paths := b.paths ++ [p], pathNo := b.pathNo + 1 }

/-- The instructions in progress have numbers that no later one takes. -/
def Block.numbered (b : Block) : Prop := ∀ p ∈ b.paths, p.id < b.pathNo

/-- A memory instruction of one lane of block `b` begins: the device with it, and where the lane stands. -/
def Dev.oneLane (d : Dev) (n : Nat) (b : Block) (cls : StorageClass) (op : PathOp) (size : Nat) (l : LaneRun) : Dev × LaneAt :=
  let p : PathRun := ⟨b.pathNo, cls, op, size, none, [l]⟩
  let d := d.modBlock n b.bref (fun b => b.withPath p)
  (d, ⟨n, b.withPath p, d.blockReq n (b.withPath p) engBrick .none, b.pathNo, size, l.thread⟩)

/-- No block of the dispatch with a lower index than `b` raises WATCHDOG in the same I/O clock (R76). -/
def Dev.decides (d : Dev) (b : Block) : Prop :=
  ∀ q ∈ d.blocksOf b.ring b.serial, q.2.index < b.index → d.watchdogDue q.1 q.2 = false

/-- An instruction of one lane is complete: it leaves its block, and the lane has its value, if it gets one (R235). -/
def Dev.laneEnds (d : Dev) (x : LaneAt) (v : Option (List Word)) : Dev :=
  let d := d.modBlock x.brick x.block.bref (fun b => { b with paths := b.paths.filter (fun p => p.id ≠ x.path) })
  let d := match v with
    | some v => d.give x.brick x.block.bref x.thread v
    | none => d
  d.endFaulted x.block.ring x.block.serial

/-- A lane's request lies in one page, and its translation names byte `a` of this device that the block may access: the device
after the walk, and the leaf entry. -/
def PartHere (d : Dev) (x : LaneAt) (access : Nat) (va : Wide) (len : Nat) (d1 : Dev) (leaf : Wide) (a : Nat) : Prop :=
  ∃ level, d.splitRequest x.req va len access = (d1, [(va, len, .ok leaf level)]) ∧ d1.physical leaf level va.toNat = .here a
    ∧ d1.refused x.req.part true leaf a = false

/-- The operation and operands of an atomic instruction (R84). -/
def atomicOf : Instr → Option (AtomOp × AtomicArgs)
  | .atomicLoadStore store x => some (if store then .store else .load, x)
  | .atomicExchange x => some (.exchange, x)
  | .atomicCompareExchange x => some (.cas, x)
  | .atomicIntegerAdd k x => some (.add k, x)
  | .atomicMinMax k x => some (.minMax k, x)
  | .atomicBitwise k x => some (.bitwise k, x)
  | .atomicFloatAdd x => some (.fadd, x)
  | _ => none

/-! ## Safe steps -/

/-- The step from a state neither faults nor refuses. -/
def State.safe (s : State) : Prop := ∃ t, step s = .next t

/-- The commands that ask the device for something while it serves: all but the events of the supply, the pins, boot and the
power states. -/
def needsService : Instr → Bool
  | .powerOn | .brownOut _ _ | .overvoltage _ _ | .resetN _ | .bootPhase0 _ | .bootPhase1 | .bootPhase2 | .bootPhase3 _
  | .dramTrainingEnd _ | .powerStateReached _ | .wakeEvent _ | .sleepExit | .deepExit | .deepTimer | .thermalTrip _
  | .standbyRailLoss | .boundaryScan _ => false
  | _ => true

/-- The commands that can change fuses or flash: signed commands, their batch completions, and what brings a membership list
or carries such a frame. -/
def changesNv : Instr → Bool
  | .signedCommandRecorderClear _ | .signedCommandMembership _ | .signedCommandFirmwareUpdate _
  | .signedCommandDebugUnlock _ | .signedCommandMgmtGrant _ | .signedCommandOwnerBind _ | .faultResume _ | .listData _ _
  | .tunnelDatagram _ _ _ | .ethernetFrameReceive _ _ _ => true
  | _ => false

/-! ## Fuses -/

/-- What no command undoes: the identity and the vendor's key hash stay, the rollback floor never falls, and a bound owner key
hash and its certificate stay (R434, R435, R443, R444). -/
def Nv.keeps (a b : Nv) : Prop :=
  b.identityCert = a.identityCert ∧ b.identityDigest = a.identityDigest ∧ b.vendorKeyHash = a.vendorKeyHash ∧ b.vendorModulus = a.vendorModulus
    ∧ a.rollback ≤ b.rollback ∧ (a.ownerKeyHash.isSome → b.ownerKeyHash = a.ownerKeyHash ∧ b.ownerCert = a.ownerCert)

end Sys2Proof.Machine
end

