-- ==== Sys2Proof/Certificates/Slice0/Obligations.lean ====
section
/-! DEFINITION. The statements of slice 0. -/

open Sys2Proof Sys2Proof.Machine

/-! ## The machine as a whole -/

/-- A step takes the command at the front of the queue and runs it on the machine with the rest of the queue. -/
def Obligations.StepRunsFrontCommand : Prop :=
  ∀ (c : Instr) (rest : List Instr) (s : State), step { s with pending := c :: rest } = exec c { s with pending := rest }

/-- With no command waiting, a nanosecond passes (the model's choice, log entry 2). -/
def Obligations.EmptyQueuePassesTime : Prop :=
  ∀ s : State, s.pending = [] → step s = .next (s.withDev (s.dev.advanceTo (s.dev.now + 1)))

/-- Every command completes, but OVERVOLTAGE of an input beyond its absolute maximum, which faults (R460).
Where the spec is silent it rests on the model's choices, log entry 103. -/
def Obligations.OnlyAbsoluteMaximumStops : Prop :=
  ∀ (c : Instr) (s : State),
    (∃ t, exec c s = .next t) ∨ ∃ mv us, c = .overvoltage mv us ∧ beyondMaximum mv us = true ∧ exec c s = .fault .absoluteMaximum

/-- No command touches the queue: commands run once each, first in first out. -/
def Obligations.QueueIsFirstInFirstOut : Prop :=
  ∀ (c : Instr) (s t : State), exec c s = .next t → t.pending = s.pending

/-- A device that does not serve (unpowered, in DEEP or OFF, halted, or held before phase 2) is changed by nothing but its
supply, its pins, boot and its power states: fuses and flash, too, stay as they are (R400, R403, R415).
Where the spec is silent it rests on the model's choices, log entry 15. -/
def Obligations.NothingServedWhileDown : Prop :=
  ∀ (c : Instr) (s : State), needsService c = true → s.dev.serves = false → exec c s = .next s

/-- Every command but those listed leaves fuses and flash as they are. -/
def Obligations.FewCommandsWriteFlash : Prop :=
  ∀ (c : Instr) (s t : State), changesNv c = false → exec c s = .next t → t.nv = s.nv

/-- Every step, from every state, keeps what fuses make permanent: the identity, the vendor's key, the rollback floor from
below, and an owner once bound. -/
def Obligations.FusesOnlyAdvance : Prop :=
  ∀ (a : Nv) (s t : State), a.keeps s.nv → step s = .next t → a.keeps t.nv

/-- At reset the invariant holds with the blank fuses as reference (the model's choice of what fuses hold, log entry 4). -/
def Obligations.FusesAtReset : Prop := Nv.blank.keeps State.reset.nv

/-! ## Rings -/

/-- The ring commands complete with OK and do to the ring what R293, R294 and R324 say. -/
def Obligations.RingCommandsComplete : Prop :=
  (∀ s src d c, Starts s src (isOp 0x01) d c → reservedZero c.desc [] →
    exec (.nop src) s = .next (s.withDev (settled src (d.done c 0)))) ∧
  (∀ s src d c r, Starts s src (isOp 0x10) d c → r = ringCreateD c.desc → reservedZero c.desc ringCreateFields → d.ringOk r →
    (8 ≤ r.ring ∨ c.gotik) → (d.ring r.ring).state = .disabled → d.admits c.part r.ring r.cls r.budget →
    exec (.ringCreate src) s = .next (s.withDev (settled src ((d.setRing r.ring { Ring.absent with
      sizeLog2 := r.sizeLog2, asid := r.asid, part := c.part, cls := r.cls, cqMode := r.cqMode, dbSource := r.dbSource
      dbId := r.dbId, cqLog2 := r.cqLog2, base := r.base, cqBase := r.cqBase, cqCons := r.cqCons, budget := r.budget
      fetch := r.start, doorbell := r.start, state := .running }).done c 0)))) ∧
  (∀ s src d c, Starts s src (fun l => isOp 0x11 l && (rctlOp l = 0 || rctlOp l = 3)) d c → d.controlFails c = none →
    (d.ring (rctlRing c.desc)).state ∈ [.running, .stopped, .aborted] → d.preempted (rctlRing c.desc) = false →
    rctlRelease c.desc = 0 →
    exec (.ringControlDestroy src) s = .next (s.withDev (settled src ((d.setRing (rctlRing c.desc)
      { d.ring (rctlRing c.desc) with state := .destroying }).done c 0)))) ∧
  (∀ s src d c, Starts s src (fun l => isOp 0x11 l && (rctlOp l = 0 || rctlOp l = 3)) d c → d.controlFails c = none →
    (d.ring (rctlRing c.desc)).state ∈ [.running, .stopped, .aborted] → d.preempted (rctlRing c.desc) = false →
    rctlRelease c.desc ≠ 0 →
    exec (.ringControlDestroy src) s = .next (s.withDev (settled src
      (((d.takeRef (handleIndex (rctlRelease c.desc))).setRing (rctlRing c.desc) { d.ring (rctlRing c.desc) with
        state := .destroying
        release := (d.ring (rctlRing c.desc)).release ++ [⟨handleIndex (rctlRelease c.desc), rctlValue c.desc⟩] }).done c 0)))) ∧
  (∀ s src d c, Starts s src (fun l => isOp 0x11 l && rctlOp l = 1) d c → d.controlFails c = none →
    (d.ring (rctlRing c.desc)).state = .stopped → d.preempted (rctlRing c.desc) = false →
    exec (.ringControlRestart src) s = .next (s.withDev (settled src ((d.setRing (rctlRing c.desc)
      { d.ring (rctlRing c.desc) with
        fetch := rctlValue c.desc
        doorbell := if (rctlValue c.desc).toNat ≤ (d.ring (rctlRing c.desc)).doorbell.toNat
          then (d.ring (rctlRing c.desc)).doorbell else rctlValue c.desc
        state := .running, fetchFault := false, fetched := [] }).done c 0)))) ∧
  (∀ s src d c r, Starts s src (fun l => isOp 0x11 l && rctlOp l = 2) d c → d.controlFails c = none →
    r = d.ring (rctlRing c.desc) → r.state ∈ [.running, .stopped] → d.preempted (rctlRing c.desc) = false →
    d.admits r.part (rctlRing c.desc) r.cls (rctlBudget c.desc) →
    exec (.ringControlBudget src) s = .next (s.withDev (settled src
      ((d.setRing (rctlRing c.desc) { r with budget := rctlBudget c.desc }).done c 0))))

/-- A DESTROYING ring whose last command has retired becomes DISABLED (R294): its registers read as those of no ring, and its
release fence, if it has one, is signalled. -/
def Obligations.DestroyedRingDisables : Prop :=
  (∀ (s : State) i, s.dev.serves → (s.dev.ring i).state = .destroying → s.dev.inFlight i = 0 → (s.dev.ring i).release = [] →
    exec (.ringDisabledRelease i) s = .next (s.withDev (s.dev.setRing i Ring.absent))) ∧
  (∀ (s : State) i f off, s.dev.serves → (s.dev.ring i).state = .destroying → s.dev.inFlight i = 0 →
    (s.dev.ring i).release = [f] → (s.dev.entry f.fence).payload = .fence off → NMap.get? s.dev.sub.exports f.fence = none →
    exec (.ringDisabledRelease i) s = .next (s.withDev (((s.dev.signalWord off (some f.value)).2.drop [f.fence]).setRing i Ring.absent)))

/-- The failures of R295 end the command with BAD_DESCRIPTOR and change no ring. -/
def Obligations.RingControlChecks : Prop :=
  ∀ s src d c n i, i ∈ [Instr.ringControlDestroy src, .ringControlRestart src, .ringControlBudget src] →
    Starts s src (fun l => isOp 0x11 l && (match i with
      | .ringControlDestroy _ => rctlOp l = 0 || rctlOp l = 3
      | .ringControlRestart _ => rctlOp l = 1
      | _ => rctlOp l = 2)) d c →
    d.controlFails c = some n →
    exec i s = .next (s.withDev (settled src (d.endCmd c.ring c.serial Sts.badDescriptor (BitVec.ofNat 64 n) noUnit)))

/-! ## Objects and fences -/

/-- OBJ_CREATE (R305, R306): a MEMORY object is live with its owner's reference and its range; a FENCE has its initial value
in its word; a FABRIC_FENCE asks its home to subscribe. The handle is then written to `result`. -/
def Obligations.ObjectsAreCreated : Prop :=
  (∀ s src d c i, Starts s src (isOp 0x12) d c → c.run = .none → d.objOk c.desc → objType c.desc = typMemory →
    d.nextEntry = some i → d.sub.fresh = i → i < handleEntries →
    exec (.objCreate src) s = .next (s.withDev (settled src
      ((({ d with sub := { d.sub with fresh := i + 1 } }).setEntry i ⟨(d.entry i).gen, typMemory, .live, 1, none,
        .memory c.asid (objVa c.desc) (objArg c.desc)⟩).writeHandle c i
          [⟨objResult c.desc, leBytes 8 (mkHandle typMemory (d.entry i).gen i).toNat, false⟩])))) ∧
  (∀ s src d d1 d2 c a, Starts s src (isOp 0x12) d c → c.run = .none → d.objOk c.desc → objType c.desc = typFence →
    d.fenceWordAt c (objVa c.desc) = some (d1, some a) → d1.exhausted typFence = none →
    d1.localWrite Asker.none true none .local a (leBytes 8 (objArg c.desc).toNat) = (d2, .ok) →
    exec (.objCreate src) s = .next (s.withDev (settled src (d2.makeObject c typFence (.fence a))))) ∧
  (∀ s src d d1 d2 d3 c a i, Starts s src (isOp 0x12) d c → c.run = .none → d.objOk c.desc → objType c.desc = typFabricFence →
    d.fenceWordAt c (objVa c.desc) = some (d1, some a) → d1.exhausted typFabricFence = none → d1.sharedGate = .ok →
    d1.issue ⟨c.ring, c.serial, 6, 3, 2, objHome c.desc, 0, 0, none, 0, .subscribe,
      leBytes 8 (objArg c.desc).toNat ++ leBytes 8 0⟩ = (d2, .ok) →
    d2.alloc typFabricFence (.mirror a (objHome c.desc) (objArg c.desc) false) = some (i, d3) →
    exec (.objCreate src) s = .next (s.withDev (settled src (d3.setRun c.ring c.serial (.fabricFence i))))) ∧
  (∀ s src d c, Starts s src (isOp 0x12) d c → c.run = .none → d.objOk c.desc = false →
    exec (.objCreate src) s = .next (s.withDev (settled src (d.fail c Sts.badDescriptor 0))))

/-- OBJ_FREE and OBJECT_ENTRY_FREED (R306 to R308): the generation rises by one and the owner's reference goes at once, so
that the handle is stale; the entry is freed, and can be allocated again, when no reference is left.
Where the spec is silent it rests on the model's choices, log entry 64. -/
def Obligations.ObjectsAreFreed : Prop :=
  (∀ s src d c i e, Starts s src (isOp 0x13) d c → d.current (freeHandle c.desc) → reservedZero c.desc freeFields →
    i = handleIndex (freeHandle c.desc) → e = d.entry i → e.payload.word = none → freeFence c.desc = 0 →
    exec (.objFree src) s = .next (s.withDev (settled src
      (((d.setEntry i { e with gen := e.gen + 1, state := .dying, release := none }).drop [i]).done c 0)))) ∧
  (∀ s src d c, Starts s src (isOp 0x13) d c → d.current (freeHandle c.desc) = false →
    exec (.objFree src) s = .next (s.withDev (settled src (d.fail c Sts.staleHandle 1)))) ∧
  (∀ (s : State) i e, s.dev.serves → e = s.dev.entry i → e.state = .dying → e.refs = 0 → e.release = none → e.gen ≠ 0 →
    e.payload.holds = [] →
    exec (.objectEntryFreed i) s = .next (s.withDev
      (let d := s.dev.setEntry i { Entry.unused with gen := e.gen }
       { d with sub := { d.sub with freed := s.dev.sub.freed ++ [i] } }))) ∧
  (∀ (s : State) i e, s.dev.serves → e = s.dev.entry i → e.state = .dying → e.refs = 0 → e.release = none → e.gen = 0 →
    e.payload.holds = [] →
    exec (.objectEntryFreed i) s = .next (s.withDev (s.dev.setEntry i { Entry.unused with state := .retired })))

/-- FENCE_WAIT (R311, R313, R315): a satisfied wait completes at once, another takes one of the 48 watch slots or, where none is
left by earlier waits, parks; it proceeds when its word reaches the value, and ends with WAIT_TIMEOUT and the word at its timeout
edge.
Where the spec is silent it rests on the model's choices, log entry 65. -/
def Obligations.FenceWaits : Prop :=
  (∀ s src d c i, Starts s src (isOp 0x14) d c → c.run = .none → i = handleIndex (waitFence c.desc) →
    reservedZero c.desc waitFields → d.lost (d.handleOf i) = false → d.satisfied i (waitValue c.desc) →
    exec (.fenceWait src) s = .next (s.withDev (settled src (d.done c 0)))) ∧
  (∀ s src d c i, Starts s src (isOp 0x14) d c → c.run = .none → i = handleIndex (waitFence c.desc) →
    reservedZero c.desc waitFields → d.lost (d.handleOf i) = false → d.satisfied i (waitValue c.desc) = false →
    d.sharedFence i = false → d.sub.slots.length + d.sub.parked.length < 48 → waitTimeoutTicks c.desc ≠ 0 →
    exec (.fenceWait src) s = .next (s.withDev (settled src
      ((d.withWatch (d.sub.slots ++ [(c.ring, c.serial)]) d.sub.parked).setRun c.ring c.serial
        (.waiting false (some (d.meter.edges + waitTimeoutTicks c.desc - c.edges))))))) ∧
  (∀ s src d c i, Starts s src (isOp 0x14) d c → c.run = .none → i = handleIndex (waitFence c.desc) →
    reservedZero c.desc waitFields → d.lost (d.handleOf i) = false → d.satisfied i (waitValue c.desc) = false →
    d.sharedFence i = false → 48 ≤ d.sub.slots.length + d.sub.parked.length → waitTimeoutTicks c.desc = 0 →
    exec (.fenceWait src) s = .next (s.withDev (settled src
      (((d.withWatch d.sub.slots (d.sub.parked ++ [(c.ring, c.serial)])).setRun c.ring c.serial
        (.waiting true none)).bump Fld.SUB_PARKED_WAITS_count 0 1)))) ∧
  (∀ (s : State) r n c t, s.dev.serves → s.dev.cmd? r n = some c → c.run = .waiting false t →
    s.dev.lostEntry (handleIndex (waitFence c.desc)) = false →
    s.dev.satisfied (handleIndex (waitFence c.desc)) (waitValue c.desc) →
    exec (.fenceWaitSatisfied r n) s = .next (s.withDev ((s.dev.done c 0).hist 11 ((s.dev.now - c.startAt) / 100)))) ∧
  (∀ (s : State) r n c p t off w, s.dev.serves → s.dev.cmd? r n = some c → c.run = .waiting p (some t) → t ≤ s.dev.meter.edges →
    s.dev.lostEntry (handleIndex (waitFence c.desc)) = false →
    s.dev.satisfied (handleIndex (waitFence c.desc)) (waitValue c.desc) = false →
    (s.dev.entry (handleIndex (waitFence c.desc))).payload.word = some off → s.dev.wordRead off = some w →
    exec (.waitTimeout r n) s = .next (s.withDev (s.dev.endCmd r n Sts.waitTimeout w noUnit))) ∧
  (∀ (s : State) k rest c t, s.dev.serves → s.dev.sub.slots.length < 48 → s.dev.sub.parked = k :: rest →
    s.dev.cmd? k.1 k.2 = some c → c.run = .waiting true t →
    exec .parkedWaitTakesSlot s = .next (s.withDev
      (((s.dev.withWatch (s.dev.sub.slots ++ [k]) rest).setRun k.1 k.2 (.waiting false t)).waitDone k.1 k.2)))

/-- A word at all ones is terminal: a signal changes nothing but SUB_FENCE_TERMINAL; an increment of the value below it stores it,
and no signal wraps a word (R310). Otherwise a max signal leaves the maximum, and an increment adds one (R309). -/
def Obligations.SignalRule : Prop :=
  (∀ (d d1 : Dev) off v bs, d.localRead off 8 = (d1, .ok, bs) → BitVec.ofNat 64 (leNat bs) = BitVec.allOnes 64 →
    d.signalWord off v = (false, d1.bump Fld.SUB_FENCE_TERMINAL_count 0 1)) ∧
  signalValue (BitVec.allOnes 64 - 1) none = some (BitVec.allOnes 64) ∧
  (∀ (w : Wide) v, w ≤ (signalValue w v).getD w) ∧
  (∀ w v : Wide, (signalValue w (some v)).getD w = if w = BitVec.allOnes 64 ∨ v ≤ w then w else v) ∧
  (∀ w : Wide, (signalValue w none).getD w = if w = BitVec.allOnes 64 then w else w + 1)

/-- FENCE_SIGNAL (R309, R310, R314): the word in memory takes the new value, which reaches the subscribers of an exported
fence; a signal through a mirror goes to its home and completes with its acknowledgement (R317). A read of a fence word that
is held in SLEEP, or while tags are invalidated, holds the signal (R405). -/
def Obligations.FencesAreSignalled : Prop :=
  (∀ s src d d1 c i off bs v x, Starts s src (isOp 0x15) d c → c.run = .none → i = handleIndex (waitFence c.desc) →
    reservedZero c.desc signalFields → (d.entry i).payload = .fence off → NMap.get? d.sub.exports i = none →
    d.localRead off 8 = (d1, .ok, bs) → v = (if signalIncrement c.desc then none else some (waitValue c.desc)) →
    signalValue (BitVec.ofNat 64 (leNat bs)) v = some x →
    exec (.fenceSignal src) s = .next (s.withDev (settled src
      ((d1.localWrite Asker.none true none .local off (leBytes 8 x.toNat)).1.done c 0)))) ∧
  (∀ s src d d1 c i off h home, Starts s src (isOp 0x15) d c → c.run = .none → i = handleIndex (waitFence c.desc) →
    reservedZero c.desc signalFields → (d.entry i).payload = .mirror off home h false → d.sharedGate = .ok →
    d.issue ⟨c.ring, c.serial, 6, (if signalIncrement c.desc then 1 else 0), 2, home, 0, 0, none, 0, .fenceSignal i,
      leBytes 8 h.toNat ++ leBytes 8 (if signalIncrement c.desc then 0 else waitValue c.desc).toNat⟩ = (d1, .ok) →
    (d1.entry i).payload = .mirror off home h false →
    exec (.fenceSignal src) s = .next (s.withDev (settled src (d1.setRun c.ring c.serial (.fabricFence i))))) ∧
  (∀ (d d1 : Dev) off v bs, d.localRead off 8 = (d1, .wait, bs) →
    d.signalWord off v = (false, { d with sub := { d.sub with heldSignals := d.sub.heldSignals ++ [(off, v)] } }))

/-! ## Kernels and dispatches -/

/-- KERNEL_LOAD creates the object in TRANSLATING, writes its handle and reads the module and the entry point's name;
KERNEL_TRANSLATION_END writes code and record and ends the command: READY with OK, REJECTED with KERNEL_REJECTED (R51, R326,
R329).
Where the spec is silent it rests on the model's choices, log entries 24, 25 and 108. -/
def Obligations.KernelsLoad : Prop :=
  (∀ s src d d1 d2 d3 d4 c i m name e st x code u pu ms ns w, Starts s src (isOp 0x20) d c → c.run = .none →
    d.kernelFails c = none →
    d.exhausted typKernel = none →
    d.alloc typKernel (.kernel .translating [] (handleIndex (kldCode c.desc)) [] [] (kldModel c.desc) [] 0) = some (i, d1) →
    Dev.cmdWrites c engOther (d1.takeRef (handleIndex (kldCode c.desc)))
      ((d1.takeRef (handleIndex (kldCode c.desc))).handleWrite (kldResult c.desc) i) = (d2, .ok, w) →
    (d2.setRun c.ring c.serial (.kernelLoad i)).cmdRead c engOther (kldModule c.desc) (kldBytes c.desc) = (d3, .ok, m) →
    d3.readName c (kldEntry c.desc) = (d4, .ok, name) → e = d4.entry i → e.payload = .kernel st x code ms ns (kldModel c.desc) u pu →
    exec (.kernelLoad src) s = .next (s.withDev (settled src
      (d4.setEntry i { e with payload := .kernel st x code m name (kldModel c.desc) u pu })))) ∧
  (∀ (s : State) i t c code b m n x u p k d1 d2 d3 e e3 l r is, s.dev.serves → is = (spvIntake (b :: m) t.malformedAt).ins →
    s.dev.sub.cmds.find? (fun c => c.run = .kernelLoad i && c.active) = some c →
    (s.dev.entry i).payload = .kernel .translating [] code (b :: m) n x u p →
    k = translated (b :: m) (entryName n) x t →
    (if k.state = 1 then s.dev.writeCode c code k.codeBytes else (s.dev, .ok)) = (d1, .ok) → e = d1.entry i →
    d2 = d1.setEntry i { e with payload := (.kernel .translating k.bytes code (b :: m) n x
      (match spvChosen is (entryName n) x with
        | f :: _ => spvUses is f.fn
        | [] => []) (spvPush is)) } →
    Dev.cmdWrites c engOther d2 [⟨kldRecord c.desc, k.bytes, false⟩] = (d3, .ok, l) → e3 = d3.entry i →
    e3.payload = .kernel .translating k.bytes code (b :: m) n x u p → r = krecordOf k.bytes →
    exec (.kernelTranslationEnd i t) s = .next (s.withDev
      (let d4 := d3.setEntry i { e3 with
          payload := .kernel (if r.state = 1 then .ready else .rejected) k.bytes code (b :: m) n x u p }
       d4.endCmd c.ring c.serial (if r.state = 1 then Sts.ok else Sts.kernelRejected) (kernelDetail (d4.handleOf i) r) noUnit)))

/-- DISPATCH starts a launch whose checks pass, BLOCK_PLACE puts its next block, or a course of a pass, on bricks with room, and a
launch all of whose blocks have exited completes once its stores are performed (R44, R45, R59, R60).
Where the spec is silent it rests on the model's choices, log entries 21, 26, 27 and 112.
What kernels are given and give back: the built-ins of the subgroup (R46) and the index and rank of the cluster (R62); an output of
a course of a pass is kept for the pass, and an attachment read gives the own pixel's value (R152). -/
def Obligations.DispatchesRun : Prop :=
  (∀ s src d d1 c x rec k code m n mo uses push args, Starts s src (isOp 0x21) d c → c.run = .none → x = dispatchD c.desc →
    (d.entry (handleIndex x.kernel)).payload = .kernel .ready rec code m n mo uses push → k = krecordOf rec →
    d.dispatchFails c k = none → x.grid.1 * x.grid.2.1 * x.grid.2.2 ≠ 0 →
    Dev.readRanges c engOther d (argRanges x.args uses push) = (d1, .ok, args) →
    exec (.dispatch src) s = .next (s.withDev (settled src ((d1.freshInput c.ring c.serial).setRun c.ring c.serial (.dispatch {
      kernel := handleIndex x.kernel, total := x.grid.1 * x.grid.2.1 * x.grid.2.2, next := 0, exited := 0
      regsPerLane := k.regs, lsBytes := k.localBytes, threads := x.block.1 * x.block.2.1 * x.block.2.2, grid := x.grid
      cluster := x.cluster, split := x.split, seed := x.seed, args := args, sr := [], remoteFault := none }))))) ∧
  (∀ s src d c x k, Starts s src (isOp 0x21) d c → c.run = .none → x = dispatchD c.desc →
    d.kernelView (handleIndex x.kernel) = .ready k → d.dispatchFails c k = none → x.grid.1 * x.grid.2.1 * x.grid.2.2 = 0 →
    exec (.dispatch src) s = .next (s.withDev (settled src (d.done c 0)))) ∧
  (∀ (s : State) ref bricks c r unit d1, s.dev.serves → s.dev.cmd? ref.ring ref.serial = some c → c.run = .dispatch r →
    c.phase = .started → r.next < r.units → unit = r.unitBlocks r.next → nth unit 0 0 = ref.block →
    (s.dev.ring c.ring).saving = false → placementOk unit.length bricks →
    (∀ n ∈ bricks, n ∈ s.dev.partBricks c.part ∧ s.dev.roomOn r.room n) → s.dev.outranked c bricks = false →
    s.dev.cleanPonds (bricks.filter (fun n => (s.dev.brick n).split ≠ r.split)) = (d1, true) →
    exec (.blockPlace ref bricks) s = .next (s.withDev
      (((((List.range unit.length).map (fun k => freshBlock c .compute r.room unit k)).zip bricks).foldl
          (fun d p => d.putBlock c p.2 p.1) d1).modCmd c.ring c.serial (fun c => match c.run with
        | .dispatch r => { c with run := .dispatch { r with next := r.next + 1 } }
        | .pass p => { c with run := .pass { p with
            courses := p.courses.map (fun x => if x.no = ref.block then { x with placed := true } else x) } }
        | _ => c)))) ∧
  (∀ (s : State) ref n c p x d1, s.dev.serves → s.dev.cmd? ref.ring ref.serial = some c → c.run = .pass p → c.phase = .started →
    p.courses.find? (fun x => x.no = ref.block && !x.placed) = some x → n ∈ x.bricks →
    s.dev.roomOn ⟨x.lanes.length, x.regs, 0, p.split⟩ n → s.dev.outranked c [n] = false →
    s.dev.cleanPonds (if (s.dev.brick n).split ≠ p.split then [n] else []) = (d1, true) →
    exec (.blockPlace ref [n]) s = .next (s.withDev
      ((d1.putBlock c n (x.block c ⟨x.lanes.length, x.regs, 0, p.split⟩)).modCmd c.ring c.serial (fun c => c.begun ref.block)))) ∧
  (∀ (s : State) ring serial c r d1, s.dev.serves → s.dev.cmd? ring serial = some c → c.run = .dispatch r → r.exited = r.total →
    s.dev.storesDone c = (d1, true) →
    exec (.dispatchComplete ring serial) s = .next (s.withDev ((d1.removeBlocks ring serial).done c 0))) ∧
  (∀ s n b x l v, Resident s x.ref n b → x.lanes = [l] → b.runs l.thread → x.cls = .input → x.evict = none → x.store = false →
    l.image = none → s.dev.inputOf b l.thread l.addr.toNat = some v →
    exec (.kernelLoadStore x) s = .next (s.withDev (s.dev.give n b.bref l.thread v))) ∧
  (∀ (d : Dev) (b : Block) t, d.inputOf b t 36 = some [32] ∧ d.inputOf b t 38 = some [BitVec.ofNat 32 b.courseCount]
    ∧ d.inputOf b t 40 = some [BitVec.ofNat 32 (t / 32)] ∧ d.inputOf b t 41 = some [BitVec.ofNat 32 (t % 32)]) ∧
  (∀ (d : Dev) (b : Block) t c r, d.cmd? b.ring b.serial = some c → c.run = .dispatch r →
    d.inputOf b t 6514 = some (vecWords (clusterIndex r.grid r.cluster b.index))
      ∧ d.inputOf b t 6515 = some [BitVec.ofNat 32 b.rank]) ∧
  (∀ s n b x l, Resident s x.ref n b → x.lanes = [l] → b.runs l.thread → x.cls = .output → x.evict = none → x.store →
    l.image = none → l.data.length = x.size → b.stage ≠ .compute →
    exec (.kernelLoadStore x) s = .next (s.withDev
      (s.dev.modBlock n b.bref (fun b => b.store l.thread l.addr.toNat (laneWords l.data))))) ∧
  (∀ s n b x l v, Resident s x.ref n b → x.lanes = [l] → b.runs l.thread → x.cls = .inputAttachment → x.evict = none →
    x.store = false → s.dev.attachmentOf b l.thread l.addr.toNat ((l.image.map (·.sample)).getD 0) = some v →
    exec (.kernelLoadStore x) s = .next (s.withDev (s.dev.give n b.bref l.thread v)))

/-- BRICK_DRAIN_SELECT: for the first work in grant order that no brick has room for, dispatch, pass or saved blocks, the brick of
another split with the fewest resident courses drains (R56). -/
def Obligations.DrainSelection : Prop :=
  ∀ (s : State) ref c w bs n, s.dev.serves → s.dev.cmd? ref.ring ref.serial = some c → bs = s.dev.partBricks c.part →
    minBy (fun (w : Work) => s.dev.grantRank w.cmd)
      ((s.dev.waitingWork c.part).filter (fun w => w.bricks.any (fun n => s.dev.couldUse w n) = false)) = some w →
    w.cmd.ring = c.ring → w.cmd.serial = c.serial →
    ({ Brick.fresh with split := w.room.split }).fits w.room w.room.split → bs.all (fun n => (s.dev.brick n).drain.isNone) →
    minBy (fun n => (s.dev.brick n).courses)
      (w.bricks.filter (fun n => bs.contains n && (s.dev.brick n).split ≠ w.room.split)) = some n →
    exec (.brickDrainSelect ref) s = .next (s.withDev (s.dev.modBrick n (fun b => { b with drain := some w.room.split })))

/-- OP_CONTROL_BARRIER and BLOCK_EXIT: lanes that arrive are blocked, lanes that exit leave every barrier; the instances that
this completes release their lanes, and a block whose last lane exits is done; a pass then has what its course has stored, and
goes on (R65, R72, R73, R145, R151).
Where the spec is silent it rests on the model's choices, log entry 28. -/
def Obligations.BarriersAndExits : Prop :=
  (∀ s r n b b1 scope site threads d1, Resident s r n b → scope ∈ [Scope.course, .block, .cluster] →
    (∀ t ∈ threads, b.runs t) → threads.eraseDups = threads →
    d1 = s.dev.modBlock n r (fun b => threads.foldl (Block.arrive scope site (s.dev.fld Fld.BRK_STALL_LIMIT_stall_limit n)) b) → d1.findBlock r = some (n, b1) →
    exec (.opControlBarrier r scope site threads) s = .next (s.withDev (d1.barrierComplete n b1))) ∧
  (∀ s r n b b1 threads d1, Resident s r n b → (∀ t ∈ threads, b.runs t) →
    d1 = s.dev.modBlock n r (fun b => { b with exited := b.exited ++ threads.eraseDups }) → d1.findBlock r = some (n, b1) →
    b1.alive ≠ [] →
    exec (.blockExit r threads) s = .next (s.withDev ((d1.barrierComplete n b1).passAfter r))) ∧
  (∀ s r n b b1 threads d1, Resident s r n b → (∀ t ∈ threads, b.runs t) →
    d1 = s.dev.modBlock n r (fun b => { b with exited := b.exited ++ threads.eraseDups }) → d1.findBlock r = some (n, b1) →
    b1.alive = [] →
    exec (.blockExit r threads) s = .next (s.withDev (((d1.barrierComplete n b1).blockDone n b1).passAfter r))) ∧
  (∀ (d : Dev) r c k, d.cmd? r.ring r.serial = some c → c.run = .dispatch k → d.passAfter r = d) ∧
  (∀ (c : Cmd) p b x, c.run = .pass p → x ∈ p.courses → x.no = b.index → ∃ q, (c.blockEnded b).run = .pass q ∧
    { x with outs := some b.outputs } ∈ q.courses)

/-- DIVERGENT_BARRIER and WATCHDOG end the dispatch: its blocks are removed, and its status names the deciding block and brick. For
a cluster barrier the block of lowest rank decides; of several blocks that raise a status in one I/O clock, the one with the
lowest index does (R74 to R76, R329).
Where the spec is silent it rests on the model's choices, log entries 29 and 119. -/
def Obligations.BlocksEndDispatches : Prop :=
  (∀ s r n b, Resident s r n b → (∀ p ∈ s.dev.clusterBlocks b, p.2.done = false → ∀ x ∈ p.2.blocked, x.scope ≠ .cluster) →
    b.stuck → b.alive ≠ [] → s.dev.decides b →
    exec (.divergentBarrier r) s = .next (s.withDev (s.dev.endDispatch b.ring b.serial Sts.divergentBarrier b.index n))) ∧
  (∀ s r n b cl p, Resident s r n b → cl = (s.dev.clusterBlocks b).filter (fun p => !p.2.done) →
    (∃ p ∈ cl, ∃ x ∈ p.2.blocked, x.scope = .cluster) → (∀ p ∈ cl, p.2.stuck) → minBy (fun p => p.2.rank) cl = some p →
    s.dev.decides p.2 →
    exec (.divergentBarrier r) s = .next (s.withDev
      (s.dev.endDispatch p.2.ring p.2.serial Sts.divergentBarrier p.2.index p.1))) ∧
  (∀ s r n b, Resident s r n b → (∃ x ∈ b.blocked, x.stall ≥ 1000 * x.limit) → s.dev.divergentAt n b = none → s.dev.decides b →
    exec (.watchdog r) s = .next (s.withDev (s.dev.endDispatch b.ring b.serial Sts.watchdog b.index n))) ∧
  (∀ s r n b q, Resident s r n b → s.dev.watchdogDue n b →
    minBy (fun p => p.2.index)
      ((s.dev.blocksOf b.ring b.serial).filter (fun p => p.2.index < b.index && s.dev.watchdogDue p.1 p.2)) = some q →
    exec (.watchdog r) s = .next (s.withDev (s.dev.endDispatch q.2.ring q.2.serial Sts.watchdog q.2.index q.1)))

/-! ## Lanes -/

/-- KERNEL_LOAD_STORE on memory and images (R81, R85, R172 to R174, R235): in the block's local store every lane's bytes are stored or
read in turn; a lane's request within one page of this device is performed there, and the lane gets its value; any other request is
carried as far as it goes, and lanes get their values when every request is complete. A load of a texel gives the lane its value; a
descriptor that is not valid gives zero and is counted; a store beyond the image writes nothing.
Where the spec is silent it rests on the model's choices, log entries 30, 34, 39 and 120. -/
def Obligations.LanesLoadAndStore : Prop :=
  (∀ s n b x, Resident s x.ref n b → b.together (x.lanes.map (·.thread)) → x.cls = .workgroup → x.evict = none →
    (∀ l ∈ x.lanes, l.image = none ∧ l.addr.toNat + x.size ≤ b.lsBytes ∧ (x.store → l.data.length = x.size)) →
    exec (.kernelLoadStore x) s = .next (s.withDev (x.lanes.foldl (fun d l =>
      if x.store then d.modBrick n (fun y => { y with ls := y.ls.write (b.lsBase + l.addr.toNat) l.data })
      else d.give n b.bref l.thread (laneWords ((d.brick n).ls.read (b.lsBase + l.addr.toNat) x.size))) s.dev))) ∧
  (∀ s n b x l d y d1 leaf a d2 bs, Resident s x.ref n b → b.numbered → x.lanes = [l] → b.runs l.thread →
    x.cls ∈ [StorageClass.buffer, .physical] → x.evict = none → x.store = false → x.size ≠ 0 → l.image = none →
    s.dev.fresh.2.oneLane n b x.cls .load x.size (accessLane l false x.size s.dev.freeCtr) = (d, y) → d.Holds n y.block →
    PartHere d y accRead l.addr x.size d1 leaf a → d1.hereLoad y leaf a x.size = (d2, .ok, bs) → d2.Holds n y.block →
    exec (.kernelLoadStore x) s = .next (s.withDev (d2.laneEnds y (some (laneWords bs))))) ∧
  (∀ s n b x l d y d1 leaf a d2, Resident s x.ref n b → b.numbered → x.lanes = [l] → b.runs l.thread → b.acting l.thread →
    x.cls ∈ [StorageClass.buffer, .physical] → x.evict = none → x.store → x.size ≠ 0 → l.data.length = x.size → l.image = none →
    s.dev.fresh.2.oneLane n b x.cls .store x.size (accessLane l true x.size s.dev.freeCtr) = (d, y) → d.Holds n y.block →
    PartHere d y accWrite l.addr x.size d1 leaf a → d1.hereStore y leaf a l.data = (d2, .ok) → d2.Holds n y.block →
    exec (.kernelLoadStore x) s = .next (s.withDev (d2.laneEnds y none))) ∧
  (∀ s n b x d f op p, Resident s x.ref n b → b.together (x.lanes.map (·.thread)) → accessFormed x →
    x.cls ∈ [StorageClass.buffer, .physical, .image] → x.evict = none → op = (if x.store then PathOp.store else .load) →
    s.dev.freshen (x.lanes.filter (fun l => !x.store || b.acting l.thread)) (fun l k => accessLane l x.store x.size k) = (d, f) →
    p = ⟨b.pathNo, x.cls, op, x.size, none, f⟩ → (d.modBlock n b.bref (fun b => b.withPath p)).Holds n (b.withPath p) →
    b.numbered →
    exec (.kernelLoadStore x) s = .next (s.withDev
      ((((f.map (·.thread)).foldl (fun d t => d.runLane b.bref b.pathNo t) (d.modBlock n b.bref (fun b => b.withPath p))).finishPath
        b.bref b.pathNo).endFaulted b.ring b.serial))) ∧
  (∀ s n b x l op d y d2 l2, Resident s x.ref n b → b.numbered → x.lanes = [l] → b.runs l.thread → b.acting l.thread →
    accessFormed x → x.cls = .image → x.evict = none → op = (if x.store then PathOp.store else .load) →
    s.dev.fresh.2.oneLane n b .image op x.size (accessLane l x.store x.size s.dev.freeCtr) = (d, y) → d.Holds n y.block →
    Dev.laneOn y op (((d.cmd? b.ring b.serial).map Cmd.ownRanges).getD []) 64 d (accessLane l x.store x.size s.dev.freeCtr) =
      (d2, l2) →
    d2.Holds n y.block → l2.image = none → (∀ p ∈ l2.parts, p.state = .done) → l2.thread = l.thread →
    exec (.kernelLoadStore x) s = .next (s.withDev (d2.laneEnds y (l2.result op)))) ∧
  (∀ (e : TexEnv) g op ws ib, e.bytes g.desc 32 = .ok ib → (imageD ib).ok = false → e.access g op ws = .ok .bad) ∧
  (∀ (d : Dev) y l, d.imageEnds y l .bad = (d.bump Fld.RAS_DESC_ERROR_count 0 1,
    { l with image := none, parts := [], value := some [0, 0, 0, 0] })) ∧
  (∀ (e : TexEnv) g ws ib t, e.bytes g.desc 32 = .ok ib → (imageD ib).ok → g.sampler = none →
    (imageD ib).has g.x g.y g.layer g.level g.sample → e.texel (imageD ib) g.x g.y g.layer g.level g.sample = .ok t →
    e.access g .load ws = .ok (.value ((imageD ib).load t.1) t.2)) ∧
  (∀ (e : TexEnv) g ws ib, e.bytes g.desc 32 = .ok ib → (imageD ib).ok →
    (imageD ib).has g.x g.y g.layer g.level g.sample = false → e.access g .store ws = .ok .nothing)

/-- CLUSTER_LOCAL_ACCESS (R63, R64), lane by lane: in range it reaches the peer's local store; out of range a load reads zero, a
store writes nothing, and the access is counted. MEMORY_RELEASE at cluster scope and wider writes the pond's dirty lines back, and
its threads issue nothing until that is done, at fabric scope until stores to other devices are acknowledged too; MEMORY_ACQUIRE
drops the pond's clean bytes and side buffer. Narrower scopes, and semantics that cover no memory outside local stores, change
nothing (R79, R80, R208).
Where the spec is silent it rests on the model's choices, log entries 31 and 32. -/
def Obligations.SharedBrickMemory : Prop :=
  (∀ s n b x, Resident s x.ref n b → b.together (x.lanes.map (·.thread)) → (x.store → ∀ l ∈ x.lanes, l.data.length = x.size) →
    exec (.clusterLocalAccess x) s = .next (s.withDev
      (x.lanes.foldl (fun d l => d.clusterAccess n b x.store x.size l) s.dev))) ∧
  (∀ (d : Dev) n b store size (l : LaneAccess) m p o, d.clusterPlace b l.addr.toNat size = some (m, p, o) →
    d.clusterAccess n b store size l =
      if store then d.modBrick m (fun x => { x with ls := x.ls.write (p.lsBase + o) l.data })
      else d.give n b.bref l.thread (laneWords ((d.brick m).ls.read (p.lsBase + o) size))) ∧
  (∀ (d : Dev) n b store size (l : LaneAccess), d.clusterPlace b l.addr.toNat size = none →
    d.clusterAccess n b store size l =
      let d := d.bump Fld.BRK_LS_OOR_oor_count n 1
      if store then d else d.give n b.bref l.thread (laneWords (List.replicate size 0))) ∧
  (∀ s r n b ts scope cs d1 d2, Resident s r n b → coversMemory cs → scope ∈ [Scope.cluster, .device, .fabric] →
    (∀ t ∈ ts, b.runs t) → d1 = s.dev.modBlock n r (fun b => { b with releases := b.releases ++ [⟨ts, scope⟩] }) →
    d1.findBlock r = some (n, { b with releases := b.releases ++ [⟨ts, scope⟩] }) → d2 = d1.cleanPond n →
    exec (.memoryRelease r ⟨ts, ⟨scope, cs⟩⟩) s = .next (s.withDev
      ((d2.modBlock n r (fun b => { b with releases := b.releases.filter (fun h =>
        (d2.brick n).pondDirty || (h.scope = .fabric && d2.storesOut n r)) })).endFaulted r.ring r.serial))) ∧
  (∀ (b : Block) h t, h ∈ b.releases → t ∈ h.threads → b.runs t = false) ∧
  (∀ s r n b ts scope cs, Resident s r n b → (coversMemory cs = false ∨ scope ∉ [Scope.cluster, .device, .fabric]) →
    exec (.memoryRelease r ⟨ts, ⟨scope, cs⟩⟩) s = .next s ∧ exec (.memoryAcquire r ⟨scope, cs⟩) s = .next s) ∧
  (∀ s r n b scope cs, Resident s r n b → coversMemory cs → scope ∈ [Scope.cluster, .device, .fabric] →
    exec (.memoryAcquire r ⟨scope, cs⟩) s = .next (s.withDev ((s.dev.dropFills n).modBrick n (fun x => { x with
      pond := (x.pond.filter (fun e => e.2.dirty ≠ 0)).map (fun e => (e.1, { e.2 with valid := e.2.dirty })), side := [] }))))

/-- Every atomic instruction, for one lane: on a local store the word becomes the operation's result and the lane receives what it
found; on this device's memory the same happens at the home slice, after the brick's pond has given up the line (R64, R84, R85,
R88). One misaligned address among an atomic's lanes ends the dispatch with MISALIGNED_ATOMIC, and nothing is written (R86).
Where the spec is silent it rests on the model's choices, log entries 33, 120 and 124. -/
def Obligations.AtomicsComplete : Prop :=
  (∀ s i op x l n b m p o old d1, atomicOf i = some (op, x) → Resident s x.ref n b → x.lanes = [l] → b.runs l.thread →
    b.acting l.thread → op.sizeOk x.size → l.addr.toNat % x.size = 0 → l.image = none →
    ((x.cls = .workgroup ∧ l.addr.toNat + x.size ≤ b.lsBytes ∧ m = n ∧ p = b ∧ o = l.addr.toNat) ∨
      (x.cls = .clusterLocal ∧ s.dev.clusterPlace b l.addr.toNat x.size = some (m, p, o))) →
    old = leNat ((s.dev.brick m).ls.read (p.lsBase + o) x.size) →
    d1 = (match op.result x.size old l with
      | some v => s.dev.modBrick m (fun y => { y with ls := y.ls.write (p.lsBase + o) (leBytes x.size v) })
      | none => s.dev) →
    exec i s = .next (s.withDev (if op = .store then d1 else d1.give n b.bref l.thread (atomValue x.size old)))) ∧
  (∀ s i op x l n b d y d1 leaf a m d2 old, atomicOf i = some (op, x) → Resident s x.ref n b → b.numbered → x.lanes = [l] →
    b.runs l.thread → b.acting l.thread → op.sizeOk x.size → l.addr.toNat % x.size = 0 → l.image = none →
    x.cls ∈ [StorageClass.buffer, .physical] →
    s.dev.fresh.2.oneLane n b x.cls (.atomic op) x.size (atomicLane l x.size s.dev.freeCtr) = (d, y) → d.Holds n y.block →
    PartHere d y accAtomic l.addr x.size d1 leaf a → regionOf a = .dram m →
    (d1.evictLine n (a / 64)).atomicHome y.req.asker (bitsN leaf 7 6 ≠ 2) (some (bitsN leaf 53 52)) a x.size
      (fun old => op.result x.size old l) = (d2, .ok, old) →
    (d2.afterMax op x.size a .ok old).Holds n y.block →
    exec i s = .next (s.withDev ((d2.afterMax op x.size a .ok old).laneEnds y
      (if op = .store then none else some (atomValue x.size old))))) ∧
  (∀ s i op x l n b d y d2 l2, atomicOf i = some (op, x) → Resident s x.ref n b → b.numbered → x.lanes = [l] →
    b.runs l.thread → b.acting l.thread → x.cls = .image → x.size = 4 → op ≠ .fadd → op.sizeOk x.size → l.image.isSome →
    s.dev.fresh.2.oneLane n b .image (.atomic op) 4 (atomicLane l 4 s.dev.freeCtr) = (d, y) → d.Holds n y.block →
    Dev.laneOn y (.atomic op) (((d.cmd? b.ring b.serial).map Cmd.ownRanges).getD []) 64 d (atomicLane l 4 s.dev.freeCtr) = (d2, l2) →
    d2.Holds n y.block → l2.image = none → (∀ p ∈ l2.parts, p.state = .done) → l2.thread = l.thread →
    exec i s = .next (s.withDev (d2.laneEnds y (l2.result (.atomic op))))) ∧
  (∀ s i op x n b, atomicOf i = some (op, x) → Resident s x.ref n b → b.together (x.lanes.map (·.thread)) → op.sizeOk x.size →
    x.cls ≠ .image → (∀ l ∈ x.lanes, l.image = none) → (∃ l ∈ x.lanes, l.addr.toNat % x.size ≠ 0) →
    exec i s = .next (s.withDev (s.dev.endDispatch b.ring b.serial Sts.misalignedAtomic b.index n)))

/-- Integer atomics wrap at the operand's width: a value that fits is replaced by one that fits (R84). -/
def Obligations.AtomicsWrap : Prop :=
  ∀ (op : AtomOp) size old l v, op ≠ .fadd → old < 2 ^ (8 * size) → op.result size old l = some v → v < 2 ^ (8 * size)

/-- Of two compare-exchanges with equal comparators on one word, at most one succeeds, unless it stores the comparator itself
(R88). -/
def Obligations.OneExchangeWins : Prop :=
  ∀ size old (l m : LaneAtomic) v, m.compare = l.compare → AtomOp.result .cas size old l = some v →
    v ≠ l.compare.toNat % 2 ^ (8 * size) → AtomOp.result .cas size v m = none

/-- The course-wide instructions give each of the 32 lanes its result registers, and a path of fewer lanes ends the dispatch
with MATRIX_PARTIAL_COURSE (R92, R101, R102, R109, R116, R131). The float classes add in a free order (R105).
Where the spec is silent it rests on the model's choices, log entries 35 to 37 and 113. -/
def Obligations.CoursesCompute : Prop :=
  (∀ s n b m fa fb, Resident s m.ref n b → NumFmt.ofCode m.formatA = some fa → NumFmt.ofCode m.formatB = some fb →
    matrixOk m.formatA m.formatB m.blockLength → b.pathRuns m.course m.active → b.wholeCourse m.course m.active →
    3 ≤ matrixClass m.formatA →
    exec (.blockMatMulAdd m) s = .next (s.withDev ((List.range 32).foldl (fun d l => d.give n m.ref (32 * m.course + l)
      (laneAcc (intDot fa fb (matrixK (matrixClass m.formatA)) m) l)) (s.dev.count 0x0003 1 (s.dev.blockAttr n b))))) ∧
  (∀ s n b m fa fb d, Resident s m.ref n b → NumFmt.ofCode m.formatA = some fa → NumFmt.ofCode m.formatB = some fb →
    matrixOk m.formatA m.formatB m.blockLength → b.pathRuns m.course m.active → b.wholeCourse m.course m.active →
    matrixClass m.formatA < 3 → d = s.dev.count 0x0003 1 (s.dev.blockAttr n b) →
    exec (.blockMatMulAdd m) s = .next (s.withDev ((List.range 32).foldl (fun d' l => d'.give n m.ref (32 * m.course + l)
      (laneAcc (floatElem fa fb (matrixK (matrixClass m.formatA)) m d.freeCtr) l)) { d with freeCtr := d.freeCtr + 256 }))) ∧
  (∀ s n b m fa fb, Resident s m.ref n b → NumFmt.ofCode m.formatA = some fa → NumFmt.ofCode m.formatB = some fb →
    matrixOk m.formatA m.formatB m.blockLength → b.pathRuns m.course m.active → b.wholeCourse m.course m.active = false →
    exec (.blockMatMulAdd m) s = .next (s.withDev (s.dev.endDispatch b.ring b.serial Sts.matrixPartialCourse b.index n))) ∧
  (∀ s n b x src tgt mode c sr, Resident s x.ref n b → NumFmt.ofCode x.source = some src → NumFmt.ofCode x.target = some tgt →
    Rounding.ofCode x.rounding = some mode → convOk src tgt mode x.overflow x.count →
    b.pathRuns x.course (x.lanes.map (·.1)) → s.dev.cmd? b.ring b.serial = some c →
    sr = ((s.dev.launchOf b).map (·.sr)).getD [] →
    exec (.convertRounded x) s = .next (s.withDev
      (let d := x.lanes.foldl (fun d l => d.give n x.ref (32 * x.course + l.1)
          (streamPut tgt.width x.words ((List.range x.count).map (fun i => convertElem src tgt mode (Overflow.resolve x.overflow tgt)
            (draw (dispatchD c.desc).seed n (b.quadOf x.course) (srCount sr n (b.quadOf x.course) + i) l.1)
            (streamGet l.2 src.width i))))) s.dev
       if mode = .stochastic then d.srAdvance n b (b.quadOf x.course) x.count else d))) ∧
  (∀ s n b x f mode c sr vals z, Resident s x.ref n b → NumFmt.ofCode x.target = some (.flt f) → 2 ≤ x.target → x.target ≤ 6 →
    Rounding.ofCode x.rounding = some mode → b.pathRuns x.course x.active → b.wholeCourse x.course x.active →
    s.dev.cmd? b.ring b.serial = some c → sr = ((s.dev.launchOf b).map (·.sr)).getD [] → x.blockLength ∈ [16, 32] →
    vals = (List.range 32).map (fun l => (f32Val (nth x.values l 0).toNat,
      draw (dispatchD c.desc).seed n (b.quadOf x.course) (srCount sr n (b.quadOf x.course)) l)) →
    z = (fun v => (quantizeBlock x.target f mode v).2.map (fun e =>
      [BitVec.ofNat 32 e, BitVec.ofNat 32 (quantizeBlock x.target f mode v).1])) →
    exec (.blockQuantize x) s = .next (s.withDev
      (let outs := if x.blockLength = 32 then z vals else z (vals.take 16) ++ z (vals.drop 16)
       let d := (List.range 32).foldl (fun d l => d.give n x.ref (32 * x.course + l) (nth outs l [0, 0])) s.dev
       if mode = .stochastic then d.srAdvance n b (b.quadOf x.course) 1 else d))) ∧
  (∀ s n b x f mode, Resident s x.ref n b → NumFmt.ofCode x.target = some (.flt f) → 2 ≤ x.target → x.target ≤ 6 →
    Rounding.ofCode x.rounding = some mode → b.pathRuns x.course x.active → b.wholeCourse x.course x.active = false →
    x.blockLength ∈ [16, 32] →
    exec (.blockQuantize x) s = .next (s.withDev (s.dev.endDispatch b.ring b.serial Sts.matrixPartialCourse b.index n)))

/-! ## Springs -/

/-- The port of a spring (R215, R217, R221, R222): stores fill the descriptor; a compare-exchange starts an idle spring with a
copy of its descriptor; its owner stops it; a release gives ready slots back, and the last release ends the run. An access
that R215 does not allow reads zero, writes nothing and is counted in MEM_SPRING_ERR; one that it allows is not counted. -/
def Obligations.SpringPort : Prop :=
  (∀ s r n b k o data, Resident s r n b → k < 4 → o + data.length ≤ 64 → data.length ∈ [4, 8] → o % 4 = 0 →
    exec (.springDescriptorStore r k o data) s = .next (s.withDev
      (s.dev.setSpring n k { s.dev.spring n k with desc := splice (s.dev.spring n k).desc o data }))) ∧
  (∀ s r n b k x, Resident s r n b → k < 4 → x = s.dev.spring n k → x.run = none → (springD x.desc).ok b.lsBytes →
    exec (.springStart r k) s = .next (s.withDev ((s.dev.setSpring n k { x with
      run := some ⟨b.ring, b.serial, b.index, x.desc, 0, [], [], [], []⟩, done := false, lastHead := 0 }).prefetchTiles n k))) ∧
  (∀ s r n b k x, Resident s r n b → k < 4 → x = s.dev.spring n k → x.run = none → (springD x.desc).ok b.lsBytes = false →
    exec (.springStart r k) s = .next (s.withDev (s.dev.endDispatch b.ring b.serial Sts.badDescriptor b.index n))) ∧
  (∀ s r n b k x y, Resident s r n b → k < 4 → x = s.dev.spring n k → x.run = some y → y.ownedBy b.bref →
    exec (.springStop r k) s = .next (s.withDev
      ((s.dev.dropSpringOps n k).setSpring n k { x with run := none, lastHead := y.head }))) ∧
  (∀ s r n b k mask x y go z, Resident s r n b → k < 4 → x = s.dev.spring n k → x.run = some y → y.ownedBy b.bref →
    go = y.ready.filter (fun i => mask.toNat.testBit (i % (springD y.desc).slots)) →
    z = SpringRun.advance (y.released ++ go).length
      { y with ready := y.ready.filter (fun i => !go.contains i), released := y.released ++ go } →
    exec (.springRelease r k mask) s = .next (s.withDev
      (if z.head = (springD z.desc).count then s.dev.setSpring n k { x with run := none, done := true, lastHead := z.head }
       else (s.dev.setSpring n k { x with run := some z }).prefetchTiles n k))) ∧
  (∀ s r n b o size store atomic, Resident s r n b →
    exec (.springPortBadAccess r o size store atomic) s = .next (s.withDev
      (if portAllows o size store atomic then s.dev else s.dev.bump Fld.MEM_SPRING_ERR_count 0 1)))

/-- Tiles are fetched in order into slots whose tile has been released, part by part, and are ready when every byte has arrived (R218,
R219, R220).
Where the spec is silent it rests on the model's choices, log entries 53 and 131. -/
def Obligations.SpringTiles : Prop :=
  (∀ (s : State) n k y, s.dev.serves → (s.dev.spring n k).run = some y → y.next < (springD y.desc).count →
    (y.next < (springD y.desc).slots ∨ y.next - (springD y.desc).slots < y.head ∨ y.released.contains (y.next - (springD y.desc).slots)) →
    (s.dev.ring y.ring).saving = false →
    exec (.springTileFetch n k) s = .next (s.withDev ((s.dev.modRun n k (fun r => { r with
      fetching := r.fetching ++ [y.next], parts := r.parts ++ (springD y.desc).tileParts y.next })).pump n k))) ∧
  (∀ (d d1 : Dev) n k b w q x leaf level a bs, d.physical leaf level x.part.va.toNat = .here a →
    d.refused q.part false leaf a = false → d.readAt q.asker (bitsN leaf 7 6 ≠ 2) a x.part.len = (d1, .ok, bs) →
    d.rowTry n k b w q x (.ok leaf level) =
      (d1.modBrick n (fun y => { y with
        ls := y.ls.write (b.lsBase + (w.rowAt x.tile x.row + (x.part.va - w.rowVa x.tile x.row).toNat)) bs }),
       { x with part := { x.part with state := .done } }, none)) ∧
  (∀ (s : State) n k slot y i, s.dev.serves → (s.dev.spring n k).run = some y →
    y.fetching.find? (fun i => i % (springD y.desc).slots = slot) = some i →
    (∀ x ∈ y.parts, x.tile = i → x.part.state = .done) →
    exec (.springTileReady n k slot) s = .next (s.withDev (s.dev.modRun n k (fun r => { r with
      fetching := r.fetching.filter (· ≠ i), ready := r.ready ++ [i], parts := r.parts.filter (fun x => x.tile ≠ i) }))))

/-! ## Rendering and composition -/

/-- RENDER_PASS (R140, R167): the pass record and the draw records are read and checked once; a check that fails ends the command, and a
pass whose checks hold begins to bin and goes on as far as it can, its courses being blocks of their own (R45). A finished pass
leaves its bricks and completes with its status. An exhausted heap (R156, R157): a front-end without a chunk stops; with GROW it asks
Gotik, whose grant within 20 µs lets binning resume, and else the fallback follows; with PARTIAL a partial flush begins, and with
FAIL the pass fails.
Where the spec is silent it rests on the model's choices, log entries 39 to 43 and 109 to 112. -/
def Obligations.PassesRender : Prop :=
  (∀ s src d d1 d2 d3 c rb db raw ks, Starts s src (isOp 0x30) d c → (c.run = .none ∨ c.run = .kernelWait) →
    (∀ fe ∈ frontEnds (d.partWalls c.part), d.pwr.on.testBit (28 + fe)) →
    d.cmdRead c engRaster (passD c.desc).record 320 = (d1, .ok, rb) →
    d1.cmdRead c engRaster (passD c.desc).drawList (64 * min (passD c.desc).count 65536) = (d2, .ok, db) →
    raw = (List.range (min (passD c.desc).count 65536)).map (fun i => slice db (64 * i) 64) →
    ks = kernelUses (raw.map drawOf) → (∀ k ∈ ks, ∀ x, d2.kernelRec k.1 = some x → x.1 ≠ .translating) →
    (∀ st n, d2.passFails c.desc (passRec rb) (raw.map drawOf) = some (st, n) →
      exec (.renderPass src) s = .next (s.withDev (settled src (d2.fail c st n)))) ∧
    (d2.passFails c.desc (passRec rb) (raw.map drawOf) = none →
      d3 = ((((ks.map (fun k => handleIndex k.1)).foldl (fun d i => d.takeRef i) d2).freshInput c.ring c.serial).modCmd c.ring
        c.serial (fun c => { c with refs := c.refs ++ ks.map (fun k => handleIndex k.1) })) →
      exec (.renderPass src) s = .next (s.withDev (settled src
        (let y := { d3 with freeCtr := d3.freeCtr + 3 }.heapLow c (PassRun.start rb raw (d3.partBricks c.part) d3.freeCtr)
         (y.1.setPass c y.2).passOn c.ring c.serial))))) ∧
  (∀ s src d c p, Starts s src (isOp 0x30) d c → c.run = .pass p →
    exec (.renderPass src) s = .next (s.withDev (settled src (d.passOn c.ring c.serial)))) ∧
  (∀ (d : Dev) c (p : PassRun) st, p.heapWrites = [] → p.writes = [] → p.phase = .finish st →
    d.passStep c p = ((((d.dropLoads c.ring c.serial).removeBlocks c.ring c.serial).endCmd c.ring c.serial st 0 noUnit).hist 16
      p.partials, p, .ended)) ∧
  (∀ (s : State) ring serial c p fe t, s.dev.serves → s.dev.passOf ring serial = some (c, p) → p.stalled = some (fe, t) →
    p.asked = false →
    exec (.heapGrowRequest ring serial fe) s = .next (s.withDev (
      if (passRec p.record).policy = 0 ∧ p.granted < (passRec p.record).growLimit then s.dev.setPass c { p with asked := true }
      else if (passRec p.record).policy = 1 ∨ ((passRec p.record).policy = 0 ∧ (passRec p.record).fallback) then
        (s.dev.partialFlush c p).1.passWith c (s.dev.partialFlush c p).2
      else (s.dev.failPass c p Sts.heapExhausted).1.passWith c (s.dev.failPass c p Sts.heapExhausted).2))) ∧
  (∀ (s : State) ring serial c p n fe t y, s.dev.serves → s.dev.passOf ring serial = some (c, p) → p.stalled = some (fe, t) →
    p.asked = true → s.dev.now < t + 20000 → (passRec p.record).policy = 0 →
    n = min y (min (s.dev.growFree c.part) ((passRec p.record).growLimit - p.granted)) → n ≠ 0 →
    exec (.heapGrowGrant ring serial y) s = .next (s.withDev
      (let z := s.dev.heapLow c { p with granted := p.granted + n, stalled := none, asked := false }
       z.1.passWith c z.2))) ∧
  (∀ (s : State) ring serial c p n fe t y, s.dev.serves → s.dev.passOf ring serial = some (c, p) → p.stalled = some (fe, t) →
    t + 20000 ≤ s.dev.now → (passRec p.record).policy = 0 →
    n = min y (min (s.dev.growFree c.part) ((passRec p.record).growLimit - p.granted)) → n ≠ 0 →
    exec (.heapGrowGrant ring serial y) s = .next (s.withDev (s.dev.setPass c { p with granted := p.granted + n }))) ∧
  (∀ (s : State) ring serial c p fe t d, s.dev.serves → s.dev.passOf ring serial = some (c, p) → p.stalled = some (fe, t) →
    p.asked = true → d = s.dev.advanceTo (t + 20000) →
    exec (.heapGrowTimeout ring serial) s = .next (s.withDev
      (if (passRec p.record).fallback then (d.partialFlush c p).1.passWith c (d.partialFlush c p).2
       else (d.failPass c p Sts.heapExhausted).1.passWith c (d.failPass c p Sts.heapExhausted).2)))

/-- A pose packet, by POSE_SUBMIT or by UDP, takes its slot when it is not malformed and newer than what the slot holds
(R178); the same time or an older one is discarded and counted. LAYER_PUBLISH keeps the engine's own copy of a layer, or
clears it, for the next slice-0 latch (R182).
Where the spec is silent it rests on the model's choices, log entry 47. -/
def Obligations.PosesAndLayers : Prop :=
  (∀ s src d d1 c p, Starts s src (isOp 0x38) d c → reservedZero c.desc [(16, 63, 0)] → (posePacketVa c.desc).toNat % 64 = 0 →
    d.cmdRead c engOther (posePacketVa c.desc) 64 = (d1, .ok, p) → poseRejected p = false →
    NMap.get? d1.cmp.poses (poseOf p).1 = none →
    exec (.poseSubmit src) s = .next (s.withDev (settled src
      (({ d1 with cmp := { d1.cmp with poses := NMap.set d1.cmp.poses (poseOf p).1 ⟨(poseOf p).2, d1.now, none⟩ } } : Dev).done c 0)))) ∧
  (∀ (s : State) port p o, s.dev.serves → port < 8 → (s.dev.port port).powered → (s.dev.port port).modeActive = 0 →
    s.dev.fld Fld.CMP_POSE_UDP_udp_port 0 ≠ 0 → poseRejected p = false →
    NMap.get? s.dev.leaveIdle.cmp.poses (poseOf p).1 = some o → o.acceptedAt ≠ s.dev.leaveIdle.now →
    exec (.posePacketUdp port p) s = .next (s.withDev
      (let d := s.dev.leaveIdle
       if o.pose.time.toNat < (poseOf p).2.time.toNat then
         { d with cmp := { d.cmp with poses := NMap.set d.cmp.poses (poseOf p).1 ⟨(poseOf p).2, d.now, some o.pose⟩ } }
       else d.bump Fld.CMP_POSE_OLD_count 0 1))) ∧
  (∀ s src d c, Starts s src (isOp 0x39) d c → d.pubOk c → pubClear c.desc →
    exec (.layerPublish src) s = .next (s.withDev (settled src ((d.modStream (pubStream c.desc) (fun t => { t with
      published := t.published ++ [(pubIndex c.desc, none, d.now)] })).done c 0)))) ∧
  (∀ s src d d1 d2 c b ci, Starts s src (isOp 0x39) d c → d.pubOk c → pubClear c.desc = false →
    d.cmdRead c engOther (pubLayer c.desc) 128 = (d1, .ok, b) → layerOk b (d1.geo (pubStream c.desc)).w (d1.geo (pubStream c.desc)).h →
    d1.cmdRead c engOther (layerD b).color 32 = (d2, .ok, ci) → colorOk ci → (layerD b).warp ≠ 2 →
    exec (.layerPublish src) s = .next (s.withDev (settled src ((d2.modStream (pubStream c.desc) (fun t => { t with
      published := t.published ++ [(pubIndex c.desc, some ⟨b, ci, []⟩, d2.now)] })).done c 0))))

/-- Slices (R33, R175, R176, R190, R191): the latch comes lead_ns before the due edge; at the due edge a slice composed in full before
it completes, any other repeats the last good one, and it is handed off with its record and fence. OUTGEOM and CMATRIX commits
(R197, R412, R413): the write stages the shadow set and sets pending; at a later latch the set becomes the committed one, or
is refused with its reason.
Where the spec is silent it rests on the model's choices, log entries 44 to 48 and 116. -/
def Obligations.SlicesAndCommits : Prop :=
  (∀ (s : State) n d1 t due, s.dev.serves → n < 64 → d1 = (s.dev.outgeomEffect n).cmatrixEffect n →
    d1.latchAt n (d1.geo n) = some (t, due) →
    exec (.poseLatch n) s = .next (s.withDev ((d1.advanceTo t).leaveIdle.latchSlice n due))) ∧
  (∀ (s : State) n r rest t tick d, s.dev.serves → (s.dev.stream n).due = r :: rest → r.edge = some (t, tick) →
    d = s.dev.modStream n (fun x => { x with due := rest }) →
    exec (.sliceDueEdge n) s = .next (s.withDev
      (let good := r.error.isNone && r.composed.any (fun c => decide (c < t))
       let x := if good then d.sliceComplete n r (t - r.composed.getD t) else d.sliceRepeat n r
       x.1.handOff n r tick good x.2))) ∧
  (∀ (s : State) src n d, s.dev.serves → n < 64 → d = s.dev.touch src Reg.CMP_S_COMMIT.off → d.mayWrite src →
    exec (.outgeomCommit src n) s = .next (s.withDev
      (((d.stage (.outgeom n)).modStream n (fun x => { x with outgeomAt := d.now })).answered src Reg.CMP_S_COMMIT.off
        (s.dev.writeStatus src Reg.CMP_S_COMMIT.off)))) ∧
  (∀ (s : State) src n d, s.dev.serves → n < 64 → d = s.dev.touch src Reg.CMP_S_COMMIT.off → d.mayWrite src →
    exec (.cmatrixCommit src n) s = .next (s.withDev
      (((d.stage (.cmatrix n)).modStream n (fun x => { x with cmatrixAt := d.now })).answered src Reg.CMP_S_COMMIT.off
        (s.dev.writeStatus src Reg.CMP_S_COMMIT.off)))) ∧
  (∀ (s : State) n t due, s.dev.serves → n < 64 → (s.dev.staged? (.outgeom n)).isSome → (s.dev.stream n).next = 0 →
    s.dev.latchAt n (s.dev.awaitGeo n) = some (t, due) → (s.dev.stream n).outgeomAt < t →
    exec (.outgeomTakeEffect n) s = .next (s.withDev
      (let d := s.dev.advanceTo t
       match d.outgeomRefusal (d.tryGroup (.outgeom n)) n with
       | some r => d.refuseGroup (.outgeom n) r
       | none =>
         let d := d.acceptGroup (.outgeom n)
         let d := if (d.geo n).enable then d.powerUp 30 else d
         (d.regRef (Reg.CMP_S_FENCE.at n) (d.cfldW Fld.CMP_S_FENCE_value n)).modStream n (fun x => { x with
           lastGood := [], layers := []
           published := x.published.filter (fun e => x.outgeomAt < e.2.2), next := 0, origin := none })))) ∧
  (∀ (s : State) n t due, s.dev.serves → n < 64 → (s.dev.staged? (.cmatrix n)).isSome →
    s.dev.latchAt n (s.dev.geo n) = some (t, due) → (s.dev.stream n).cmatrixAt < t →
    exec (.cmatrixTakeEffect n) s = .next (s.withDev ((s.dev.advanceTo t).cmatrixApply n)))

/-! ## Maintenance, translation and faults -/

/-- The MAINTAIN commands wait in both dies' queues, each die's engine carries its oldest one out over its ponds and lake lines,
and the command ends with OK when both have (R210, R211, R213); an empty range completes at once.
Where the spec is silent it rests on the model's choices, log entry 50. -/
def Obligations.MaintenanceRuns : Prop :=
  (∀ s src d c i, i ∈ [Instr.maintainClean src, .maintainInvalidate src, .maintainCleanInvalidate src] →
    Starts s src (fun l => isOp 0x40 l && (match i with
      | .maintainClean _ => mntOp l = 0 || mntOp l = 3
      | .maintainInvalidate _ => mntOp l = 1
      | _ => mntOp l = 2)) d c →
    c.run = .none → mntOp c.desc ≠ 3 → reservedZero c.desc mntFields → rangeFits c.desc →
    (mntLength c.desc = 0 → exec i s = .next (s.withDev (settled src (d.done c 0)))) ∧
    (mntLength c.desc ≠ 0 → (d.maintQueue 0).length < 17 → (d.maintQueue 1).length < 17 →
      exec i s = .next (s.withDev (settled src
        (((d.setMaint 0 (d.maintQueue 0 ++ [⟨c.ring, c.serial⟩])).setMaint 1 (d.maintQueue 1 ++ [⟨c.ring, c.serial⟩])).setRun
          c.ring c.serial (.maintain [0, 1])))))) ∧
  (∀ (s : State) die o rest c left ps d1 d, s.dev.serves → s.dev.maintQueue die = o :: rest → s.dev.cmd? o.ring o.serial = some c →
    c.run = .maintain left → s.dev.dramGate = .ok →
    ps = (s.dev.mappedPages c.asid (mntBase c.desc).toNat ((mntBase c.desc).toNat + (mntLength c.desc).toNat)).map MapPage.widen →
    d1 = s.dev.maintainDie c die (mntOp c.desc) (mntPondOnly c.desc) ps → d = d1.setMaint die rest →
    exec (.maintenanceOpStart die) s = .next (s.withDev
      (if d1.maintained die (mntOp c.desc) ps = false then d1
       else if (left.filter (· ≠ die)).isEmpty then d.done c 0
       else d.setRun c.ring c.serial (.maintain (left.filter (· ≠ die))))))

/-- Invalidations are queued, run one at a time, drop the cached translations of their range, wait for the transfers that used
them or end those at the timeout, and then complete with OK (R245 to R248).
Where the spec is silent it rests on the model's choices, log entry 56. -/
def Obligations.InvalidationsRun : Prop :=
  (∀ s src d c, Starts s src (isOp 0x49) d c → c.run = .none → reservedZero c.desc invFields → d.xlt.queue.length < 32 →
    (invAll c.desc ∨ ((invBase c.desc).toNat + (invLength c.desc).toNat ≤ 2 ^ 52 ∧ (invLength c.desc).toNat ≠ 0)) →
    exec (.xltInvalidate src) s = .next (s.withDev (settled src
      (({ d with xlt := { d.xlt with queue := d.xlt.queue ++ [⟨c.ring, c.serial, frsAsid c.desc,
          if invAll c.desc then 0 else (invBase c.desc).toNat,
          if invAll c.desc then 2 ^ 52 else (invBase c.desc).toNat + (invLength c.desc).toNat, 0, []⟩] } } : Dev).setRun
        c.ring c.serial .invalidate)))) ∧
  (∀ (s : State) v rest w, s.dev.serves → s.dev.xlt.running = none → s.dev.xlt.queue = v :: rest → w = s.dev.widenRange v →
    exec .invalidationStart s = .next (s.withDev { s.dev with xlt := { s.dev.xlt with
      queue := rest
      running := some { w with
        start := s.dev.now
        old := (s.dev.fab.ops.filter (fun o => o.inRange w)).map (fun o => (o.slot, o.gen)) }
      cache := s.dev.xlt.cache.filter (fun x => !(x.asid = w.asid && x.va < w.hi && w.lo < x.va + x.size)) } })) ∧
  (∀ (s : State) v d ops, s.dev.serves → s.dev.xlt.running = some v →
    d = s.dev.advanceTo (v.start + s.dev.fld Fld.XLT_INV_TIMEOUT_timeout_ns 0) → ops = d.oldOps v →
    exec .invalidationTimeout s = .next (s.withDev (ops.foldl (fun d o => d.opFail o Sts.invalidated [])
      ((d.bump Fld.XLT_INV_TERMINATED_count 0 ops.length).withOps
        (d.fab.ops.map (fun o => if ops.contains o then { o with dead := true } else o)))))) ∧
  (∀ (s : State) v, s.dev.serves → s.dev.xlt.running = some v → s.dev.oldOps v = [] →
    exec .invalidationComplete s = .next (s.withDev
      ((({ s.dev with xlt := { s.dev.xlt with running := none } } : Dev).endCmd v.ring v.serial Sts.ok 0 noUnit).hist 19
        ((s.dev.now - v.start) / 1000))))

/-- A table walk caches the leaf it finds, or records its fault; the batch closes when its window ends, room in the fault ring
lets waiting records be written, and FAULT_RESUME resumes a closed batch as one: the records that its mask does not fail are
replayed, the others fail, and leading resumed batches are freed (R226 to R242).
Where the spec is silent it rests on the model's choices, log entries 55 and 57. -/
def Obligations.FaultsAreServed : Prop :=
  (∀ (s : State) asid part va w a e n d1 lf l, s.dev.serves → bitsN va 63 52 = 0 → s.dev.fld Fld.XLT_AS_CTRL_enable asid ≠ 0 →
    s.dev.cached? asid va.toNat = none → s.dev.walk ⟨some part, none, none⟩ asid va.toNat = (d1, .leaf lf l) →
    leafAllows (some part) (accessOf w a e) lf →
    exec (.tableWalk asid part va w a e n) s = .next (s.withDev { d1 with xlt := { d1.xlt with
      cache := d1.xlt.cache ++ [⟨asid, va.toNat / 2 ^ pageLog2 l * 2 ^ pageLog2 l, 2 ^ pageLog2 l, lf⟩] } })) ∧
  (∀ (s : State) asid part va w a e n d1 k l, s.dev.serves → bitsN va 63 52 = 0 → s.dev.fld Fld.XLT_AS_CTRL_enable asid ≠ 0 →
    s.dev.cached? asid va.toNat = none → s.dev.walk ⟨some part, none, none⟩ asid va.toNat = (d1, .fault k l) →
    exec (.tableWalk asid part va w a e n) s = .next (s.withDev (d1.recordFault asid
      ⟨va, max 1 (min 4096 n), k, l, accessOf w a e, 0, engOther, 0, 0xFFFF, part, false, .none⟩))) ∧
  (∀ (s : State) asid b, s.dev.serves → (s.dev.space asid).open? = some b →
    exec (.faultBatchClose asid) s = .next (s.withDev
      ((s.dev.advanceTo ((s.dev.space asid).openSince + s.dev.fld Fld.XLT_BATCH_WINDOW_window_ns 0)).closeBatch asid))) ∧
  (∀ (s : State) asid r, s.dev.serves → (s.dev.space asid).waiting = [r] → s.dev.streamWaits r → s.dev.batchRoom asid →
    exec (.faultRingRoom asid) s = .next (s.withDev
      ((s.dev.setSpace asid { s.dev.space asid with waiting := [] }).putRecord asid r))) ∧
  (∀ s src d c asid no b failed again d0 d1 r d2, Starts s src (isOp 0x48) d c → asid = frsAsid c.desc → no = frsBatch c.desc →
    (d.space asid).batches.find? (fun b => b.no = no && b.closed && !b.resumed) = some b → reservedZero c.desc frsFields →
    failed = (b.recs.zipIdx.filter (fun e => frsFails c.desc e.2)).map (·.1) →
    again = (b.recs.zipIdx.filter (fun e => !frsFails c.desc e.2)).map (·.1) →
    d0 = d.dropRecordPages asid b.recs → r = Dev.replayAll asid no failed (d0, s.nv) again →
    d1 = r.1.countRefaults d0 asid no again →
    d2 = failed.foldl (fun d f => d.failRecord f) (d1.setSpace asid { d1.space asid with
      batches := (d1.space asid).batches.map (fun x => if x.no = no then { x with recs := b.recs, resumed := true } else x) }) →
    exec (.faultResume src) s = .next { s with
      dev := (settled src (((d2.setSpace asid (AsSt.freeLeading (d2.space asid).batches.length (d2.space asid))).done c 0).hist 10
        ((d2.now - b.closedAt) / 1000)))
      nv := r.2 })

/-! ## Compression -/

/-- STREAM_CODEC jobs (R264 to R271): a job that fails a check ends with the check's number; a new one whose checks pass marks its
stream busy, reads its input, writes its output, its state and its result record, and ends with the job's status; with no slot
free it waits, and STREAM_JOB_START runs the one that has waited longest.
Where the spec is silent it rests on the model's choices, log entries 58, 59, 114 and 115. -/
def Obligations.StreamJobsRun : Prop :=
  (∀ s src d d1 d2 d3 d4 d5 d6 d7 c x i sd o y bs w w1 w2 w3, i ∈ [Instr.streamCodecCompress src, .streamCodecDecompress src] →
    Starts s src (fun l => isOp 0x50 l && (match i with
      | .streamCodecCompress _ => !(streamD l).decompress
      | _ => (streamD l).decompress)) d c →
    c.run = .none → x = streamD c.desc → streamEncodings c.desc → x.stateBytes ≤ d.memLength x.entry → x.resume = false →
    d.jobsRunning < 8 → d.jobsWaiting = 0 → d.pwr.on.testBit 31 →
    sd = { StreamSt.start (d.streamPlace c) x.kind with resumable := false } →
    Dev.cmdWrites (d.stateCmd c).1 engCompression (d.stateWrites c sd true).1 (d.stateWrites c sd true).2 = (d1, .ok, w) →
    d2 = ((d1.setStreamSt sd).freshInput c.ring c.serial).setRun c.ring c.serial (.stream true) →
    d2.cmd? c.ring c.serial = some y → y.desc = c.desc → d2.cmdRead y engCompression x.src x.srcLen = (d3, .ok, bs) →
    o = (if x.decompress then decompressJob x (d3.streamSt (d3.streamPlace y) x.kind []) bs
      else compressJob x (d3.streamSt (d3.streamPlace y) x.kind []) bs) →
    d4 = ((((d3.setStreamSt o.st).bump Fld.CPR_STREAM_IN_count 0 o.consumed).bump Fld.CPR_STREAM_OUT_count 0 o.out.length).count
        0x0070 o.consumed (y.attr none)).count 0x0071 o.out.length (y.attr none) →
    Dev.cmdWrites y engCompression (d4.stateWrites y o.st false).1 (if o.out.isEmpty then [] else [⟨x.dst, o.out, false⟩]) =
      (d5, .ok, w1) →
    Dev.cmdWrites (d5.stateCmd y).1 engCompression d5 (d4.stateWrites y o.st false).2 = (d6, .ok, w2) →
    Dev.cmdWrites y engCompression d6 [⟨x.result, resultRecord o, false⟩] = (d7, .ok, w3) →
    exec i s = .next (s.withDev (settled src (d7.endCmd y.ring y.serial o.status 0 noUnit)))) ∧
  (∀ s src d c i, i ∈ [Instr.streamCodecCompress src, .streamCodecDecompress src] →
    Starts s src (fun l => isOp 0x50 l && (match i with
      | .streamCodecCompress _ => !(streamD l).decompress
      | _ => (streamD l).decompress)) d c →
    c.run = .none →
    (streamEncodings c.desc = false → exec i s = .next (s.withDev (settled src (d.fail c Sts.badDescriptor 3)))) ∧
    (streamEncodings c.desc → d.memLength (streamD c.desc).entry < (streamD c.desc).stateBytes →
      exec i s = .next (s.withDev (settled src (d.fail c Sts.badDescriptor 4)))) ∧
    (∀ d1 h, streamEncodings c.desc → (streamD c.desc).stateBytes ≤ d.memLength (streamD c.desc).entry →
      (streamD c.desc).resume → d.cmdRead (d.stateCmd c).1 engCompression (d.stateCmd c).2 64 = (d1, .ok, h) →
      d1.resumeOk (streamD c.desc) (d1.streamPlace c) h = false →
      exec i s = .next (s.withDev (settled src (d1.fail c Sts.badDescriptor 5)))) ∧
    (∀ d1 h, streamEncodings c.desc → (streamD c.desc).stateBytes ≤ d.memLength (streamD c.desc).entry →
      (streamD c.desc).resume → d.cmdRead (d.stateCmd c).1 engCompression (d.stateCmd c).2 64 = (d1, .ok, h) →
      d1.resumeOk (streamD c.desc) (d1.streamPlace c) h → d1.jobsRunning < 8 → d1.jobsWaiting = 0 → d1.pwr.on.testBit 31 →
      exec i s = .next (s.withDev (settled src (d1.jobStart c)))) ∧
    (streamEncodings c.desc → (streamD c.desc).stateBytes ≤ d.memLength (streamD c.desc).entry →
      (streamD c.desc).resume = false → 8 ≤ d.jobsRunning → d.jobsWaiting < 64 →
      exec i s = .next (s.withDev (settled src (d.setRun c.ring c.serial (.stream false)))))) ∧
  (∀ (s : State) c, s.dev.serves → s.dev.sub.cmds.find? Cmd.jobWaits = some c → s.dev.jobsRunning < 8 → c.faulted = false →
    s.dev.pwr.on.testBit 31 →
    exec .streamJobStart s = .next (s.withDev (s.dev.jobStart c)))

/-- The compressible window (R255, R256, R263): a held block goes back to DRAM in its target mode and leaves the lake; a partial
write to a block that is not held is merged in its home slice; CODEC_RECODE stores every block of its range anew.
Where the spec is silent it rests on the model's choices, log entries 51 and 52. -/
def Obligations.CompressedBlocks : Prop :=
  (∀ (s : State) a, s.dev.serves → s.dev.dramGate = .ok → s.dev.inCwin a → (NMap.get? s.dev.mem.lake (a / 256 * 4)).isSome →
    exec (.codecBlockWriteBack a) s = .next (s.withDev ((s.dev.cleanLine Asker.none (a / 256 * 4)).dropLine (a / 256 * 4)))) ∧
  (∀ (s : State) a bs target, s.dev.serves → s.dev.dramGate = .ok → s.dev.inCwin a → a % 256 + bs.length ≤ 256 →
    NMap.get? s.dev.mem.lake (a / 256 * 4) = none → (∀ t, target = some t → t ≤ 2) →
    exec (.codecBlockMerge a bs target) s = .next (s.withDev (s.dev.blockWrite Asker.none false target a bs))) ∧
  (∀ s src d c, Starts s src (isOp 0x51) d c → mntOp c.desc ≠ 3 → reservedZero c.desc recodeFields → rangeFits c.desc →
    mntLength c.desc ≠ 0 → d.dramGate = .ok →
    exec (.codecRecode src) s = .next (s.withDev (settled src
      ((((d.mappedPages c.asid (mntBase c.desc).toNat ((mntBase c.desc).toNat + (mntLength c.desc).toNat)).flatMap
        (fun p => d.recodeBlocks p)).foldl (fun d b => d.recodeBlock c b (mntOp c.desc)) d).done c 0))))

/-! ## The sequence engine -/

/-- STEP reads its list, settles departures, grows the batch, admits candidates, and commits once all of that is done; a growth or an
admission that waits for a peer keeps the STEP as it stands (R276 to R285).
Where the spec is silent it rests on the model's choices, log entries 60 and 62. -/
def Obligations.StepsCommit : Prop :=
  (∀ s src d d1 d2 d3 c bs list r r2 r3, Starts s src (isOp 0x58) d c → c.run = .none → d.stepOk c →
    (d.sub.cmds.takeWhile (fun x => !(x.ring = c.ring && x.serial = c.serial))).any
      (fun x => x.part = c.part && x.opcode = 0x58 && x.phase ≠ .ended) = false →
    d.sub.cmds.any (fun x => x.steps c.part) = false →
    (if stepCount c.desc = 0 then (d, Res.ok, []) else d.cmdRead c engSequence (stepList c.desc) (16 * stepCount c.desc)) = (d1, .ok, bs) →
    list = (List.range (stepCount c.desc)).map (fun i => slice bs (16 * i) 16) →
    r = StepRun.depart1 { list := list
                          statuses := entStatuses (d1.poolCfg c.part) (d1.seq.ents.filter (fun e => e.2.pool = c.part)) [] list
                          events := [], ents := d1.seq.ents.filter (fun e => e.2.pool = c.part), pool := d1.pool c.part
                          grow := [], suspended := [], joined := [], cands := [], moving := none, sent := 0, newPages := []
                          failed := false, formingSince := none, phase := .growth } (d1.poolCfg c.part) →
    d1.dramGate = .ok →
    (if r.phase = .growth then Dev.stepGrow c (d1.poolCfg c.part) (r.ents.length + r.list.length + r.cands.length + 2) d1 r
      else (d1, r, true)) = (d2, r2, true) →
    Dev.stepAdmit c (d1.poolCfg c.part) (r2.cands.length + 1) d2 r2 = (d3, r3, true) →
    exec (.step src) s = .next (s.withDev (settled src (d3.stepCommit c (d1.poolCfg c.part) r3)))) ∧
  (∀ s src d c r, Starts s src (isOp 0x58) d c → c.run = .step r →
    exec (.step src) s = .next (s.withDev (settled src (d.stepOn c r)))) ∧
  (∀ (d d2 : Dev) c r r2, d.dramGate = .ok → r.phase = .growth →
    Dev.stepGrow c (d.poolCfg c.part) (r.ents.length + r.list.length + r.cands.length + 2) d r = (d2, r2, false) →
    d.stepOn c r = d2.setRun c.ring c.serial (.step r2))

/-- Guest pages are taken for a peer while the pool has room for them; pool commits are staged by the write and take effect, or
are refused, when no STEP of the pool runs (R282, R289).
Where the spec is silent it rests on the model's choices, log entries 60 and 61. -/
def Obligations.PoolsAreConfigured : Prop :=
  (∀ (s : State) p dev n c r d, s.dev.serves → p < 8 → c = s.dev.poolCfg p → c.enable →
    (s.dev.poolTaken p).length + n ≤ c.pages →
    (s.dev.pool p).guestCount + n ≤ s.dev.fld Fld.SEQ_P_GUEST_MAX_guest_max p → s.dev.sharedGate = .ok →
    r = takePages c.pages n s.dev.freeCtr (s.dev.poolTaken p) →
    d = ({ s.dev with freeCtr := r.2.2 } : Dev).modPool p (fun x => { x with used := r.1 ++ x.used, guests := x.guests ++ [(dev, r.1)] }) →
    exec (.guestPageRequest p dev n) s = .next (s.withDev (r.1.foldl (fun d i => d.undefPage p (d.poolCfg p) i) d))) ∧
  (∀ (s : State) src p d, s.dev.serves → p < 8 → d = s.dev.touch src Reg.SEQ_P_COMMIT.off → d.mayWrite src →
    exec (.poolcfgCommit src p) s = .next (s.withDev
      ((d.stage (.pool p)).answered src Reg.SEQ_P_COMMIT.off (s.dev.writeStatus src Reg.SEQ_P_COMMIT.off)))) ∧
  (∀ (s : State) p, s.dev.serves → p < 8 → (s.dev.staged? (.pool p)).isSome → s.dev.sub.cmds.any (fun c => c.steps p) = false →
    exec (.poolcfgTakeEffect p) s = .next (s.withDev
      (match s.dev.poolRefusal (s.dev.tryGroup (.pool p)) p with
       | some n => s.dev.refuseGroup (.pool p) n
       | none =>
         let d := s.dev.acceptGroup (.pool p)
         if (d.poolCfg p).enable ∧ !(s.dev.poolCfg p).enable then d.setPool p { Pool.empty with stamp := (d.pool p).stamp } else d)))

/-! ## Partitions -/

/-- ABORT ends the work of one ring, or of every ring of the partition but its control ring (R353, R354); PAR_P_COMMIT stages a
partition configuration (R335).
Where the spec is silent it rests on the model's choices, log entries 68 and 70. -/
def Obligations.AbortsAndCommits : Prop :=
  (∀ s src d c, Starts s src (fun l => isOp 0x60 l && !abtPartition l) d c → reservedZero c.desc abtFields →
    (d.ring (abtRing c.desc)).state ≠ .disabled → (d.ring (abtRing c.desc)).part = c.part → (8 ≤ abtRing c.desc ∨ c.gotik) →
    exec (.abortRing src) s = .next (s.withDev (settled src ((d.abortRings [abtRing c.desc] []).done c 0)))) ∧
  (∀ s src d c, Starts s src (fun l => isOp 0x60 l && abtPartition l) d c → reservedZero c.desc abtFields →
    exec (.abortPartition src) s = .next (s.withDev (settled src
      (((d.abortRings ((d.ringsOf c.part).filter (fun i => i ≠ c.part))
        (d.sub.cmds.filter (fun x => x.ring = c.part && x.phase = .started && x.serial ≠ c.serial))).failSlices c.part
          Sts.isolated).done c 0)))) ∧
  (∀ (s : State) src p d, s.dev.serves → p < 8 → d = s.dev.touch src Reg.PAR_P_COMMIT.off → d.mayWrite src →
    exec (.partcfgCommit src p) s = .next (s.withDev
      ((d.stage (.part p)).answered src Reg.PAR_P_COMMIT.off (s.dev.writeStatus src Reg.PAR_P_COMMIT.off))))

/-- PREEMPT stops the ring with reason 5 in a new epoch, sets its commands back and waits for its save point; RESTORE reads the
save area back, marks it used, and makes the ring RUNNING again with its commands and blocks (R347, R348, R352).
Where the spec is silent it rests on the model's choices, log entries 69 and 70. -/
def Obligations.PreemptAndRestore : Prop :=
  (∀ s src d c i r d1 d2 d3, Starts s src (isOp 0x61) d c → c.run = .none → i = preRing c.desc → r = d.ring i →
    reservedZero c.desc preFields → r.part = c.part → r.state ∈ [.running, .stopped] → r.saving = false → (8 ≤ i ∨ c.gotik) →
    (preSave c.desc).toNat % 65536 = 0 → d.saveBytes c.part ≤ preBytes c.desc →
    d.rangeWritable c (preSave c.desc).toNat (preBytes c.desc) = some true →
    d1 = (d.stopRing i 5).modRing i (fun r => { r with epoch := d.nextEpoch i, saving := true }) →
    d2 = d1.withOps (d1.fab.ops.map (fun o =>
      if o.ring = i ∧ o.kind = 1 ∧ o.block?.any (fun r => (d1.cmd? r.ring r.serial).any (fun x => x.opcode = 0x21))
      then { o with dead := true } else o)) →
    d3 = d2.withPar { d2.par with preempting := d2.par.preempting ++ [⟨c.ring, c.serial, i⟩] } →
    exec (.preempt src) s = .next (s.withDev (settled src
      (((d3.sub.cmds.filter (fun x => x.ring = i)).foldl (fun d x => d.setBack x) d3).setRun c.ring c.serial .preempt)))) ∧
  (∀ (s : State) i p c r bricks cmds head d1 d2 d3 x, s.dev.serves →
    s.dev.par.preempting.find? (fun p => p.target = i) = some p → s.dev.cmd? p.ring p.serial = some c → s.dev.atSavePoint i →
    c.active → r = s.dev.ring i → bricks = s.dev.bricksWith (fun b => b.ring = i) → preRemote c.desc = false →
    cmds = s.dev.sub.cmds.filter (fun c => c.ring = i) →
    head = headerBytes false false s.dev.addr r.epoch i bricks.length (cmds.flatMap (·.refs)).eraseDups.length r.fetch r.doorbell →
    s.dev.cleanPonds bricks = (d1, true) → d1.atSavePoint i →
    Dev.cmdWrites c engOther d1
      (saveWrites (preSave c.desc) s.dev.freeCtr bricks.length (bricks.isEmpty && cmds.isEmpty) head) = (d2, .ok, []) →
    x = bricks.foldl (fun acc n => ((acc.1.brick n).blocks.filter (fun b => b.ring = i)).foldl (fun acc b =>
      ((acc.1.saveBlock c.part none n b).1, acc.2 ++ [(acc.1.saveBlock c.part none n b).2])) acc)
      (({ d2 with freeCtr := d2.freeCtr + bricks.length + 1 } : Dev), ([] : List SavedBlock)) →
    d3 = x.1.withCmds (x.1.sub.cmds.filter (fun x => x.ring ≠ i)) →
    exec (.preemptSavePoint i) s = .next (s.withDev
      (((d3.withPar { d3.par with
          saves := d3.par.saves ++ [⟨head, { r with saving := false }, cmds,
            x.2 ++ (x.1.par.saved.filter (fun s => s.block.ring = i)).map (fun s => { s with record := none }),
            (List.range bricks.length).map (s.dev.freeCtr + ·)⟩]
          saved := d3.par.saved.filter (fun s => s.block.ring ≠ i)
          preempting := d3.par.preempting.filter (fun q => q ≠ p) }).setRing i Ring.absent).done c 0))) ∧
  (∀ s src d d1 d2 d3 d4 c i h n f rs sv mb w x, Starts s src (isOp 0x62) d c → i = resRing c.desc →
    reservedZero c.desc resFields → 8 ≤ i → (d.ring i).state = .disabled → d.fld Fld.XLT_AS_CTRL_enable (resAsid c.desc) ≠ 0 →
    resCount c.desc ≤ 1024 → (resSave c.desc).toNat % 65536 = 0 → (resMap c.desc).toNat % 16 = 0 →
    d.cmdRead c engOther (resSave c.desc) 64 = (d1, .ok, h) → n = leAt h 12 2 → f = leAt h 5 1 →
    slice h 0 4 = ascii "PSAV" → leAt h 4 1 = 1 → leAt h 60 4 = crc32 (slice h 0 60) → f % 2 = 1 → f / 2 % 2 = 0 →
    (f / 4 % 2 = 1 ∨ leAt h 6 2 % 4096 = d1.addr) → n ≤ (d1.partBricks c.part).length →
    Dev.readRanges c engOther d1 ((List.range n).map (fun k => (recordAt (resSave c.desc) k, brickRecord))) = (d2, .ok, rs) →
    d2.saveOf h rs = some sv → d2.admits c.part i sv.ring.cls sv.ring.budget →
    d2.cmdRead c engOther (resMap c.desc) (16 * resCount c.desc) = (d3, .ok, mb) →
    Dev.cmdWrites c engOther d3 [⟨resSave c.desc, headerBytes true (f / 4 % 2 = 1) (leAt h 6 2 % 4096) sv.ring.epoch
      (leAt h 10 2 % 1024) n (leAt h 14 2) sv.ring.fetch sv.ring.doorbell, false⟩] = (d4, .ok, w) →
    x = sv.cmds.foldl (fun (acc : Dev × List Cmd) y =>
        ((acc.1.restoreCmd (handleMap mb) (f / 4 % 2 = 1) i c.part (resAsid c.desc) y).1,
         acc.2 ++ [(acc.1.restoreCmd (handleMap mb) (f / 4 % 2 = 1) i c.part (resAsid c.desc) y).2]))
      (d4.setRing i { sv.ring with
        asid := resAsid c.desc, part := c.part, state := .running, stopReason := 0, used := 0
        fetchFault := false, fetched := [], saving := false }, []) →
    sv.blocks = [] →
    exec (.restore src) s = .next (s.withDev (settled src
      (let d5 := x.1.withCmds (x.1.sub.cmds ++ x.2)
       (d5.withPar { d5.par with saves := d5.par.saves.filter (· ≠ sv), saved := d5.par.saved ++ [] }).done c 0))))

/-- AUTO_PREEMPT saves the blocks of the brick with the fewest courses when work within budget has waited 20 µs, and
SAVED_BLOCK_RESTORE puts the saved unit that comes first in grant order back on bricks with room (R345).
Where the spec is silent it rests on the model's choices, log entries 69 and 70. -/
def Obligations.SavedBlocks : Prop :=
  (∀ (s : State) p c n bs, s.dev.serves → s.dev.pressing p = some c →
    minBy (fun n => (s.dev.brick n).courses) ((s.dev.partBricks p).filter s.dev.preemptable) = some n →
    bs = (s.dev.brick n).blocks →
    (∀ m ∈ s.dev.bricksWith (fun b => b.inClusters bs), ∀ b ∈ (s.dev.brick m).blocks, b.inClusters bs → s.dev.blockBusy m b = false) →
    s.dev.cfld Fld.PAR_P_GROUPS_group_mask p ≠ 0 →
    ((s.dev.usedRecords p).eraseDups).length + (s.dev.bricksWith (fun b => b.inClusters bs)).length ≤ (s.dev.partBricks p).length →
    s.dev.cfld Fld.PAR_P_CTRL_auto_preempt p = 1 →
    exec (.autoPreempt p) s = .next (s.withDev ((s.dev.advanceTo (c.startAt + 20000)).saveBrick p n))) ∧
  (∀ (s : State) p bricks w unit d1, s.dev.serves →
    minBy (fun (w : Work) => s.dev.grantRank w.cmd) ((s.dev.waitingWork p).filter (·.saved)) = some w →
    (s.dev.savedUnits p w.cmd).find? (fun u => u.map (·.block.index) = w.blocks) = some unit →
    placementOk unit.length bricks → (∀ n ∈ bricks, n ∈ w.bricks ∧ s.dev.roomOn w.room n) →
    (∀ e ∈ unit.zip bricks, ∀ x ∈ e.1.springs, (s.dev.spring e.2 x.1).run = none) → s.dev.outranked w.cmd bricks = false →
    s.dev.cleanPonds (bricks.filter (fun n => (s.dev.brick n).split ≠ w.room.split)) = (d1, true) →
    exec (.savedBlockRestore p bricks) s = .next (s.withDev ((unit.zip bricks).foldl (fun d e => d.putSaved w.cmd e.1 e.2)
      (d1.withPar { d1.par with saved := d1.par.saved.filter (fun s => !unit.contains s) }))))

/-! ## Doorbells, fetching and retirement -/

/-- R298, on a device in RUN: a doorbell write to a ring that exists from a source that its db_source accepts raises the
doorbell count, one past the ring's size stops a RUNNING ring with reason 3, one below the count is counted as stale; any
other write, one to a DISABLED ring among them, changes nothing but SUB_DB_REJECT. Each accepted one counts as event 0x42. -/
def Obligations.DoorbellRule : Prop :=
  ∀ (s : State) (src : DbFrom) (i : Nat) (t : Wide) (d d1 : Dev) r taken, s.dev = d → d.serves → i < 1024 → r = d.ring i →
    d.boot.phase ≠ 6 → d.pwr.state = .run → d.pwr.entering = none →
    d1 = d.count 0x0042 1 ⟨some r.part, none, none⟩ →
    (taken ↔ r.state ≠ .disabled ∧ (match src with
      | .local => True
      | .device a => r.dbSource = 0 ∨ (r.dbSource = 1 ∧ r.dbId = a)
      | .queuePair q => r.dbSource = 2 ∧ r.dbId = q)) →
    (¬taken → exec (.doorbell src i t) s = .next (s.withDev (d.bump Fld.SUB_DB_REJECT_count 0 1))) ∧
    (taken → t.toNat < r.doorbell.toNat →
      exec (.doorbell src i t) s = .next (s.withDev (d1.bump Fld.SUB_DB_STALE_count 0 1))) ∧
    (taken → t.toNat = r.doorbell.toNat → exec (.doorbell src i t) s = .next (s.withDev d1)) ∧
    (taken → r.doorbell.toNat < t.toNat → 2 ^ r.sizeLog2 < t.toNat - r.fetch.toNat → r.state = .running →
      exec (.doorbell src i t) s = .next (s.withDev (d1.setRing i
        { r with doorbell := t, bells := r.bells ++ [(t, d1.now)], state := .stopped, stopReason := 3 }))) ∧
    (taken → r.doorbell.toNat < t.toNat → (t.toNat - r.fetch.toNat ≤ 2 ^ r.sizeLog2 ∨ r.state ≠ .running) →
      exec (.doorbell src i t) s = .next (s.withDev (d1.setRing i
        { r with doorbell := t, bells := r.bells ++ [(t, d1.now)] })))

/-- A descriptor is read once at base + 64 × (c mod 2^size_log2) and accepted with serial c + 1; one that fails a header check is
accepted and has ended; an accepted command starts in its turn; an ended one writes its record when cq_mode asks for one and
then signals and drops what it holds (R299, R300, R302, R303, R322).
Where the spec is silent it rests on the model's choices, log entries 63, 67, 118 and 125. -/
def Obligations.SubmissionRuns : Prop :=
  (∀ (s : State) i r d1 bs got, s.dev.serves → s.dev.mayFetch i → r = s.dev.ring i →
    s.dev.transferRead (r.fetchReq i) r.fetched [] (r.base + BitVec.ofNat 64 (64 * (r.fetch.toNat % 2 ^ r.sizeLog2))) 64
      = (d1, .ok, bs, got) →
    exec (.descriptorFetch i) s = .next (s.withDev
      ((d1.modRing i (fun x => { x with
          fetch := x.fetch + 1, fetched := [], bells := x.bells.filter (fun b => (x.fetch + 1).toNat < b.1.toNat) })).accept i
        (r.fetch + 1) r.part r.asid r.cls ((r.bellTime r.fetch).getD d1.now) (lineOf bs)))) ∧
  (∀ (d : Dev) i serial part asid cls bell l st step, i < 1024 → d.headerFails false i asid l = some (st, step) →
    d.accept i serial part asid cls bell l = d.withCmds (d.sub.cmds ++ [{
      ring := i, serial := serial, desc := l, part := part, asid := asid, cls := cls, refs := [], phase := .ended
      status := st, detail := BitVec.ofNat 64 step, unit := noUnit, tick := d.tickCount, run := .none, faulted := false
      remote := [], input := [], bellAt := bell, startAt := 0, endAt := d.now, edges := 0, recordDone := false
      fenceless := step = 0xF1 || step = 0xF2 }])) ∧
  (∀ (s : State) d i n c, s.dev = d → d.serves → d.cmd? i n = some c → c.phase = .accepted → d.mayStart c →
    (d.ring i).saving = false →
    exec (.commandStart i n) s = .next (s.withDev
      (((d.acquireFor c).modCmd i n (fun c => { c with phase := .started, startAt := d.now })).hist (1 + c.part)
        ((d.now - c.bellAt) / 100)))) ∧
  (∀ (s : State) d d1 d2 i n c, s.dev = d → d.serves → d.cmd? i n = some c → c.phase = .ended → d.mayStart c →
    c.faulted = false → d.edgeDecides c = false → d.storesDone c = (d1, true) → (c.recordDone ∨ d1.wantsRecord c = false) → hdrFence c.desc = 0 →
    (c.cls = 0 ∨ c.edges = 0) → d2 = d1.drop c.refs →
    exec (.commandRetire i n) s = .next (s.withDev
      ((({ d2.withCmds (d2.sub.cmds.filter (fun x => !(x.ring = c.ring && x.serial = c.serial))) with
        meter := { d2.meter with retired := d2.meter.retired + 1 } } : Dev).count 0x0040 1 (c.attr none))))) ∧
  (∀ (s : State) d d1 d2 d3 d4 i n c r w y, s.dev = d → d.serves → d.cmd? i n = some c → c.phase = .ended → d.mayStart c →
    c.faulted = false → d.edgeDecides c = false → d.storesDone c = (d1, true) → c.recordDone = false → d1.wantsRecord c → d1.cqRoom c = (d2, .ok, true) →
    r = d2.ring c.ring →
    d2.transferWrite c.cqReq
      ⟨r.cqBase + BitVec.ofNat 64 (32 * (r.cqProd.toNat % 2 ^ r.cqLog2)),
        recordBytes c.desc c.serial c.status c.detail c.unit c.ring d2.tickCount, false⟩ = (d3, .ok, w) →
    d4 = (d3.modRing c.ring (fun r => { r with cqProd := r.cqProd + 1, cqStalled := false })).modCmd c.ring c.serial
      (fun c => { c with recordDone := true }) →
    d4.cmd? i n = some y → y.recordDone → d4.cmdOps i n = false →
    exec (.commandRetire i n) s = .next (s.withDev (d4.finishCmd y))) ∧
  (∀ (s : State) d i c, s.dev = d → d.serves →
    d.sub.cmds.find? (fun c => c.ring = i && c.phase = .ended && !c.recordDone) = some c → (d.ring i).cqStalled →
    exec (.cqRoom i) s = .next (s.withDev (d.retireCmd i c.serial)))

/-! ## The site tick -/

/-- Edges, the slew and the step of R29, the TICKCFG commit, the source select, 1PPS, loss of lock, and PTP (R25 to R31, R366,
R473).
Where the spec is silent it rests on the model's choices, log entries 16 to 20, 107, 118 and 122. -/
def Obligations.TickGenerator : Prop :=
  (∀ (s : State) d d1, s.dev = d → d.serves → d.tick.running →
    d1 = ((d.advanceTo d.tick.nextEdge).withTick { (d.advanceTo d.tick.nextEdge).tick with
      lastEdge := (d.advanceTo d.tick.nextEdge).tick.nextEdge }) →
    d1.tick.stepping = false →
    exec .tickEdge s = .next (s.withDev
      (((((d1.setCount (d1.tickCount + BitVec.ofNat 64 d1.tick.advance)).hardCut.budgetUse.newTick).takeTickCfg.takeParts.settleDomains).tickAlarm).slicesDue.examineParked))) ∧
  (∀ (d : Dev) g p e (m : Int), g = d.tick → p = d.period → e = g.err → m = max 1 ((p : Int) / 4096) →
    g.lock = .acquiring ∨ g.lock = .locked →
    (e.natAbs ≤ d.fld Fld.TICK_STEP_LIMIT_step_limit_ns 0 →
      d.nextTick.tick.nextEdge = ((g.lastEdge : Int) + p - max (-m) (min m e)).toNat ∧
      d.nextTick.tick.advance = 1 ∧ d.nextTick.tick.stepping = false ∧ d.nextTick.tick.err = e - max (-m) (min m e)) ∧
    (∀ k : Nat, d.fld Fld.TICK_STEP_LIMIT_step_limit_ns 0 < e.natAbs → k = (if 0 < e then 2 else 1) →
      d.nextTick.tick.nextEdge = ((g.lastEdge : Int) - e + k * p).toNat ∧
      d.nextTick.tick.advance = k ∧ d.nextTick.tick.stepping = true ∧ d.nextTick.tick.err = 0)) ∧
  (∀ (d : Dev), d.tick.lock = .free ∨ d.tick.lock = .holdover →
    d.nextTick.tick.nextEdge = d.tick.lastEdge + d.period ∧ d.nextTick.tick.advance = 1) ∧
  (∀ (s : State) src d x, s.dev.serves → d = s.dev.touch src Reg.TICK_COMMIT.off → d.mayWrite src → x = d.leaveIdle.stage .tick →
    exec (.tickCommit src) s = .next (s.withDev ((x.withTick { x.tick with commitAt := x.now }).answered src Reg.TICK_COMMIT.off
      (s.dev.writeStatus src Reg.TICK_COMMIT.off)))) ∧
  (∀ (s : State) src v d x, s.dev.serves → d = s.dev.touch src Reg.TICK_SOURCE.off → d.mayWrite src →
    x = d.regStore (Reg.TICK_SOURCE.at 0) 4 (v.setWidth 64) → x.tickSource ≠ d.tickSource →
    exec (.tickSourceSelect src v) s = .next (s.withDev ((x.withTick { x.tick with
      lock := if x.tickSource = 0 then .free else .acquiring
      good := 0, anchored := false, numbered := false, err := 0, reanchor := decide (x.tickSource = 0), lastPps := none
      syncRx := none, syncOrigin := none, delayTx := none, pathDelay := 0 }).answered src Reg.TICK_SOURCE.off
        (s.dev.writeStatus src Reg.TICK_SOURCE.off)))) ∧
  (∀ (s : State) d, s.dev = d → d.serves → d.tickSource = 1 → d.tick.running → d.tick.lock ≠ .locked → d.tick.anchored = false →
    d.tick.tenMHz → exec .ppsEdge s = .next (s.withDev
      (d.withTick { d.tick with epoch := d.now, anchored := true, lastPps := some d.now }).measured)) ∧
  (∀ (s : State) d t, s.dev = d → d.serves → d.tickSource = 1 → d.tick.lock = .locked → d.tick.lastPps = some t →
    1000 < (centred ((d.now : Int) - t) 1000000000).natAbs → d.tick.tenMHz → exec .ppsEdge s = .next s) ∧
  (∀ (s : State) d, s.dev = d → d.serves → d.tickSource = 1 → d.tick.running → d.tick.tenMHz = false →
    exec .ppsEdge s = .next (s.withDev (d.withTick { d.tick with good := 0 }))) ∧
  (∀ (d : Dev), d.tick.lock = .acquiring → (d.phaseError d.tick.lastEdge).natAbs ≤ 100 → 3 ≤ d.tick.good → d.tickSource = 1 →
    d.measured.tick.lock = .locked) ∧
  (∀ (s : State) cause d x, s.dev = d → d.serves → d.tick.lock = .locked →
    (cause = .pps ∧ d.tickSource = 1 ∧ x = d.advanceTo (d.tick.lastPps.getD d.now + 2000001000)) ∨
    (cause = .sync ∧ d.tickSource = 2 ∧
      x = d.advanceTo (d.tick.lastSync + 4 * (1000000000 * 2 ^ d.fld Fld.FAB_PTP_log_sync 0 / 65536))) →
    exec (.lockLost cause) s = .next (s.withDev (x.withTick { x.tick with lock := .holdover, good := 0, err := 0 }))) ∧
  (∀ (s : State) d x, s.dev = d → d.serves → d.tick.lock = .locked → d.tickSource = 1 → x = d.advanceTo (d.now + 10000) →
    exec (.lockLost .tenMHz) s = .next (s.withDev
      (x.withTick { x.tick with lock := .holdover, good := 0, err := 0, tenMHz := false }))) ∧
  (∀ (s : State) d, s.dev = d → d.serves → d.tick.lock ≠ .locked →
    exec (.lockLost .tenMHz) s = .next (s.withDev (d.withTick { d.tick with tenMHz := false })) ∧
    exec (.lockLost .tenMHzBack) s = .next (s.withDev (d.withTick { d.tick with tenMHz := true }))) ∧
  (∀ (s : State) k m d p t1 t2 t3 t4, s.dev = d → d.serves → p = d.port k → p.modeActive = 0 → p.linkUp →
    m.domain = d.fld Fld.FAB_PTP_domain 0 → d.tickSource = 2 → d.fld Fld.TICK_SOURCE_ptp_port 0 = k → d.tick.running →
    (∀ o, m.kind = .sync true o → exec (.ptpMessage k m) s = .next (s.withDev
      ((d.withTick { d.tick with syncRx := some d.now, delayTx := some d.now }).setPort k
        { p with sent := .ptp ⟨m.domain, .delayReq⟩ :: p.sent }))) ∧
    (∀ o, m.kind = .followUp o → d.tick.syncRx = some t2 → exec (.ptpMessage k m) s = .next (s.withDev
      (d.withTick { d.tick with epoch := (t2 : Int) - o - d.tick.pathDelay, anchored := true, syncOrigin := some o, lastSync := d.now }).measured)) ∧
    (m.kind = .delayResp t4 → d.tick.syncRx = some t2 → d.tick.syncOrigin = some t1 → d.tick.delayTx = some t3 →
      exec (.ptpMessage k m) s = .next (s.withDev
        (d.withTick { d.tick with pathDelay := (((t2 : Int) - t1 + ((t4 : Int) - t3)) / 2).toNat })))) ∧
  (∀ (s : State) k m d p, s.dev = d → d.serves → p = d.port k → p.modeActive = 0 → p.linkUp →
    m.domain = d.fld Fld.FAB_PTP_domain 0 → d.fld Fld.FAB_P_CTRL_ptp_master k = 1 → m.kind = .delayReq →
    exec (.ptpMessage k m) s = .next (s.withDev (d.setPort k { p with sent := .ptp ⟨m.domain, .delayResp d.now⟩ :: p.sent }))) ∧
  (∀ (s : State) k d p x, s.dev = d → d.serves → p = d.port k → p.modeActive = 0 → p.linkUp →
    d.fld Fld.FAB_P_CTRL_ptp_master k = 1 →
    x = d.advanceTo (p.lastSync + 1000000000 * 2 ^ d.fld Fld.FAB_PTP_log_sync 0 / 65536) →
    exec (.ptpSyncSend k) s = .next (s.withDev (x.setPort k { p with
      lastSync := x.now
      sent := .ptp ⟨x.fld Fld.FAB_PTP_domain 0, .announce 248⟩ :: .ptp ⟨x.fld Fld.FAB_PTP_domain 0, .followUp x.now⟩
        :: .ptp ⟨x.fld Fld.FAB_PTP_domain 0, .sync true 0⟩ :: p.sent })))

/-! ## Signed commands -/

/-- A signed command whose block passes the checks of R443 does what its operation says (R391, R444, R451), keeps the sequence
number, extends the measurement that R439 names and ends with OK; one that fails a check ends with AUTH_FAILED and the
reason.
Where the spec is silent it rests on the model's choices, log entries 97, 98 and 130. -/
def Obligations.SignedCommandsRun : Prop :=
  (∀ s src d d1 c b x i, i ∈ [Instr.signedCommandRecorderClear src, .signedCommandMembership src, .signedCommandFirmwareUpdate src,
      .signedCommandDebugUnlock src, .signedCommandMgmtGrant src, .signedCommandOwnerBind src] →
    Starts s src (isOp 0x70) d c → reservedZero c.desc sgnFields →
    (sgnBlock c.desc).toNat % 8 = 0 → sgnLength c.desc ≠ 0 → sgnLength c.desc ≤ 65536 → d.signedTurn c →
    d.cmdRead c engOther (sgnBlock c.desc) (sgnLength c.desc) = (d1, .ok, b) → signedBlock b = some x →
    (match i with
      | .signedCommandRecorderClear _ => x.op = 1
      | .signedCommandMembership _ => x.op = 2
      | .signedCommandFirmwareUpdate _ => x.op = 3
      | .signedCommandDebugUnlock _ => x.op = 4
      | .signedCommandMgmtGrant _ => x.op = 5
      | _ => x.op = 6) →
    (∀ n, d1.signedFails s.nv x = some n →
      exec i s = .next (s.withDev (settled src (d1.fail c Sts.authFailed n)))) ∧
    (d1.signedFails s.nv x = none →
      (x.op = 1 → d1.fld Fld.REC_CTRL_hold 0 = 0 → exec i s = .next { s with
        dev := settled src (d1.recClear.done c 0), nv := { s.nv with cmdSeq := x.seq } }) ∧
      (x.op = 2 → d1.side = 1 → exec i s = .next { s with
        dev := settled src ((d1.extend 3 4 (sha256 x.payload)).done c 0)
        nv := { s.nv with cmdSeq := x.seq, list := x.payload } }) ∧
      (x.op = 2 → d1.side ≠ 1 → exec i s = .next { s with
        dev := settled src (d1.fail c Sts.partitioned 0), nv := { s.nv with cmdSeq := x.seq } }) ∧
      (∀ d2 img, x.op = 3 → d1.cmdRead c engOther (wideAt x.payload 0) (leAt x.payload 8 4) = (d2, .ok, img) →
        sha256 img = slice x.payload 16 32 → s.nv.imageOk img → exec i s = .next { s with
          dev := settled src ((d2.extend 6 7 (sha256 img)).done c 0)
          nv := { s.nv with cmdSeq := x.seq, slot0 := img, slot1 := img
                            rollback := if imageAdvances img then max s.nv.rollback (imageVersion img) else s.nv.rollback } }) ∧
      (x.op = 4 → exec i s = .next { s with
        dev := settled src (((d1.setFld Fld.SEC_STATUS_debug 0
          (BitVec.ofNat 64 (max (leAt x.payload 0 1) (d1.fld Fld.SEC_STATUS_debug 0)))).extend 5 6 (sha256 x.payload)).done c 0)
        nv := { s.nv with cmdSeq := x.seq } }) ∧
      (x.op = 5 → leAt x.payload 0 2 = 0 → exec i s = .next { s with
        dev := settled src (((d1.setGrants [0, 0, 0, 0]).extend 5 8 (sha256 x.payload)).done c 0)
        nv := { s.nv with cmdSeq := x.seq } }) ∧
      (∀ k, x.op = 5 → leAt x.payload 0 2 ≠ 0 → d1.grants.contains (leAt x.payload 0 2) = false →
        d1.grants.findIdx? (· = 0) = some k → exec i s = .next { s with
          dev := settled src (((d1.setGrants (d1.grants.set k (leAt x.payload 0 2))).extend 5 8 (sha256 x.payload)).done c 0)
          nv := { s.nv with cmdSeq := x.seq } }) ∧
      (x.op = 6 → exec i s = .next { s with
        dev := settled src ((d1.extend 4 5 (sha256 x.payload)).done c 0)
        nv := { s.nv with cmdSeq := x.seq, ownerKeyHash := (certKey x.payload).map (·.1), ownerCert := x.payload } })))

/-! ## Ports in Ethernet mode -/

/-- A frame on an Ethernet-mode port that is errored, has another length or is not for the port counts as a drop; one for it is
delivered by what it carries; in DISABLED every frame is dropped (R359 to R361). Gotik answers ARP, neighbour discovery and
echo; a tunnel's datagram carries a frame that is handled as one; a wake frame wakes a sleeping device (R375, R376, R421).
Where the spec is silent it rests on the model's choices, log entries 72 to 74. -/
def Obligations.EthernetFramesAct : Prop :=
  (∀ (s : State) p f ok d x, s.dev = d → d.serves → p < 8 → x = d.port p → x.powered → x.modeActive = 2 →
    exec (.ethernetFrameReceive p f ok) s = .next (s.withDev (d.bump Fld.FAB_P_DROPS_count p 1))) ∧
  (∀ (s : State) p f ok d d1 x, s.dev = d → d.serves → p < 8 → x = d.port p → x.powered → x.modeActive = 0 → x.linkUp →
    d1 = d.rxBytes p f.length →
    (ok = false ∨ f.length < 64 ∨ 9216 < f.length →
      exec (.ethernetFrameReceive p f ok) s = .next (s.withDev (d1.bump Fld.FAB_P_DROPS_count p 1))) ∧
    (ok = true → 64 ≤ f.length → f.length ≤ 9216 →
      (d1.frameIn s.nv p (f.take (f.length - 4)) = .drop →
        exec (.ethernetFrameReceive p f ok) s = .next (s.withDev (d1.bump Fld.FAB_P_DROPS_count p 1))) ∧
      (∀ b, d1.frameIn s.nv p (f.take (f.length - 4)) = .unit b →
        exec (.ethernetFrameReceive p f ok) s = .next (s.withDev (d1.modPort p (fun x => { x with delivered := b :: x.delivered })))) ∧
      (∀ b, d1.frameIn s.nv p (f.take (f.length - 4)) = .pfc b →
        exec (.ethernetFrameReceive p f ok) s = .next (s.withDev (d1.pfcIn p b))) ∧
      (∀ b, d1.frameIn s.nv p (f.take (f.length - 4)) = .wake b →
        exec (.ethernetFrameReceive p f ok) s = exec (.wakeFrame p b) (s.withDev d1)) ∧
      (∀ src dst b, d1.frameIn s.nv p (f.take (f.length - 4)) = .udp src dst b → dst = 4791 ∨ dst = 319 ∨ dst = 320 →
        exec (.ethernetFrameReceive p f ok) s = .next (s.withDev (d1.modPort p (fun x => { x with delivered := b :: x.delivered })))) ∧
      (∀ src dst b, d1.frameIn s.nv p (f.take (f.length - 4)) = .udp src dst b → dst ≠ 4791 → dst ≠ 319 → dst ≠ 320 → dst ≠ 0 →
        dst = d1.fld Fld.CMP_POSE_UDP_udp_port 0 →
        exec (.ethernetFrameReceive p f ok) s = .next (s.withDev (d1.poseUdp p b))) ∧
      (∀ src dst b, d1.frameIn s.nv p (f.take (f.length - 4)) = .udp src dst b → dst ≠ 4791 → dst ≠ 319 → dst ≠ 320 → dst ≠ 0 →
        dst ≠ d1.fld Fld.CMP_POSE_UDP_udp_port 0 → dst = d1.fld Fld.FAB_TUNNEL_udp_port 0 →
        exec (.ethernetFrameReceive p f ok) s = exec (.tunnelDatagram p (d1.tunnelSource src) b) (s.withDev d1)))) ∧
  (∀ (d : Dev) nv p f, beAt f 0 6 ≠ nth nv.macs p 0 → beAt f 0 6 ≠ macBroadcast → ptpMacs.contains (beAt f 0 6) = false →
    beAt f 0 6 ≠ macControl → d.frameIn nv p f = .drop) ∧
  (∀ (d : Dev) nv p f, beAt f 12 2 = 0x8100 → beAt f 14 2 % 4096 = 0 ∨ beAt f 14 2 % 4096 = 4095 → d.frameIn nv p f = .drop) ∧
  (∀ (s : State) p ip toIp toMac d x, s.dev = d → d.serves → p < 8 → x = d.port p → x.modeActive = 0 → x.linkUp → ip ≠ 0 →
    ip.toNat = d.ipv4 p → exec (.arpNdIcmp p (.arp ip toIp toMac)) s = .next (s.withDev
      (d.setPort p { x with sent := .net (.arp ip (nth s.nv.macs p 0) toIp toMac) :: x.sent }))) ∧
  (∀ (s : State) p ip toIp toMac d x, s.dev = d → d.serves → p < 8 → x = d.port p → x.modeActive = 0 → x.linkUp → ip ≠ 0 →
    ip.toNat = d.ipv6 p → exec (.arpNdIcmp p (.neighbour ip toIp toMac)) s = .next (s.withDev
      (d.setPort p { x with sent := .net (.neighbour ip (nth s.nv.macs p 0) toIp toMac) :: x.sent }))) ∧
  (∀ (s : State) p ip toIp n q b d x, s.dev = d → d.serves → p < 8 → x = d.port p → x.modeActive = 0 → x.linkUp → ip ≠ 0 →
    ip.toNat = d.ipv4 p → exec (.arpNdIcmp p (.echo4 ip toIp n q b)) s = .next (s.withDev
      (d.setPort p { x with sent := .net (.echo4 ip toIp n q b) :: x.sent }))) ∧
  (∀ (s : State) p ip toIp n q b d x, s.dev = d → d.serves → p < 8 → x = d.port p → x.modeActive = 0 → x.linkUp → ip ≠ 0 →
    ip.toNat = d.ipv6 p → exec (.arpNdIcmp p (.echo6 ip toIp n q b)) s = .next (s.withDev
      (d.setPort p { x with sent := .net (.echo6 ip toIp n q b) :: x.sent }))) ∧
  (∀ (s : State) p k b d x f, s.dev = d → d.serves → p < 8 → x = d.port p → x.powered → x.modeActive = 0 → x.linkUp →
    d.fld Fld.FAB_TUNNEL_udp_port 0 ≠ 0 → tunnelFrame b = some f →
    (f.hdr.kind = 7 → exec (.tunnelDatagram p (some k) b) s = .next { s with
      dev := (d.discovery s.nv (8 + k) f.payload).1, nv := (d.discovery s.nv (8 + k) f.payload).2 }) ∧
    (f.hdr.kind ≤ 6 → d.forMe f = false → exec (.tunnelDatagram p (some k) b) s = .next (s.withDev (d.forward f))) ∧
    (f.hdr.kind = 4 → d.forMe f → frameSourced f →
      exec (.tunnelDatagram p (some k) b) s = .next (s.withDev (d.response f.hdr f.payload))) ∧
    (f.hdr.kind ≠ 4 → f.hdr.kind ≠ 7 → d.forMe f →
      exec (.tunnelDatagram p (some k) b) s = .next (s.withDev (d.requestIn s.nv p f)))) ∧
  (∀ (s : State) p b d x, s.dev = d → d.serves → p < 8 → x = d.port p → x.powered → x.modeActive = 0 → 16 ≤ b.length →
    slice b 0 4 = ascii "PSWK" → leAt b 4 1 = 1 → leAt b 5 1 % 2 = 0 → slice b 8 8 = slice s.nv.identityDigest 0 8 →
    d.pwr.state = .sleep → d.pwr.entering = none → d.fld Fld.PWR_WAKE_EN_inbound 0 = 1 →
    (d.fld Fld.PWR_WAKE_EN_keep_ports 0).testBit p →
    exec (.wakeFrame p b) s = .next (s.withDev (d.startWake 3 0)))

/-- RoCEv2 (R362 to R365): SEND and WRITE with immediate take a receive slot, answer RNR when there is none; WRITE, READ and ATOMIC
act on memory that the R_Key names and NAK otherwise; in SLEEP a request is held; CNPs are at most one in 50 µs, halve the
rate down to 1 Gb/s, and every 55 µs without one adds 20 Gb/s up to the line rate.
Where the spec is silent it rests on the model's choices, log entries 8, 75, 76 and 128. -/
def Obligations.RoceRuns : Prop :=
  (∀ (s : State) d r, s.dev = d → d.serves → d.roceFree r → d.pwr.state = .run →
    (4096 < r.data.length → exec (.roceSend r) s = .next (s.withDev (d.roceNak r.qp .nakInvalid))) ∧
    (∀ d1, r.data.length ≤ 4096 → d.receiveFull r.qp = (d1, .ok, true) →
      exec (.roceSend r) s = .next (s.withDev (d1.roceSay r.qp .rnr))) ∧
    (∀ d1, r.data.length ≤ 4096 → d.receiveFull r.qp = (d1, .ok, false) →
      exec (.roceSend r) s = .next (s.withDev (d1.roceConsume r.qp r false))) ∧
    (d.rkeyOk r.qp r.rkey r.va r.data.length = false →
      exec (.roceRdmaWrite r) s = .next (s.withDev (d.roceNak r.qp .nakAccess))) ∧
    (∀ d1 ps, d.rkeyOk r.qp r.rkey r.va r.data.length → d.rocePlace r.qp r.va r.data.length accWrite = (d1, .ok, ps) →
      remotePieces r.va.toNat ps = [] →
      exec (.roceRdmaWrite r) s = .next (s.withDev ((d1.roceStore r.qp r.va.toNat ps r.data).roceSay r.qp .ack))) ∧
    (∀ d1 d2 ps, d.receiveFull r.qp = (d1, .ok, false) → d1.rkeyOk r.qp r.rkey r.va r.data.length →
      d1.rocePlace r.qp r.va r.data.length accWrite = (d2, .ok, ps) → remotePieces r.va.toNat ps = [] →
      exec (.roceRdmaWriteImm r) s = .next (s.withDev ((d2.roceStore r.qp r.va.toNat ps r.data).roceConsume r.qp r true))) ∧
    (∀ d1 ps, d.rkeyOk r.qp r.rkey r.va r.length → d.rocePlace r.qp r.va r.length accRead = (d1, .ok, ps) →
      remotePieces r.va.toNat ps = [] →
      exec (.roceRdmaRead r) s = .next (s.withDev
        ((d1.roceLoad r.qp r.va.toNat ps []).1.roceSay r.qp (.data (d1.roceLoad r.qp r.va.toNat ps []).2)))) ∧
    (∀ op, r.va.toNat % 8 ≠ 0 → exec (.roceAtomic r op) s = .next (s.withDev (d.roceNak r.qp .nakInvalid))) ∧
    (∀ op d1 d2 p a old, r.va.toNat % 8 = 0 → d.rkeyOk r.qp r.rkey r.va 8 → d.rocePlace r.qp r.va 8 accAtomic = (d1, .ok, [p]) →
      p.at0 = .here a →
      d1.atomicHome (d1.qpAsker r.qp) (bitsN p.leaf 7 6 ≠ 2) (some (bitsN p.leaf 53 52)) a 8 (fun old => match op with
        | .fetchAdd v => some ((old + v.toNat) % 2 ^ 64)
        | .compareSwap c x => if old = c.toNat then some x.toNat else none) = (d2, .ok, old) →
      exec (.roceAtomic r op) s = .next (s.withDev (d2.roceSay r.qp (.data (leBytes 8 old)))))) ∧
  (∀ (s : State) d r i op, s.dev = d → d.serves → d.roceFree r → d.pwr.state = .sleep → d.pwr.waking.isSome →
    i ∈ [Instr.roceSend r, .roceRdmaWrite r, .roceRdmaWriteImm r, .roceRdmaRead r, .roceAtomic r op] → d.pwr.entering = none →
    exec i s = .next (s.withDev { d with fab := { d.fab with inbound := d.fab.inbound ++ [(i, d.now)] } })) ∧
  (∀ (s : State) d q x, s.dev = d → d.serves → d.qpReady q → d.pwr.state = .run → d.pwr.entering = none → x = d.qp q →
    ((∀ t, x.cnpAt = some t → t + 50000 ≤ d.now) →
      exec (.roceEcnCe q) s = .next (s.withDev ((d.setQp q { x with cnpAt := some d.now }).roceSay q .cnp))) ∧
    (∀ t, x.cnpAt = some t → d.now < t + 50000 → exec (.roceEcnCe q) s = .next s) ∧
    exec (.roceCnpReceive q) s = .next (s.withDev (d.setQp q { x with rate := max 1000000000 (x.rate / 2), quietAt := d.now })) ∧
    (x.quietAt + 55000 ≤ d.now → exec (.roceRateRecovery q) s = .next (s.withDev
      (d.setQp q { x with rate := min lineRate (x.rate + 20000000000), quietAt := x.quietAt + 55000 }))))

/-! ## Mortar -/

/-- Requests of other devices (R297, R298, R316, R317, R373): one that the link layer accepts for this device is performed and answered
with one RESPONSE to its source, with its slot, generation and epoch.
Where the spec is silent it rests on the model's choices, log entries 77 to 80. -/
def Obligations.MortarRequestsServed : Prop :=
  (∀ (d : Dev) h st p, d.respond h st p = d.sendFrame ⟨{
      kind := 4, vl := if h.vl = 2 then 5 else 4, lenDw := p.length / 4, linkSeq := 0, dst := h.src, src := d.addr, op := 0
      size := 0, slot := h.slot, slotGen := h.slotGen, epoch := h.epoch, status := st, address := 0 }, p, true⟩) ∧
  (∀ (s : State) d d1 k f a, s.dev = d → d.serves → d.pwr.state = .run → d.pwr.entering = none → d.frameGood k f → d.forMe f →
    frameSourced f → frameWhole f → d1 = d.frameTaken k f → a = f.hdr.address.toNat % 2 ^ 40 →
    (∀ d2 bs, f.hdr.kind = 1 → (∀ o, regionOf a ≠ .regs o) → d1.readAt Asker.none true a (4 * f.hdr.lenDw) = (d2, .ok, bs) →
      exec (.mortarRead k f) s = .next (s.withDev (d2.respond f.hdr Sts.ok bs))) ∧
    (∀ o, f.hdr.kind = 1 → regionOf a = .regs o → d1.mayReadWindow f.hdr.src o → exec (.mortarRead k f) s = .next (s.withDev
      (d1.respond f.hdr Sts.ok (d1.setupRead s.nv o (4 * f.hdr.lenDw))))) ∧
    (∀ o, f.hdr.kind = 1 → regionOf a = .regs o → d1.mayReadWindow f.hdr.src o = false →
      exec (.mortarRead k f) s = .next (s.withDev (d1.respond f.hdr Sts.authFailed []))) ∧
    (∀ d2, f.hdr.kind = 2 → (∀ o, regionOf a ≠ .regs o) → d1.localWrite Asker.none true none (.device f.hdr.src) a f.payload = (d2, .ok) →
      exec (.mortarWrite k f) s = .next (s.withDev (d2.respond f.hdr Sts.ok []))) ∧
    (∀ o d2 st, f.hdr.kind = 2 → regionOf a = .regs o →
      d1.windowWrite s.nv (.mortar f.hdr.src) o f.payload.length (BitVec.ofNat 64 (leNat f.payload)) = (d2, st) →
      exec (.mortarWrite k f) s = .next (s.withDev (d2.respond f.hdr st []))) ∧
    (∀ op n d2 old, f.hdr.kind = 3 → atomOfCode f.hdr.op f.hdr.size = some (op, n) →
      (∀ o, regionOf a ≠ .regs o) → (∀ i o, regionOf a ≠ .doorbell i o) →
      d1.atomicHome Asker.none true none a n (fun old => op.result n old (atomPayload op f.payload)) = (d2, .ok, old) →
      exec (.mortarAtomic k f) s = .next (s.withDev ((d2.afterMax op n a .ok old).respond f.hdr Sts.ok (leBytes 8 old)))) ∧
    (f.hdr.kind = 5 → f.hdr.address.toNat < 1024 → exec (.mortarDoorbell k f) s = .next (s.withDev
      ((d1.offer (.device f.hdr.src) f.hdr.address.toNat (wideAt f.payload 0)).respond f.hdr Sts.ok []))) ∧
    (∀ d2 i, f.hdr.kind = 6 → d1.homeFence (wideAt f.payload 0) = Sts.ok →
      (i = .mortarFenceSignal k f ∧ f.hdr.op = 0 ∧
        d1.signalEntry gotikRing 0 (handleIndex (wideAt f.payload 0)) (some (wideAt f.payload 8)) = (d2, .ok)) ∨
      (i = .mortarFenceIncrement k f ∧ f.hdr.op = 1 ∧ d1.signalEntry gotikRing 0 (handleIndex (wideAt f.payload 0)) none = (d2, .ok)) →
      exec i s = .next (s.withDev (d2.respond f.hdr Sts.ok []))) ∧
    (f.hdr.kind = 6 → f.hdr.op = 2 → d1.mirrorsOf f.hdr.src (wideAt f.payload 0) ≠ [] →
      exec (.mortarFenceUpdate k f) s = .next (s.withDev
        (((d1.mirrorsOf f.hdr.src (wideAt f.payload 0)).foldl
          (fun d m => (d.signalWord m.2 (some (wideAt f.payload 8))).2) d1).respond f.hdr Sts.ok []))) ∧
    (∀ i subs off d2 v, f.hdr.kind = 6 → f.hdr.op = 3 → d1.homeFence (wideAt f.payload 0) = Sts.ok →
      d1.sharedGate = .ok → i = handleIndex (wideAt f.payload 0) → subs = NMap.getD d1.sub.exports i [] → subs ≠ [] ∨ d1.fabricSlots < 256 →
      f.hdr.src ∈ subs ∨ subs.eraseDups.length < 64 → (d1.entry i).payload.word = some off → d1.localRead off 8 = (d2, .ok, v) →
      exec (.mortarFenceSubscribe k f) s = .next (s.withDev
        (({ d2 with sub := { d2.sub with exports := NMap.set d2.sub.exports i (subs ++ [f.hdr.src]) } } : Dev).respond f.hdr Sts.ok v))) ∧
    (∀ i subs, f.hdr.kind = 6 → f.hdr.op = 4 → d1.current (wideAt f.payload 0) → i = handleIndex (wideAt f.payload 0) →
      subs = (NMap.getD d1.sub.exports i []).erase f.hdr.src →
      exec (.mortarFenceUnsubscribe k f) s = .next (s.withDev
        (({ d1 with sub := { d1.sub with exports := (if subs.isEmpty then NMap.erase d1.sub.exports i
            else NMap.set d1.sub.exports i subs) } } : Dev).respond f.hdr Sts.ok []))) ∧
    (f.hdr.kind = 6 → f.hdr.op = 5 → exec (.mortarFenceEnd k f) s = .next (s.withDev
      (((d1.mirrorsOf f.hdr.src (wideAt f.payload 0)).foldl
        (fun d m => d.setEntry m.1 { d.entry m.1 with payload := .mirror m.2 f.hdr.src (wideAt f.payload 0) true }) d1).respond
          f.hdr Sts.ok [])))) ∧
  (∀ (s : State) d d1 k f, s.dev = d → d.serves → d.frameGood k f → d1 = d.frameTaken k f → d.forMe f = false → frameSourced f →
    1 ≤ f.hdr.kind → f.hdr.kind ≤ 6 → f.hdr.dst ≠ 0xFFF →
    exec (.frameForward k f) s = .next (s.withDev (d1.sendFrame { f with crcOk := true })))

/-- A RESPONSE is delivered when slot, generation and epoch match and counted as stale otherwise; an operation without one ends
with PARTITIONED at its timeout; what blocks wait for is tried again then. A translated access to another device is an
instruction of the block that issues it; one of a command or of Gotik is sent when its route is valid, and a held one when the
route becomes so (R350, R374, R389).
Where the spec is silent it rests on the model's choices, log entries 71, 77, 80, 82 and 126. -/
def Obligations.MortarOperations : Prop :=
  (∀ (s : State) d d1 k f, s.dev = d → d.serves → d.frameGood k f → d.forMe f → frameSourced f → f.hdr.kind = 4 →
    d1 = d.frameTaken k f →
    (d1.fab.ops.find? (fun o => o.slot = f.hdr.slot && o.gen = f.hdr.slotGen) = none →
      exec (.mortarResponse k f) s = .next (s.withDev
        ((d1.bump Fld.PAR_STALE_EPOCH_count 0 1).count 0x00A0 1 ⟨none, none, none⟩))) ∧
    (∀ o d2, d1.fab.ops.find? (fun o => o.slot = f.hdr.slot && o.gen = f.hdr.slotGen) = some o →
      d2 = (d1.withOps (d1.fab.ops.filter (fun x => x.slot ≠ o.slot))).dropHolds →
      (f.hdr.epoch ≠ o.epoch ∨ d2.deliverable o = false → exec (.mortarResponse k f) s = .next (s.withDev
        ((d2.bump Fld.PAR_STALE_EPOCH_count 0 1).count 0x00A0 1 ⟨none, none, none⟩).retryBlocks)) ∧
      (f.hdr.epoch = o.epoch → d2.deliverable o → f.hdr.status = Sts.ok →
        exec (.mortarResponse k f) s = .next (s.withDev (d2.opDone o f.payload).retryBlocks)) ∧
      (f.hdr.epoch = o.epoch → d2.deliverable o → f.hdr.status ≠ Sts.ok →
        exec (.mortarResponse k f) s = .next (s.withDev (d2.opFail o f.hdr.status f.payload).retryBlocks)))) ∧
  (∀ (s : State) d d1 d2 n o, s.dev = d → d.serves → d.fab.ops.find? (fun o => o.slot = n) = some o →
    d1 = (d.advanceTo (o.issued + (if o.tunnel then 1000000 * d.fld Fld.FAB_OP_TIMEOUT_tunnel_ms 0
      else 1000 * d.fld Fld.FAB_OP_TIMEOUT_native_us 0))) →
    d2 = (d1.withOps (d1.fab.ops.filter (fun x => x.slot ≠ o.slot))).dropHolds → d2.deliverable o →
    exec (.opTimeout n) s = .next (s.withDev (d2.opFail o Sts.partitioned []).retryBlocks)) ∧
  (∀ (s : State) d g b r n x, s.dev = d → d.serves → r.ring = some g → r.block = some b → r.device ≠ d.addr → 1 ≤ r.kind →
    r.kind ≤ 3 → d.findBlock ⟨g, r.serial, b⟩ = some (n, x) → x.runs r.thread → ((d.ring g).saving && x.stage = .compute) = false →
    exec (.remoteAccessIssue r) s = .next (s.withDev (d.startRemote n x r))) ∧
  (∀ (s : State) d d1 r p, s.dev = d → d.serves → d.issuer r → r.block = none → r.device ≠ d.addr → 1 ≤ r.kind → r.kind ≤ 3 →
    d.fab.held.any (fun x => x.1.device = r.device) = false → accessPieces r = [p] →
    d.issue (accessPiece r p.1 p.2.1 p.2.2) = (d1, .ok) →
    exec (.remoteAccessIssue r) s = .next (s.withDev d1)) ∧
  (∀ (s : State) d r, s.dev = d → d.serves → d.issuer r → r.block = none → r.device ≠ d.addr → 1 ≤ r.kind → r.kind ≤ 3 →
    d.fab.held.any (fun x => x.1.device = r.device) → d.route r.device ≠ .none →
    exec (.remoteAccessIssue r) s = .next (s.withDev { d with fab := { d.fab with held := d.fab.held ++ [(r, d.now)] } })) ∧
  (∀ (s : State) d d1 i r since p, s.dev = d → d.serves → d.fab.held[i]? = some (r, since) →
    (d.fab.held.take i).any (fun x => x.1.device = r.device) = false → d.route r.device ≠ .pending →
    ({ d with fab := { d.fab with held := d.fab.held.eraseIdx i } } : Dev).issuer r → accessPieces r = [p] →
    ({ d with fab := { d.fab with held := d.fab.held.eraseIdx i } } : Dev).issue (accessPiece r p.1 p.2.1 p.2.2) = (d1, .ok) →
    exec (.heldRemoteRelease i) s = .next (s.withDev d1))

/-- The link layer (R359, R370 to R372): LINK frames acknowledge and return credits, a NAK or 10 µs without progress replays what is
unacknowledged, 16 replays without progress take the link down, and a bad frame is answered with a NAK.
Where the spec is silent it rests on the model's choices, log entry 81. -/
def Obligations.LinksRun : Prop :=
  (∀ (s : State) d k f x d1, s.dev = d → d.serves → x = d.port k → x.modeActive = 1 → x.linkUp → f.crcOk → f.hdr.kind = 8 →
    f.payload.length = 16 → d1 = (d.setPort k (x.acknowledge d.now (bitsN f.hdr.address 11 0) f.payload)).rxBytes k 44 →
    (f.hdr.op = 0 → exec (.linkAck k f) s = .next (s.withDev (d1.drainPort k))) ∧
    (f.hdr.op = 1 → exec (.linkNak k f) s = .next (s.withDev ((d1.replay k).drainPort k)))) ∧
  (∀ (x : Port) now seq p i, x.unacked.findIdx? (fun g => g.hdr.linkSeq = seq) = some i →
    (x.acknowledge now seq p).unacked = x.unacked.drop (i + 1) ∧ (x.acknowledge now seq p).replays = 0) ∧
  (∀ (s : State) d k x d1, s.dev = d → d.serves → x = d.port k → x.modeActive = 1 → x.linkUp →
    d1 = (if 64 ≤ x.framesIn then d else d.advanceTo (x.lastLink + 1000)) →
    exec (.linkFrameSend k) s = .next (s.withDev (d1.sendLink k false))) ∧
  (∀ (d : Dev) k nak x, x = d.port k → d.sendLink k nak = (d.setPort k { x with
      sent := .link nak ((x.rxSeq + 4095) % 4096) (x.freed.map (· % 65536)) :: x.sent, framesIn := 0, lastLink := d.now }).txBytes k 44) ∧
  (∀ (s : State) d k f x, s.dev = d → d.serves → x = d.port k → x.modeActive = 1 → x.linkUp →
    (f.crcOk = false ∨ (f.hdr.kind ≠ 8 ∧ f.hdr.linkSeq ≠ x.rxSeq)) →
    exec (.mortarFrameDiscard k f) s = .next (s.withDev (d.sendLink k true))) ∧
  (∀ (s : State) d d1 k x, s.dev = d → d.serves → x = d.port k → x.modeActive = 1 → x.linkUp → x.unacked ≠ [] → x.replays < 16 →
    d1 = d.advanceTo (x.lastProgress + 10000) →
    exec (.replayTimeout k) s = .next (s.withDev
      (((((d1.setPort k { x with
        sent := (x.unacked.map Wire.mortar).reverse ++ x.sent, replays := x.replays + 1, lastProgress := d1.now }).bump
          Fld.FAB_P_REPLAYS_count k 1).windowEvent (40 + k) 1).txBytes k (sumN (x.unacked.map frameBytes)))))) ∧
  (∀ (s : State) d d1 k x, s.dev = d → d.serves → x = d.port k → x.modeActive = 1 → x.linkUp → x.unacked ≠ [] → 16 ≤ x.replays →
    d1 = d.advanceTo (x.lastProgress + 10000) →
    exec (.replayTimeout k) s = .next (s.withDev (d1.linkDown k))) ∧
  (∀ (s : State) d k x, s.dev = d → d.serves → x = d.port k → x.linkUp → x.queued = [] →
    exec (.linkDown k) s = .next (s.withDev ((d.setPort k { Port.idle with
      powered := x.powered, modeActive := x.modeActive, signal := x.signal, sent := x.sent, delivered := x.delivered
      lastSync := x.lastSync }).bump Fld.FAB_P_LINK_DOWNS_count k 1))) ∧
  (∀ (s : State) d k x, s.dev = d → d.serves → x = d.port k → x.powered → x.modeActive < 2 → x.linkUp = false →
    exec (.linkUp k) s = .next (s.withDev (d.setPort k { x with
      linkUp := true, pcsLock := true, signal := true, txSeq := 0, rxSeq := 0, unacked := [], queued := []
      used := List.replicate 8 0, returned := List.replicate 8 0, freed := List.replicate 8 0, framesIn := 0
      lastLink := d.now, lastProgress := d.now, replays := 0 })))

/-! ## The fabric domain -/

/-- Discovery messages (R379 to R391): what a device sends, and what it takes from a message that arrives on a hop where discovery
runs; one whose type, version or length is wrong is dropped.
Where the spec is silent it rests on the model's choices, log entries 83, 85 and 86. -/
def Obligations.DomainMessages : Prop :=
  (∀ (s : State) d d1 hop b, s.dev = d → d.serves → d.discHop hop → NMap.get? d.fab.dom.said hop = none → d1 = d.raiseSeq →
    b = (d1.hello s.nv.identityDigest s.nv.listVersion hop).bytes →
    exec (.hello hop) s = .next (s.withDev (let d2 := d1.sendDisc hop b
      { d2 with fab := { d2.fab with dom := { d2.fab.dom with said := NMap.set d2.fab.dom.said hop (d2.now, b) } } }))) ∧
  (∀ (s : State) d hop p, s.dev = d → d.serves → d.discHop hop →
    (discOk 1 p = false → exec (.helloReceive hop p) s = .next (s.withDev ((d.discTaken hop p).serveHeld s.nv))) ∧
    (discOk 2 p = false → exec (.report hop p) s = .next (s.withDev (d.discTaken hop p))) ∧
    (discOk 3 p = false → exec (.assign hop p) s = .next (s.withDev ((d.discTaken hop p).serveHeld s.nv))) ∧
    (discOk 4 p = false → exec (.listReq hop p) s = .next (s.withDev (d.discTaken hop p)))) ∧
  (∀ (s : State) d d0 d1 d2 hop p h me, s.dev = d → d.serves → d.discHop hop → discOk 1 p →
    me = s.nv.identityDigest → h = helloOf p → d0 = d.discTaken hop p → NMap.get? d0.fab.dom.neighbours hop = none →
    d1 = ({ d0 with fab := { d0.fab with dom := { d0.fab.dom with
      neighbours := NMap.set d0.fab.dom.neighbours hop ⟨h, d0.now, d0.now⟩
      seqAt := if d0.fab.dom.seq < h.seq then d0.now else d0.fab.dom.seqAt
      seq := max d0.fab.dom.seq h.seq } } } : Dev).noteBest me →
    d2 = (if d1.role = 0 ∧ d1.parent me = some hop then d1.follow h (d0.fab.dom.seq < h.seq) else d1) → h.list ≤ s.nv.listVersion →
    exec (.helloReceive hop p) s = .next (s.withDev ((Dev.reportIfChanged d0 d2 me).serveHeld s.nv))) ∧
  (∀ (s : State) d d0 hop p k, s.dev = d → d.serves → d.discHop hop → discOk 2 p → slice p 8 32 ≠ s.nv.identityDigest →
    d0 = (d.discTaken hop p).recordReport hop p → d0.parent s.nv.identityDigest = some k →
    exec (.report hop p) s = .next (s.withDev (d0.sendDisc k p))) ∧
  (∀ (s : State) d d0 hop p, s.dev = d → d.serves → d.discHop hop → discOk 2 p → slice p 8 32 ≠ s.nv.identityDigest →
    d0 = (d.discTaken hop p).recordReport hop p → d0.parent s.nv.identityDigest = none → d0.role = 1 → d0.side = 1 →
    exec (.report hop p) s = .next (s.withDev (d0.assignStep s.nv.inForce s.nv.identityDigest))) ∧
  (∀ (s : State) d hop p, s.dev = d → d.serves → d.discHop hop → discOk 3 p → slice p 16 32 = s.nv.identityDigest →
    exec (.assign hop p) s = .next (s.withDev (((d.discTaken hop p).adoptAddress p).serveHeld s.nv))) ∧
  (∀ (d : Dev) p a, d.addr = 0 ∨ d.addr = a → a = leAt p 4 4 % 4096 → d.adoptAddress p =
    ((((d.setFld Fld.FAB_ADDR_addr 0 (BitVec.ofNat 64 a)).setFld Fld.FAB_MGR_manager_addr 0
      (BitVec.ofNat 64 (leAt p 4 4 / 4096 % 4096))).setFld Fld.FAB_EPOCH_domain_epoch 0 (BitVec.ofNat 64 (max (leAt p 8 4)
        (((d.setFld Fld.FAB_ADDR_addr 0 (BitVec.ofNat 64 a)).setFld Fld.FAB_MGR_manager_addr 0
          (BitVec.ofNat 64 (leAt p 4 4 / 4096 % 4096))).fld Fld.FAB_EPOCH_domain_epoch 0)))).setFld
            Fld.FAB_WEIGHT_total 0 (BitVec.ofNat 64 (leAt p 12 4)))) ∧
  (∀ (s : State) d hop p m, s.dev = d → d.serves → d.discHop hop → discOk 3 p → slice p 16 32 ≠ s.nv.identityDigest →
    (d.discTaken hop p).fab.dom.members.find? (fun m => m.digest = slice p 16 32) = some m →
    exec (.assign hop p) s = .next (s.withDev (((d.discTaken hop p).sendDisc m.via p).serveHeld s.nv))) ∧
  (∀ (s : State) d hop p v k n, s.dev = d → d.serves → d.discHop hop → discOk 4 p → v = leAt p 4 4 → k = leAt p 8 2 →
    n = ceilDiv s.nv.list.length 240 → v = s.nv.listVersion → v ≠ 0 → k < n →
    exec (.listReq hop p) s = .next (s.withDev ((d.discTaken hop p).sendDisc hop
      (leBytes 1 5 ++ leBytes 1 1 ++ leBytes 2 0 ++ leBytes 4 v ++ leBytes 2 k ++ leBytes 2 n ++ leBytes 4 0
        ++ (s.nv.list.drop (240 * k)).take 240)))) ∧
  (∀ (s : State) d d0 hop p f k n, s.dev = d → d.serves → d.discHop hop → discOk 5 p → d0 = d.discTaken hop p →
    d0.fab.dom.fetching = some f → f.hop = hop → leAt p 4 4 = f.version → k = leAt p 8 2 → n = leAt p 10 2 → k < n →
    f.chunks.any (fun c => c.1 = k) = false →
    (∀ g, g = { f with chunks := f.chunks ++ [(k, p.drop 16)] } →
      (g.next < n → exec (.listData hop p) s = .next (s.withDev
        (({ d0 with fab := { d0.fab with dom := { d0.fab.dom with fetching := some g } } } : Dev).askList hop f.version g.next))) ∧
      (∀ bytes l d2, n ≤ g.next → bytes = (List.range n).flatMap (fun i => ((g.chunks.find? (fun c => c.1 = i)).map (·.2)).getD []) →
        listOf bytes = some l → d0.side = 1 → l.version = f.version → s.nv.listVersion < l.version →
        bytes.length = listSize bytes + sigSize → s.nv.listSigned bytes →
        d2 = { d0 with fab := { d0.fab with dom := { d0.fab.dom with fetching := none } } } →
        exec (.listData hop p) s = .next { s with
          dev := d2.extend 3 4 (sha256 bytes), nv := { s.nv with list := bytes } })))

/-- A lost neighbour is forgotten; an eligible device that was its own best candidate for settle_us takes a role, by the side it
decides; a device whose manager is lost is FORMING, or NON_OWNING without a candidate, and one whose lease ends is FORMING; a manager decides the side and joins components (R381, R382, R392 to
R394).
Where the spec is silent it rests on the model's choices, log entries 83 to 86 and 129. -/
def Obligations.DomainRoles : Prop :=
  (∀ (s : State) d d0 d1 hop n me, s.dev = d → d.serves → NMap.get? d.fab.dom.neighbours hop = some n → me = s.nv.identityDigest →
    d0 = (if d.discHop hop then d.advanceTo (n.heard + 3 * (1000 * d.fld Fld.FAB_DISC_hello_us 0)) else d) →
    d1 = { d0 with fab := { d0.fab with dom := { d0.fab.dom with
      neighbours := NMap.erase d0.fab.dom.neighbours hop, said := NMap.erase d0.fab.dom.said hop
      members := d0.fab.dom.members.filter (fun m => m.via ≠ hop)
      fetching := d0.fab.dom.fetching.filter (fun f => f.hop ≠ hop) } } } →
    exec (.neighbourLost hop) s = .next (s.withDev (Dev.reportIfChanged d0 (d1.noteBest me) me))) ∧
  (∀ (s : State) d d1 d2 d3 c t, s.dev = d → d.serves → d.best s.nv.identityDigest = some c → d.fab.dom.bestSince = some t →
    d.eligible → c.digest = s.nv.identityDigest → d.role = 0 → d1 = d.advanceTo (t + 10000 * d.fld Fld.FAB_DISC_settle 0) →
    d2 = (if d1.addr ≠ 0 then d1 else d1.setFld Fld.FAB_ADDR_addr 0 (BitVec.ofNat 64
      ((lowestFree (((d1.nodes s.nv.identityDigest).map Node.addr).filter (fun a => a ≠ 0))).getD 0))) →
    d3 = d2.setFld Fld.FAB_MGR_manager_addr 0 (BitVec.ofNat 64 d2.addr) →
    exec .managerElected s = .next (s.withDev
      (((d3.withDom { d3.fab.dom with routes := [] }).govern s.nv).raiseSeq.serveHeld s.nv))) ∧
  (∀ (s : State) d d1 d2 d3 c me, s.dev = d → d.serves → d.role = 0 → me = s.nv.identityDigest → d.best me = some c → c.digest ≠ me →
    d1 = d.advanceTo (d.fab.dom.seqAt + 100000 * d.fld Fld.FAB_DISC_manager_timeout 0) →
    d2 = ((d1.withDom { d1.fab.dom with dropped := (c.digest, d1.fab.dom.seq) :: d1.fab.dom.dropped }).bump
      Fld.FAB_ELECTIONS_count 0 1).setFld Fld.FAB_MGR_manager_addr 0 0 →
    d3 = d2.setSideTo (if (d2.candidates me).isEmpty then 2 else 0) →
    exec .managerLost s = .next (s.withDev (Dev.reportIfChanged d1 (d3.noteBest me) me))) ∧
  (∀ (s : State) d, s.dev = d → d.serves → d.role ≠ 0 →
    exec .sideDecide s = .next (s.withDev ((d.govern s.nv).serveHeld s.nv))) ∧
  (∀ (s : State) d, s.dev = d → d.serves → d.role = 0 → d.side = 1 →
    exec .leaseExpiry s = .next (s.withDev
      ((d.advanceTo (d.fab.dom.seqAt + 4 * (1000 * d.fld Fld.FAB_DISC_hello_us 0))).setSideTo 0))) ∧
  (∀ (s : State) d d1 hop n l me, s.dev = d → d.serves → d.role = 1 → d.side = 1 → NMap.get? d.fab.dom.neighbours hop = some n →
    l = s.nv.inForce → me = s.nv.identityDigest →
    d1 = ((d.assignStep l me).rewrite l me).bump Fld.FAB_EPOCH_domain_epoch 0 1 →
    exec (.rejoin hop) s = .next (s.withDev
      ((((d1.decideSide l me).bump Fld.FAB_REJOINS_count 0 1).resendFences).serveHeld s.nv)))

/-! ## Supply, resets and boot -/

/-- Supply and resets (R396 to R398, R403, R408 to R411, R460, R470, R474): which reset an event or a write begins, when, and with
which cause; what it clears is that of a cold or device reset, of a partition, or of a block.
Where the spec is silent it rests on the model's choices, log entries 88 to 90, 121 and 127. -/
def Obligations.ResetsHappen : Prop :=
  (∀ (s : State) d x, s.dev = d → d.pins.holdPhase2 = false → d.pins.powerGood = false →
    x = d.coldReset d.boot.causeSource (d.now + 10000000) →
    exec .powerOn s = .next (s.withDev { x with pins := { x.pins with powerGood := true, standby := true, vinMv := 48000 } })) ∧
  (∀ (s : State) d us x, s.dev = d → 50 ≤ us → d.pins.powerGood → d.boot.phase = 2 → d.boot.halted = false →
    d.pwr.state = .run → x = d.restartPhase2 1 (d.now + 1000 * us) →
    exec (.brownOut us true) s = .next (s.withDev { x with pins := { x.pins with holdPhase2 := true, vinMv := 35000 } })) ∧
  (∀ (s : State) d us st, s.dev = d → 50 ≤ us → d.pins.powerGood → d.boot.phase ≠ 2 → d.pwr.state ≠ .off →
    exec (.brownOut us st) s = .next (s.withDev (({ d with now := d.now + 1000 * us } : Dev).railsOff 1 35000 st))) ∧
  (∀ (s : State) us st, us < 50 → exec (.brownOut us st) s = .next s) ∧
  (∀ (s : State) d mv us, s.dev = d → beyondMaximum mv us = false → 62000 < mv → 10 ≤ us →
    exec (.overvoltage mv us) s = .next (s.withDev (({ d with now := d.now + 1000 * us } : Dev).railsOff 0 mv false))) ∧
  (∀ (d : Dev) src vin st, (d.railsOff src vin st).pins.powerGood = false ∧ (d.railsOff src vin st).boot.phase = 0 ∧
    (d.railsOff src vin st).sub = SubSt.start ∧ (d.railsOff src vin st).pwr.retained = (if st then d.pwr.retained else none)) ∧
  (∀ (s : State) d, s.dev = d → d.pins.powerGood = false → exec .standbyRailLoss s = .next (s.withDev
    { d.railsOff d.boot.causeSource 0 false with pins := { (d.railsOff d.boot.causeSource 0 false).pins with tripped := false } })) ∧
  (∀ (s : State) d ns, s.dev = d → d.pins.powerGood → d.pwr.state ≠ .off → 200 ≤ ns → (d.boot.phase ≠ 2 ∨ d.boot.halted) →
    exec (.resetN ns) s = .next (s.withDev ((d.restart 3 1 3 (d.now + ns)).bump Fld.RST_COUNTS_device 0 1))) ∧
  (∀ (s : State) ns, ns < 120 → exec (.resetN ns) s = .next s) ∧
  (∀ (s : State) d src n v, s.dev.serves → d = s.dev.touch src Reg.RST_DEVICE_RESET.off → d.resetSource src = some n →
    v.toNat / 65536 = 0x5244 → v.toNat % 2 = 1 →
    exec (.rstDeviceReset src v) s = .next (s.withDev (((d.restart 3 1 n d.now).bump Fld.RST_COUNTS_device 0 1).answered src
      Reg.RST_DEVICE_RESET.off (s.dev.writeStatus src Reg.RST_DEVICE_RESET.off)))) ∧
  (∀ (s : State) d src n p x, s.dev.serves → d = s.dev.touch src Reg.RST_PART_RESET.off → d.resetSource src = some n → p < 8 →
    x = d.leaveIdle →
    exec (.rstPartReset src (BitVec.ofNat 32 (2 ^ p))) s = .next (s.withDev
      (((({ x with boot := { x.boot with causeClass := 2, causeSource := n } } : Dev).bump Fld.RST_COUNTS_partition 0 1).partReset
        p).answered src Reg.RST_PART_RESET.off (s.dev.writeStatus src Reg.RST_PART_RESET.off)))) ∧
  (∀ (s : State) d src n v k u x y, s.dev.serves → d = s.dev.touch src Reg.RST_BLOCK_RESET.off → d.resetSource src = some n →
    k = v.toNat / 256 % 16 → u = v.toNat % 256 → u < blockUnits k → x = d.leaveIdle →
    y = (({ x with boot := { x.boot with causeClass := 3, causeSource := n } } : Dev).bump Fld.RST_COUNTS_block 0 1).loseSides.blockWork
      k u →
    exec (.rstBlockReset src v) s = .next (s.withDev (({ y with regs := y.regs.clear 1 (blockRegs k u) } : Dev).answered src
      Reg.RST_BLOCK_RESET.off (s.dev.writeStatus src Reg.RST_BLOCK_RESET.off)))) ∧
  (∀ (s : State) d, s.dev = d → d.serves → d.fld Fld.RST_WDOG_enable 0 = 1 → 3 ≤ d.boot.phase →
    exec .fwWatchdog s = .next (s.withDev
      ((d.restart 3 1 6 (max d.now (d.boot.kick + 1000000 * d.fld Fld.RST_WDOG_timeout_ms 0))).bump Fld.RST_COUNTS_device 0 1))) ∧
  (∀ (s : State) d, s.dev.serves → d = s.dev.touch .gotik Reg.RST_WDOG_KICK.off →
    exec (.rstWdogKick .gotik) s = .next (s.withDev
      (({ d with boot := { d.boot with kick := d.now } } : Dev).answered .gotik Reg.RST_WDOG_KICK.off Sts.ok))) ∧
  (∀ (d : Dev) cls src t, (d.restart 3 cls src t).regs = d.regs.clear 3 everywhere ∧
    (d.restart 6 cls src t).regs = d.regs.clear 6 everywhere ∧ (d.restart 3 cls src t).sub = SubSt.start ∧
    (d.restart 3 cls src t).boot = BootSt.start t cls src ∧ (d.restart 3 cls src t).pwr = PwrSt.start t)

/-- Boot (R400, R404 to R407, R437, R438): each phase ends at its typical time after the anchor; a bad fuse word or the lack of an
image that verifies halts the device; a failing self-check puts it in FAULT. Each is reported on the console (R465).
Where the spec is silent it rests on the model's choices, log entries 87, 90 and 121. -/
def Obligations.BootRuns : Prop :=
  (∀ (s : State) d d1, s.dev = d → d.booting 0 → d1 = d.advanceTo (d.boot.anchor + 2000000) →
    exec (.bootPhase0 true) s = .next (s.withDev (d1.tagsDone.toPhase 1)) ∧
    exec (.bootPhase0 false) s = .next (s.withDev d1.halt)) ∧
  (∀ (d : Dev) n, d.toPhase n = { d with
    boot := { d.boot with phase := n }, pins := { d.pins with console := .progress n :: d.pins.console } }) ∧
  (∀ (d : Dev), d.halt = { d with
    boot := { d.boot with halted := true }, pins := { d.pins with console := .halted d.boot.phase :: d.pins.console } }) ∧
  (∀ (s : State) d d1, s.dev = d → d.booting 1 → d1 = d.advanceTo (d.boot.anchor + 60000000) →
    (s.nv.imageOk s.nv.slot0 → exec .bootPhase1 s = .next (s.withDev (d1.startGotik 0 s.nv.slot0))) ∧
    (s.nv.imageOk s.nv.slot0 = false → s.nv.imageOk s.nv.slot1 →
      exec .bootPhase1 s = .next (s.withDev (d1.startGotik 1 s.nv.slot1))) ∧
    (s.nv.imageOk s.nv.slot0 = false → s.nv.imageOk s.nv.slot1 = false →
      exec .bootPhase1 s = .next (s.withDev d1.halt))) ∧
  (∀ (d : Dev) slot img, (d.startGotik slot img).boot = { (d.extend 0 1 (sha256 img)).boot with
    slot := slot, imageDigest := sha256 img, securityVersion := leAt img 8 4, phase := 2, kick := (d.extend 0 1 (sha256 img)).now }) ∧
  (∀ (s : State) d d1 d2, s.dev = d → d.booting 2 → d1 = d.advanceTo (d.boot.anchor + 80000000) →
    d2 = (if s.nv.optionsOk then
        (((d1.extend 1 2 (sha256 s.nv.options.signed)).applyOptions s.nv s.nv.options.writes).extend 3 4
          (sha256 (leBytes 4 ((((d1.extend 1 2 (sha256 s.nv.options.signed)).applyOptions s.nv s.nv.options.writes).regs.get
            (Reg.FAB_DISC.at 0) Reg.FAB_DISC.reset)).toNat)))
      else { d1 with boot := { d1.boot with optionsDefault := true } }).measureRest s.nv →
    exec .bootPhase2 s = .next (s.withDev (d2.toPhase 3))) ∧
  (∀ (s : State) d d1 d2, s.dev = d → d.booting 3 → d1 = d.advanceTo (d.boot.anchor + 150000000) →
    d2 = (List.range 8).foldl (fun (d : Dev) p =>
      if d.domainWanted (32 + p) ∧ !d.pwr.on.testBit (32 + p) then
        ({ d with pwr := { d.pwr with on := d.pwr.on + 2 ^ (32 + p) } } : Dev).portOn p
      else d) d1 →
    exec (.bootPhase3 none) s = .next (s.withDev (d2.toPhase 4).settleDomains) ∧
    (∀ k u, exec (.bootPhase3 (some (k, u))) s = .next (s.withDev (d2.deviceFault 3 k u)))) ∧
  (∀ (s : State) d d1 d2 d3, s.dev = d → d.booting 4 → (d.pwr.state = .run ∨ d.pwr.state = .idle) → d1 = d.advanceTo (d.boot.anchor + 1200000000) →
    d2 = (d1.setMemWays (d1.fld Fld.RST_FULL_SERVICE_full_ways 0)).setFld Fld.MEM_PREFETCH_MODE_mode 0 0 →
    d3 = ({ d2 with boot := { d2.boot with dramOpen := true } } : Dev).performHeld →
    exec (.dramTrainingEnd none) s = .next (s.withDev ((d3.toPhase 5).settleWalls.retryBlocks.serveHeld s.nv)) ∧
    (∀ k u, exec (.dramTrainingEnd (some (k, u))) s = .next (s.withDev ((d1.deviceFault 4 k u).serveHeld s.nv)))) ∧
  (∀ (d : Dev) ph k u, d.sub.cmds = [] → (d.deviceFault ph k u).boot.phase = 6 ∧ (d.deviceFault ph k u).sub.heldSignals = [])

/-! ## Power states -/

/-- The power states (R415 to R427, R470): a write of a lower state is refused with STATE or BUSY or begins an entry; at W the state
takes hold; wake sources abandon an entry or start an exit, and the exits lead back to RUN.
Where the spec is silent it rests on the model's choices, log entries 92 to 95, 117 and 121. -/
def Obligations.PowerStatesChange : Prop :=
  (∀ (s : State) d x src i st, s.dev.serves → d = s.dev.touch src Reg.PWR_CTRL.off → (src = .gotik ∨ d.mayWrite src) →
    x = d.leaveIdle → (i = .pwrTargetSleep src ∧ st = .sleep) ∨ (i = .pwrTargetDeep src ∧ st = .deep) ∨ (i = .pwrTargetOff src ∧ st = .off) →
    (x.pwr.state ≠ .run ∨ x.pwr.entering.isSome →
      exec i s = .next (s.withDev ((x.powerError 3).answered src Reg.PWR_CTRL.off Sts.ok))) ∧
    (x.pwr.state = .run → x.pwr.entering = none → x.quiet = false →
      exec i s = .next (s.withDev ((x.powerError 1).answered src Reg.PWR_CTRL.off Sts.ok))) ∧
    (x.pwr.state = .run → x.pwr.entering = none → x.quiet → ∃ w, w ≤ x.now + 100000 ∧ x.now + 320 < w ∧
      exec i s = .next (s.withDev (({ x with
        freeCtr := x.freeCtr + 1, pwr := { x.pwr with entering := some (st, w) } } : Dev).answered src Reg.PWR_CTRL.off Sts.ok)))) ∧
  (∀ (s : State) d x src, s.dev.serves → d = s.dev.touch src Reg.PWR_CTRL.off → (src = .gotik ∨ d.mayWrite src) → x = d.leaveIdle →
    (x.pwr.entering.isSome → x.inLostWindow = false → exec (.pwrTargetRun src) s = .next (s.withDev
      ((({ x.drainCaches with pwr := { x.pwr with entering := none } } : Dev).powerError 2).answered src Reg.PWR_CTRL.off Sts.ok))) ∧
    (x.pwr.entering.isSome → x.inLostWindow →
      exec (.pwrTargetRun src) s = .next (s.withDev ((x.powerError 3).answered src Reg.PWR_CTRL.off Sts.ok))) ∧
    (x.pwr.entering = none → x.pwr.state = .sleep →
      exec (.pwrTargetRun src) s = .next (s.withDev ((x.startWake 8 0).answered src Reg.PWR_CTRL.off Sts.ok))) ∧
    (x.pwr.entering = none → x.pwr.state = .run →
      exec (.pwrTargetRun src) s = .next (s.withDev ((x.powerError 3).answered src Reg.PWR_CTRL.off Sts.ok)))) ∧
  (∀ (s : State) d w, s.dev = d → d.pwr.entering = some (.sleep, w) →
    ((d.advanceTo w).sleepNow.levels.find? (fun x => !wakeEdge x && (d.advanceTo w).sleepNow.wakes .sleep x)) = none →
    exec (.powerStateReached none) s = .next (s.withDev (d.advanceTo w).sleepNow)) ∧
  (∀ (s : State) d w, s.dev = d → d.pwr.entering = some (.off, w) → d.recPending = false → (d.advanceTo w).pins.wakeLow = false →
    exec (.powerStateReached none) s = .next (s.withDev (d.advanceTo w).offNow)) ∧
  (∀ (s : State) d, s.dev = d → d.pwr.entering = none → exec (.powerStateReached none) s = .next s) ∧
  (∀ (d : Dev), d.offNow.pwr.state = .off ∧ d.offNow.pwr.on = 0 ∧ d.offNow.tick.running = false ∧
    d.offNow.regs = d.regs.clear 5 everywhere ∧ (∀ nv, (d.deepNow nv).pwr.state = .deep ∧
      (d.deepNow nv).regs = d.regs.clear 4 everywhere ∧ (d.deepNow nv).pwr.retained = some (d.resumeSet nv))) ∧
  (∀ (s : State) d x, s.dev = d → d.serves → d.fld Fld.PWR_CTRL_auto_idle 0 = 1 → d.pwr.state = .run → d.pwr.entering = none →
    d.quiet → x = d.advanceTo (d.now + 1000 * d.fld Fld.PWR_CTRL_idle_us 0) →
    exec .autoIdle s = .next (s.withDev { x.loseSides with pwr := { x.pwr with state := .idle, since := x.now } })) ∧
  (∀ (s : State) d, s.dev = d → d.serves → d.pwr.state = .idle →
    exec .idleExit s = .next (s.withDev { d.loseSides with pwr := { d.pwr with state := .run, since := d.now } })) ∧
  (∀ (s : State) d x, s.dev = d → d.pins.powerGood → d.pwr.state = .sleep ∨ d.pwr.state = .deep → d.pwr.entering = none →
    d.fld Fld.PWR_WAKE_EN_wake_n 0 = 1 → x = { d with pins := { d.pins with wakeLow := true } } →
    exec (.wakeEvent .wakeN) s = .next (s.withDev (x.startWake 1 0))) ∧
  (∀ (d : Dev) cause rewake, d.pwr.waking = none → (d.startWake cause rewake).pwr = { d.pwr with waking := some d.now } ∧
    (d.pwr.state = .sleep → (d.startWake cause rewake).mem.tagInit = true) ∧
    (cause < 16 → (d.startWake cause rewake).fld Fld.PWR_WAKE_CAUSE_cause 0 = cause)) ∧
  (∀ (s : State) d t d1 d2 d3 d4 d5 up, s.dev = d → d.pwr.state = .sleep → d.pwr.waking = some t → d1 = d.advanceTo (t + 300000) →
    d2 = ({ d1 with
      mem := { d1.mem with tagInit := false }, boot := { d1.boot with dramOpen := decide (d1.boot.phase = 5) } } : Dev).loseSides →
    up = (List.range 48).filter (fun n => d2.domainWanted n) →
    d3 = { d2 with pwr := { d2.pwr with state := .run, since := d2.now, waking := none, on := sumN (up.map (2 ^ ·)) } } →
    d4 = (List.range 8).foldl (fun (d : Dev) p => if up.contains (32 + p) ∧ !d2.pwr.on.testBit (32 + p) then d.portOn p else d) d3 →
    d5 = (List.range 12).foldl (fun (d : Dev) w =>
      d.setWall w { d.wall w with current := d.effective w, changing := false, capping := false }) d4 →
    exec .sleepExit s = .next (s.withDev
      (((if d5.boot.dramOpen then d5.performHeld else d5).retryBlocks).serveHeld s.nv))) ∧
  (∀ (s : State) d t r, s.dev = d → d.pwr.state = .deep → d.pwr.waking = some t → d.pwr.retained = some r →
    (sha256 (if r.slot = 0 then s.nv.slot0 else s.nv.slot1) = r.digest →
      exec .deepExit s = .next (s.withDev ((d.outOfDeep r t).applyOptions s.nv r.options).restartTick)) ∧
    (sha256 (if r.slot = 0 then s.nv.slot0 else s.nv.slot1) ≠ r.digest →
      exec .deepExit s = .next (s.withDev ((d.restart 3 1 6 d.now).bump Fld.RST_COUNTS_device 0 1)))) ∧
  (∀ (d : Dev), d.restartTick.tick.lock = .acquiring ∧
    d.restartTick.tick.nextEdge = d.restartTick.tick.lastEdge + d.restartTick.period + d.restartTick.phaseNs) ∧
  (∀ (s : State) d n, s.dev = d → n = (d.fldW Fld.PWR_DEEP_TIMER_ao_cycles 0).toNat → n ≠ 0 →
    d.pwr.state = .sleep ∨ d.pwr.state = .deep →
    exec .deepTimer s = .next (s.withDev
      (((d.advanceTo (d.pwr.since + 40 * n)).setFld Fld.PWR_WAKE_PENDING_deep_timer 0 1).wakeBy .deepTimer))) ∧
  (∀ (s : State) d t n x, s.dev = d → d.serves → NMap.get? d.pwr.powering n = some t → n < 32 → x = d.advanceTo t →
    exec (.domainPowerOn n) s = .next (s.withDev { x with pwr := { x.pwr with
      on := if x.pwr.on.testBit n then x.pwr.on else x.pwr.on + 2 ^ n, powering := NMap.erase x.pwr.powering n } })) ∧
  (∀ (s : State) d c, s.dev = d → 110 ≤ c → d.pins.powerGood → d.pwr.state ≠ .off →
    exec (.thermalTrip c) s = .next (s.withDev { d.offNow with pins := { d.offNow.pins with tripped := true } })) ∧
  (∀ (s : State) c, c < 110 → exec (.thermalTrip c) s = .next s)

/-- DVFS and capping (R429 to R432, R461): a wall that changes reaches its effective point; the 1 ms mean moves every wall that can
move one point; over 650 W or from 100 °C every wall is forced to P7 until neither holds.
Where the spec is silent it rests on the model's choices, log entry 96. -/
def Obligations.WallsMove : Prop :=
  (∀ (s : State) d w x, s.dev = d → d.serves → w < 12 → x = d.wall w → x.changing →
    (x.capping = false → exec (.dvfsChange w) s = .next (s.withDev
      (d.setWall w { x with current := d.effective w, changing := false, capping := false }))) ∧
    (x.capping → exec (.dvfsChange w) s = .next (s.withDev
      (({ d with pwr := { d.pwr with lastMove := d.now } } : Dev).setWall w
        { x with current := d.effective w, changing := false, capping := false })))) ∧
  (∀ (s : State) d d1 d2 m v ws, s.dev = d → d.serves → (d.pwr.state = .run ∨ d.pwr.state = .idle) →
    d.pwr.walls.any (fun e => e.2.capping) = false → d1 = d.advanceTo (d.pwr.lastMove + 1000000) →
    d2 = { d1 with pwr := { d1.pwr with avgW := min m 1023, nowW := min m 1023 } } →
    min (1000 * d2.fld Fld.PWR_CAP_cap_w 0) (27 * v / 2) < 1000 * m →
    ws = (List.range 12).filter (fun w => d2.effective w < d2.fld Fld.PWR_WALL_floor w) → ws ≠ [] →
    exec (.powerCapMove m v) s = .next (s.withDev
      (let d3 := ws.foldl (fun (d : Dev) w => d.setWall w { d.wall w with cap := d.effective w + 1, capping := true }) d2
       let d4 := (({ d3 with pwr := { d3.pwr with lastMove := d3.now } } : Dev).settleWalls).bump Fld.PWR_CAP_STEPS_count 0 1
       { d4 with pwr := { d4.pwr with
          walls := d4.pwr.walls.map (fun e => (e.1, { e.2 with capping := e.2.capping && e.2.changing })) } }))) ∧
  (∀ (s : State) d d1 d2 m v ws, s.dev = d → d.serves → (d.pwr.state = .run ∨ d.pwr.state = .idle) →
    d.pwr.walls.any (fun e => e.2.capping) = false → d1 = d.advanceTo (d.pwr.lastMove + 1000000) →
    d2 = { d1 with pwr := { d1.pwr with avgW := min m 1023, nowW := min m 1023, capExceeded := false } } →
    100000 * m < 95 * min (1000 * d2.fld Fld.PWR_CAP_cap_w 0) (27 * v / 2) →
    ws = (List.range 12).filter (fun w => d2.fld Fld.PWR_WALL_target w < (d2.wall w).cap) → ws ≠ [] →
    exec (.powerCapMove m v) s = .next (s.withDev
      (let d3 := ws.foldl (fun (d : Dev) w => d.setWall w { d.wall w with cap := (d.wall w).cap - 1, capping := true }) d2
       let d4 := (({ d3 with pwr := { d3.pwr with lastMove := d3.now } } : Dev).settleWalls).bump Fld.PWR_CAP_STEPS_count 0 1
       { d4 with pwr := { d4.pwr with
          walls := d4.pwr.walls.map (fun e => (e.1, { e.2 with capping := e.2.capping && e.2.changing })) } }))) ∧
  (∀ (s : State) d m v, s.dev = d → d.serves → (d.pwr.state = .run ∨ d.pwr.state = .idle) →
    d.pwr.walls.any (fun e => e.2.capping) →
    exec (.powerCapMove m v) s = .next (s.withDev { d with pwr := { d.pwr with avgW := min m 1023, nowW := min m 1023 } })) ∧
  (∀ (s : State) d d1 m v, s.dev = d → d.serves → (d.pwr.state = .run ∨ d.pwr.state = .idle) →
    (List.range 12).all (fun w => !(d.effective w < d.fld Fld.PWR_WALL_floor w)) →
    min (1000 * d.fld Fld.PWR_CAP_cap_w 0) (27 * v / 2) < 1000 * m → d1 = d.advanceTo (d.pwr.lastMove + 10000000) →
    exec (.capExceeded m v) s = .next (s.withDev
      { d1 with pwr := { d1.pwr with avgW := min m 1023, nowW := min m 1023, capExceeded := true } })) ∧
  (∀ (s : State) d m c, s.dev = d → d.serves → 650 < m ∨ 100 ≤ c → d.pwr.forced = false → d.pwr.state = .run ∨ d.pwr.state = .idle →
    exec (.thermalForce m c) s = .next (s.withDev
      ((({ d with pwr := { d.pwr with avgW := min m 1023, nowW := min m 1023, forced := true } } : Dev).settleWalls).bump
        Fld.PWR_CAP_FORCED_count 0 1))) ∧
  (∀ (s : State) d m c, s.dev = d → d.serves → m ≤ 650 → c < 100 → d.pwr.forced →
    exec (.thermalForceRelease m c) s = .next (s.withDev
      ({ d with pwr := { d.pwr with avgW := min m 1023, nowW := min m 1023, forced := false } } : Dev).settleWalls)) ∧
  (∀ (d : Dev) w, d.pwr.forced → d.effective w = max (max (d.fld Fld.PWR_WALL_target w) (d.wall w).cap)
    (max (if d.boot.phase < 5 then 4 else 0) 7))

/-! ## Registers, recorder and counters -/

/-- Writes of set-up registers (R3, R6, R205, R207, R209, R272, R359): a write from a source that may write reaches its register,
any other one changes nothing and is answered AUTH_FAILED, by every row that is a write; and what lake, tags, attestation and boundary scan do (R440, R466).
Where the spec is silent it rests on the model's choices, log entries 49, 54, 91, 94, 102 and 123. -/
def Obligations.RegistersAct : Prop :=
  (∀ (s : State) src off width v d, s.dev = d → d.serves →
    (d.reach off width v = none → exec (.registerWrite src off width v) s = .next (s.withDev
      (d.answered src off (if d.mayWrite src then Sts.ok else Sts.authFailed)))) ∧
    (∀ r i new, d.reach off width v = some (r, i, new) → d.mayWriteReg src r.off = false →
      exec (.registerWrite src off width v) s = .next (s.withDev (d.answered src off Sts.authFailed))) ∧
    (∀ r i new, d.reach off width v = some (r, i, new) → d.mayWriteReg src r.off →
      exec (.registerWrite src off width v) s = .next (s.withDev
        ((d.leaveIdle.regWrite s.nv src r i off width new v).answered src off Sts.ok)))) ∧
  (∀ (s : State) src d i off v k h, s.dev = d → d.serves → (i, off) ∈ [
      (Instr.lakeMemWaysChange src v, Reg.MEM_LAKE_MEM_WAYS.off), (.cprCwinWrite src v, Reg.CPR_CWIN.off)
      , (.fabPCtrlMode src k v, Reg.FAB_P_CTRL.off), (.attestGo src, Reg.SEC_ATTEST_CTRL.off), (.recCtrlHold src h, Reg.REC_CTRL.off)
      , (.pmcCtrlFreeze src v, Reg.PMC_CTRL.off), (.pmcBwWindowWrite src v, Reg.PMC_BW_WINDOW.off)
      , (.tickSourceSelect src v, Reg.TICK_SOURCE.off), (.tickCommit src, Reg.TICK_COMMIT.off), (.poolcfgCommit src k, Reg.SEQ_P_COMMIT.off)
      , (.partcfgCommit src k, Reg.PAR_P_COMMIT.off), (.outgeomCommit src k, Reg.CMP_S_COMMIT.off), (.cmatrixCommit src k, Reg.CMP_S_COMMIT.off)
      , (.pwrTargetSleep src, Reg.PWR_CTRL.off), (.pwrTargetDeep src, Reg.PWR_CTRL.off), (.pwrTargetOff src, Reg.PWR_CTRL.off)
      , (.pwrTargetRun src, Reg.PWR_CTRL.off), (.rstDeviceReset src v, Reg.RST_DEVICE_RESET.off)
      , (.rstPartReset src v, Reg.RST_PART_RESET.off), (.rstBlockReset src v, Reg.RST_BLOCK_RESET.off)
      , (.rstWdogKick src, Reg.RST_WDOG_KICK.off)] →
    d.mayWriteReg src off = false → exec i s = .next (s.withDev (d.answered src off Sts.authFailed))) ∧
  (∀ (s : State) src v d, s.dev = d → d.serves → (src = .gotik ∨ d.mayWrite src) →
    exec (.lakeMemWaysChange src v) s = .next (s.withDev
      ((d.leaveIdle.setMemWays (v.toNat % 65536)).answered src Reg.MEM_LAKE_MEM_WAYS.off Sts.ok))) ∧
  (∀ (s : State) d, s.dev = d → d.serves → d.mem.tagInit →
    exec .tagInvalidation s = .next (s.withDev
      ((if d.boot.dramOpen then d.tagsDone.performHeld else d.tagsDone).serveHeld s.nv))) ∧
  (∀ (d : Dev), d.mem.tagInit → d.tagsDone.mem.lake = [] ∧ d.tagsDone.mem.side = [] ∧ d.tagsDone.mem.tagInit = false ∧
    d.tagsDone.mem.dram = d.mem.dram ∧ (∀ e ∈ d.tagsDone.bricks, e.2.pond = [] ∧ e.2.side = [])) ∧
  (∀ (s : State) a d k d1 r, s.dev = d → d.serves → d.fld Fld.MEM_PREFETCH_MODE_mode 0 = 1 → d.dramGate = .ok → k = a / 64 + 1 →
    (a / 64) ∈ d.mem.missed → d.inCwin (64 * k) = false → NMap.get? d.mem.lake k = none →
    (NMap.getD d.mem.side (sliceOf (64 * k)) []).any (fun x => x.line = k) = false →
    d1 = ({ d with mem := { d.mem with missed := d.mem.missed.filter (· ≠ a / 64) } } : Dev).moved Asker.none false (64 * k) 64 →
    r = pushSide (NMap.getD d.mem.side (sliceOf (64 * k)) []) ⟨k, d.mem.dram.read (64 * k) 64⟩ →
    exec (.lakePrefetch a none) s = .next (s.withDev
      ((d1.withSide (NMap.set d1.mem.side (sliceOf (64 * k)) r.1)).bump Fld.MEM_SIDE_DROPS_count 0 r.2))) ∧
  (∀ (s : State) a d, s.dev = d → d.serves → d.fld Fld.MEM_PREFETCH_MODE_mode 0 ≠ 1 → d.dramGate = .ok → (a / 64) ∈ d.mem.missed →
    exec (.lakePrefetch a none) s = .next (s.withDev
      { d with mem := { d.mem with missed := d.mem.missed.filter (· ≠ a / 64) } })) ∧
  (∀ (s : State) a d, s.dev = d → d.serves → (a / 64) ∉ d.mem.missed → exec (.lakePrefetch a none) s = .next s) ∧
  (∀ (s : State) a n d, s.dev = d → d.serves → (a / 64) ∉ (d.brick n).missed → exec (.lakePrefetch a (some n)) s = .next s) ∧
  (∀ (s : State) src v d size base side, s.dev.serves → d = s.dev.touch src Reg.CPR_CWIN.off → d.mayWrite src →
    d.fld Fld.CPR_CWIN_size_gib 0 = 0 → v.toNat / 65536 % 2 = 0 → size = v.toNat / 256 % 256 → base = v.toNat % 256 →
    1 ≤ size → size ≤ 144 → base ≤ 143 → side = d.fld Fld.CPR_SIDE_BASE_side_base 0 * 65536 →
    (base + size ≤ 144 → side + size * 2 ^ 24 ≤ dramSize → side + size * 2 ^ 24 ≤ base * 2 ^ 30 ∨ (base + size) * 2 ^ 30 ≤ side →
      exec (.cprCwinWrite src v) s = .next (s.withDev (((d.setFld Fld.CPR_CWIN_base_gib 0 (BitVec.ofNat 64 base)).setFld
        Fld.CPR_CWIN_size_gib 0 (BitVec.ofNat 64 size)).answered src Reg.CPR_CWIN.off Sts.ok))) ∧
    (144 < base + size → exec (.cprCwinWrite src v) s = .next (s.withDev
      ((d.setFld Fld.CPR_CWIN_cwin_error 0 1).answered src Reg.CPR_CWIN.off Sts.ok)))) ∧
  (∀ (s : State) src k v d x, s.dev.serves → d = s.dev.touch src Reg.FAB_P_CTRL.off → d.mayWrite src → k < 8 →
    x = d.regStore (Reg.FAB_P_CTRL.at k) 4 (v.setWidth 64) → (x.port k).powered →
    (x.port k).modeActive ≠ x.fld Fld.FAB_P_CTRL_mode k →
    exec (.fabPCtrlMode src k v) s = .next (s.withDev
      (((x.linkDown k).modPort k (fun p => { p with modeActive := x.fld Fld.FAB_P_CTRL_mode k })).answered src Reg.FAB_P_CTRL.off
        Sts.ok))) ∧
  (∀ (s : State) src d x, s.dev = d → d.serves → d.mayWrite src → x = d.leaveIdle → x.sec.attesting = none →
    exec (.attestGo src) s = .next (s.withDev { x with
      sec := { x.sec with attesting := some (x.reportHead s.nv), answer := some (src, Reg.SEC_ATTEST_CTRL.off, Sts.ok) } })) ∧
  (∀ (s : State) d h x, s.dev = d → d.serves → d.sec.attesting = some h →
    x = (List.range 224).foldl (fun (d : Dev) j => d.setFld Fld.SEC_REPORT_report j
      (BitVec.ofNat 64 (leAt (h ++ s.nv.signBlock h) (4 * j) 4))) d →
    exec .attestDone s = .next (s.withDev
      (({ x with sec := { x.sec with attesting := none } } : Dev).setFld Fld.SEC_STATUS_attest_done 0 1))) ∧
  (∀ (s : State) d g n, s.dev = d → d.serves → d.side = 0 → n < 2 ^ 64 → d.fab.inbound[n]? = some g →
    exec (.sharedOperationTimeout gotikRing (BitVec.ofNat 64 n)) s = .next (s.withDev
      ((d.advanceTo (g.2 + 1000 * d.fld Fld.FAB_OP_TIMEOUT_native_us 0)).serveHeld s.nv))) ∧
  (∀ (s : State) d ring n c t, s.dev = d → d.serves → ring < 1024 → d.cmd? ring n = some c → c.run = .shared t → d.side = 0 →
    exec (.sharedOperationTimeout ring n) s = .next (s.withDev
      ((d.advanceTo (t + 1000 * d.fld Fld.FAB_OP_TIMEOUT_native_us 0)).endCmd ring n Sts.partitioned 0 noUnit))) ∧
  (∀ (s : State) d cs, s.dev = d → d.live → d.fld Fld.SEC_STATUS_debug 0 = 0 →
    exec (.boundaryScan cs) s = .next (s.withDev { d with pins := { d.pins with tap := 0, tdo := none } })) ∧
  (∀ (s : State) d c, s.dev = d → d.live → d.fld Fld.SEC_STATUS_debug 0 ≠ 0 →
    exec (.boundaryScan [c]) s = .next (s.withDev (d.tapAt (if c.trstN then tapNext d.pins.tap c.tms else 0))))

/-- The recorder applies its accumulator in rounds that hold stops, windowed histograms gain an entry per period, pairs sample
each millisecond; counters freeze, bandwidth windows close, mirrors are written (R445 to R456).
Where the spec is silent it rests on the model's choices, log entry 101. -/
def Obligations.RecorderRuns : Prop :=
  (∀ (s : State) d d1, s.dev = d → d.serves → d.recPending → d.fld Fld.REC_CTRL_hold 0 = 0 →
    d1 = d.advanceTo (d.meter.lastRound + 10000) → exec .recorderRound s = .next (s.withDev d1.applyRound)) ∧
  (∀ (d : Dev), d.meter.ext = [] → ∀ b n, d.meter.bins = [(b, n)] → d.applyRound =
    (((d.bump Fld.REC_HIST_bin b n).setFld Fld.REC_SEQ_seq 0 ((d.bump Fld.REC_HIST_bin b n).fldW Fld.REC_SEQ_seq 0 + 2)).withMeter
      { d.meter with bins := [], ext := [], lastRound := d.now })) ∧
  (∀ (s : State) d, s.dev = d → d.serves → d.fld Fld.REC_CTRL_hold 0 = 1 → exec .recorderRound s = .next s) ∧
  (∀ (s : State) d d1 d2, s.dev = d → d.serves → d1 = d.advanceTo (d.meter.windowAt + 1000000 * d.fld Fld.REC_WINDOW_window_ms 0) →
    d2 = ((List.range 7).map (24 + ·) ++ (List.range 16).map (32 + ·)).foldl (fun (d : Dev) h => d.hist h (NMap.getD d.meter.window h 0)) d1 →
    exec .recorderWindowEnd s = .next (s.withDev { d2 with meter := { d2.meter with window := [], windowAt := d2.now } })) ∧
  (∀ (s : State) d d1 x v, s.dev = d → d.serves → d1 = d.advanceTo (d.meter.lastSample + 1000000) →
    ({ d1 with meter := { d1.meter with lastSample := d1.now } } : Dev).pairValue x = some v →
    exec (.extremesSample [x]) s = .next (s.withDev { d1 with meter := { d1.meter with
      lastSample := d1.now
      ext := NMap.set d1.meter.ext x.pair (min (NMap.getD d1.meter.ext x.pair (v, v)).1 v, max (NMap.getD d1.meter.ext x.pair (v, v)).2 v) } })) ∧
  (∀ (s : State) src d, s.dev.serves → d = s.dev.touch src Reg.REC_CTRL.off → d.mayWrite src → d.fld Fld.REC_CTRL_hold 0 = 0 →
    exec (.recCtrlHold src true) s = .next (s.withDev
      (({ d.setFld Fld.REC_CTRL_hold 0 1 with meter := { d.meter with holdAt := d.now } } : Dev).answered src Reg.REC_CTRL.off
        Sts.ok))) ∧
  (∀ (s : State) src d, s.dev.serves → d = s.dev.touch src Reg.REC_CTRL.off → d.mayWrite src →
    exec (.recCtrlHold src false) s = .next (s.withDev ((d.setFld Fld.REC_CTRL_hold 0 0).answered src Reg.REC_CTRL.off Sts.ok))) ∧
  (∀ (s : State) d, s.dev = d → d.serves → d.fld Fld.REC_CTRL_hold 0 = 1 →
    exec .holdExpiry s = .next (s.withDev
      (((d.advanceTo (d.meter.holdAt + 1000000)).setFld Fld.REC_CTRL_hold 0 0).setFld Fld.REC_STATUS_hold_expired 0 1))) ∧
  (∀ (s : State) src v d, s.dev.serves → d = s.dev.touch src Reg.PMC_CTRL.off → d.mayWrite src →
    exec (.pmcCtrlFreeze src v) s = .next (s.withDev
      ((d.regStore (Reg.PMC_CTRL.at 0) 4 (v.setWidth 64)).answered src Reg.PMC_CTRL.off Sts.ok))) ∧
  (∀ (d : Dev) e n a, d.fld Fld.PMC_CTRL_freeze 0 = 1 ∨ d.fld Fld.PMC_CTRL_enable 0 = 0 → d.count e n a = d) ∧
  (∀ (s : State) p d d1 d2, s.dev = d → d.serves → p < 8 →
    d1 = d.advanceTo (NMap.getD d.meter.bwAt p 0 + d.fld Fld.PMC_BW_WINDOW_window_ns 0) →
    d2 = ((d1.setFld Fld.PMC_BW_TX_tx_last p (BitVec.ofNat 64 (NMap.getD d1.meter.tx p 0))).setFld Fld.PMC_BW_RX_rx_last p
      (BitVec.ofNat 64 (NMap.getD d1.meter.rx p 0))).bump Fld.PMC_BW_SERIAL_window_serial p 1 →
    exec (.bwWindowClose p) s = .next (s.withDev { d2 with meter := { d2.meter with
      tx := NMap.erase d2.meter.tx p, rx := NMap.erase d2.meter.rx p, bwAt := NMap.set d2.meter.bwAt p d2.now } })) ∧
  (∀ (s : State) src v d x, s.dev.serves → d = s.dev.touch src Reg.PMC_BW_WINDOW.off → d.mayWrite src →
    x = d.regStore (Reg.PMC_BW_WINDOW.at 0) 4 (v.setWidth 64) →
    exec (.pmcBwWindowWrite src v) s = .next (s.withDev (({ x with meter := { x.meter with
      tx := [], rx := [], bwAt := (List.range 8).map (fun p => (p, x.now)) } } : Dev).answered src Reg.PMC_BW_WINDOW.off Sts.ok))) ∧
  (∀ (s : State) p d d1 d2, s.dev = d → d.serves → p < 8 → (d.fld Fld.PMC_USER_EN_user_en 0).testBit p →
    d.fld Fld.PMC_P_MIRROR_enable p = 1 → d.boot.phase = 5 →
    d1 = (d.advanceTo (NMap.getD d.meter.lastMirror p 0 + 1000 * d.fld Fld.PMC_MIRROR_PERIOD_period_us 0)).leaveIdle →
    d2 = { d1 with meter := { d1.meter with lastMirror := NMap.set d1.meter.lastMirror p d1.now } } →
    exec (.mirrorWrite p) s = .next (s.withDev (d2.putMirror p false)))

/-! ## Reset -/

/-- Right after power-on (R398, R400, R404, R411, R415, R473): phase 0 in RUN with every register at its Reset value, TICK_COUNT 0
on the FREE grid with the first edge at 1 ms, the lake all window, no ring, no object, and no command waiting. Fuses, flash and
the bytes of memory are the model's (log entries 4 and 5). -/
def Obligations.StateAtReset : Prop :=
  State.reset.pending = [] ∧ State.reset.dev.boot.phase = 0 ∧ State.reset.dev.pwr.state = .run ∧
  State.reset.dev.tick.lock = .free ∧ State.reset.dev.tick.nextEdge = 1000000 ∧ State.reset.dev.tickCount = 0 ∧
  State.reset.dev.memWays = 0xFFFF ∧ State.reset.dev.fld Fld.MEM_PREFETCH_MODE_mode 0 = 1 ∧
  (∀ w, w < 12 → (State.reset.dev.wall w).current = 4) ∧
  (∀ i, State.reset.dev.ring i = Ring.absent) ∧ State.reset.dev.sub.cmds = [] ∧ State.reset.dev.sub.entries = [] ∧
  (∀ off r, State.reset.dev.regs.get off r = BitVec.ofNat 64 r) ∧ State.reset.dev.boot.dramOpen = false
end

