-- ==== Sys2Proof/Laws/State.lean ====
section
/-! SUPPORT. What each named update of the device leaves alone, field by field. -/

namespace Sys2Proof.Machine

@[simp] theorem Dev.withLake_now (d : Dev) (x : NMap LakeLine) : (d.withLake x).now = d.now := rfl
@[simp] theorem Dev.withLake_freeCtr (d : Dev) (x : NMap LakeLine) : (d.withLake x).freeCtr = d.freeCtr := rfl
@[simp] theorem Dev.withLake_boot (d : Dev) (x : NMap LakeLine) : (d.withLake x).boot = d.boot := rfl
@[simp] theorem Dev.withLake_pwr (d : Dev) (x : NMap LakeLine) : (d.withLake x).pwr = d.pwr := rfl
@[simp] theorem Dev.withLake_pins (d : Dev) (x : NMap LakeLine) : (d.withLake x).pins = d.pins := rfl
@[simp] theorem Dev.withLake_tick (d : Dev) (x : NMap LakeLine) : (d.withLake x).tick = d.tick := rfl
@[simp] theorem Dev.withLake_regs (d : Dev) (x : NMap LakeLine) : (d.withLake x).regs = d.regs := rfl
@[simp] theorem Dev.withLake_bricks (d : Dev) (x : NMap LakeLine) : (d.withLake x).bricks = d.bricks := rfl
@[simp] theorem Dev.withLake_sub (d : Dev) (x : NMap LakeLine) : (d.withLake x).sub = d.sub := rfl
@[simp] theorem Dev.withLake_xlt (d : Dev) (x : NMap LakeLine) : (d.withLake x).xlt = d.xlt := rfl
@[simp] theorem Dev.withLake_par (d : Dev) (x : NMap LakeLine) : (d.withLake x).par = d.par := rfl
@[simp] theorem Dev.withLake_eng (d : Dev) (x : NMap LakeLine) : (d.withLake x).eng = d.eng := rfl
@[simp] theorem Dev.withLake_cmp (d : Dev) (x : NMap LakeLine) : (d.withLake x).cmp = d.cmp := rfl
@[simp] theorem Dev.withLake_seq (d : Dev) (x : NMap LakeLine) : (d.withLake x).seq = d.seq := rfl
@[simp] theorem Dev.withLake_fab (d : Dev) (x : NMap LakeLine) : (d.withLake x).fab = d.fab := rfl
@[simp] theorem Dev.withLake_sec (d : Dev) (x : NMap LakeLine) : (d.withLake x).sec = d.sec := rfl
@[simp] theorem Dev.withLake_meter (d : Dev) (x : NMap LakeLine) : (d.withLake x).meter = d.meter := rfl
@[simp] theorem Dev.withLake_mem_dram (d : Dev) (x : NMap LakeLine) : (d.withLake x).mem.dram = d.mem.dram := rfl
@[simp] theorem Dev.withLake_mem_window (d : Dev) (x : NMap LakeLine) : (d.withLake x).mem.window = d.mem.window := rfl
@[simp] theorem Dev.withLake_mem_lake (d : Dev) (x : NMap LakeLine) : (d.withLake x).mem.lake = x := rfl
@[simp] theorem Dev.withLake_mem_side (d : Dev) (x : NMap LakeLine) : (d.withLake x).mem.side = d.mem.side := rfl
@[simp] theorem Dev.withLake_mem_tagInit (d : Dev) (x : NMap LakeLine) : (d.withLake x).mem.tagInit = d.mem.tagInit := rfl
@[simp] theorem Dev.withLake_mem_missed (d : Dev) (x : NMap LakeLine) : (d.withLake x).mem.missed = d.mem.missed := rfl

@[simp] theorem Dev.withDram_now (d : Dev) (x : Store) : (d.withDram x).now = d.now := rfl
@[simp] theorem Dev.withDram_freeCtr (d : Dev) (x : Store) : (d.withDram x).freeCtr = d.freeCtr := rfl
@[simp] theorem Dev.withDram_boot (d : Dev) (x : Store) : (d.withDram x).boot = d.boot := rfl
@[simp] theorem Dev.withDram_pwr (d : Dev) (x : Store) : (d.withDram x).pwr = d.pwr := rfl
@[simp] theorem Dev.withDram_pins (d : Dev) (x : Store) : (d.withDram x).pins = d.pins := rfl
@[simp] theorem Dev.withDram_tick (d : Dev) (x : Store) : (d.withDram x).tick = d.tick := rfl
@[simp] theorem Dev.withDram_regs (d : Dev) (x : Store) : (d.withDram x).regs = d.regs := rfl
@[simp] theorem Dev.withDram_bricks (d : Dev) (x : Store) : (d.withDram x).bricks = d.bricks := rfl
@[simp] theorem Dev.withDram_sub (d : Dev) (x : Store) : (d.withDram x).sub = d.sub := rfl
@[simp] theorem Dev.withDram_xlt (d : Dev) (x : Store) : (d.withDram x).xlt = d.xlt := rfl
@[simp] theorem Dev.withDram_par (d : Dev) (x : Store) : (d.withDram x).par = d.par := rfl
@[simp] theorem Dev.withDram_eng (d : Dev) (x : Store) : (d.withDram x).eng = d.eng := rfl
@[simp] theorem Dev.withDram_cmp (d : Dev) (x : Store) : (d.withDram x).cmp = d.cmp := rfl
@[simp] theorem Dev.withDram_seq (d : Dev) (x : Store) : (d.withDram x).seq = d.seq := rfl
@[simp] theorem Dev.withDram_fab (d : Dev) (x : Store) : (d.withDram x).fab = d.fab := rfl
@[simp] theorem Dev.withDram_sec (d : Dev) (x : Store) : (d.withDram x).sec = d.sec := rfl
@[simp] theorem Dev.withDram_meter (d : Dev) (x : Store) : (d.withDram x).meter = d.meter := rfl
@[simp] theorem Dev.withDram_mem_dram (d : Dev) (x : Store) : (d.withDram x).mem.dram = x := rfl
@[simp] theorem Dev.withDram_mem_window (d : Dev) (x : Store) : (d.withDram x).mem.window = d.mem.window := rfl
@[simp] theorem Dev.withDram_mem_lake (d : Dev) (x : Store) : (d.withDram x).mem.lake = d.mem.lake := rfl
@[simp] theorem Dev.withDram_mem_side (d : Dev) (x : Store) : (d.withDram x).mem.side = d.mem.side := rfl
@[simp] theorem Dev.withDram_mem_tagInit (d : Dev) (x : Store) : (d.withDram x).mem.tagInit = d.mem.tagInit := rfl
@[simp] theorem Dev.withDram_mem_missed (d : Dev) (x : Store) : (d.withDram x).mem.missed = d.mem.missed := rfl

@[simp] theorem Dev.withWindow_now (d : Dev) (x : NMap Store) : (d.withWindow x).now = d.now := rfl
@[simp] theorem Dev.withWindow_freeCtr (d : Dev) (x : NMap Store) : (d.withWindow x).freeCtr = d.freeCtr := rfl
@[simp] theorem Dev.withWindow_boot (d : Dev) (x : NMap Store) : (d.withWindow x).boot = d.boot := rfl
@[simp] theorem Dev.withWindow_pwr (d : Dev) (x : NMap Store) : (d.withWindow x).pwr = d.pwr := rfl
@[simp] theorem Dev.withWindow_pins (d : Dev) (x : NMap Store) : (d.withWindow x).pins = d.pins := rfl
@[simp] theorem Dev.withWindow_tick (d : Dev) (x : NMap Store) : (d.withWindow x).tick = d.tick := rfl
@[simp] theorem Dev.withWindow_regs (d : Dev) (x : NMap Store) : (d.withWindow x).regs = d.regs := rfl
@[simp] theorem Dev.withWindow_bricks (d : Dev) (x : NMap Store) : (d.withWindow x).bricks = d.bricks := rfl
@[simp] theorem Dev.withWindow_sub (d : Dev) (x : NMap Store) : (d.withWindow x).sub = d.sub := rfl
@[simp] theorem Dev.withWindow_xlt (d : Dev) (x : NMap Store) : (d.withWindow x).xlt = d.xlt := rfl
@[simp] theorem Dev.withWindow_par (d : Dev) (x : NMap Store) : (d.withWindow x).par = d.par := rfl
@[simp] theorem Dev.withWindow_eng (d : Dev) (x : NMap Store) : (d.withWindow x).eng = d.eng := rfl
@[simp] theorem Dev.withWindow_cmp (d : Dev) (x : NMap Store) : (d.withWindow x).cmp = d.cmp := rfl
@[simp] theorem Dev.withWindow_seq (d : Dev) (x : NMap Store) : (d.withWindow x).seq = d.seq := rfl
@[simp] theorem Dev.withWindow_fab (d : Dev) (x : NMap Store) : (d.withWindow x).fab = d.fab := rfl
@[simp] theorem Dev.withWindow_sec (d : Dev) (x : NMap Store) : (d.withWindow x).sec = d.sec := rfl
@[simp] theorem Dev.withWindow_meter (d : Dev) (x : NMap Store) : (d.withWindow x).meter = d.meter := rfl
@[simp] theorem Dev.withWindow_mem_dram (d : Dev) (x : NMap Store) : (d.withWindow x).mem.dram = d.mem.dram := rfl
@[simp] theorem Dev.withWindow_mem_window (d : Dev) (x : NMap Store) : (d.withWindow x).mem.window = x := rfl
@[simp] theorem Dev.withWindow_mem_lake (d : Dev) (x : NMap Store) : (d.withWindow x).mem.lake = d.mem.lake := rfl
@[simp] theorem Dev.withWindow_mem_side (d : Dev) (x : NMap Store) : (d.withWindow x).mem.side = d.mem.side := rfl
@[simp] theorem Dev.withWindow_mem_tagInit (d : Dev) (x : NMap Store) : (d.withWindow x).mem.tagInit = d.mem.tagInit := rfl
@[simp] theorem Dev.withWindow_mem_missed (d : Dev) (x : NMap Store) : (d.withWindow x).mem.missed = d.mem.missed := rfl

@[simp] theorem Dev.withSide_now (d : Dev) (x : NMap (List SideLine)) : (d.withSide x).now = d.now := rfl
@[simp] theorem Dev.withSide_freeCtr (d : Dev) (x : NMap (List SideLine)) : (d.withSide x).freeCtr = d.freeCtr := rfl
@[simp] theorem Dev.withSide_boot (d : Dev) (x : NMap (List SideLine)) : (d.withSide x).boot = d.boot := rfl
@[simp] theorem Dev.withSide_pwr (d : Dev) (x : NMap (List SideLine)) : (d.withSide x).pwr = d.pwr := rfl
@[simp] theorem Dev.withSide_pins (d : Dev) (x : NMap (List SideLine)) : (d.withSide x).pins = d.pins := rfl
@[simp] theorem Dev.withSide_tick (d : Dev) (x : NMap (List SideLine)) : (d.withSide x).tick = d.tick := rfl
@[simp] theorem Dev.withSide_regs (d : Dev) (x : NMap (List SideLine)) : (d.withSide x).regs = d.regs := rfl
@[simp] theorem Dev.withSide_bricks (d : Dev) (x : NMap (List SideLine)) : (d.withSide x).bricks = d.bricks := rfl
@[simp] theorem Dev.withSide_sub (d : Dev) (x : NMap (List SideLine)) : (d.withSide x).sub = d.sub := rfl
@[simp] theorem Dev.withSide_xlt (d : Dev) (x : NMap (List SideLine)) : (d.withSide x).xlt = d.xlt := rfl
@[simp] theorem Dev.withSide_par (d : Dev) (x : NMap (List SideLine)) : (d.withSide x).par = d.par := rfl
@[simp] theorem Dev.withSide_eng (d : Dev) (x : NMap (List SideLine)) : (d.withSide x).eng = d.eng := rfl
@[simp] theorem Dev.withSide_cmp (d : Dev) (x : NMap (List SideLine)) : (d.withSide x).cmp = d.cmp := rfl
@[simp] theorem Dev.withSide_seq (d : Dev) (x : NMap (List SideLine)) : (d.withSide x).seq = d.seq := rfl
@[simp] theorem Dev.withSide_fab (d : Dev) (x : NMap (List SideLine)) : (d.withSide x).fab = d.fab := rfl
@[simp] theorem Dev.withSide_sec (d : Dev) (x : NMap (List SideLine)) : (d.withSide x).sec = d.sec := rfl
@[simp] theorem Dev.withSide_meter (d : Dev) (x : NMap (List SideLine)) : (d.withSide x).meter = d.meter := rfl
@[simp] theorem Dev.withSide_mem_dram (d : Dev) (x : NMap (List SideLine)) : (d.withSide x).mem.dram = d.mem.dram := rfl
@[simp] theorem Dev.withSide_mem_window (d : Dev) (x : NMap (List SideLine)) : (d.withSide x).mem.window = d.mem.window := rfl
@[simp] theorem Dev.withSide_mem_lake (d : Dev) (x : NMap (List SideLine)) : (d.withSide x).mem.lake = d.mem.lake := rfl
@[simp] theorem Dev.withSide_mem_side (d : Dev) (x : NMap (List SideLine)) : (d.withSide x).mem.side = x := rfl
@[simp] theorem Dev.withSide_mem_tagInit (d : Dev) (x : NMap (List SideLine)) : (d.withSide x).mem.tagInit = d.mem.tagInit := rfl
@[simp] theorem Dev.withSide_mem_missed (d : Dev) (x : NMap (List SideLine)) : (d.withSide x).mem.missed = d.mem.missed := rfl

@[simp] theorem Dev.withRings_now (d : Dev) (x : NMap Ring) : (d.withRings x).now = d.now := rfl
@[simp] theorem Dev.withRings_freeCtr (d : Dev) (x : NMap Ring) : (d.withRings x).freeCtr = d.freeCtr := rfl
@[simp] theorem Dev.withRings_boot (d : Dev) (x : NMap Ring) : (d.withRings x).boot = d.boot := rfl
@[simp] theorem Dev.withRings_pwr (d : Dev) (x : NMap Ring) : (d.withRings x).pwr = d.pwr := rfl
@[simp] theorem Dev.withRings_pins (d : Dev) (x : NMap Ring) : (d.withRings x).pins = d.pins := rfl
@[simp] theorem Dev.withRings_tick (d : Dev) (x : NMap Ring) : (d.withRings x).tick = d.tick := rfl
@[simp] theorem Dev.withRings_regs (d : Dev) (x : NMap Ring) : (d.withRings x).regs = d.regs := rfl
@[simp] theorem Dev.withRings_mem (d : Dev) (x : NMap Ring) : (d.withRings x).mem = d.mem := rfl
@[simp] theorem Dev.withRings_bricks (d : Dev) (x : NMap Ring) : (d.withRings x).bricks = d.bricks := rfl
@[simp] theorem Dev.withRings_xlt (d : Dev) (x : NMap Ring) : (d.withRings x).xlt = d.xlt := rfl
@[simp] theorem Dev.withRings_par (d : Dev) (x : NMap Ring) : (d.withRings x).par = d.par := rfl
@[simp] theorem Dev.withRings_eng (d : Dev) (x : NMap Ring) : (d.withRings x).eng = d.eng := rfl
@[simp] theorem Dev.withRings_cmp (d : Dev) (x : NMap Ring) : (d.withRings x).cmp = d.cmp := rfl
@[simp] theorem Dev.withRings_seq (d : Dev) (x : NMap Ring) : (d.withRings x).seq = d.seq := rfl
@[simp] theorem Dev.withRings_fab (d : Dev) (x : NMap Ring) : (d.withRings x).fab = d.fab := rfl
@[simp] theorem Dev.withRings_sec (d : Dev) (x : NMap Ring) : (d.withRings x).sec = d.sec := rfl
@[simp] theorem Dev.withRings_meter (d : Dev) (x : NMap Ring) : (d.withRings x).meter = d.meter := rfl
@[simp] theorem Dev.withRings_sub_rings (d : Dev) (x : NMap Ring) : (d.withRings x).sub.rings = x := rfl
@[simp] theorem Dev.withRings_sub_cmds (d : Dev) (x : NMap Ring) : (d.withRings x).sub.cmds = d.sub.cmds := rfl
@[simp] theorem Dev.withRings_sub_entries (d : Dev) (x : NMap Ring) : (d.withRings x).sub.entries = d.sub.entries := rfl
@[simp] theorem Dev.withRings_sub_freed (d : Dev) (x : NMap Ring) : (d.withRings x).sub.freed = d.sub.freed := rfl
@[simp] theorem Dev.withRings_sub_fresh (d : Dev) (x : NMap Ring) : (d.withRings x).sub.fresh = d.sub.fresh := rfl
@[simp] theorem Dev.withRings_sub_slots (d : Dev) (x : NMap Ring) : (d.withRings x).sub.slots = d.sub.slots := rfl
@[simp] theorem Dev.withRings_sub_parked (d : Dev) (x : NMap Ring) : (d.withRings x).sub.parked = d.sub.parked := rfl
@[simp] theorem Dev.withRings_sub_exports (d : Dev) (x : NMap Ring) : (d.withRings x).sub.exports = d.sub.exports := rfl
@[simp] theorem Dev.withRings_sub_heldSignals (d : Dev) (x : NMap Ring) : (d.withRings x).sub.heldSignals = d.sub.heldSignals := rfl
@[simp] theorem Dev.withRings_sub_heldEntries (d : Dev) (x : NMap Ring) : (d.withRings x).sub.heldEntries = d.sub.heldEntries := rfl
@[simp] theorem Dev.withRings_sub_regRefs (d : Dev) (x : NMap Ring) : (d.withRings x).sub.regRefs = d.sub.regRefs := rfl

@[simp] theorem Dev.withCmds_now (d : Dev) (x : List Cmd) : (d.withCmds x).now = d.now := rfl
@[simp] theorem Dev.withCmds_freeCtr (d : Dev) (x : List Cmd) : (d.withCmds x).freeCtr = d.freeCtr := rfl
@[simp] theorem Dev.withCmds_boot (d : Dev) (x : List Cmd) : (d.withCmds x).boot = d.boot := rfl
@[simp] theorem Dev.withCmds_pwr (d : Dev) (x : List Cmd) : (d.withCmds x).pwr = d.pwr := rfl
@[simp] theorem Dev.withCmds_pins (d : Dev) (x : List Cmd) : (d.withCmds x).pins = d.pins := rfl
@[simp] theorem Dev.withCmds_tick (d : Dev) (x : List Cmd) : (d.withCmds x).tick = d.tick := rfl
@[simp] theorem Dev.withCmds_regs (d : Dev) (x : List Cmd) : (d.withCmds x).regs = d.regs := rfl
@[simp] theorem Dev.withCmds_mem (d : Dev) (x : List Cmd) : (d.withCmds x).mem = d.mem := rfl
@[simp] theorem Dev.withCmds_bricks (d : Dev) (x : List Cmd) : (d.withCmds x).bricks = d.bricks := rfl
@[simp] theorem Dev.withCmds_xlt (d : Dev) (x : List Cmd) : (d.withCmds x).xlt = d.xlt := rfl
@[simp] theorem Dev.withCmds_par (d : Dev) (x : List Cmd) : (d.withCmds x).par = d.par := rfl
@[simp] theorem Dev.withCmds_eng (d : Dev) (x : List Cmd) : (d.withCmds x).eng = d.eng := rfl
@[simp] theorem Dev.withCmds_cmp (d : Dev) (x : List Cmd) : (d.withCmds x).cmp = d.cmp := rfl
@[simp] theorem Dev.withCmds_seq (d : Dev) (x : List Cmd) : (d.withCmds x).seq = d.seq := rfl
@[simp] theorem Dev.withCmds_fab (d : Dev) (x : List Cmd) : (d.withCmds x).fab = d.fab := rfl
@[simp] theorem Dev.withCmds_sec (d : Dev) (x : List Cmd) : (d.withCmds x).sec = d.sec := rfl
@[simp] theorem Dev.withCmds_meter (d : Dev) (x : List Cmd) : (d.withCmds x).meter = d.meter := rfl
@[simp] theorem Dev.withCmds_sub_rings (d : Dev) (x : List Cmd) : (d.withCmds x).sub.rings = d.sub.rings := rfl
@[simp] theorem Dev.withCmds_sub_cmds (d : Dev) (x : List Cmd) : (d.withCmds x).sub.cmds = x := rfl
@[simp] theorem Dev.withCmds_sub_entries (d : Dev) (x : List Cmd) : (d.withCmds x).sub.entries = d.sub.entries := rfl
@[simp] theorem Dev.withCmds_sub_freed (d : Dev) (x : List Cmd) : (d.withCmds x).sub.freed = d.sub.freed := rfl
@[simp] theorem Dev.withCmds_sub_fresh (d : Dev) (x : List Cmd) : (d.withCmds x).sub.fresh = d.sub.fresh := rfl
@[simp] theorem Dev.withCmds_sub_slots (d : Dev) (x : List Cmd) : (d.withCmds x).sub.slots = d.sub.slots := rfl
@[simp] theorem Dev.withCmds_sub_parked (d : Dev) (x : List Cmd) : (d.withCmds x).sub.parked = d.sub.parked := rfl
@[simp] theorem Dev.withCmds_sub_exports (d : Dev) (x : List Cmd) : (d.withCmds x).sub.exports = d.sub.exports := rfl
@[simp] theorem Dev.withCmds_sub_heldSignals (d : Dev) (x : List Cmd) : (d.withCmds x).sub.heldSignals = d.sub.heldSignals := rfl
@[simp] theorem Dev.withCmds_sub_heldEntries (d : Dev) (x : List Cmd) : (d.withCmds x).sub.heldEntries = d.sub.heldEntries := rfl
@[simp] theorem Dev.withCmds_sub_regRefs (d : Dev) (x : List Cmd) : (d.withCmds x).sub.regRefs = d.sub.regRefs := rfl

@[simp] theorem Dev.withEntries_now (d : Dev) (x : NMap Entry) : (d.withEntries x).now = d.now := rfl
@[simp] theorem Dev.withEntries_freeCtr (d : Dev) (x : NMap Entry) : (d.withEntries x).freeCtr = d.freeCtr := rfl
@[simp] theorem Dev.withEntries_boot (d : Dev) (x : NMap Entry) : (d.withEntries x).boot = d.boot := rfl
@[simp] theorem Dev.withEntries_pwr (d : Dev) (x : NMap Entry) : (d.withEntries x).pwr = d.pwr := rfl
@[simp] theorem Dev.withEntries_pins (d : Dev) (x : NMap Entry) : (d.withEntries x).pins = d.pins := rfl
@[simp] theorem Dev.withEntries_tick (d : Dev) (x : NMap Entry) : (d.withEntries x).tick = d.tick := rfl
@[simp] theorem Dev.withEntries_regs (d : Dev) (x : NMap Entry) : (d.withEntries x).regs = d.regs := rfl
@[simp] theorem Dev.withEntries_mem (d : Dev) (x : NMap Entry) : (d.withEntries x).mem = d.mem := rfl
@[simp] theorem Dev.withEntries_bricks (d : Dev) (x : NMap Entry) : (d.withEntries x).bricks = d.bricks := rfl
@[simp] theorem Dev.withEntries_xlt (d : Dev) (x : NMap Entry) : (d.withEntries x).xlt = d.xlt := rfl
@[simp] theorem Dev.withEntries_par (d : Dev) (x : NMap Entry) : (d.withEntries x).par = d.par := rfl
@[simp] theorem Dev.withEntries_eng (d : Dev) (x : NMap Entry) : (d.withEntries x).eng = d.eng := rfl
@[simp] theorem Dev.withEntries_cmp (d : Dev) (x : NMap Entry) : (d.withEntries x).cmp = d.cmp := rfl
@[simp] theorem Dev.withEntries_seq (d : Dev) (x : NMap Entry) : (d.withEntries x).seq = d.seq := rfl
@[simp] theorem Dev.withEntries_fab (d : Dev) (x : NMap Entry) : (d.withEntries x).fab = d.fab := rfl
@[simp] theorem Dev.withEntries_sec (d : Dev) (x : NMap Entry) : (d.withEntries x).sec = d.sec := rfl
@[simp] theorem Dev.withEntries_meter (d : Dev) (x : NMap Entry) : (d.withEntries x).meter = d.meter := rfl
@[simp] theorem Dev.withEntries_sub_rings (d : Dev) (x : NMap Entry) : (d.withEntries x).sub.rings = d.sub.rings := rfl
@[simp] theorem Dev.withEntries_sub_cmds (d : Dev) (x : NMap Entry) : (d.withEntries x).sub.cmds = d.sub.cmds := rfl
@[simp] theorem Dev.withEntries_sub_entries (d : Dev) (x : NMap Entry) : (d.withEntries x).sub.entries = x := rfl
@[simp] theorem Dev.withEntries_sub_freed (d : Dev) (x : NMap Entry) : (d.withEntries x).sub.freed = d.sub.freed := rfl
@[simp] theorem Dev.withEntries_sub_fresh (d : Dev) (x : NMap Entry) : (d.withEntries x).sub.fresh = d.sub.fresh := rfl
@[simp] theorem Dev.withEntries_sub_slots (d : Dev) (x : NMap Entry) : (d.withEntries x).sub.slots = d.sub.slots := rfl
@[simp] theorem Dev.withEntries_sub_parked (d : Dev) (x : NMap Entry) : (d.withEntries x).sub.parked = d.sub.parked := rfl
@[simp] theorem Dev.withEntries_sub_exports (d : Dev) (x : NMap Entry) : (d.withEntries x).sub.exports = d.sub.exports := rfl
@[simp] theorem Dev.withEntries_sub_heldSignals (d : Dev) (x : NMap Entry) : (d.withEntries x).sub.heldSignals = d.sub.heldSignals := rfl
@[simp] theorem Dev.withEntries_sub_heldEntries (d : Dev) (x : NMap Entry) : (d.withEntries x).sub.heldEntries = d.sub.heldEntries := rfl
@[simp] theorem Dev.withEntries_sub_regRefs (d : Dev) (x : NMap Entry) : (d.withEntries x).sub.regRefs = d.sub.regRefs := rfl

@[simp] theorem Dev.withWatch_now (d : Dev) (x y : List (Nat × Wide)) : (d.withWatch x y).now = d.now := rfl
@[simp] theorem Dev.withWatch_freeCtr (d : Dev) (x y : List (Nat × Wide)) : (d.withWatch x y).freeCtr = d.freeCtr := rfl
@[simp] theorem Dev.withWatch_boot (d : Dev) (x y : List (Nat × Wide)) : (d.withWatch x y).boot = d.boot := rfl
@[simp] theorem Dev.withWatch_pwr (d : Dev) (x y : List (Nat × Wide)) : (d.withWatch x y).pwr = d.pwr := rfl
@[simp] theorem Dev.withWatch_pins (d : Dev) (x y : List (Nat × Wide)) : (d.withWatch x y).pins = d.pins := rfl
@[simp] theorem Dev.withWatch_tick (d : Dev) (x y : List (Nat × Wide)) : (d.withWatch x y).tick = d.tick := rfl
@[simp] theorem Dev.withWatch_regs (d : Dev) (x y : List (Nat × Wide)) : (d.withWatch x y).regs = d.regs := rfl
@[simp] theorem Dev.withWatch_mem (d : Dev) (x y : List (Nat × Wide)) : (d.withWatch x y).mem = d.mem := rfl
@[simp] theorem Dev.withWatch_bricks (d : Dev) (x y : List (Nat × Wide)) : (d.withWatch x y).bricks = d.bricks := rfl
@[simp] theorem Dev.withWatch_xlt (d : Dev) (x y : List (Nat × Wide)) : (d.withWatch x y).xlt = d.xlt := rfl
@[simp] theorem Dev.withWatch_par (d : Dev) (x y : List (Nat × Wide)) : (d.withWatch x y).par = d.par := rfl
@[simp] theorem Dev.withWatch_eng (d : Dev) (x y : List (Nat × Wide)) : (d.withWatch x y).eng = d.eng := rfl
@[simp] theorem Dev.withWatch_cmp (d : Dev) (x y : List (Nat × Wide)) : (d.withWatch x y).cmp = d.cmp := rfl
@[simp] theorem Dev.withWatch_seq (d : Dev) (x y : List (Nat × Wide)) : (d.withWatch x y).seq = d.seq := rfl
@[simp] theorem Dev.withWatch_fab (d : Dev) (x y : List (Nat × Wide)) : (d.withWatch x y).fab = d.fab := rfl
@[simp] theorem Dev.withWatch_sec (d : Dev) (x y : List (Nat × Wide)) : (d.withWatch x y).sec = d.sec := rfl
@[simp] theorem Dev.withWatch_meter (d : Dev) (x y : List (Nat × Wide)) : (d.withWatch x y).meter = d.meter := rfl
@[simp] theorem Dev.withWatch_sub_rings (d : Dev) (x y : List (Nat × Wide)) : (d.withWatch x y).sub.rings = d.sub.rings := rfl
@[simp] theorem Dev.withWatch_sub_cmds (d : Dev) (x y : List (Nat × Wide)) : (d.withWatch x y).sub.cmds = d.sub.cmds := rfl
@[simp] theorem Dev.withWatch_sub_entries (d : Dev) (x y : List (Nat × Wide)) : (d.withWatch x y).sub.entries = d.sub.entries := rfl
@[simp] theorem Dev.withWatch_sub_freed (d : Dev) (x y : List (Nat × Wide)) : (d.withWatch x y).sub.freed = d.sub.freed := rfl
@[simp] theorem Dev.withWatch_sub_fresh (d : Dev) (x y : List (Nat × Wide)) : (d.withWatch x y).sub.fresh = d.sub.fresh := rfl
@[simp] theorem Dev.withWatch_sub_exports (d : Dev) (x y : List (Nat × Wide)) : (d.withWatch x y).sub.exports = d.sub.exports := rfl
@[simp] theorem Dev.withWatch_sub_heldSignals (d : Dev) (x y : List (Nat × Wide)) : (d.withWatch x y).sub.heldSignals = d.sub.heldSignals := rfl
@[simp] theorem Dev.withWatch_sub_heldEntries (d : Dev) (x y : List (Nat × Wide)) : (d.withWatch x y).sub.heldEntries = d.sub.heldEntries := rfl
@[simp] theorem Dev.withWatch_sub_regRefs (d : Dev) (x y : List (Nat × Wide)) : (d.withWatch x y).sub.regRefs = d.sub.regRefs := rfl

@[simp] theorem Dev.withOps_now (d : Dev) (x : List FabOp) : (d.withOps x).now = d.now := rfl
@[simp] theorem Dev.withOps_freeCtr (d : Dev) (x : List FabOp) : (d.withOps x).freeCtr = d.freeCtr := rfl
@[simp] theorem Dev.withOps_boot (d : Dev) (x : List FabOp) : (d.withOps x).boot = d.boot := rfl
@[simp] theorem Dev.withOps_pwr (d : Dev) (x : List FabOp) : (d.withOps x).pwr = d.pwr := rfl
@[simp] theorem Dev.withOps_pins (d : Dev) (x : List FabOp) : (d.withOps x).pins = d.pins := rfl
@[simp] theorem Dev.withOps_tick (d : Dev) (x : List FabOp) : (d.withOps x).tick = d.tick := rfl
@[simp] theorem Dev.withOps_regs (d : Dev) (x : List FabOp) : (d.withOps x).regs = d.regs := rfl
@[simp] theorem Dev.withOps_mem (d : Dev) (x : List FabOp) : (d.withOps x).mem = d.mem := rfl
@[simp] theorem Dev.withOps_bricks (d : Dev) (x : List FabOp) : (d.withOps x).bricks = d.bricks := rfl
@[simp] theorem Dev.withOps_sub (d : Dev) (x : List FabOp) : (d.withOps x).sub = d.sub := rfl
@[simp] theorem Dev.withOps_xlt (d : Dev) (x : List FabOp) : (d.withOps x).xlt = d.xlt := rfl
@[simp] theorem Dev.withOps_par (d : Dev) (x : List FabOp) : (d.withOps x).par = d.par := rfl
@[simp] theorem Dev.withOps_eng (d : Dev) (x : List FabOp) : (d.withOps x).eng = d.eng := rfl
@[simp] theorem Dev.withOps_cmp (d : Dev) (x : List FabOp) : (d.withOps x).cmp = d.cmp := rfl
@[simp] theorem Dev.withOps_seq (d : Dev) (x : List FabOp) : (d.withOps x).seq = d.seq := rfl
@[simp] theorem Dev.withOps_sec (d : Dev) (x : List FabOp) : (d.withOps x).sec = d.sec := rfl
@[simp] theorem Dev.withOps_meter (d : Dev) (x : List FabOp) : (d.withOps x).meter = d.meter := rfl
@[simp] theorem Dev.withOps_fab_dom (d : Dev) (x : List FabOp) : (d.withOps x).fab.dom = d.fab.dom := rfl
@[simp] theorem Dev.withOps_fab_pendAt (d : Dev) (x : List FabOp) : (d.withOps x).fab.pendAt = d.fab.pendAt := rfl
@[simp] theorem Dev.withOps_fab_olds (d : Dev) (x : List FabOp) : (d.withOps x).fab.olds = d.fab.olds := rfl
@[simp] theorem Dev.withOps_fab_ports (d : Dev) (x : List FabOp) : (d.withOps x).fab.ports = d.fab.ports := rfl
@[simp] theorem Dev.withOps_fab_qps (d : Dev) (x : List FabOp) : (d.withOps x).fab.qps = d.fab.qps := rfl
@[simp] theorem Dev.withOps_fab_roceOut (d : Dev) (x : List FabOp) : (d.withOps x).fab.roceOut = d.fab.roceOut := rfl
@[simp] theorem Dev.withOps_fab_tunnelled (d : Dev) (x : List FabOp) : (d.withOps x).fab.tunnelled = d.fab.tunnelled := rfl
@[simp] theorem Dev.withOps_fab_ops (d : Dev) (x : List FabOp) : (d.withOps x).fab.ops = x := rfl
@[simp] theorem Dev.withOps_fab_slotGen (d : Dev) (x : List FabOp) : (d.withOps x).fab.slotGen = d.fab.slotGen := rfl
@[simp] theorem Dev.withOps_fab_held (d : Dev) (x : List FabOp) : (d.withOps x).fab.held = d.fab.held := rfl
@[simp] theorem Dev.withOps_fab_inbound (d : Dev) (x : List FabOp) : (d.withOps x).fab.inbound = d.fab.inbound := rfl

@[simp] theorem Dev.withSpaces_now (d : Dev) (x : NMap AsSt) : (d.withSpaces x).now = d.now := rfl
@[simp] theorem Dev.withSpaces_freeCtr (d : Dev) (x : NMap AsSt) : (d.withSpaces x).freeCtr = d.freeCtr := rfl
@[simp] theorem Dev.withSpaces_boot (d : Dev) (x : NMap AsSt) : (d.withSpaces x).boot = d.boot := rfl
@[simp] theorem Dev.withSpaces_pwr (d : Dev) (x : NMap AsSt) : (d.withSpaces x).pwr = d.pwr := rfl
@[simp] theorem Dev.withSpaces_pins (d : Dev) (x : NMap AsSt) : (d.withSpaces x).pins = d.pins := rfl
@[simp] theorem Dev.withSpaces_tick (d : Dev) (x : NMap AsSt) : (d.withSpaces x).tick = d.tick := rfl
@[simp] theorem Dev.withSpaces_regs (d : Dev) (x : NMap AsSt) : (d.withSpaces x).regs = d.regs := rfl
@[simp] theorem Dev.withSpaces_mem (d : Dev) (x : NMap AsSt) : (d.withSpaces x).mem = d.mem := rfl
@[simp] theorem Dev.withSpaces_bricks (d : Dev) (x : NMap AsSt) : (d.withSpaces x).bricks = d.bricks := rfl
@[simp] theorem Dev.withSpaces_sub (d : Dev) (x : NMap AsSt) : (d.withSpaces x).sub = d.sub := rfl
@[simp] theorem Dev.withSpaces_par (d : Dev) (x : NMap AsSt) : (d.withSpaces x).par = d.par := rfl
@[simp] theorem Dev.withSpaces_eng (d : Dev) (x : NMap AsSt) : (d.withSpaces x).eng = d.eng := rfl
@[simp] theorem Dev.withSpaces_cmp (d : Dev) (x : NMap AsSt) : (d.withSpaces x).cmp = d.cmp := rfl
@[simp] theorem Dev.withSpaces_seq (d : Dev) (x : NMap AsSt) : (d.withSpaces x).seq = d.seq := rfl
@[simp] theorem Dev.withSpaces_fab (d : Dev) (x : NMap AsSt) : (d.withSpaces x).fab = d.fab := rfl
@[simp] theorem Dev.withSpaces_sec (d : Dev) (x : NMap AsSt) : (d.withSpaces x).sec = d.sec := rfl
@[simp] theorem Dev.withSpaces_meter (d : Dev) (x : NMap AsSt) : (d.withSpaces x).meter = d.meter := rfl
@[simp] theorem Dev.withSpaces_xlt_spaces (d : Dev) (x : NMap AsSt) : (d.withSpaces x).xlt.spaces = x := rfl
@[simp] theorem Dev.withSpaces_xlt_cache (d : Dev) (x : NMap AsSt) : (d.withSpaces x).xlt.cache = d.xlt.cache := rfl
@[simp] theorem Dev.withSpaces_xlt_queue (d : Dev) (x : NMap AsSt) : (d.withSpaces x).xlt.queue = d.xlt.queue := rfl
@[simp] theorem Dev.withSpaces_xlt_running (d : Dev) (x : NMap AsSt) : (d.withSpaces x).xlt.running = d.xlt.running := rfl

@[simp] theorem Dev.setFld_now (d : Dev) (f : Fld) (i : Nat) (v : Wide) : (d.setFld f i v).now = d.now := rfl
@[simp] theorem Dev.setFld_freeCtr (d : Dev) (f : Fld) (i : Nat) (v : Wide) : (d.setFld f i v).freeCtr = d.freeCtr := rfl
@[simp] theorem Dev.setFld_boot (d : Dev) (f : Fld) (i : Nat) (v : Wide) : (d.setFld f i v).boot = d.boot := rfl
@[simp] theorem Dev.setFld_pwr (d : Dev) (f : Fld) (i : Nat) (v : Wide) : (d.setFld f i v).pwr = d.pwr := rfl
@[simp] theorem Dev.setFld_pins (d : Dev) (f : Fld) (i : Nat) (v : Wide) : (d.setFld f i v).pins = d.pins := rfl
@[simp] theorem Dev.setFld_tick (d : Dev) (f : Fld) (i : Nat) (v : Wide) : (d.setFld f i v).tick = d.tick := rfl
@[simp] theorem Dev.setFld_mem (d : Dev) (f : Fld) (i : Nat) (v : Wide) : (d.setFld f i v).mem = d.mem := rfl
@[simp] theorem Dev.setFld_bricks (d : Dev) (f : Fld) (i : Nat) (v : Wide) : (d.setFld f i v).bricks = d.bricks := rfl
@[simp] theorem Dev.setFld_sub (d : Dev) (f : Fld) (i : Nat) (v : Wide) : (d.setFld f i v).sub = d.sub := rfl
@[simp] theorem Dev.setFld_xlt (d : Dev) (f : Fld) (i : Nat) (v : Wide) : (d.setFld f i v).xlt = d.xlt := rfl
@[simp] theorem Dev.setFld_par (d : Dev) (f : Fld) (i : Nat) (v : Wide) : (d.setFld f i v).par = d.par := rfl
@[simp] theorem Dev.setFld_eng (d : Dev) (f : Fld) (i : Nat) (v : Wide) : (d.setFld f i v).eng = d.eng := rfl
@[simp] theorem Dev.setFld_cmp (d : Dev) (f : Fld) (i : Nat) (v : Wide) : (d.setFld f i v).cmp = d.cmp := rfl
@[simp] theorem Dev.setFld_seq (d : Dev) (f : Fld) (i : Nat) (v : Wide) : (d.setFld f i v).seq = d.seq := rfl
@[simp] theorem Dev.setFld_fab (d : Dev) (f : Fld) (i : Nat) (v : Wide) : (d.setFld f i v).fab = d.fab := rfl
@[simp] theorem Dev.setFld_sec (d : Dev) (f : Fld) (i : Nat) (v : Wide) : (d.setFld f i v).sec = d.sec := rfl
@[simp] theorem Dev.setFld_meter (d : Dev) (f : Fld) (i : Nat) (v : Wide) : (d.setFld f i v).meter = d.meter := rfl

@[simp] theorem Dev.bump_now (d : Dev) (f : Fld) (i n : Nat) : (d.bump f i n).now = d.now := rfl
@[simp] theorem Dev.bump_freeCtr (d : Dev) (f : Fld) (i n : Nat) : (d.bump f i n).freeCtr = d.freeCtr := rfl
@[simp] theorem Dev.bump_boot (d : Dev) (f : Fld) (i n : Nat) : (d.bump f i n).boot = d.boot := rfl
@[simp] theorem Dev.bump_pwr (d : Dev) (f : Fld) (i n : Nat) : (d.bump f i n).pwr = d.pwr := rfl
@[simp] theorem Dev.bump_pins (d : Dev) (f : Fld) (i n : Nat) : (d.bump f i n).pins = d.pins := rfl
@[simp] theorem Dev.bump_tick (d : Dev) (f : Fld) (i n : Nat) : (d.bump f i n).tick = d.tick := rfl
@[simp] theorem Dev.bump_mem (d : Dev) (f : Fld) (i n : Nat) : (d.bump f i n).mem = d.mem := rfl
@[simp] theorem Dev.bump_bricks (d : Dev) (f : Fld) (i n : Nat) : (d.bump f i n).bricks = d.bricks := rfl
@[simp] theorem Dev.bump_sub (d : Dev) (f : Fld) (i n : Nat) : (d.bump f i n).sub = d.sub := rfl
@[simp] theorem Dev.bump_xlt (d : Dev) (f : Fld) (i n : Nat) : (d.bump f i n).xlt = d.xlt := rfl
@[simp] theorem Dev.bump_par (d : Dev) (f : Fld) (i n : Nat) : (d.bump f i n).par = d.par := rfl
@[simp] theorem Dev.bump_eng (d : Dev) (f : Fld) (i n : Nat) : (d.bump f i n).eng = d.eng := rfl
@[simp] theorem Dev.bump_cmp (d : Dev) (f : Fld) (i n : Nat) : (d.bump f i n).cmp = d.cmp := rfl
@[simp] theorem Dev.bump_seq (d : Dev) (f : Fld) (i n : Nat) : (d.bump f i n).seq = d.seq := rfl
@[simp] theorem Dev.bump_fab (d : Dev) (f : Fld) (i n : Nat) : (d.bump f i n).fab = d.fab := rfl
@[simp] theorem Dev.bump_sec (d : Dev) (f : Fld) (i n : Nat) : (d.bump f i n).sec = d.sec := rfl
@[simp] theorem Dev.bump_meter (d : Dev) (f : Fld) (i n : Nat) : (d.bump f i n).meter = d.meter := rfl

@[simp] theorem Dev.setRing_now (d : Dev) (i : Nat) (r : Ring) : (d.setRing i r).now = d.now := rfl
@[simp] theorem Dev.setRing_freeCtr (d : Dev) (i : Nat) (r : Ring) : (d.setRing i r).freeCtr = d.freeCtr := rfl
@[simp] theorem Dev.setRing_boot (d : Dev) (i : Nat) (r : Ring) : (d.setRing i r).boot = d.boot := rfl
@[simp] theorem Dev.setRing_pwr (d : Dev) (i : Nat) (r : Ring) : (d.setRing i r).pwr = d.pwr := rfl
@[simp] theorem Dev.setRing_pins (d : Dev) (i : Nat) (r : Ring) : (d.setRing i r).pins = d.pins := rfl
@[simp] theorem Dev.setRing_tick (d : Dev) (i : Nat) (r : Ring) : (d.setRing i r).tick = d.tick := rfl
@[simp] theorem Dev.setRing_regs (d : Dev) (i : Nat) (r : Ring) : (d.setRing i r).regs = d.regs := rfl
@[simp] theorem Dev.setRing_mem (d : Dev) (i : Nat) (r : Ring) : (d.setRing i r).mem = d.mem := rfl
@[simp] theorem Dev.setRing_bricks (d : Dev) (i : Nat) (r : Ring) : (d.setRing i r).bricks = d.bricks := rfl
@[simp] theorem Dev.setRing_xlt (d : Dev) (i : Nat) (r : Ring) : (d.setRing i r).xlt = d.xlt := rfl
@[simp] theorem Dev.setRing_par (d : Dev) (i : Nat) (r : Ring) : (d.setRing i r).par = d.par := rfl
@[simp] theorem Dev.setRing_eng (d : Dev) (i : Nat) (r : Ring) : (d.setRing i r).eng = d.eng := rfl
@[simp] theorem Dev.setRing_cmp (d : Dev) (i : Nat) (r : Ring) : (d.setRing i r).cmp = d.cmp := rfl
@[simp] theorem Dev.setRing_seq (d : Dev) (i : Nat) (r : Ring) : (d.setRing i r).seq = d.seq := rfl
@[simp] theorem Dev.setRing_fab (d : Dev) (i : Nat) (r : Ring) : (d.setRing i r).fab = d.fab := rfl
@[simp] theorem Dev.setRing_sec (d : Dev) (i : Nat) (r : Ring) : (d.setRing i r).sec = d.sec := rfl
@[simp] theorem Dev.setRing_meter (d : Dev) (i : Nat) (r : Ring) : (d.setRing i r).meter = d.meter := rfl
@[simp] theorem Dev.setRing_sub_cmds (d : Dev) (i : Nat) (r : Ring) : (d.setRing i r).sub.cmds = d.sub.cmds := rfl
@[simp] theorem Dev.setRing_sub_entries (d : Dev) (i : Nat) (r : Ring) : (d.setRing i r).sub.entries = d.sub.entries := rfl
@[simp] theorem Dev.setRing_sub_freed (d : Dev) (i : Nat) (r : Ring) : (d.setRing i r).sub.freed = d.sub.freed := rfl
@[simp] theorem Dev.setRing_sub_fresh (d : Dev) (i : Nat) (r : Ring) : (d.setRing i r).sub.fresh = d.sub.fresh := rfl
@[simp] theorem Dev.setRing_sub_slots (d : Dev) (i : Nat) (r : Ring) : (d.setRing i r).sub.slots = d.sub.slots := rfl
@[simp] theorem Dev.setRing_sub_parked (d : Dev) (i : Nat) (r : Ring) : (d.setRing i r).sub.parked = d.sub.parked := rfl
@[simp] theorem Dev.setRing_sub_exports (d : Dev) (i : Nat) (r : Ring) : (d.setRing i r).sub.exports = d.sub.exports := rfl
@[simp] theorem Dev.setRing_sub_heldSignals (d : Dev) (i : Nat) (r : Ring) : (d.setRing i r).sub.heldSignals = d.sub.heldSignals := rfl
@[simp] theorem Dev.setRing_sub_heldEntries (d : Dev) (i : Nat) (r : Ring) : (d.setRing i r).sub.heldEntries = d.sub.heldEntries := rfl
@[simp] theorem Dev.setRing_sub_regRefs (d : Dev) (i : Nat) (r : Ring) : (d.setRing i r).sub.regRefs = d.sub.regRefs := rfl

@[simp] theorem Dev.modRing_now (d : Dev) (i : Nat) (f : Ring → Ring) : (d.modRing i f).now = d.now := rfl
@[simp] theorem Dev.modRing_freeCtr (d : Dev) (i : Nat) (f : Ring → Ring) : (d.modRing i f).freeCtr = d.freeCtr := rfl
@[simp] theorem Dev.modRing_boot (d : Dev) (i : Nat) (f : Ring → Ring) : (d.modRing i f).boot = d.boot := rfl
@[simp] theorem Dev.modRing_pwr (d : Dev) (i : Nat) (f : Ring → Ring) : (d.modRing i f).pwr = d.pwr := rfl
@[simp] theorem Dev.modRing_pins (d : Dev) (i : Nat) (f : Ring → Ring) : (d.modRing i f).pins = d.pins := rfl
@[simp] theorem Dev.modRing_tick (d : Dev) (i : Nat) (f : Ring → Ring) : (d.modRing i f).tick = d.tick := rfl
@[simp] theorem Dev.modRing_regs (d : Dev) (i : Nat) (f : Ring → Ring) : (d.modRing i f).regs = d.regs := rfl
@[simp] theorem Dev.modRing_mem (d : Dev) (i : Nat) (f : Ring → Ring) : (d.modRing i f).mem = d.mem := rfl
@[simp] theorem Dev.modRing_bricks (d : Dev) (i : Nat) (f : Ring → Ring) : (d.modRing i f).bricks = d.bricks := rfl
@[simp] theorem Dev.modRing_xlt (d : Dev) (i : Nat) (f : Ring → Ring) : (d.modRing i f).xlt = d.xlt := rfl
@[simp] theorem Dev.modRing_par (d : Dev) (i : Nat) (f : Ring → Ring) : (d.modRing i f).par = d.par := rfl
@[simp] theorem Dev.modRing_eng (d : Dev) (i : Nat) (f : Ring → Ring) : (d.modRing i f).eng = d.eng := rfl
@[simp] theorem Dev.modRing_cmp (d : Dev) (i : Nat) (f : Ring → Ring) : (d.modRing i f).cmp = d.cmp := rfl
@[simp] theorem Dev.modRing_seq (d : Dev) (i : Nat) (f : Ring → Ring) : (d.modRing i f).seq = d.seq := rfl
@[simp] theorem Dev.modRing_fab (d : Dev) (i : Nat) (f : Ring → Ring) : (d.modRing i f).fab = d.fab := rfl
@[simp] theorem Dev.modRing_sec (d : Dev) (i : Nat) (f : Ring → Ring) : (d.modRing i f).sec = d.sec := rfl
@[simp] theorem Dev.modRing_meter (d : Dev) (i : Nat) (f : Ring → Ring) : (d.modRing i f).meter = d.meter := rfl

@[simp] theorem Dev.modCmd_now (d : Dev) (i : Nat) (n : Wide) (f : Cmd → Cmd) : (d.modCmd i n f).now = d.now := rfl
@[simp] theorem Dev.modCmd_freeCtr (d : Dev) (i : Nat) (n : Wide) (f : Cmd → Cmd) : (d.modCmd i n f).freeCtr = d.freeCtr := rfl
@[simp] theorem Dev.modCmd_boot (d : Dev) (i : Nat) (n : Wide) (f : Cmd → Cmd) : (d.modCmd i n f).boot = d.boot := rfl
@[simp] theorem Dev.modCmd_pwr (d : Dev) (i : Nat) (n : Wide) (f : Cmd → Cmd) : (d.modCmd i n f).pwr = d.pwr := rfl
@[simp] theorem Dev.modCmd_pins (d : Dev) (i : Nat) (n : Wide) (f : Cmd → Cmd) : (d.modCmd i n f).pins = d.pins := rfl
@[simp] theorem Dev.modCmd_tick (d : Dev) (i : Nat) (n : Wide) (f : Cmd → Cmd) : (d.modCmd i n f).tick = d.tick := rfl
@[simp] theorem Dev.modCmd_regs (d : Dev) (i : Nat) (n : Wide) (f : Cmd → Cmd) : (d.modCmd i n f).regs = d.regs := rfl
@[simp] theorem Dev.modCmd_mem (d : Dev) (i : Nat) (n : Wide) (f : Cmd → Cmd) : (d.modCmd i n f).mem = d.mem := rfl
@[simp] theorem Dev.modCmd_bricks (d : Dev) (i : Nat) (n : Wide) (f : Cmd → Cmd) : (d.modCmd i n f).bricks = d.bricks := rfl
@[simp] theorem Dev.modCmd_xlt (d : Dev) (i : Nat) (n : Wide) (f : Cmd → Cmd) : (d.modCmd i n f).xlt = d.xlt := rfl
@[simp] theorem Dev.modCmd_par (d : Dev) (i : Nat) (n : Wide) (f : Cmd → Cmd) : (d.modCmd i n f).par = d.par := rfl
@[simp] theorem Dev.modCmd_eng (d : Dev) (i : Nat) (n : Wide) (f : Cmd → Cmd) : (d.modCmd i n f).eng = d.eng := rfl
@[simp] theorem Dev.modCmd_cmp (d : Dev) (i : Nat) (n : Wide) (f : Cmd → Cmd) : (d.modCmd i n f).cmp = d.cmp := rfl
@[simp] theorem Dev.modCmd_seq (d : Dev) (i : Nat) (n : Wide) (f : Cmd → Cmd) : (d.modCmd i n f).seq = d.seq := rfl
@[simp] theorem Dev.modCmd_fab (d : Dev) (i : Nat) (n : Wide) (f : Cmd → Cmd) : (d.modCmd i n f).fab = d.fab := rfl
@[simp] theorem Dev.modCmd_sec (d : Dev) (i : Nat) (n : Wide) (f : Cmd → Cmd) : (d.modCmd i n f).sec = d.sec := rfl
@[simp] theorem Dev.modCmd_meter (d : Dev) (i : Nat) (n : Wide) (f : Cmd → Cmd) : (d.modCmd i n f).meter = d.meter := rfl
@[simp] theorem Dev.modCmd_sub_rings (d : Dev) (i : Nat) (n : Wide) (f : Cmd → Cmd) : (d.modCmd i n f).sub.rings = d.sub.rings := rfl
@[simp] theorem Dev.modCmd_sub_entries (d : Dev) (i : Nat) (n : Wide) (f : Cmd → Cmd) : (d.modCmd i n f).sub.entries = d.sub.entries := rfl
@[simp] theorem Dev.modCmd_sub_freed (d : Dev) (i : Nat) (n : Wide) (f : Cmd → Cmd) : (d.modCmd i n f).sub.freed = d.sub.freed := rfl
@[simp] theorem Dev.modCmd_sub_fresh (d : Dev) (i : Nat) (n : Wide) (f : Cmd → Cmd) : (d.modCmd i n f).sub.fresh = d.sub.fresh := rfl
@[simp] theorem Dev.modCmd_sub_slots (d : Dev) (i : Nat) (n : Wide) (f : Cmd → Cmd) : (d.modCmd i n f).sub.slots = d.sub.slots := rfl
@[simp] theorem Dev.modCmd_sub_parked (d : Dev) (i : Nat) (n : Wide) (f : Cmd → Cmd) : (d.modCmd i n f).sub.parked = d.sub.parked := rfl
@[simp] theorem Dev.modCmd_sub_exports (d : Dev) (i : Nat) (n : Wide) (f : Cmd → Cmd) : (d.modCmd i n f).sub.exports = d.sub.exports := rfl
@[simp] theorem Dev.modCmd_sub_heldSignals (d : Dev) (i : Nat) (n : Wide) (f : Cmd → Cmd) : (d.modCmd i n f).sub.heldSignals = d.sub.heldSignals := rfl
@[simp] theorem Dev.modCmd_sub_heldEntries (d : Dev) (i : Nat) (n : Wide) (f : Cmd → Cmd) : (d.modCmd i n f).sub.heldEntries = d.sub.heldEntries := rfl
@[simp] theorem Dev.modCmd_sub_regRefs (d : Dev) (i : Nat) (n : Wide) (f : Cmd → Cmd) : (d.modCmd i n f).sub.regRefs = d.sub.regRefs := rfl

@[simp] theorem Dev.setRun_now (d : Dev) (i : Nat) (n : Wide) (x : RunState) : (d.setRun i n x).now = d.now := rfl
@[simp] theorem Dev.setRun_freeCtr (d : Dev) (i : Nat) (n : Wide) (x : RunState) : (d.setRun i n x).freeCtr = d.freeCtr := rfl
@[simp] theorem Dev.setRun_boot (d : Dev) (i : Nat) (n : Wide) (x : RunState) : (d.setRun i n x).boot = d.boot := rfl
@[simp] theorem Dev.setRun_pwr (d : Dev) (i : Nat) (n : Wide) (x : RunState) : (d.setRun i n x).pwr = d.pwr := rfl
@[simp] theorem Dev.setRun_pins (d : Dev) (i : Nat) (n : Wide) (x : RunState) : (d.setRun i n x).pins = d.pins := rfl
@[simp] theorem Dev.setRun_tick (d : Dev) (i : Nat) (n : Wide) (x : RunState) : (d.setRun i n x).tick = d.tick := rfl
@[simp] theorem Dev.setRun_regs (d : Dev) (i : Nat) (n : Wide) (x : RunState) : (d.setRun i n x).regs = d.regs := rfl
@[simp] theorem Dev.setRun_mem (d : Dev) (i : Nat) (n : Wide) (x : RunState) : (d.setRun i n x).mem = d.mem := rfl
@[simp] theorem Dev.setRun_bricks (d : Dev) (i : Nat) (n : Wide) (x : RunState) : (d.setRun i n x).bricks = d.bricks := rfl
@[simp] theorem Dev.setRun_xlt (d : Dev) (i : Nat) (n : Wide) (x : RunState) : (d.setRun i n x).xlt = d.xlt := rfl
@[simp] theorem Dev.setRun_par (d : Dev) (i : Nat) (n : Wide) (x : RunState) : (d.setRun i n x).par = d.par := rfl
@[simp] theorem Dev.setRun_eng (d : Dev) (i : Nat) (n : Wide) (x : RunState) : (d.setRun i n x).eng = d.eng := rfl
@[simp] theorem Dev.setRun_cmp (d : Dev) (i : Nat) (n : Wide) (x : RunState) : (d.setRun i n x).cmp = d.cmp := rfl
@[simp] theorem Dev.setRun_seq (d : Dev) (i : Nat) (n : Wide) (x : RunState) : (d.setRun i n x).seq = d.seq := rfl
@[simp] theorem Dev.setRun_fab (d : Dev) (i : Nat) (n : Wide) (x : RunState) : (d.setRun i n x).fab = d.fab := rfl
@[simp] theorem Dev.setRun_sec (d : Dev) (i : Nat) (n : Wide) (x : RunState) : (d.setRun i n x).sec = d.sec := rfl
@[simp] theorem Dev.setRun_meter (d : Dev) (i : Nat) (n : Wide) (x : RunState) : (d.setRun i n x).meter = d.meter := rfl
@[simp] theorem Dev.setRun_sub_rings (d : Dev) (i : Nat) (n : Wide) (x : RunState) : (d.setRun i n x).sub.rings = d.sub.rings := rfl
@[simp] theorem Dev.setRun_sub_entries (d : Dev) (i : Nat) (n : Wide) (x : RunState) : (d.setRun i n x).sub.entries = d.sub.entries := rfl
@[simp] theorem Dev.setRun_sub_freed (d : Dev) (i : Nat) (n : Wide) (x : RunState) : (d.setRun i n x).sub.freed = d.sub.freed := rfl
@[simp] theorem Dev.setRun_sub_fresh (d : Dev) (i : Nat) (n : Wide) (x : RunState) : (d.setRun i n x).sub.fresh = d.sub.fresh := rfl
@[simp] theorem Dev.setRun_sub_slots (d : Dev) (i : Nat) (n : Wide) (x : RunState) : (d.setRun i n x).sub.slots = d.sub.slots := rfl
@[simp] theorem Dev.setRun_sub_parked (d : Dev) (i : Nat) (n : Wide) (x : RunState) : (d.setRun i n x).sub.parked = d.sub.parked := rfl
@[simp] theorem Dev.setRun_sub_exports (d : Dev) (i : Nat) (n : Wide) (x : RunState) : (d.setRun i n x).sub.exports = d.sub.exports := rfl
@[simp] theorem Dev.setRun_sub_heldSignals (d : Dev) (i : Nat) (n : Wide) (x : RunState) : (d.setRun i n x).sub.heldSignals = d.sub.heldSignals := rfl
@[simp] theorem Dev.setRun_sub_heldEntries (d : Dev) (i : Nat) (n : Wide) (x : RunState) : (d.setRun i n x).sub.heldEntries = d.sub.heldEntries := rfl
@[simp] theorem Dev.setRun_sub_regRefs (d : Dev) (i : Nat) (n : Wide) (x : RunState) : (d.setRun i n x).sub.regRefs = d.sub.regRefs := rfl

@[simp] theorem Dev.setEntry_now (d : Dev) (i : Nat) (e : Entry) : (d.setEntry i e).now = d.now := rfl
@[simp] theorem Dev.setEntry_freeCtr (d : Dev) (i : Nat) (e : Entry) : (d.setEntry i e).freeCtr = d.freeCtr := rfl
@[simp] theorem Dev.setEntry_boot (d : Dev) (i : Nat) (e : Entry) : (d.setEntry i e).boot = d.boot := rfl
@[simp] theorem Dev.setEntry_pwr (d : Dev) (i : Nat) (e : Entry) : (d.setEntry i e).pwr = d.pwr := rfl
@[simp] theorem Dev.setEntry_pins (d : Dev) (i : Nat) (e : Entry) : (d.setEntry i e).pins = d.pins := rfl
@[simp] theorem Dev.setEntry_tick (d : Dev) (i : Nat) (e : Entry) : (d.setEntry i e).tick = d.tick := rfl
@[simp] theorem Dev.setEntry_regs (d : Dev) (i : Nat) (e : Entry) : (d.setEntry i e).regs = d.regs := rfl
@[simp] theorem Dev.setEntry_mem (d : Dev) (i : Nat) (e : Entry) : (d.setEntry i e).mem = d.mem := rfl
@[simp] theorem Dev.setEntry_bricks (d : Dev) (i : Nat) (e : Entry) : (d.setEntry i e).bricks = d.bricks := rfl
@[simp] theorem Dev.setEntry_xlt (d : Dev) (i : Nat) (e : Entry) : (d.setEntry i e).xlt = d.xlt := rfl
@[simp] theorem Dev.setEntry_par (d : Dev) (i : Nat) (e : Entry) : (d.setEntry i e).par = d.par := rfl
@[simp] theorem Dev.setEntry_eng (d : Dev) (i : Nat) (e : Entry) : (d.setEntry i e).eng = d.eng := rfl
@[simp] theorem Dev.setEntry_cmp (d : Dev) (i : Nat) (e : Entry) : (d.setEntry i e).cmp = d.cmp := rfl
@[simp] theorem Dev.setEntry_seq (d : Dev) (i : Nat) (e : Entry) : (d.setEntry i e).seq = d.seq := rfl
@[simp] theorem Dev.setEntry_fab (d : Dev) (i : Nat) (e : Entry) : (d.setEntry i e).fab = d.fab := rfl
@[simp] theorem Dev.setEntry_sec (d : Dev) (i : Nat) (e : Entry) : (d.setEntry i e).sec = d.sec := rfl
@[simp] theorem Dev.setEntry_meter (d : Dev) (i : Nat) (e : Entry) : (d.setEntry i e).meter = d.meter := rfl
@[simp] theorem Dev.setEntry_sub_rings (d : Dev) (i : Nat) (e : Entry) : (d.setEntry i e).sub.rings = d.sub.rings := rfl
@[simp] theorem Dev.setEntry_sub_cmds (d : Dev) (i : Nat) (e : Entry) : (d.setEntry i e).sub.cmds = d.sub.cmds := rfl
@[simp] theorem Dev.setEntry_sub_freed (d : Dev) (i : Nat) (e : Entry) : (d.setEntry i e).sub.freed = d.sub.freed := rfl
@[simp] theorem Dev.setEntry_sub_fresh (d : Dev) (i : Nat) (e : Entry) : (d.setEntry i e).sub.fresh = d.sub.fresh := rfl
@[simp] theorem Dev.setEntry_sub_slots (d : Dev) (i : Nat) (e : Entry) : (d.setEntry i e).sub.slots = d.sub.slots := rfl
@[simp] theorem Dev.setEntry_sub_parked (d : Dev) (i : Nat) (e : Entry) : (d.setEntry i e).sub.parked = d.sub.parked := rfl
@[simp] theorem Dev.setEntry_sub_exports (d : Dev) (i : Nat) (e : Entry) : (d.setEntry i e).sub.exports = d.sub.exports := rfl
@[simp] theorem Dev.setEntry_sub_heldSignals (d : Dev) (i : Nat) (e : Entry) : (d.setEntry i e).sub.heldSignals = d.sub.heldSignals := rfl
@[simp] theorem Dev.setEntry_sub_heldEntries (d : Dev) (i : Nat) (e : Entry) : (d.setEntry i e).sub.heldEntries = d.sub.heldEntries := rfl
@[simp] theorem Dev.setEntry_sub_regRefs (d : Dev) (i : Nat) (e : Entry) : (d.setEntry i e).sub.regRefs = d.sub.regRefs := rfl

@[simp] theorem Dev.takeRef_now (d : Dev) (i : Nat) : (d.takeRef i).now = d.now := rfl
@[simp] theorem Dev.takeRef_freeCtr (d : Dev) (i : Nat) : (d.takeRef i).freeCtr = d.freeCtr := rfl
@[simp] theorem Dev.takeRef_boot (d : Dev) (i : Nat) : (d.takeRef i).boot = d.boot := rfl
@[simp] theorem Dev.takeRef_pwr (d : Dev) (i : Nat) : (d.takeRef i).pwr = d.pwr := rfl
@[simp] theorem Dev.takeRef_pins (d : Dev) (i : Nat) : (d.takeRef i).pins = d.pins := rfl
@[simp] theorem Dev.takeRef_tick (d : Dev) (i : Nat) : (d.takeRef i).tick = d.tick := rfl
@[simp] theorem Dev.takeRef_regs (d : Dev) (i : Nat) : (d.takeRef i).regs = d.regs := rfl
@[simp] theorem Dev.takeRef_mem (d : Dev) (i : Nat) : (d.takeRef i).mem = d.mem := rfl
@[simp] theorem Dev.takeRef_bricks (d : Dev) (i : Nat) : (d.takeRef i).bricks = d.bricks := rfl
@[simp] theorem Dev.takeRef_xlt (d : Dev) (i : Nat) : (d.takeRef i).xlt = d.xlt := rfl
@[simp] theorem Dev.takeRef_par (d : Dev) (i : Nat) : (d.takeRef i).par = d.par := rfl
@[simp] theorem Dev.takeRef_eng (d : Dev) (i : Nat) : (d.takeRef i).eng = d.eng := rfl
@[simp] theorem Dev.takeRef_cmp (d : Dev) (i : Nat) : (d.takeRef i).cmp = d.cmp := rfl
@[simp] theorem Dev.takeRef_seq (d : Dev) (i : Nat) : (d.takeRef i).seq = d.seq := rfl
@[simp] theorem Dev.takeRef_fab (d : Dev) (i : Nat) : (d.takeRef i).fab = d.fab := rfl
@[simp] theorem Dev.takeRef_sec (d : Dev) (i : Nat) : (d.takeRef i).sec = d.sec := rfl
@[simp] theorem Dev.takeRef_meter (d : Dev) (i : Nat) : (d.takeRef i).meter = d.meter := rfl

@[simp] theorem Dev.setBrick_now (d : Dev) (n : Nat) (b : Brick) : (d.setBrick n b).now = d.now := rfl
@[simp] theorem Dev.setBrick_freeCtr (d : Dev) (n : Nat) (b : Brick) : (d.setBrick n b).freeCtr = d.freeCtr := rfl
@[simp] theorem Dev.setBrick_boot (d : Dev) (n : Nat) (b : Brick) : (d.setBrick n b).boot = d.boot := rfl
@[simp] theorem Dev.setBrick_pwr (d : Dev) (n : Nat) (b : Brick) : (d.setBrick n b).pwr = d.pwr := rfl
@[simp] theorem Dev.setBrick_pins (d : Dev) (n : Nat) (b : Brick) : (d.setBrick n b).pins = d.pins := rfl
@[simp] theorem Dev.setBrick_tick (d : Dev) (n : Nat) (b : Brick) : (d.setBrick n b).tick = d.tick := rfl
@[simp] theorem Dev.setBrick_regs (d : Dev) (n : Nat) (b : Brick) : (d.setBrick n b).regs = d.regs := rfl
@[simp] theorem Dev.setBrick_mem (d : Dev) (n : Nat) (b : Brick) : (d.setBrick n b).mem = d.mem := rfl
@[simp] theorem Dev.setBrick_sub (d : Dev) (n : Nat) (b : Brick) : (d.setBrick n b).sub = d.sub := rfl
@[simp] theorem Dev.setBrick_xlt (d : Dev) (n : Nat) (b : Brick) : (d.setBrick n b).xlt = d.xlt := rfl
@[simp] theorem Dev.setBrick_par (d : Dev) (n : Nat) (b : Brick) : (d.setBrick n b).par = d.par := rfl
@[simp] theorem Dev.setBrick_eng (d : Dev) (n : Nat) (b : Brick) : (d.setBrick n b).eng = d.eng := rfl
@[simp] theorem Dev.setBrick_cmp (d : Dev) (n : Nat) (b : Brick) : (d.setBrick n b).cmp = d.cmp := rfl
@[simp] theorem Dev.setBrick_seq (d : Dev) (n : Nat) (b : Brick) : (d.setBrick n b).seq = d.seq := rfl
@[simp] theorem Dev.setBrick_fab (d : Dev) (n : Nat) (b : Brick) : (d.setBrick n b).fab = d.fab := rfl
@[simp] theorem Dev.setBrick_sec (d : Dev) (n : Nat) (b : Brick) : (d.setBrick n b).sec = d.sec := rfl
@[simp] theorem Dev.setBrick_meter (d : Dev) (n : Nat) (b : Brick) : (d.setBrick n b).meter = d.meter := rfl

@[simp] theorem Dev.modBrick_now (d : Dev) (n : Nat) (f : Brick → Brick) : (d.modBrick n f).now = d.now := rfl
@[simp] theorem Dev.modBrick_freeCtr (d : Dev) (n : Nat) (f : Brick → Brick) : (d.modBrick n f).freeCtr = d.freeCtr := rfl
@[simp] theorem Dev.modBrick_boot (d : Dev) (n : Nat) (f : Brick → Brick) : (d.modBrick n f).boot = d.boot := rfl
@[simp] theorem Dev.modBrick_pwr (d : Dev) (n : Nat) (f : Brick → Brick) : (d.modBrick n f).pwr = d.pwr := rfl
@[simp] theorem Dev.modBrick_pins (d : Dev) (n : Nat) (f : Brick → Brick) : (d.modBrick n f).pins = d.pins := rfl
@[simp] theorem Dev.modBrick_tick (d : Dev) (n : Nat) (f : Brick → Brick) : (d.modBrick n f).tick = d.tick := rfl
@[simp] theorem Dev.modBrick_regs (d : Dev) (n : Nat) (f : Brick → Brick) : (d.modBrick n f).regs = d.regs := rfl
@[simp] theorem Dev.modBrick_mem (d : Dev) (n : Nat) (f : Brick → Brick) : (d.modBrick n f).mem = d.mem := rfl
@[simp] theorem Dev.modBrick_sub (d : Dev) (n : Nat) (f : Brick → Brick) : (d.modBrick n f).sub = d.sub := rfl
@[simp] theorem Dev.modBrick_xlt (d : Dev) (n : Nat) (f : Brick → Brick) : (d.modBrick n f).xlt = d.xlt := rfl
@[simp] theorem Dev.modBrick_par (d : Dev) (n : Nat) (f : Brick → Brick) : (d.modBrick n f).par = d.par := rfl
@[simp] theorem Dev.modBrick_eng (d : Dev) (n : Nat) (f : Brick → Brick) : (d.modBrick n f).eng = d.eng := rfl
@[simp] theorem Dev.modBrick_cmp (d : Dev) (n : Nat) (f : Brick → Brick) : (d.modBrick n f).cmp = d.cmp := rfl
@[simp] theorem Dev.modBrick_seq (d : Dev) (n : Nat) (f : Brick → Brick) : (d.modBrick n f).seq = d.seq := rfl
@[simp] theorem Dev.modBrick_fab (d : Dev) (n : Nat) (f : Brick → Brick) : (d.modBrick n f).fab = d.fab := rfl
@[simp] theorem Dev.modBrick_sec (d : Dev) (n : Nat) (f : Brick → Brick) : (d.modBrick n f).sec = d.sec := rfl
@[simp] theorem Dev.modBrick_meter (d : Dev) (n : Nat) (f : Brick → Brick) : (d.modBrick n f).meter = d.meter := rfl

@[simp] theorem Dev.setPort_now (d : Dev) (p : Nat) (x : Port) : (d.setPort p x).now = d.now := rfl
@[simp] theorem Dev.setPort_freeCtr (d : Dev) (p : Nat) (x : Port) : (d.setPort p x).freeCtr = d.freeCtr := rfl
@[simp] theorem Dev.setPort_boot (d : Dev) (p : Nat) (x : Port) : (d.setPort p x).boot = d.boot := rfl
@[simp] theorem Dev.setPort_pwr (d : Dev) (p : Nat) (x : Port) : (d.setPort p x).pwr = d.pwr := rfl
@[simp] theorem Dev.setPort_pins (d : Dev) (p : Nat) (x : Port) : (d.setPort p x).pins = d.pins := rfl
@[simp] theorem Dev.setPort_tick (d : Dev) (p : Nat) (x : Port) : (d.setPort p x).tick = d.tick := rfl
@[simp] theorem Dev.setPort_regs (d : Dev) (p : Nat) (x : Port) : (d.setPort p x).regs = d.regs := rfl
@[simp] theorem Dev.setPort_mem (d : Dev) (p : Nat) (x : Port) : (d.setPort p x).mem = d.mem := rfl
@[simp] theorem Dev.setPort_bricks (d : Dev) (p : Nat) (x : Port) : (d.setPort p x).bricks = d.bricks := rfl
@[simp] theorem Dev.setPort_sub (d : Dev) (p : Nat) (x : Port) : (d.setPort p x).sub = d.sub := rfl
@[simp] theorem Dev.setPort_xlt (d : Dev) (p : Nat) (x : Port) : (d.setPort p x).xlt = d.xlt := rfl
@[simp] theorem Dev.setPort_par (d : Dev) (p : Nat) (x : Port) : (d.setPort p x).par = d.par := rfl
@[simp] theorem Dev.setPort_eng (d : Dev) (p : Nat) (x : Port) : (d.setPort p x).eng = d.eng := rfl
@[simp] theorem Dev.setPort_cmp (d : Dev) (p : Nat) (x : Port) : (d.setPort p x).cmp = d.cmp := rfl
@[simp] theorem Dev.setPort_seq (d : Dev) (p : Nat) (x : Port) : (d.setPort p x).seq = d.seq := rfl
@[simp] theorem Dev.setPort_sec (d : Dev) (p : Nat) (x : Port) : (d.setPort p x).sec = d.sec := rfl
@[simp] theorem Dev.setPort_meter (d : Dev) (p : Nat) (x : Port) : (d.setPort p x).meter = d.meter := rfl
@[simp] theorem Dev.setPort_fab_dom (d : Dev) (p : Nat) (x : Port) : (d.setPort p x).fab.dom = d.fab.dom := rfl
@[simp] theorem Dev.setPort_fab_pendAt (d : Dev) (p : Nat) (x : Port) : (d.setPort p x).fab.pendAt = d.fab.pendAt := rfl
@[simp] theorem Dev.setPort_fab_olds (d : Dev) (p : Nat) (x : Port) : (d.setPort p x).fab.olds = d.fab.olds := rfl
@[simp] theorem Dev.setPort_fab_qps (d : Dev) (p : Nat) (x : Port) : (d.setPort p x).fab.qps = d.fab.qps := rfl
@[simp] theorem Dev.setPort_fab_roceOut (d : Dev) (p : Nat) (x : Port) : (d.setPort p x).fab.roceOut = d.fab.roceOut := rfl
@[simp] theorem Dev.setPort_fab_tunnelled (d : Dev) (p : Nat) (x : Port) : (d.setPort p x).fab.tunnelled = d.fab.tunnelled := rfl
@[simp] theorem Dev.setPort_fab_ops (d : Dev) (p : Nat) (x : Port) : (d.setPort p x).fab.ops = d.fab.ops := rfl
@[simp] theorem Dev.setPort_fab_slotGen (d : Dev) (p : Nat) (x : Port) : (d.setPort p x).fab.slotGen = d.fab.slotGen := rfl
@[simp] theorem Dev.setPort_fab_held (d : Dev) (p : Nat) (x : Port) : (d.setPort p x).fab.held = d.fab.held := rfl
@[simp] theorem Dev.setPort_fab_inbound (d : Dev) (p : Nat) (x : Port) : (d.setPort p x).fab.inbound = d.fab.inbound := rfl

@[simp] theorem Dev.modPort_now (d : Dev) (p : Nat) (f : Port → Port) : (d.modPort p f).now = d.now := rfl
@[simp] theorem Dev.modPort_freeCtr (d : Dev) (p : Nat) (f : Port → Port) : (d.modPort p f).freeCtr = d.freeCtr := rfl
@[simp] theorem Dev.modPort_boot (d : Dev) (p : Nat) (f : Port → Port) : (d.modPort p f).boot = d.boot := rfl
@[simp] theorem Dev.modPort_pwr (d : Dev) (p : Nat) (f : Port → Port) : (d.modPort p f).pwr = d.pwr := rfl
@[simp] theorem Dev.modPort_pins (d : Dev) (p : Nat) (f : Port → Port) : (d.modPort p f).pins = d.pins := rfl
@[simp] theorem Dev.modPort_tick (d : Dev) (p : Nat) (f : Port → Port) : (d.modPort p f).tick = d.tick := rfl
@[simp] theorem Dev.modPort_regs (d : Dev) (p : Nat) (f : Port → Port) : (d.modPort p f).regs = d.regs := rfl
@[simp] theorem Dev.modPort_mem (d : Dev) (p : Nat) (f : Port → Port) : (d.modPort p f).mem = d.mem := rfl
@[simp] theorem Dev.modPort_bricks (d : Dev) (p : Nat) (f : Port → Port) : (d.modPort p f).bricks = d.bricks := rfl
@[simp] theorem Dev.modPort_sub (d : Dev) (p : Nat) (f : Port → Port) : (d.modPort p f).sub = d.sub := rfl
@[simp] theorem Dev.modPort_xlt (d : Dev) (p : Nat) (f : Port → Port) : (d.modPort p f).xlt = d.xlt := rfl
@[simp] theorem Dev.modPort_par (d : Dev) (p : Nat) (f : Port → Port) : (d.modPort p f).par = d.par := rfl
@[simp] theorem Dev.modPort_eng (d : Dev) (p : Nat) (f : Port → Port) : (d.modPort p f).eng = d.eng := rfl
@[simp] theorem Dev.modPort_cmp (d : Dev) (p : Nat) (f : Port → Port) : (d.modPort p f).cmp = d.cmp := rfl
@[simp] theorem Dev.modPort_seq (d : Dev) (p : Nat) (f : Port → Port) : (d.modPort p f).seq = d.seq := rfl
@[simp] theorem Dev.modPort_sec (d : Dev) (p : Nat) (f : Port → Port) : (d.modPort p f).sec = d.sec := rfl
@[simp] theorem Dev.modPort_meter (d : Dev) (p : Nat) (f : Port → Port) : (d.modPort p f).meter = d.meter := rfl
@[simp] theorem Dev.modPort_fab_dom (d : Dev) (p : Nat) (f : Port → Port) : (d.modPort p f).fab.dom = d.fab.dom := rfl
@[simp] theorem Dev.modPort_fab_pendAt (d : Dev) (p : Nat) (f : Port → Port) : (d.modPort p f).fab.pendAt = d.fab.pendAt := rfl
@[simp] theorem Dev.modPort_fab_olds (d : Dev) (p : Nat) (f : Port → Port) : (d.modPort p f).fab.olds = d.fab.olds := rfl
@[simp] theorem Dev.modPort_fab_qps (d : Dev) (p : Nat) (f : Port → Port) : (d.modPort p f).fab.qps = d.fab.qps := rfl
@[simp] theorem Dev.modPort_fab_roceOut (d : Dev) (p : Nat) (f : Port → Port) : (d.modPort p f).fab.roceOut = d.fab.roceOut := rfl
@[simp] theorem Dev.modPort_fab_tunnelled (d : Dev) (p : Nat) (f : Port → Port) : (d.modPort p f).fab.tunnelled = d.fab.tunnelled := rfl
@[simp] theorem Dev.modPort_fab_ops (d : Dev) (p : Nat) (f : Port → Port) : (d.modPort p f).fab.ops = d.fab.ops := rfl
@[simp] theorem Dev.modPort_fab_slotGen (d : Dev) (p : Nat) (f : Port → Port) : (d.modPort p f).fab.slotGen = d.fab.slotGen := rfl
@[simp] theorem Dev.modPort_fab_held (d : Dev) (p : Nat) (f : Port → Port) : (d.modPort p f).fab.held = d.fab.held := rfl
@[simp] theorem Dev.modPort_fab_inbound (d : Dev) (p : Nat) (f : Port → Port) : (d.modPort p f).fab.inbound = d.fab.inbound := rfl

@[simp] theorem Dev.setQp_now (d : Dev) (q : Nat) (x : QpSt) : (d.setQp q x).now = d.now := rfl
@[simp] theorem Dev.setQp_freeCtr (d : Dev) (q : Nat) (x : QpSt) : (d.setQp q x).freeCtr = d.freeCtr := rfl
@[simp] theorem Dev.setQp_boot (d : Dev) (q : Nat) (x : QpSt) : (d.setQp q x).boot = d.boot := rfl
@[simp] theorem Dev.setQp_pwr (d : Dev) (q : Nat) (x : QpSt) : (d.setQp q x).pwr = d.pwr := rfl
@[simp] theorem Dev.setQp_pins (d : Dev) (q : Nat) (x : QpSt) : (d.setQp q x).pins = d.pins := rfl
@[simp] theorem Dev.setQp_tick (d : Dev) (q : Nat) (x : QpSt) : (d.setQp q x).tick = d.tick := rfl
@[simp] theorem Dev.setQp_regs (d : Dev) (q : Nat) (x : QpSt) : (d.setQp q x).regs = d.regs := rfl
@[simp] theorem Dev.setQp_mem (d : Dev) (q : Nat) (x : QpSt) : (d.setQp q x).mem = d.mem := rfl
@[simp] theorem Dev.setQp_bricks (d : Dev) (q : Nat) (x : QpSt) : (d.setQp q x).bricks = d.bricks := rfl
@[simp] theorem Dev.setQp_sub (d : Dev) (q : Nat) (x : QpSt) : (d.setQp q x).sub = d.sub := rfl
@[simp] theorem Dev.setQp_xlt (d : Dev) (q : Nat) (x : QpSt) : (d.setQp q x).xlt = d.xlt := rfl
@[simp] theorem Dev.setQp_par (d : Dev) (q : Nat) (x : QpSt) : (d.setQp q x).par = d.par := rfl
@[simp] theorem Dev.setQp_eng (d : Dev) (q : Nat) (x : QpSt) : (d.setQp q x).eng = d.eng := rfl
@[simp] theorem Dev.setQp_cmp (d : Dev) (q : Nat) (x : QpSt) : (d.setQp q x).cmp = d.cmp := rfl
@[simp] theorem Dev.setQp_seq (d : Dev) (q : Nat) (x : QpSt) : (d.setQp q x).seq = d.seq := rfl
@[simp] theorem Dev.setQp_sec (d : Dev) (q : Nat) (x : QpSt) : (d.setQp q x).sec = d.sec := rfl
@[simp] theorem Dev.setQp_meter (d : Dev) (q : Nat) (x : QpSt) : (d.setQp q x).meter = d.meter := rfl
@[simp] theorem Dev.setQp_fab_dom (d : Dev) (q : Nat) (x : QpSt) : (d.setQp q x).fab.dom = d.fab.dom := rfl
@[simp] theorem Dev.setQp_fab_pendAt (d : Dev) (q : Nat) (x : QpSt) : (d.setQp q x).fab.pendAt = d.fab.pendAt := rfl
@[simp] theorem Dev.setQp_fab_olds (d : Dev) (q : Nat) (x : QpSt) : (d.setQp q x).fab.olds = d.fab.olds := rfl
@[simp] theorem Dev.setQp_fab_ports (d : Dev) (q : Nat) (x : QpSt) : (d.setQp q x).fab.ports = d.fab.ports := rfl
@[simp] theorem Dev.setQp_fab_roceOut (d : Dev) (q : Nat) (x : QpSt) : (d.setQp q x).fab.roceOut = d.fab.roceOut := rfl
@[simp] theorem Dev.setQp_fab_tunnelled (d : Dev) (q : Nat) (x : QpSt) : (d.setQp q x).fab.tunnelled = d.fab.tunnelled := rfl
@[simp] theorem Dev.setQp_fab_ops (d : Dev) (q : Nat) (x : QpSt) : (d.setQp q x).fab.ops = d.fab.ops := rfl
@[simp] theorem Dev.setQp_fab_slotGen (d : Dev) (q : Nat) (x : QpSt) : (d.setQp q x).fab.slotGen = d.fab.slotGen := rfl
@[simp] theorem Dev.setQp_fab_held (d : Dev) (q : Nat) (x : QpSt) : (d.setQp q x).fab.held = d.fab.held := rfl
@[simp] theorem Dev.setQp_fab_inbound (d : Dev) (q : Nat) (x : QpSt) : (d.setQp q x).fab.inbound = d.fab.inbound := rfl

@[simp] theorem Dev.roceSay_now (d : Dev) (q : Nat) (x : RoceResp) : (d.roceSay q x).now = d.now := rfl
@[simp] theorem Dev.roceSay_freeCtr (d : Dev) (q : Nat) (x : RoceResp) : (d.roceSay q x).freeCtr = d.freeCtr := rfl
@[simp] theorem Dev.roceSay_boot (d : Dev) (q : Nat) (x : RoceResp) : (d.roceSay q x).boot = d.boot := rfl
@[simp] theorem Dev.roceSay_pwr (d : Dev) (q : Nat) (x : RoceResp) : (d.roceSay q x).pwr = d.pwr := rfl
@[simp] theorem Dev.roceSay_pins (d : Dev) (q : Nat) (x : RoceResp) : (d.roceSay q x).pins = d.pins := rfl
@[simp] theorem Dev.roceSay_tick (d : Dev) (q : Nat) (x : RoceResp) : (d.roceSay q x).tick = d.tick := rfl
@[simp] theorem Dev.roceSay_regs (d : Dev) (q : Nat) (x : RoceResp) : (d.roceSay q x).regs = d.regs := rfl
@[simp] theorem Dev.roceSay_mem (d : Dev) (q : Nat) (x : RoceResp) : (d.roceSay q x).mem = d.mem := rfl
@[simp] theorem Dev.roceSay_bricks (d : Dev) (q : Nat) (x : RoceResp) : (d.roceSay q x).bricks = d.bricks := rfl
@[simp] theorem Dev.roceSay_sub (d : Dev) (q : Nat) (x : RoceResp) : (d.roceSay q x).sub = d.sub := rfl
@[simp] theorem Dev.roceSay_xlt (d : Dev) (q : Nat) (x : RoceResp) : (d.roceSay q x).xlt = d.xlt := rfl
@[simp] theorem Dev.roceSay_par (d : Dev) (q : Nat) (x : RoceResp) : (d.roceSay q x).par = d.par := rfl
@[simp] theorem Dev.roceSay_eng (d : Dev) (q : Nat) (x : RoceResp) : (d.roceSay q x).eng = d.eng := rfl
@[simp] theorem Dev.roceSay_cmp (d : Dev) (q : Nat) (x : RoceResp) : (d.roceSay q x).cmp = d.cmp := rfl
@[simp] theorem Dev.roceSay_seq (d : Dev) (q : Nat) (x : RoceResp) : (d.roceSay q x).seq = d.seq := rfl
@[simp] theorem Dev.roceSay_sec (d : Dev) (q : Nat) (x : RoceResp) : (d.roceSay q x).sec = d.sec := rfl
@[simp] theorem Dev.roceSay_meter (d : Dev) (q : Nat) (x : RoceResp) : (d.roceSay q x).meter = d.meter := rfl
@[simp] theorem Dev.roceSay_fab_dom (d : Dev) (q : Nat) (x : RoceResp) : (d.roceSay q x).fab.dom = d.fab.dom := rfl
@[simp] theorem Dev.roceSay_fab_pendAt (d : Dev) (q : Nat) (x : RoceResp) : (d.roceSay q x).fab.pendAt = d.fab.pendAt := rfl
@[simp] theorem Dev.roceSay_fab_olds (d : Dev) (q : Nat) (x : RoceResp) : (d.roceSay q x).fab.olds = d.fab.olds := rfl
@[simp] theorem Dev.roceSay_fab_ports (d : Dev) (q : Nat) (x : RoceResp) : (d.roceSay q x).fab.ports = d.fab.ports := rfl
@[simp] theorem Dev.roceSay_fab_qps (d : Dev) (q : Nat) (x : RoceResp) : (d.roceSay q x).fab.qps = d.fab.qps := rfl
@[simp] theorem Dev.roceSay_fab_tunnelled (d : Dev) (q : Nat) (x : RoceResp) : (d.roceSay q x).fab.tunnelled = d.fab.tunnelled := rfl
@[simp] theorem Dev.roceSay_fab_ops (d : Dev) (q : Nat) (x : RoceResp) : (d.roceSay q x).fab.ops = d.fab.ops := rfl
@[simp] theorem Dev.roceSay_fab_slotGen (d : Dev) (q : Nat) (x : RoceResp) : (d.roceSay q x).fab.slotGen = d.fab.slotGen := rfl
@[simp] theorem Dev.roceSay_fab_held (d : Dev) (q : Nat) (x : RoceResp) : (d.roceSay q x).fab.held = d.fab.held := rfl
@[simp] theorem Dev.roceSay_fab_inbound (d : Dev) (q : Nat) (x : RoceResp) : (d.roceSay q x).fab.inbound = d.fab.inbound := rfl

@[simp] theorem Dev.withDom_now (d : Dev) (x : DomSt) : (d.withDom x).now = d.now := rfl
@[simp] theorem Dev.withDom_freeCtr (d : Dev) (x : DomSt) : (d.withDom x).freeCtr = d.freeCtr := rfl
@[simp] theorem Dev.withDom_boot (d : Dev) (x : DomSt) : (d.withDom x).boot = d.boot := rfl
@[simp] theorem Dev.withDom_pwr (d : Dev) (x : DomSt) : (d.withDom x).pwr = d.pwr := rfl
@[simp] theorem Dev.withDom_pins (d : Dev) (x : DomSt) : (d.withDom x).pins = d.pins := rfl
@[simp] theorem Dev.withDom_tick (d : Dev) (x : DomSt) : (d.withDom x).tick = d.tick := rfl
@[simp] theorem Dev.withDom_regs (d : Dev) (x : DomSt) : (d.withDom x).regs = d.regs := rfl
@[simp] theorem Dev.withDom_mem (d : Dev) (x : DomSt) : (d.withDom x).mem = d.mem := rfl
@[simp] theorem Dev.withDom_bricks (d : Dev) (x : DomSt) : (d.withDom x).bricks = d.bricks := rfl
@[simp] theorem Dev.withDom_sub (d : Dev) (x : DomSt) : (d.withDom x).sub = d.sub := rfl
@[simp] theorem Dev.withDom_xlt (d : Dev) (x : DomSt) : (d.withDom x).xlt = d.xlt := rfl
@[simp] theorem Dev.withDom_par (d : Dev) (x : DomSt) : (d.withDom x).par = d.par := rfl
@[simp] theorem Dev.withDom_eng (d : Dev) (x : DomSt) : (d.withDom x).eng = d.eng := rfl
@[simp] theorem Dev.withDom_cmp (d : Dev) (x : DomSt) : (d.withDom x).cmp = d.cmp := rfl
@[simp] theorem Dev.withDom_seq (d : Dev) (x : DomSt) : (d.withDom x).seq = d.seq := rfl
@[simp] theorem Dev.withDom_sec (d : Dev) (x : DomSt) : (d.withDom x).sec = d.sec := rfl
@[simp] theorem Dev.withDom_meter (d : Dev) (x : DomSt) : (d.withDom x).meter = d.meter := rfl
@[simp] theorem Dev.withDom_fab_dom (d : Dev) (x : DomSt) : (d.withDom x).fab.dom = x := rfl
@[simp] theorem Dev.withDom_fab_pendAt (d : Dev) (x : DomSt) : (d.withDom x).fab.pendAt = d.fab.pendAt := rfl
@[simp] theorem Dev.withDom_fab_olds (d : Dev) (x : DomSt) : (d.withDom x).fab.olds = d.fab.olds := rfl
@[simp] theorem Dev.withDom_fab_ports (d : Dev) (x : DomSt) : (d.withDom x).fab.ports = d.fab.ports := rfl
@[simp] theorem Dev.withDom_fab_qps (d : Dev) (x : DomSt) : (d.withDom x).fab.qps = d.fab.qps := rfl
@[simp] theorem Dev.withDom_fab_roceOut (d : Dev) (x : DomSt) : (d.withDom x).fab.roceOut = d.fab.roceOut := rfl
@[simp] theorem Dev.withDom_fab_tunnelled (d : Dev) (x : DomSt) : (d.withDom x).fab.tunnelled = d.fab.tunnelled := rfl
@[simp] theorem Dev.withDom_fab_ops (d : Dev) (x : DomSt) : (d.withDom x).fab.ops = d.fab.ops := rfl
@[simp] theorem Dev.withDom_fab_slotGen (d : Dev) (x : DomSt) : (d.withDom x).fab.slotGen = d.fab.slotGen := rfl
@[simp] theorem Dev.withDom_fab_held (d : Dev) (x : DomSt) : (d.withDom x).fab.held = d.fab.held := rfl
@[simp] theorem Dev.withDom_fab_inbound (d : Dev) (x : DomSt) : (d.withDom x).fab.inbound = d.fab.inbound := rfl

@[simp] theorem Dev.withMeter_now (d : Dev) (x : RecSt) : (d.withMeter x).now = d.now := rfl
@[simp] theorem Dev.withMeter_freeCtr (d : Dev) (x : RecSt) : (d.withMeter x).freeCtr = d.freeCtr := rfl
@[simp] theorem Dev.withMeter_boot (d : Dev) (x : RecSt) : (d.withMeter x).boot = d.boot := rfl
@[simp] theorem Dev.withMeter_pwr (d : Dev) (x : RecSt) : (d.withMeter x).pwr = d.pwr := rfl
@[simp] theorem Dev.withMeter_pins (d : Dev) (x : RecSt) : (d.withMeter x).pins = d.pins := rfl
@[simp] theorem Dev.withMeter_tick (d : Dev) (x : RecSt) : (d.withMeter x).tick = d.tick := rfl
@[simp] theorem Dev.withMeter_regs (d : Dev) (x : RecSt) : (d.withMeter x).regs = d.regs := rfl
@[simp] theorem Dev.withMeter_mem (d : Dev) (x : RecSt) : (d.withMeter x).mem = d.mem := rfl
@[simp] theorem Dev.withMeter_bricks (d : Dev) (x : RecSt) : (d.withMeter x).bricks = d.bricks := rfl
@[simp] theorem Dev.withMeter_sub (d : Dev) (x : RecSt) : (d.withMeter x).sub = d.sub := rfl
@[simp] theorem Dev.withMeter_xlt (d : Dev) (x : RecSt) : (d.withMeter x).xlt = d.xlt := rfl
@[simp] theorem Dev.withMeter_par (d : Dev) (x : RecSt) : (d.withMeter x).par = d.par := rfl
@[simp] theorem Dev.withMeter_eng (d : Dev) (x : RecSt) : (d.withMeter x).eng = d.eng := rfl
@[simp] theorem Dev.withMeter_cmp (d : Dev) (x : RecSt) : (d.withMeter x).cmp = d.cmp := rfl
@[simp] theorem Dev.withMeter_seq (d : Dev) (x : RecSt) : (d.withMeter x).seq = d.seq := rfl
@[simp] theorem Dev.withMeter_fab (d : Dev) (x : RecSt) : (d.withMeter x).fab = d.fab := rfl
@[simp] theorem Dev.withMeter_sec (d : Dev) (x : RecSt) : (d.withMeter x).sec = d.sec := rfl

@[simp] theorem Dev.hist_now (d : Dev) (h v : Nat) : (d.hist h v).now = d.now := rfl
@[simp] theorem Dev.hist_freeCtr (d : Dev) (h v : Nat) : (d.hist h v).freeCtr = d.freeCtr := rfl
@[simp] theorem Dev.hist_boot (d : Dev) (h v : Nat) : (d.hist h v).boot = d.boot := rfl
@[simp] theorem Dev.hist_pwr (d : Dev) (h v : Nat) : (d.hist h v).pwr = d.pwr := rfl
@[simp] theorem Dev.hist_pins (d : Dev) (h v : Nat) : (d.hist h v).pins = d.pins := rfl
@[simp] theorem Dev.hist_tick (d : Dev) (h v : Nat) : (d.hist h v).tick = d.tick := rfl
@[simp] theorem Dev.hist_regs (d : Dev) (h v : Nat) : (d.hist h v).regs = d.regs := rfl
@[simp] theorem Dev.hist_mem (d : Dev) (h v : Nat) : (d.hist h v).mem = d.mem := rfl
@[simp] theorem Dev.hist_bricks (d : Dev) (h v : Nat) : (d.hist h v).bricks = d.bricks := rfl
@[simp] theorem Dev.hist_sub (d : Dev) (h v : Nat) : (d.hist h v).sub = d.sub := rfl
@[simp] theorem Dev.hist_xlt (d : Dev) (h v : Nat) : (d.hist h v).xlt = d.xlt := rfl
@[simp] theorem Dev.hist_par (d : Dev) (h v : Nat) : (d.hist h v).par = d.par := rfl
@[simp] theorem Dev.hist_eng (d : Dev) (h v : Nat) : (d.hist h v).eng = d.eng := rfl
@[simp] theorem Dev.hist_cmp (d : Dev) (h v : Nat) : (d.hist h v).cmp = d.cmp := rfl
@[simp] theorem Dev.hist_seq (d : Dev) (h v : Nat) : (d.hist h v).seq = d.seq := rfl
@[simp] theorem Dev.hist_fab (d : Dev) (h v : Nat) : (d.hist h v).fab = d.fab := rfl
@[simp] theorem Dev.hist_sec (d : Dev) (h v : Nat) : (d.hist h v).sec = d.sec := rfl

@[simp] theorem Dev.windowEvent_now (d : Dev) (h n : Nat) : (d.windowEvent h n).now = d.now := rfl
@[simp] theorem Dev.windowEvent_freeCtr (d : Dev) (h n : Nat) : (d.windowEvent h n).freeCtr = d.freeCtr := rfl
@[simp] theorem Dev.windowEvent_boot (d : Dev) (h n : Nat) : (d.windowEvent h n).boot = d.boot := rfl
@[simp] theorem Dev.windowEvent_pwr (d : Dev) (h n : Nat) : (d.windowEvent h n).pwr = d.pwr := rfl
@[simp] theorem Dev.windowEvent_pins (d : Dev) (h n : Nat) : (d.windowEvent h n).pins = d.pins := rfl
@[simp] theorem Dev.windowEvent_tick (d : Dev) (h n : Nat) : (d.windowEvent h n).tick = d.tick := rfl
@[simp] theorem Dev.windowEvent_regs (d : Dev) (h n : Nat) : (d.windowEvent h n).regs = d.regs := rfl
@[simp] theorem Dev.windowEvent_mem (d : Dev) (h n : Nat) : (d.windowEvent h n).mem = d.mem := rfl
@[simp] theorem Dev.windowEvent_bricks (d : Dev) (h n : Nat) : (d.windowEvent h n).bricks = d.bricks := rfl
@[simp] theorem Dev.windowEvent_sub (d : Dev) (h n : Nat) : (d.windowEvent h n).sub = d.sub := rfl
@[simp] theorem Dev.windowEvent_xlt (d : Dev) (h n : Nat) : (d.windowEvent h n).xlt = d.xlt := rfl
@[simp] theorem Dev.windowEvent_par (d : Dev) (h n : Nat) : (d.windowEvent h n).par = d.par := rfl
@[simp] theorem Dev.windowEvent_eng (d : Dev) (h n : Nat) : (d.windowEvent h n).eng = d.eng := rfl
@[simp] theorem Dev.windowEvent_cmp (d : Dev) (h n : Nat) : (d.windowEvent h n).cmp = d.cmp := rfl
@[simp] theorem Dev.windowEvent_seq (d : Dev) (h n : Nat) : (d.windowEvent h n).seq = d.seq := rfl
@[simp] theorem Dev.windowEvent_fab (d : Dev) (h n : Nat) : (d.windowEvent h n).fab = d.fab := rfl
@[simp] theorem Dev.windowEvent_sec (d : Dev) (h n : Nat) : (d.windowEvent h n).sec = d.sec := rfl

@[simp] theorem Dev.withTick_now (d : Dev) (x : TickGen) : (d.withTick x).now = d.now := rfl
@[simp] theorem Dev.withTick_freeCtr (d : Dev) (x : TickGen) : (d.withTick x).freeCtr = d.freeCtr := rfl
@[simp] theorem Dev.withTick_boot (d : Dev) (x : TickGen) : (d.withTick x).boot = d.boot := rfl
@[simp] theorem Dev.withTick_pwr (d : Dev) (x : TickGen) : (d.withTick x).pwr = d.pwr := rfl
@[simp] theorem Dev.withTick_pins (d : Dev) (x : TickGen) : (d.withTick x).pins = d.pins := rfl
@[simp] theorem Dev.withTick_regs (d : Dev) (x : TickGen) : (d.withTick x).regs = d.regs := rfl
@[simp] theorem Dev.withTick_mem (d : Dev) (x : TickGen) : (d.withTick x).mem = d.mem := rfl
@[simp] theorem Dev.withTick_bricks (d : Dev) (x : TickGen) : (d.withTick x).bricks = d.bricks := rfl
@[simp] theorem Dev.withTick_sub (d : Dev) (x : TickGen) : (d.withTick x).sub = d.sub := rfl
@[simp] theorem Dev.withTick_xlt (d : Dev) (x : TickGen) : (d.withTick x).xlt = d.xlt := rfl
@[simp] theorem Dev.withTick_par (d : Dev) (x : TickGen) : (d.withTick x).par = d.par := rfl
@[simp] theorem Dev.withTick_eng (d : Dev) (x : TickGen) : (d.withTick x).eng = d.eng := rfl
@[simp] theorem Dev.withTick_cmp (d : Dev) (x : TickGen) : (d.withTick x).cmp = d.cmp := rfl
@[simp] theorem Dev.withTick_seq (d : Dev) (x : TickGen) : (d.withTick x).seq = d.seq := rfl
@[simp] theorem Dev.withTick_fab (d : Dev) (x : TickGen) : (d.withTick x).fab = d.fab := rfl
@[simp] theorem Dev.withTick_sec (d : Dev) (x : TickGen) : (d.withTick x).sec = d.sec := rfl
@[simp] theorem Dev.withTick_meter (d : Dev) (x : TickGen) : (d.withTick x).meter = d.meter := rfl

@[simp] theorem Dev.setCount_now (d : Dev) (v : Wide) : (d.setCount v).now = d.now := rfl
@[simp] theorem Dev.setCount_freeCtr (d : Dev) (v : Wide) : (d.setCount v).freeCtr = d.freeCtr := rfl
@[simp] theorem Dev.setCount_boot (d : Dev) (v : Wide) : (d.setCount v).boot = d.boot := rfl
@[simp] theorem Dev.setCount_pwr (d : Dev) (v : Wide) : (d.setCount v).pwr = d.pwr := rfl
@[simp] theorem Dev.setCount_pins (d : Dev) (v : Wide) : (d.setCount v).pins = d.pins := rfl
@[simp] theorem Dev.setCount_tick (d : Dev) (v : Wide) : (d.setCount v).tick = d.tick := rfl
@[simp] theorem Dev.setCount_mem (d : Dev) (v : Wide) : (d.setCount v).mem = d.mem := rfl
@[simp] theorem Dev.setCount_bricks (d : Dev) (v : Wide) : (d.setCount v).bricks = d.bricks := rfl
@[simp] theorem Dev.setCount_sub (d : Dev) (v : Wide) : (d.setCount v).sub = d.sub := rfl
@[simp] theorem Dev.setCount_xlt (d : Dev) (v : Wide) : (d.setCount v).xlt = d.xlt := rfl
@[simp] theorem Dev.setCount_par (d : Dev) (v : Wide) : (d.setCount v).par = d.par := rfl
@[simp] theorem Dev.setCount_eng (d : Dev) (v : Wide) : (d.setCount v).eng = d.eng := rfl
@[simp] theorem Dev.setCount_cmp (d : Dev) (v : Wide) : (d.setCount v).cmp = d.cmp := rfl
@[simp] theorem Dev.setCount_seq (d : Dev) (v : Wide) : (d.setCount v).seq = d.seq := rfl
@[simp] theorem Dev.setCount_fab (d : Dev) (v : Wide) : (d.setCount v).fab = d.fab := rfl
@[simp] theorem Dev.setCount_sec (d : Dev) (v : Wide) : (d.setCount v).sec = d.sec := rfl
@[simp] theorem Dev.setCount_meter (d : Dev) (v : Wide) : (d.setCount v).meter = d.meter := rfl

@[simp] theorem Dev.withPwr_now (d : Dev) (x : PwrSt) : (d.withPwr x).now = d.now := rfl
@[simp] theorem Dev.withPwr_freeCtr (d : Dev) (x : PwrSt) : (d.withPwr x).freeCtr = d.freeCtr := rfl
@[simp] theorem Dev.withPwr_boot (d : Dev) (x : PwrSt) : (d.withPwr x).boot = d.boot := rfl
@[simp] theorem Dev.withPwr_pins (d : Dev) (x : PwrSt) : (d.withPwr x).pins = d.pins := rfl
@[simp] theorem Dev.withPwr_tick (d : Dev) (x : PwrSt) : (d.withPwr x).tick = d.tick := rfl
@[simp] theorem Dev.withPwr_regs (d : Dev) (x : PwrSt) : (d.withPwr x).regs = d.regs := rfl
@[simp] theorem Dev.withPwr_mem (d : Dev) (x : PwrSt) : (d.withPwr x).mem = d.mem := rfl
@[simp] theorem Dev.withPwr_bricks (d : Dev) (x : PwrSt) : (d.withPwr x).bricks = d.bricks := rfl
@[simp] theorem Dev.withPwr_sub (d : Dev) (x : PwrSt) : (d.withPwr x).sub = d.sub := rfl
@[simp] theorem Dev.withPwr_xlt (d : Dev) (x : PwrSt) : (d.withPwr x).xlt = d.xlt := rfl
@[simp] theorem Dev.withPwr_par (d : Dev) (x : PwrSt) : (d.withPwr x).par = d.par := rfl
@[simp] theorem Dev.withPwr_eng (d : Dev) (x : PwrSt) : (d.withPwr x).eng = d.eng := rfl
@[simp] theorem Dev.withPwr_cmp (d : Dev) (x : PwrSt) : (d.withPwr x).cmp = d.cmp := rfl
@[simp] theorem Dev.withPwr_seq (d : Dev) (x : PwrSt) : (d.withPwr x).seq = d.seq := rfl
@[simp] theorem Dev.withPwr_fab (d : Dev) (x : PwrSt) : (d.withPwr x).fab = d.fab := rfl
@[simp] theorem Dev.withPwr_sec (d : Dev) (x : PwrSt) : (d.withPwr x).sec = d.sec := rfl
@[simp] theorem Dev.withPwr_meter (d : Dev) (x : PwrSt) : (d.withPwr x).meter = d.meter := rfl

@[simp] theorem Dev.setWall_now (d : Dev) (w : Nat) (x : WallSt) : (d.setWall w x).now = d.now := rfl
@[simp] theorem Dev.setWall_freeCtr (d : Dev) (w : Nat) (x : WallSt) : (d.setWall w x).freeCtr = d.freeCtr := rfl
@[simp] theorem Dev.setWall_boot (d : Dev) (w : Nat) (x : WallSt) : (d.setWall w x).boot = d.boot := rfl
@[simp] theorem Dev.setWall_pins (d : Dev) (w : Nat) (x : WallSt) : (d.setWall w x).pins = d.pins := rfl
@[simp] theorem Dev.setWall_tick (d : Dev) (w : Nat) (x : WallSt) : (d.setWall w x).tick = d.tick := rfl
@[simp] theorem Dev.setWall_regs (d : Dev) (w : Nat) (x : WallSt) : (d.setWall w x).regs = d.regs := rfl
@[simp] theorem Dev.setWall_mem (d : Dev) (w : Nat) (x : WallSt) : (d.setWall w x).mem = d.mem := rfl
@[simp] theorem Dev.setWall_bricks (d : Dev) (w : Nat) (x : WallSt) : (d.setWall w x).bricks = d.bricks := rfl
@[simp] theorem Dev.setWall_sub (d : Dev) (w : Nat) (x : WallSt) : (d.setWall w x).sub = d.sub := rfl
@[simp] theorem Dev.setWall_xlt (d : Dev) (w : Nat) (x : WallSt) : (d.setWall w x).xlt = d.xlt := rfl
@[simp] theorem Dev.setWall_par (d : Dev) (w : Nat) (x : WallSt) : (d.setWall w x).par = d.par := rfl
@[simp] theorem Dev.setWall_eng (d : Dev) (w : Nat) (x : WallSt) : (d.setWall w x).eng = d.eng := rfl
@[simp] theorem Dev.setWall_cmp (d : Dev) (w : Nat) (x : WallSt) : (d.setWall w x).cmp = d.cmp := rfl
@[simp] theorem Dev.setWall_seq (d : Dev) (w : Nat) (x : WallSt) : (d.setWall w x).seq = d.seq := rfl
@[simp] theorem Dev.setWall_fab (d : Dev) (w : Nat) (x : WallSt) : (d.setWall w x).fab = d.fab := rfl
@[simp] theorem Dev.setWall_sec (d : Dev) (w : Nat) (x : WallSt) : (d.setWall w x).sec = d.sec := rfl
@[simp] theorem Dev.setWall_meter (d : Dev) (w : Nat) (x : WallSt) : (d.setWall w x).meter = d.meter := rfl

@[simp] theorem Dev.withPar_now (d : Dev) (x : ParSt) : (d.withPar x).now = d.now := rfl
@[simp] theorem Dev.withPar_freeCtr (d : Dev) (x : ParSt) : (d.withPar x).freeCtr = d.freeCtr := rfl
@[simp] theorem Dev.withPar_boot (d : Dev) (x : ParSt) : (d.withPar x).boot = d.boot := rfl
@[simp] theorem Dev.withPar_pwr (d : Dev) (x : ParSt) : (d.withPar x).pwr = d.pwr := rfl
@[simp] theorem Dev.withPar_pins (d : Dev) (x : ParSt) : (d.withPar x).pins = d.pins := rfl
@[simp] theorem Dev.withPar_tick (d : Dev) (x : ParSt) : (d.withPar x).tick = d.tick := rfl
@[simp] theorem Dev.withPar_regs (d : Dev) (x : ParSt) : (d.withPar x).regs = d.regs := rfl
@[simp] theorem Dev.withPar_mem (d : Dev) (x : ParSt) : (d.withPar x).mem = d.mem := rfl
@[simp] theorem Dev.withPar_bricks (d : Dev) (x : ParSt) : (d.withPar x).bricks = d.bricks := rfl
@[simp] theorem Dev.withPar_sub (d : Dev) (x : ParSt) : (d.withPar x).sub = d.sub := rfl
@[simp] theorem Dev.withPar_xlt (d : Dev) (x : ParSt) : (d.withPar x).xlt = d.xlt := rfl
@[simp] theorem Dev.withPar_eng (d : Dev) (x : ParSt) : (d.withPar x).eng = d.eng := rfl
@[simp] theorem Dev.withPar_cmp (d : Dev) (x : ParSt) : (d.withPar x).cmp = d.cmp := rfl
@[simp] theorem Dev.withPar_seq (d : Dev) (x : ParSt) : (d.withPar x).seq = d.seq := rfl
@[simp] theorem Dev.withPar_fab (d : Dev) (x : ParSt) : (d.withPar x).fab = d.fab := rfl
@[simp] theorem Dev.withPar_sec (d : Dev) (x : ParSt) : (d.withPar x).sec = d.sec := rfl
@[simp] theorem Dev.withPar_meter (d : Dev) (x : ParSt) : (d.withPar x).meter = d.meter := rfl

@[simp] theorem Dev.setPool_now (d : Dev) (p : Nat) (x : Pool) : (d.setPool p x).now = d.now := rfl
@[simp] theorem Dev.setPool_freeCtr (d : Dev) (p : Nat) (x : Pool) : (d.setPool p x).freeCtr = d.freeCtr := rfl
@[simp] theorem Dev.setPool_boot (d : Dev) (p : Nat) (x : Pool) : (d.setPool p x).boot = d.boot := rfl
@[simp] theorem Dev.setPool_pwr (d : Dev) (p : Nat) (x : Pool) : (d.setPool p x).pwr = d.pwr := rfl
@[simp] theorem Dev.setPool_pins (d : Dev) (p : Nat) (x : Pool) : (d.setPool p x).pins = d.pins := rfl
@[simp] theorem Dev.setPool_tick (d : Dev) (p : Nat) (x : Pool) : (d.setPool p x).tick = d.tick := rfl
@[simp] theorem Dev.setPool_regs (d : Dev) (p : Nat) (x : Pool) : (d.setPool p x).regs = d.regs := rfl
@[simp] theorem Dev.setPool_mem (d : Dev) (p : Nat) (x : Pool) : (d.setPool p x).mem = d.mem := rfl
@[simp] theorem Dev.setPool_bricks (d : Dev) (p : Nat) (x : Pool) : (d.setPool p x).bricks = d.bricks := rfl
@[simp] theorem Dev.setPool_sub (d : Dev) (p : Nat) (x : Pool) : (d.setPool p x).sub = d.sub := rfl
@[simp] theorem Dev.setPool_xlt (d : Dev) (p : Nat) (x : Pool) : (d.setPool p x).xlt = d.xlt := rfl
@[simp] theorem Dev.setPool_par (d : Dev) (p : Nat) (x : Pool) : (d.setPool p x).par = d.par := rfl
@[simp] theorem Dev.setPool_eng (d : Dev) (p : Nat) (x : Pool) : (d.setPool p x).eng = d.eng := rfl
@[simp] theorem Dev.setPool_cmp (d : Dev) (p : Nat) (x : Pool) : (d.setPool p x).cmp = d.cmp := rfl
@[simp] theorem Dev.setPool_fab (d : Dev) (p : Nat) (x : Pool) : (d.setPool p x).fab = d.fab := rfl
@[simp] theorem Dev.setPool_sec (d : Dev) (p : Nat) (x : Pool) : (d.setPool p x).sec = d.sec := rfl
@[simp] theorem Dev.setPool_meter (d : Dev) (p : Nat) (x : Pool) : (d.setPool p x).meter = d.meter := rfl

@[simp] theorem Dev.setStream_now (d : Dev) (n : Nat) (x : CmpStream) : (d.setStream n x).now = d.now := rfl
@[simp] theorem Dev.setStream_freeCtr (d : Dev) (n : Nat) (x : CmpStream) : (d.setStream n x).freeCtr = d.freeCtr := rfl
@[simp] theorem Dev.setStream_boot (d : Dev) (n : Nat) (x : CmpStream) : (d.setStream n x).boot = d.boot := rfl
@[simp] theorem Dev.setStream_pwr (d : Dev) (n : Nat) (x : CmpStream) : (d.setStream n x).pwr = d.pwr := rfl
@[simp] theorem Dev.setStream_pins (d : Dev) (n : Nat) (x : CmpStream) : (d.setStream n x).pins = d.pins := rfl
@[simp] theorem Dev.setStream_tick (d : Dev) (n : Nat) (x : CmpStream) : (d.setStream n x).tick = d.tick := rfl
@[simp] theorem Dev.setStream_regs (d : Dev) (n : Nat) (x : CmpStream) : (d.setStream n x).regs = d.regs := rfl
@[simp] theorem Dev.setStream_mem (d : Dev) (n : Nat) (x : CmpStream) : (d.setStream n x).mem = d.mem := rfl
@[simp] theorem Dev.setStream_bricks (d : Dev) (n : Nat) (x : CmpStream) : (d.setStream n x).bricks = d.bricks := rfl
@[simp] theorem Dev.setStream_sub (d : Dev) (n : Nat) (x : CmpStream) : (d.setStream n x).sub = d.sub := rfl
@[simp] theorem Dev.setStream_xlt (d : Dev) (n : Nat) (x : CmpStream) : (d.setStream n x).xlt = d.xlt := rfl
@[simp] theorem Dev.setStream_par (d : Dev) (n : Nat) (x : CmpStream) : (d.setStream n x).par = d.par := rfl
@[simp] theorem Dev.setStream_eng (d : Dev) (n : Nat) (x : CmpStream) : (d.setStream n x).eng = d.eng := rfl
@[simp] theorem Dev.setStream_seq (d : Dev) (n : Nat) (x : CmpStream) : (d.setStream n x).seq = d.seq := rfl
@[simp] theorem Dev.setStream_fab (d : Dev) (n : Nat) (x : CmpStream) : (d.setStream n x).fab = d.fab := rfl
@[simp] theorem Dev.setStream_sec (d : Dev) (n : Nat) (x : CmpStream) : (d.setStream n x).sec = d.sec := rfl
@[simp] theorem Dev.setStream_meter (d : Dev) (n : Nat) (x : CmpStream) : (d.setStream n x).meter = d.meter := rfl

@[simp] theorem Dev.setSpace_now (d : Dev) (n : Nat) (x : AsSt) : (d.setSpace n x).now = d.now := rfl
@[simp] theorem Dev.setSpace_freeCtr (d : Dev) (n : Nat) (x : AsSt) : (d.setSpace n x).freeCtr = d.freeCtr := rfl
@[simp] theorem Dev.setSpace_boot (d : Dev) (n : Nat) (x : AsSt) : (d.setSpace n x).boot = d.boot := rfl
@[simp] theorem Dev.setSpace_pwr (d : Dev) (n : Nat) (x : AsSt) : (d.setSpace n x).pwr = d.pwr := rfl
@[simp] theorem Dev.setSpace_pins (d : Dev) (n : Nat) (x : AsSt) : (d.setSpace n x).pins = d.pins := rfl
@[simp] theorem Dev.setSpace_tick (d : Dev) (n : Nat) (x : AsSt) : (d.setSpace n x).tick = d.tick := rfl
@[simp] theorem Dev.setSpace_regs (d : Dev) (n : Nat) (x : AsSt) : (d.setSpace n x).regs = d.regs := rfl
@[simp] theorem Dev.setSpace_mem (d : Dev) (n : Nat) (x : AsSt) : (d.setSpace n x).mem = d.mem := rfl
@[simp] theorem Dev.setSpace_bricks (d : Dev) (n : Nat) (x : AsSt) : (d.setSpace n x).bricks = d.bricks := rfl
@[simp] theorem Dev.setSpace_sub (d : Dev) (n : Nat) (x : AsSt) : (d.setSpace n x).sub = d.sub := rfl
@[simp] theorem Dev.setSpace_par (d : Dev) (n : Nat) (x : AsSt) : (d.setSpace n x).par = d.par := rfl
@[simp] theorem Dev.setSpace_eng (d : Dev) (n : Nat) (x : AsSt) : (d.setSpace n x).eng = d.eng := rfl
@[simp] theorem Dev.setSpace_cmp (d : Dev) (n : Nat) (x : AsSt) : (d.setSpace n x).cmp = d.cmp := rfl
@[simp] theorem Dev.setSpace_seq (d : Dev) (n : Nat) (x : AsSt) : (d.setSpace n x).seq = d.seq := rfl
@[simp] theorem Dev.setSpace_fab (d : Dev) (n : Nat) (x : AsSt) : (d.setSpace n x).fab = d.fab := rfl
@[simp] theorem Dev.setSpace_sec (d : Dev) (n : Nat) (x : AsSt) : (d.setSpace n x).sec = d.sec := rfl
@[simp] theorem Dev.setSpace_meter (d : Dev) (n : Nat) (x : AsSt) : (d.setSpace n x).meter = d.meter := rfl

@[simp] theorem State.withDev_dev (s : State) (d : Dev) : (s.withDev d).dev = d := rfl
@[simp] theorem State.withDev_nv (s : State) (d : Dev) : (s.withDev d).nv = s.nv := rfl
@[simp] theorem State.withDev_pending (s : State) (d : Dev) : (s.withDev d).pending = s.pending := rfl
@[simp] theorem State.withDev_self (s : State) : s.withDev s.dev = s := rfl

end Sys2Proof.Machine
end

