-- ==== Sys2Proof/Laws/Maps.lean ====
section
/-! SUPPORT. Finite maps: what a lookup finds after an update. -/

namespace Sys2Proof.Machine

@[simp] theorem NMap.get?_set_self {α : Type} (m : NMap α) (k : Nat) (v : α) : NMap.get? (NMap.set m k v) k = some v := by
  induction m with
  | nil => simp [NMap.set, NMap.get?]
  | cons e t ih =>
    obtain ⟨k', v'⟩ := e
    simp only [NMap.set]
    split
    · simp [NMap.get?]
    · split
      · simp [NMap.get?]
      · rename_i h; simp [NMap.get?, Ne.symm h, ih]

theorem NMap.get?_set_ne {α : Type} (m : NMap α) {k j : Nat} (v : α) (h : j ≠ k) :
    NMap.get? (NMap.set m k v) j = NMap.get? m j := by
  induction m with
  | nil => simp [NMap.set, NMap.get?, Ne.symm h]
  | cons e t ih =>
    obtain ⟨k', v'⟩ := e
    simp only [NMap.set]
    split
    · simp [NMap.get?, Ne.symm h]
    · split
      · rename_i h2; subst h2; simp [NMap.get?, Ne.symm h]
      · simp [NMap.get?, ih]

@[simp] theorem NMap.set_set {α : Type} (m : NMap α) (k : Nat) (v w : α) : NMap.set (NMap.set m k v) k w = NMap.set m k w := by
  induction m with
  | nil => simp [NMap.set]
  | cons e t ih =>
    obtain ⟨k', v'⟩ := e
    simp only [NMap.set]
    split
    · simp [NMap.set]
    · split
      · simp [NMap.set]
      · rename_i h1 h2; simp [NMap.set, h1, h2, ih]

@[simp] theorem NMap.getD_set_self {α : Type} (m : NMap α) (k : Nat) (v d : α) : NMap.getD (NMap.set m k v) k d = v := by
  simp [NMap.getD]

theorem NMap.getD_set_ne {α : Type} (m : NMap α) {k j : Nat} (v d : α) (h : j ≠ k) :
    NMap.getD (NMap.set m k v) j d = NMap.getD m j d := by simp [NMap.getD, NMap.get?_set_ne m v h]

@[simp] theorem Dev.setRing_ring (d : Dev) (i : Nat) (r : Ring) : (d.setRing i r).ring i = r := by
  simp [Dev.setRing, Dev.ring]

theorem Dev.setRing_ring_ne (d : Dev) {i j : Nat} (r : Ring) (h : j ≠ i) : (d.setRing i r).ring j = d.ring j := by
  simp [Dev.setRing, Dev.ring, NMap.getD_set_ne _ _ _ h]

@[simp] theorem Dev.setPort_port (d : Dev) (p : Nat) (x : Port) : (d.setPort p x).port p = x := by
  simp [Dev.setPort, Dev.port]

theorem Dev.setPort_port_ne (d : Dev) {p q : Nat} (x : Port) (h : q ≠ p) : (d.setPort p x).port q = d.port q := by
  simp [Dev.setPort, Dev.port, NMap.getD_set_ne _ _ _ h]

@[simp] theorem Dev.setBrick_brick (d : Dev) (n : Nat) (b : Brick) : (d.setBrick n b).brick n = b := by
  simp [Dev.setBrick, Dev.brick]

theorem Dev.setBrick_brick_ne (d : Dev) {n m : Nat} (b : Brick) (h : m ≠ n) : (d.setBrick n b).brick m = d.brick m := by
  simp [Dev.setBrick, Dev.brick, NMap.getD_set_ne _ _ _ h]

@[simp] theorem Dev.setEntry_entry (d : Dev) (i : Nat) (e : Entry) : (d.setEntry i e).entry i = e := by
  simp [Dev.setEntry, Dev.entry]

theorem Dev.setEntry_entry_ne (d : Dev) {i j : Nat} (e : Entry) (h : j ≠ i) : (d.setEntry i e).entry j = d.entry j := by
  simp [Dev.setEntry, Dev.entry, NMap.getD_set_ne _ _ _ h]

@[simp] theorem Dev.setWall_wall (d : Dev) (w : Nat) (x : WallSt) : (d.setWall w x).wall w = x := by
  simp [Dev.setWall, Dev.withPwr, Dev.wall]

/-- The value of a register after a write of it. -/
@[simp] theorem RegSt.get_put_self (r : RegSt) (off reset : Nat) (v : Wide) : (r.put off reset v).get off reset = v := by
  unfold RegSt.put RegSt.get NMap.getD
  split
  · rename_i h
    have : NMap.get? (NMap.erase r.file off) off = none := by
      generalize r.file = m
      induction m with
      | nil => rfl
      | cons e t ih =>
        simp only [NMap.erase, List.filter_cons]
        split
        · rename_i h2; simp at h2; simpa [NMap.get?, h2, NMap.erase] using ih
        · exact ih
    simp [this, h]
  · simp

end Sys2Proof.Machine
end

