-- ==== Sys2Proof/Laws/Rows.lean ====
section
/-! SUPPORT. What a row answers: the outcome of a command whose row finds what it acts on, and of one whose row does not. -/

namespace Sys2Proof.Machine

/-! ## Commands of a source -/

theorem runRow_issued {d d' : Dev} {src row} {c : Cmd} (act : Dev → Cmd → Dev) (h : d.issued src row = some (d', c)) :
    d.ready src = true ∧ d.runRow src row act = settled src (act d' c) := by
  cases src with
  | ring i n =>
    simp only [Dev.issued] at h
    split at h
    · split at h
      · rename_i hc hb; cases h; simp [Dev.ready, Dev.runRow, settled, hc, hb]
      · cases h
    · cases h
  | gotik p a l =>
    simp only [Dev.issued] at h
    split at h
    · rename_i hl
      split at h
      · split at h
        · rename_i hg ha; cases h; simp [Dev.ready, Dev.runRow, settled, hl.1, hl.2, hg, ha]
        · cases h
      · cases h
    · cases h

theorem ringRow_starts {s src row d c} (act : Dev → Cmd → Dev) (h : Starts s src row d c) :
    s.ringRow src row act = .next (s.withDev (settled src (act d c))) := by
  obtain ⟨h1, h2⟩ := runRow_issued act h.2
  simp [State.withDev, State.ringRow, State.act, h.1, h1, h2]

theorem act_serves {s : State} {f} (h : s.dev.serves = true) : s.act f = .next (s.withDev (f s.dev)) := by
  simp [State.withDev, State.act, h]

theorem withBlock_res {s : State} {r n b f} (h : Resident s r n b) : s.dev.withBlock r f = f n b := by
  have h2 := h.2.2.2
  simp only [Dev.withBlock, h.2.1, h.2.2.1, h2, Bool.or_self]
  rfl
theorem res_serves {s : State} {r n b} (h : Resident s r n b) : s.dev.serves = true := h.1

theorem not_serves {s : State} {f} (h : s.dev.serves = false) : s.act f = .next s := by
  simp [State.act, h]

theorem regRow_serves {s : State} {src off f} (h : s.dev.serves = true) :
    s.regRow src off f = .next (s.withDev ((f (s.dev.touch src off)).answered src off (s.dev.writeStatus src off))) := act_serves h

theorem regRowIf_serves {s : State} {src off f} (h : s.dev.serves = true) (hw : s.dev.mayWriteReg src off = true) :
    s.regRowIf src off f = .next (s.withDev ((f s.dev.leaveIdle).answered src off (s.dev.writeStatus src off))) := by
  rw [State.regRowIf, act_serves h, if_pos hw]

theorem domainRow_serves {s : State} {f} (h : s.dev.serves = true) :
    s.domainRow f = .next (s.withDev ((f s.dev s.nv).serveHeld s.nv)) := act_serves h

theorem always_next {s : State} {f} : s.always f = .next (s.withDev (f s.dev)) := rfl

theorem actNv_serves {s : State} {f : Dev → Nv → Dev × Nv} (h : s.dev.serves = true) :
    s.actNv f = .next { s with dev := (f s.dev s.nv).1, nv := (f s.dev s.nv).2 } := by
  simp [State.actNv, h]

/-- A signed-command row acts on the command that the source issues. -/
theorem signedRow_issued {d d' : Dev} {src nv op} {c : Cmd} (h : d.issued src (isOp 0x70) = some (d', c)) :
    d.ready src = true ∧ d.signedRow nv src op = (settled src (d'.runSigned nv op c).1, (d'.runSigned nv op c).2) := by
  cases src with
  | ring i n =>
    simp only [Dev.issued] at h
    split at h
    · split at h
      · rename_i hc hb; cases h; simp [Dev.ready, Dev.signedRow, settled, hc, hb]
      · cases h
    · cases h
  | gotik p a l =>
    simp only [Dev.issued] at h
    split at h
    · rename_i hl
      split at h
      · split at h
        · rename_i hg ha; cases h; simp [Dev.ready, Dev.signedRow, settled, hl.1, hl.2, hg, ha]
        · cases h
      · cases h
    · cases h

theorem signedRow_starts {s : State} {src op d c} (h : Starts s src (isOp 0x70) d c) :
    s.signedRow src op = .next { s with
      dev := settled src (d.runSigned s.nv op c).1, nv := (d.runSigned s.nv op c).2 } := by
  obtain ⟨h1, h2⟩ := signedRow_issued (nv := s.nv) (op := op) h.2
  simp [State.signedRow, State.actNv, h.1, h1, h2]

/-- FAULT_RESUME's row acts on the command that the source issues. -/
theorem resumeRow_issued {d d' : Dev} {src nv} {c : Cmd} (h : d.issued src (isOp 0x48) = some (d', c)) :
    d.ready src = true ∧ d.resumeRow nv src = (settled src (d'.runResume nv c).1, (d'.runResume nv c).2) := by
  cases src with
  | ring i n =>
    simp only [Dev.issued] at h
    split at h
    · split at h
      · rename_i hc hb; cases h; simp [Dev.ready, Dev.resumeRow, settled, hc, hb]
      · cases h
    · cases h
  | gotik p a l =>
    simp only [Dev.issued] at h
    split at h
    · rename_i hl
      split at h
      · split at h
        · rename_i hg ha; cases h; simp [Dev.ready, Dev.resumeRow, settled, hl.1, hl.2, hg, ha]
        · cases h
      · cases h
    · cases h

/-! ## Conditions of service -/

theorem serves_live {d : Dev} (h : d.serves = true) : d.live = true := by
  simp [Dev.serves] at h; exact h.1.1

theorem leaveIdle_run {d : Dev} (h : d.pwr.state = .run) : d.leaveIdle = d := by simp [Dev.leaveIdle, h]

theorem wakeBy_run {d : Dev} (w) (h : d.pwr.state = .run) (he : d.pwr.entering = none) : d.wakeBy w = d := by
  simp [Dev.wakeBy, h, he]

/-! ## Counting leaves all but the registers alone -/

theorem foldl_regs {α : Type} (f : Dev → α → Dev) (hf : ∀ d a, ∃ r, f d a = { d with regs := r }) :
    ∀ (l : List α) (d : Dev), ∃ r, l.foldl f d = { d with regs := r } := by
  intro l; induction l with
  | nil => intro d; exact ⟨d.regs, rfl⟩
  | cons a t ih =>
    intro d
    obtain ⟨r, hr⟩ := hf d a
    obtain ⟨r', hr'⟩ := ih (f d a)
    exact ⟨r', by rw [List.foldl_cons, hr', hr]⟩

/-- Counting an event changes registers only. -/
theorem Dev.count_eq (d : Dev) (e n : Nat) (a : Attr) : ∃ r, d.count e n a = { d with regs := r } := by
  unfold Dev.count
  split
  · exact foldl_regs _ (fun d e => ⟨_, rfl⟩) _ _
  · exact ⟨d.regs, rfl⟩

@[simp] theorem Dev.count_now (d : Dev) (e n : Nat) (a : Attr) : (d.count e n a).now = d.now := by
  obtain ⟨r, h⟩ := d.count_eq e n a; rw [h]
@[simp] theorem Dev.count_freeCtr (d : Dev) (e n : Nat) (a : Attr) : (d.count e n a).freeCtr = d.freeCtr := by
  obtain ⟨r, h⟩ := d.count_eq e n a; rw [h]
@[simp] theorem Dev.count_boot (d : Dev) (e n : Nat) (a : Attr) : (d.count e n a).boot = d.boot := by
  obtain ⟨r, h⟩ := d.count_eq e n a; rw [h]
@[simp] theorem Dev.count_pwr (d : Dev) (e n : Nat) (a : Attr) : (d.count e n a).pwr = d.pwr := by
  obtain ⟨r, h⟩ := d.count_eq e n a; rw [h]
@[simp] theorem Dev.count_pins (d : Dev) (e n : Nat) (a : Attr) : (d.count e n a).pins = d.pins := by
  obtain ⟨r, h⟩ := d.count_eq e n a; rw [h]
@[simp] theorem Dev.count_tick (d : Dev) (e n : Nat) (a : Attr) : (d.count e n a).tick = d.tick := by
  obtain ⟨r, h⟩ := d.count_eq e n a; rw [h]
@[simp] theorem Dev.count_mem (d : Dev) (e n : Nat) (a : Attr) : (d.count e n a).mem = d.mem := by
  obtain ⟨r, h⟩ := d.count_eq e n a; rw [h]
@[simp] theorem Dev.count_bricks (d : Dev) (e n : Nat) (a : Attr) : (d.count e n a).bricks = d.bricks := by
  obtain ⟨r, h⟩ := d.count_eq e n a; rw [h]
@[simp] theorem Dev.count_sub (d : Dev) (e n : Nat) (a : Attr) : (d.count e n a).sub = d.sub := by
  obtain ⟨r, h⟩ := d.count_eq e n a; rw [h]
@[simp] theorem Dev.count_xlt (d : Dev) (e n : Nat) (a : Attr) : (d.count e n a).xlt = d.xlt := by
  obtain ⟨r, h⟩ := d.count_eq e n a; rw [h]
@[simp] theorem Dev.count_par (d : Dev) (e n : Nat) (a : Attr) : (d.count e n a).par = d.par := by
  obtain ⟨r, h⟩ := d.count_eq e n a; rw [h]
@[simp] theorem Dev.count_eng (d : Dev) (e n : Nat) (a : Attr) : (d.count e n a).eng = d.eng := by
  obtain ⟨r, h⟩ := d.count_eq e n a; rw [h]
@[simp] theorem Dev.count_cmp (d : Dev) (e n : Nat) (a : Attr) : (d.count e n a).cmp = d.cmp := by
  obtain ⟨r, h⟩ := d.count_eq e n a; rw [h]
@[simp] theorem Dev.count_seq (d : Dev) (e n : Nat) (a : Attr) : (d.count e n a).seq = d.seq := by
  obtain ⟨r, h⟩ := d.count_eq e n a; rw [h]
@[simp] theorem Dev.count_fab (d : Dev) (e n : Nat) (a : Attr) : (d.count e n a).fab = d.fab := by
  obtain ⟨r, h⟩ := d.count_eq e n a; rw [h]
@[simp] theorem Dev.count_sec (d : Dev) (e n : Nat) (a : Attr) : (d.count e n a).sec = d.sec := by
  obtain ⟨r, h⟩ := d.count_eq e n a; rw [h]
@[simp] theorem Dev.count_meter (d : Dev) (e n : Nat) (a : Attr) : (d.count e n a).meter = d.meter := by
  obtain ⟨r, h⟩ := d.count_eq e n a; rw [h]
@[simp] theorem Dev.txBytes_now (d : Dev) (p n : Nat) : (d.txBytes p n).now = d.now := by simp [Dev.txBytes]
@[simp] theorem Dev.txBytes_freeCtr (d : Dev) (p n : Nat) : (d.txBytes p n).freeCtr = d.freeCtr := by simp [Dev.txBytes]
@[simp] theorem Dev.txBytes_boot (d : Dev) (p n : Nat) : (d.txBytes p n).boot = d.boot := by simp [Dev.txBytes]
@[simp] theorem Dev.txBytes_pwr (d : Dev) (p n : Nat) : (d.txBytes p n).pwr = d.pwr := by simp [Dev.txBytes]
@[simp] theorem Dev.txBytes_pins (d : Dev) (p n : Nat) : (d.txBytes p n).pins = d.pins := by simp [Dev.txBytes]
@[simp] theorem Dev.txBytes_tick (d : Dev) (p n : Nat) : (d.txBytes p n).tick = d.tick := by simp [Dev.txBytes]
@[simp] theorem Dev.txBytes_mem (d : Dev) (p n : Nat) : (d.txBytes p n).mem = d.mem := by simp [Dev.txBytes]
@[simp] theorem Dev.txBytes_bricks (d : Dev) (p n : Nat) : (d.txBytes p n).bricks = d.bricks := by simp [Dev.txBytes]
@[simp] theorem Dev.txBytes_sub (d : Dev) (p n : Nat) : (d.txBytes p n).sub = d.sub := by simp [Dev.txBytes]
@[simp] theorem Dev.txBytes_xlt (d : Dev) (p n : Nat) : (d.txBytes p n).xlt = d.xlt := by simp [Dev.txBytes]
@[simp] theorem Dev.txBytes_par (d : Dev) (p n : Nat) : (d.txBytes p n).par = d.par := by simp [Dev.txBytes]
@[simp] theorem Dev.txBytes_eng (d : Dev) (p n : Nat) : (d.txBytes p n).eng = d.eng := by simp [Dev.txBytes]
@[simp] theorem Dev.txBytes_cmp (d : Dev) (p n : Nat) : (d.txBytes p n).cmp = d.cmp := by simp [Dev.txBytes]
@[simp] theorem Dev.txBytes_seq (d : Dev) (p n : Nat) : (d.txBytes p n).seq = d.seq := by simp [Dev.txBytes]
@[simp] theorem Dev.txBytes_fab (d : Dev) (p n : Nat) : (d.txBytes p n).fab = d.fab := by simp [Dev.txBytes]
@[simp] theorem Dev.txBytes_sec (d : Dev) (p n : Nat) : (d.txBytes p n).sec = d.sec := by simp [Dev.txBytes]
@[simp] theorem Dev.rxBytes_now (d : Dev) (p n : Nat) : (d.rxBytes p n).now = d.now := by simp [Dev.rxBytes]
@[simp] theorem Dev.rxBytes_freeCtr (d : Dev) (p n : Nat) : (d.rxBytes p n).freeCtr = d.freeCtr := by simp [Dev.rxBytes]
@[simp] theorem Dev.rxBytes_boot (d : Dev) (p n : Nat) : (d.rxBytes p n).boot = d.boot := by simp [Dev.rxBytes]
@[simp] theorem Dev.rxBytes_pwr (d : Dev) (p n : Nat) : (d.rxBytes p n).pwr = d.pwr := by simp [Dev.rxBytes]
@[simp] theorem Dev.rxBytes_pins (d : Dev) (p n : Nat) : (d.rxBytes p n).pins = d.pins := by simp [Dev.rxBytes]
@[simp] theorem Dev.rxBytes_tick (d : Dev) (p n : Nat) : (d.rxBytes p n).tick = d.tick := by simp [Dev.rxBytes]
@[simp] theorem Dev.rxBytes_mem (d : Dev) (p n : Nat) : (d.rxBytes p n).mem = d.mem := by simp [Dev.rxBytes]
@[simp] theorem Dev.rxBytes_bricks (d : Dev) (p n : Nat) : (d.rxBytes p n).bricks = d.bricks := by simp [Dev.rxBytes]
@[simp] theorem Dev.rxBytes_sub (d : Dev) (p n : Nat) : (d.rxBytes p n).sub = d.sub := by simp [Dev.rxBytes]
@[simp] theorem Dev.rxBytes_xlt (d : Dev) (p n : Nat) : (d.rxBytes p n).xlt = d.xlt := by simp [Dev.rxBytes]
@[simp] theorem Dev.rxBytes_par (d : Dev) (p n : Nat) : (d.rxBytes p n).par = d.par := by simp [Dev.rxBytes]
@[simp] theorem Dev.rxBytes_eng (d : Dev) (p n : Nat) : (d.rxBytes p n).eng = d.eng := by simp [Dev.rxBytes]
@[simp] theorem Dev.rxBytes_cmp (d : Dev) (p n : Nat) : (d.rxBytes p n).cmp = d.cmp := by simp [Dev.rxBytes]
@[simp] theorem Dev.rxBytes_seq (d : Dev) (p n : Nat) : (d.rxBytes p n).seq = d.seq := by simp [Dev.rxBytes]
@[simp] theorem Dev.rxBytes_fab (d : Dev) (p n : Nat) : (d.rxBytes p n).fab = d.fab := by simp [Dev.rxBytes]
@[simp] theorem Dev.rxBytes_sec (d : Dev) (p n : Nat) : (d.rxBytes p n).sec = d.sec := by simp [Dev.rxBytes]
@[simp] theorem Dev.count_ring (d : Dev) (e n : Nat) (a : Attr) (i : Nat) : (d.count e n a).ring i = d.ring i := by
  simp [Dev.ring]
@[simp] theorem Dev.rxBytes_port (d : Dev) (p n q : Nat) : (d.rxBytes p n).port q = d.port q := by simp [Dev.port]
@[simp] theorem Dev.setFld_port (d : Dev) (f i v) (q : Nat) : (d.setFld f i v).port q = d.port q := rfl
@[simp] theorem Dev.bump_port (d : Dev) (f i n) (q : Nat) : (d.bump f i n).port q = d.port q := rfl

end Sys2Proof.Machine
end

