-- ==== Sys2Proof/Laws/Clock.lean ====
section
/-! SUPPORT. Passing time: what `advanceTo` leaves alone. -/

namespace Sys2Proof.Machine

theorem foldl_rings {α : Type} (f : Dev → α → Dev) (hf : ∀ d a, ∃ r, f d a = d.withRings r) :
    ∀ (l : List α) (d : Dev), ∃ r, l.foldl f d = d.withRings r := by
  intro l; induction l with
  | nil => intro d; exact ⟨d.sub.rings, rfl⟩
  | cons a t ih =>
    intro d
    obtain ⟨r, hr⟩ := hf d a
    obtain ⟨r', hr'⟩ := ih (f d a)
    exact ⟨r', by rw [List.foldl_cons, hr', hr]; rfl⟩

/-- The brick time of a brick goes to rings only. -/
theorem Dev.chargeBrick_eq (d : Dev) (b : Brick) (dt : Nat) : ∃ r, d.chargeBrick b dt = d.withRings r :=
  foldl_rings _ (fun _ _ => ⟨_, rfl⟩) _ _

/-- Counting changes counter registers and the index of the next free value only. -/
def Dev.Counted (d e : Dev) : Prop := ∃ g r, e = { d with freeCtr := g, regs := r }

theorem Dev.Counted.refl (d : Dev) : d.Counted d := ⟨d.freeCtr, d.regs, rfl⟩

theorem Dev.Counted.trans {a b c : Dev} (h : a.Counted b) (k : b.Counted c) : a.Counted c := by
  obtain ⟨_, _, rfl⟩ := h; obtain ⟨g, r, rfl⟩ := k; exact ⟨g, r, rfl⟩

theorem Dev.count_counted (d : Dev) (e n : Nat) (a : Attr) : d.Counted (d.count e n a) := by
  obtain ⟨r, hr⟩ := d.count_eq e n a; exact ⟨d.freeCtr, r, hr⟩

theorem foldl_counted {α : Type} (f : Dev → α → Dev) (hf : ∀ (d : Dev) a, d.Counted (f d a)) (l : List α) (d : Dev) : d.Counted (l.foldl f d) := by
  induction l generalizing d with
  | nil => exact .refl d
  | cons a t ih => exact (hf d a).trans (ih _)

theorem Dev.blockClocks_counted (d : Dev) (n k : Nat) (b : Block) : d.Counted (d.blockClocks n k b) := by
  have h : ∀ e : Dev, e.Counted e.fresh.2 := fun e => ⟨_, e.regs, rfl⟩
  unfold Dev.blockClocks
  simp only []
  split
  · exact .refl d
  · split
    · exact (Dev.count_counted _ _ _ _).trans ((h _).trans (Dev.count_counted _ _ _ _))
    · exact (Dev.count_counted _ _ _ _).trans ((Dev.count_counted _ _ _ _).trans ((h _).trans (Dev.count_counted _ _ _ _)))

/-- What bricks count is counters only. -/
theorem Dev.countClocks_counted (d : Dev) (t : Nat) : d.Counted (d.countClocks t) := by
  unfold Dev.countClocks
  split
  · refine foldl_counted _ (fun d e => ?_) _ _
    split
    · exact (Dev.count_counted _ _ _ _).trans (foldl_counted _ (fun d x => Dev.blockClocks_counted _ _ _ _) _ _)
    · exact .refl d
  · exact .refl d

/-- Passing time changes the clock, counters, the bricks, the brick time of rings and the meters. -/
theorem Dev.advanceTo_eq (d : Dev) (t : Nat) :
    ∃ n g x b r m, d.advanceTo t = { d with now := n, freeCtr := g, regs := x, bricks := b, sub := { d.sub with rings := r }, meter := m } := by
  unfold Dev.advanceTo
  split
  · exact ⟨d.now, d.freeCtr, d.regs, d.bricks, d.sub.rings, d.meter, rfl⟩
  · obtain ⟨g, x, hc⟩ := d.countClocks_counted t
    obtain ⟨r', hr'⟩ := foldl_rings (fun (d' : Dev) (e : Nat × Brick) => d'.chargeBrick e.2 (t - d.now))
      (fun d' e => d'.chargeBrick_eq e.2 _) (d.countClocks t).bricks (d.countClocks t)
    dsimp only
    rw [hr', hc]
    split
    · exact ⟨t, g, x, _, r', _, rfl⟩
    · exact ⟨t, g, x, _, r', _, rfl⟩

/-- After an advance to `t` the clock is at least at `t`. -/
theorem Dev.advanceTo_now (d : Dev) (t : Nat) : (d.advanceTo t).now = max d.now t := by
  unfold Dev.advanceTo
  split
  · omega
  · simp only; omega

@[simp] theorem Dev.advanceTo_boot (d : Dev) (t : Nat) : (d.advanceTo t).boot = d.boot := by
  obtain ⟨_, _, _, _, _, _, h⟩ := d.advanceTo_eq t; rw [h]
@[simp] theorem Dev.advanceTo_pwr (d : Dev) (t : Nat) : (d.advanceTo t).pwr = d.pwr := by
  obtain ⟨_, _, _, _, _, _, h⟩ := d.advanceTo_eq t; rw [h]
@[simp] theorem Dev.advanceTo_pins (d : Dev) (t : Nat) : (d.advanceTo t).pins = d.pins := by
  obtain ⟨_, _, _, _, _, _, h⟩ := d.advanceTo_eq t; rw [h]
@[simp] theorem Dev.advanceTo_tick (d : Dev) (t : Nat) : (d.advanceTo t).tick = d.tick := by
  obtain ⟨_, _, _, _, _, _, h⟩ := d.advanceTo_eq t; rw [h]
@[simp] theorem Dev.advanceTo_mem (d : Dev) (t : Nat) : (d.advanceTo t).mem = d.mem := by
  obtain ⟨_, _, _, _, _, _, h⟩ := d.advanceTo_eq t; rw [h]
@[simp] theorem Dev.advanceTo_xlt (d : Dev) (t : Nat) : (d.advanceTo t).xlt = d.xlt := by
  obtain ⟨_, _, _, _, _, _, h⟩ := d.advanceTo_eq t; rw [h]
@[simp] theorem Dev.advanceTo_par (d : Dev) (t : Nat) : (d.advanceTo t).par = d.par := by
  obtain ⟨_, _, _, _, _, _, h⟩ := d.advanceTo_eq t; rw [h]
@[simp] theorem Dev.advanceTo_eng (d : Dev) (t : Nat) : (d.advanceTo t).eng = d.eng := by
  obtain ⟨_, _, _, _, _, _, h⟩ := d.advanceTo_eq t; rw [h]
@[simp] theorem Dev.advanceTo_cmp (d : Dev) (t : Nat) : (d.advanceTo t).cmp = d.cmp := by
  obtain ⟨_, _, _, _, _, _, h⟩ := d.advanceTo_eq t; rw [h]
@[simp] theorem Dev.advanceTo_seq (d : Dev) (t : Nat) : (d.advanceTo t).seq = d.seq := by
  obtain ⟨_, _, _, _, _, _, h⟩ := d.advanceTo_eq t; rw [h]
@[simp] theorem Dev.advanceTo_fab (d : Dev) (t : Nat) : (d.advanceTo t).fab = d.fab := by
  obtain ⟨_, _, _, _, _, _, h⟩ := d.advanceTo_eq t; rw [h]
@[simp] theorem Dev.advanceTo_sec (d : Dev) (t : Nat) : (d.advanceTo t).sec = d.sec := by
  obtain ⟨_, _, _, _, _, _, h⟩ := d.advanceTo_eq t; rw [h]
@[simp] theorem Dev.advanceTo_cmds (d : Dev) (t : Nat) : (d.advanceTo t).sub.cmds = d.sub.cmds := by
  obtain ⟨_, _, _, _, _, _, h⟩ := d.advanceTo_eq t; rw [h]
@[simp] theorem Dev.advanceTo_entries (d : Dev) (t : Nat) : (d.advanceTo t).sub.entries = d.sub.entries := by
  obtain ⟨_, _, _, _, _, _, h⟩ := d.advanceTo_eq t; rw [h]
@[simp] theorem Dev.advanceTo_port (d : Dev) (t p : Nat) : (d.advanceTo t).port p = d.port p := by
  obtain ⟨_, _, _, _, _, _, h⟩ := d.advanceTo_eq t; rw [h]; rfl
@[simp] theorem Dev.advanceTo_qp (d : Dev) (t q : Nat) : (d.advanceTo t).qp q = d.qp q := by
  obtain ⟨_, _, _, _, _, _, h⟩ := d.advanceTo_eq t; rw [h]; rfl
@[simp] theorem Dev.advanceTo_wall (d : Dev) (t w : Nat) : (d.advanceTo t).wall w = d.wall w := by
  obtain ⟨_, _, _, _, _, _, h⟩ := d.advanceTo_eq t; rw [h]; rfl
@[simp] theorem Dev.advanceTo_serves (d : Dev) (t : Nat) : (d.advanceTo t).serves = d.serves := by
  obtain ⟨_, _, _, _, _, _, h⟩ := d.advanceTo_eq t; rw [h]; rfl

end Sys2Proof.Machine
end

