-- ==== Sys2Proof/Laws/Memory.lean ====
section
/-! SUPPORT. Byte stores: a read after a write, and that every write keeps the canonical form. -/

namespace Sys2Proof.Machine

/-! ## Cells -/

theorem cellAt_none_of_below : ∀ {l : List Host.Cell} {a : Nat}, (∀ c ∈ l, a < c.1) → cellAt l a = none := by
  intro l; induction l with
  | nil => intro a _; rfl
  | cons c t ih =>
    intro a h
    have h1 := h c (List.mem_cons_self ..)
    simp [cellAt, Nat.ne_of_gt h1, h1]

/-- Every cell after the first of a rising list lies above it. -/
theorem risingCells_cons {k : Nat} {v : Byte} {t : List Host.Cell} :
    risingCells ((k, v) :: t) = true ↔ (∀ c ∈ t, k < c.1) ∧ risingCells t = true := by
  simp [risingCells]

theorem mem_putCell {a : Nat} {v : Byte} : ∀ {l : List Host.Cell} {c : Host.Cell}, c ∈ putCell a v l → c = (a, v) ∨ c ∈ l := by
  intro l; induction l with
  | nil => intro c h; simp [putCell] at h; exact .inl h
  | cons d t ih =>
    intro c h
    simp only [putCell] at h
    split at h
    · simpa using h
    · split at h
      · rcases List.mem_cons.1 h with h | h
        · exact .inl h
        · exact .inr (List.mem_cons_of_mem _ h)
      · rcases List.mem_cons.1 h with h | h
        · exact .inr (h ▸ List.mem_cons_self ..)
        · exact (ih h).imp id (List.mem_cons_of_mem _)

theorem mem_dropCell {a : Nat} : ∀ {l : List Host.Cell} {c : Host.Cell}, c ∈ dropCell a l → c ∈ l := by
  intro l; induction l with
  | nil => intro c h; simp [dropCell] at h
  | cons d t ih =>
    intro c h
    simp only [dropCell] at h
    split at h
    · exact List.mem_cons_of_mem _ h
    · split at h
      · exact h
      · rcases List.mem_cons.1 h with h | h
        · exact h ▸ List.mem_cons_self ..
        · exact List.mem_cons_of_mem _ (ih h)

theorem risingCells_putCell {a : Nat} {v : Byte} : ∀ {l : List Host.Cell}, risingCells l = true → risingCells (putCell a v l) = true := by
  intro l; induction l with
  | nil => intro _; rfl
  | cons d t ih =>
    obtain ⟨k, w⟩ := d
    intro h
    have h' := risingCells_cons.1 h
    simp only [putCell]
    split
    · rename_i hk
      refine risingCells_cons.2 ⟨?_, h⟩
      intro c hc
      rcases List.mem_cons.1 hc with hc | hc
      · subst hc; exact hk
      · exact Nat.lt_trans hk (h'.1 c hc)
    · split
      · rename_i hk; subst hk; exact risingCells_cons.2 h'
      · rename_i h1 h2
        refine risingCells_cons.2 ⟨?_, ih h'.2⟩
        intro c hc
        rcases mem_putCell hc with hc | hc
        · subst hc; exact Nat.lt_of_le_of_ne (Nat.le_of_not_lt h1) (Ne.symm h2)
        · exact h'.1 c hc

theorem risingCells_dropCell {a : Nat} : ∀ {l : List Host.Cell}, risingCells l = true → risingCells (dropCell a l) = true := by
  intro l; induction l with
  | nil => intro _; rfl
  | cons d t ih =>
    obtain ⟨k, w⟩ := d
    intro h
    have h' := risingCells_cons.1 h
    simp only [dropCell]
    split
    · exact h'.2
    · split
      · exact h
      · exact risingCells_cons.2 ⟨fun c hc => h'.1 c (mem_dropCell hc), ih h'.2⟩

theorem cellAt_putCell {a b : Nat} {v : Byte} : ∀ {l : List Host.Cell}, risingCells l = true →
    cellAt (putCell a v l) b = if b = a then some v else cellAt l b := by
  intro l; induction l with
  | nil => intro _; simp only [putCell, cellAt]; grind
  | cons d t ih =>
    obtain ⟨k, w⟩ := d
    intro h
    have h' := risingCells_cons.1 h
    have hb : ∀ x, x < k → cellAt t x = none := fun x hx => cellAt_none_of_below (fun c hc => Nat.lt_trans hx (h'.1 c hc))
    simp only [putCell]
    split
    · simp only [cellAt]; grind
    · split
      · rename_i hk; subst hk; simp only [cellAt]; grind
      · simp only [cellAt, ih h'.2]; grind

theorem cellAt_dropCell {a b : Nat} : ∀ {l : List Host.Cell}, risingCells l = true →
    cellAt (dropCell a l) b = if b = a then none else cellAt l b := by
  intro l; induction l with
  | nil => intro _; simp [dropCell, cellAt]
  | cons d t ih =>
    obtain ⟨k, w⟩ := d
    intro h
    have h' := risingCells_cons.1 h
    have hb : ∀ x, x ≤ k → cellAt t x = none := fun x hx => cellAt_none_of_below (fun c hc => Nat.lt_of_le_of_lt hx (h'.1 c hc))
    simp only [dropCell]
    split
    · rename_i hk; subst hk; simp only [cellAt]; grind
    · split
      · simp only [cellAt]; grind
      · simp only [cellAt, ih h'.2]; grind

/-! ## Stores -/

/-- A canonical store lists its cells in rising order. -/
theorem Store.wf_rising {m : Store} (h : m.wf = true) : risingCells m.cells = true := by
  simp [Store.wf] at h; exact h.1

/-- Writing a byte keeps the canonical form. -/
theorem Store.wf_set {m : Store} (h : m.wf = true) (a : Nat) (v : Byte) : (m.set a v).wf = true := by
  have h1 := Store.wf_rising h
  unfold Store.wf at h ⊢
  unfold Store.set
  split
  · rename_i hz
    simp only [Bool.and_eq_true, risingCells_dropCell h1, true_and]
    simp only [Bool.and_eq_true, Bool.or_eq_true, List.all_eq_true] at h ⊢
    exact h.2.imp id (fun h c hc => h c (mem_dropCell hc))
  · rename_i hz
    simp only [Bool.and_eq_true, risingCells_putCell h1, true_and]
    simp only [Bool.and_eq_true, Bool.or_eq_true, List.all_eq_true] at h ⊢
    rcases h.2 with h2 | h2
    · exact .inl h2
    · by_cases hf : m.fill.isSome
      · exact .inl hf
      · refine .inr (fun c hc => ?_)
        rcases mem_putCell hc with hc | hc
        · subst hc; simp at hf hz ⊢; exact hz hf
        · exact h2 c hc

/-- Writing bytes keeps the canonical form. -/
theorem Store.wf_write {m : Store} (h : m.wf = true) (a : Nat) (bs : Bytes) : (m.write a bs).wf = true := by
  induction bs generalizing m a with
  | nil => exact h
  | cons b t ih => exact ih (Store.wf_set h a b) (a + 1)

/-- What a byte reads as after a write of one byte. -/
theorem Store.get_set {m : Store} (h : m.wf = true) (a b : Nat) (v : Byte) :
    (m.set a v).get b = if b = a then v else m.get b := by
  have h1 := Store.wf_rising h
  unfold Store.get Store.set Store.unlisted
  split
  · rename_i hz
    rw [cellAt_dropCell h1]
    obtain ⟨hf, hv⟩ := hz
    cases hm : m.fill with
    | none => by_cases hb : b = a <;> simp [hb, hv]
    | some g => simp [hm] at hf
  · rw [cellAt_putCell h1]
    by_cases hb : b = a <;> simp [hb]

/-- A write of bytes leaves every other byte alone. -/
theorem Store.get_write_outside {m : Store} (h : m.wf = true) (a b : Nat) (bs : Bytes) (hb : b < a ∨ a + bs.length ≤ b) :
    (m.write a bs).get b = m.get b := by
  induction bs generalizing m a with
  | nil => rfl
  | cons v t ih =>
    have h2 := Store.get_set h a b v
    simp only [List.length_cons] at hb
    rw [Store.write, ih (Store.wf_set h a v) (a + 1) (by omega), h2, if_neg (by omega)]

/-- A read after a write to the same place gives what was written. -/
theorem Store.read_write {m : Store} (h : m.wf = true) (a : Nat) (bs : Bytes) : (m.write a bs).read a bs.length = bs := by
  suffices H : ∀ (bs : Bytes) (m : Store) (a : Nat), m.wf = true →
      (∀ i, i < bs.length → (m.write a bs).get (a + i) = (bs[i]?).getD 0) by
    have H2 : ∀ n (m : Store) (a : Nat) (bs : Bytes), bs.length = n → (∀ i, i < n → m.get (a + i) = (bs[i]?).getD 0) →
        m.read a n = bs := by
      intro n; induction n with
      | zero => intro m a bs hl _; simp [Store.read, List.length_eq_zero_iff.1 hl]
      | succ n ih =>
        intro m a bs hl hg
        cases bs with
        | nil => simp at hl
        | cons b t =>
          have h0 := hg 0 (Nat.succ_pos n)
          have ht := ih m (a + 1) t (by simpa using hl) (fun i hi => by
            have := hg (i + 1) (Nat.succ_lt_succ hi)
            rw [show a + (i + 1) = a + 1 + i by omega] at this
            simpa using this)
          simp only [Nat.add_zero, List.getElem?_cons_zero, Option.getD_some] at h0
          rw [Store.read, h0, ht]
    exact H2 _ _ _ _ rfl (H bs m a h)
  intro bs; induction bs with
  | nil => intro m a _ i hi; exact absurd hi (Nat.not_lt_zero i)
  | cons v t ih =>
    intro m a hm i hi
    cases i with
    | zero =>
      rw [Nat.add_zero, Store.write, Store.get_write_outside (Store.wf_set hm a v) (a + 1) a t (Or.inl (Nat.lt_succ_self a)), Store.get_set hm]
      simp
    | succ i =>
      rw [Store.write, show a + (i + 1) = a + 1 + i by omega, ih _ _ (Store.wf_set hm a v) i (by simpa using hi)]
      simp

/-- The memories at reset have the canonical form: DRAM and the lake window list nothing. -/
theorem State.reset_mem_wf : State.reset.dev.mem.dram.wf = true ∧ State.reset.dev.mem.window = [] := ⟨rfl, rfl⟩

end Sys2Proof.Machine
end

