-- ==== Sys2Proof/Laws/MemoryOps.lean ====
section
/-! SUPPORT. Every operation over the device's memory keeps DRAM and the lake window in canonical form. -/

namespace Sys2Proof.Machine

/-! ## The ways of the lake window -/

theorem NMap.rising_cons {α : Type} {k : Nat} {v : α} {t : NMap α} :
    NMap.rising ((k, v) :: t) = true ↔ (∀ e ∈ t, k < e.1) ∧ NMap.rising t = true := by
  simp [NMap.rising]

theorem NMap.mem_set {α : Type} {k : Nat} {v : α} : ∀ {m : NMap α} {e : Nat × α}, e ∈ NMap.set m k v → e = (k, v) ∨ e ∈ m
  | [], e, h => by simpa [NMap.set] using h
  | (k', v') :: t, e, h => by
    simp only [NMap.set] at h
    split at h
    · simpa using h
    · split at h
      · rcases List.mem_cons.1 h with h | h
        · exact Or.inl h
        · exact Or.inr (List.mem_cons_of_mem _ h)
      · rcases List.mem_cons.1 h with h | h
        · exact Or.inr (h ▸ List.mem_cons_self ..)
        · exact (NMap.mem_set h).imp id (List.mem_cons_of_mem _)

theorem NMap.rising_set {α : Type} {k : Nat} {v : α} : ∀ {m : NMap α}, NMap.rising m = true → NMap.rising (NMap.set m k v) = true
  | [], _ => rfl
  | (k', v') :: t, h => by
    have h' := NMap.rising_cons.1 h
    simp only [NMap.set]
    split
    · rename_i hk
      refine NMap.rising_cons.2 ⟨fun e he => ?_, h⟩
      rcases List.mem_cons.1 he with he | he
      · subst he; exact hk
      · exact Nat.lt_trans hk (h'.1 e he)
    · split
      · rename_i hk; subst hk; exact NMap.rising_cons.2 h'
      · rename_i h1 h2
        refine NMap.rising_cons.2 ⟨fun e he => ?_, NMap.rising_set h'.2⟩
        rcases NMap.mem_set he with he | he
        · subst he; exact Nat.lt_of_le_of_ne (Nat.le_of_not_lt h1) (Ne.symm h2)
        · exact h'.1 e he

theorem NMap.rising_filter {α : Type} (p : Nat × α → Bool) : ∀ {m : NMap α}, NMap.rising m = true → NMap.rising (m.filter p) = true
  | [], _ => rfl
  | (k, v) :: t, h => by
    have h' := NMap.rising_cons.1 h
    simp only [List.filter_cons]
    split
    · exact NMap.rising_cons.2 ⟨fun e he => h'.1 e (List.mem_filter.1 he).1, NMap.rising_filter p h'.2⟩
    · exact NMap.rising_filter p h'.2

theorem NMap.mem_of_get? {α : Type} {k : Nat} {v : α} : ∀ {m : NMap α}, NMap.get? m k = some v → (k, v) ∈ m
  | (k', v') :: t, h => by
    simp only [NMap.get?] at h
    split at h
    · rename_i hk; subst hk; simp only [Option.some.injEq] at h; subst h; exact List.mem_cons_self ..
    · exact List.mem_cons_of_mem _ (NMap.mem_of_get? h)

/-- DRAM and the lake window are in canonical form. -/
def Dev.memWf (d : Dev) : Prop := d.mem.wf = true

theorem MemSt.wf_iff {m : MemSt} : m.wf = true ↔ m.dram.wf = true ∧ NMap.rising m.window = true
    ∧ ∀ e ∈ m.window, e.2.wf = true ∧ e.2 ≠ Store.zero := by
  simp [MemSt.wf, Bool.and_eq_true, List.all_eq_true, and_assoc]

theorem Dev.memWf_of_mem {d e : Dev} (h : d.memWf) (h1 : e.mem.dram = d.mem.dram) (h2 : e.mem.window = d.mem.window) : e.memWf := by
  have h := MemSt.wf_iff.1 h
  exact MemSt.wf_iff.2 (by rw [h1, h2]; exact h)

/-- A way as it reads is canonical. -/
theorem Dev.way_wf {d : Dev} (h : d.memWf) (w : Nat) : (NMap.getD d.mem.window w Store.zero).wf = true := by
  have h := (MemSt.wf_iff.1 h).2.2
  unfold NMap.getD
  cases hg : NMap.get? d.mem.window w with
  | none => rfl
  | some s => exact (h _ (NMap.mem_of_get? hg)).1

/-- Replacing the content of a way keeps the canonical form. -/
theorem Dev.memWf_setWay {d : Dev} (w : Nat) {s : Store} (hs : s.wf = true) (h : d.memWf) : (d.setWay w s).memWf := by
  obtain ⟨h1, h2, h3⟩ := MemSt.wf_iff.1 h
  unfold Dev.setWay
  split
  · exact MemSt.wf_iff.2 ⟨h1, NMap.rising_filter _ h2, fun e he => h3 e (List.mem_filter.1 he).1⟩
  · rename_i hz
    refine MemSt.wf_iff.2 ⟨h1, NMap.rising_set h2, fun e he => ?_⟩
    rcases NMap.mem_set he with he | he
    · subst he; exact ⟨hs, hz⟩
    · exact h3 e he

theorem foldl_memWf {α : Type} (f : Dev → α → Dev) (hf : ∀ d a, d.memWf → (f d a).memWf) (l : List α) (d : Dev) (h : d.memWf) :
    (l.foldl f d).memWf := by
  induction l generalizing d with
  | nil => exact h
  | cons a t ih => exact ih _ (hf d a h)

theorem ite_memWf {p : Prop} [Decidable p] {a b : Dev} (ha : a.memWf) (hb : b.memWf) : (if p then a else b).memWf := by
  split
  · exact ha
  · exact hb

theorem Dev.memWf_withLake {d : Dev} (x) (h : d.memWf) : (d.withLake x).memWf := h
theorem Dev.memWf_withSide {d : Dev} (x) (h : d.memWf) : (d.withSide x).memWf := h
theorem Dev.memWf_bump {d : Dev} (f i n) (h : d.memWf) : (d.bump f i n).memWf := h
theorem Dev.memWf_count {d : Dev} (e n a) (h : d.memWf) : (d.count e n a).memWf := by unfold Dev.memWf; rw [Dev.count_mem]; exact h
theorem Dev.memWf_moved {d : Dev} (q w a n) (h : d.memWf) : (d.moved q w a n).memWf := Dev.memWf_count _ _ _ h
theorem Dev.memWf_bridged {d : Dev} (q x n) (h : d.memWf) : (d.bridged q x n).memWf := by
  unfold Dev.bridged
  split
  · exact ite_memWf h (Dev.memWf_count _ _ _ h)
  · exact h
theorem Dev.memWf_looked {d : Dev} (q line) (h : d.memWf) : (d.looked q line).memWf := Dev.memWf_count _ _ _ h
theorem Dev.memWf_withDram {d : Dev} (a bs) (h : d.memWf) : (d.withDram (d.mem.dram.write a bs)).memWf :=
  have h := MemSt.wf_iff.1 h
  MemSt.wf_iff.2 ⟨Store.wf_write h.1 a bs, h.2⟩

theorem Dev.memWf_windowWriteAt {d : Dev} (o bs) (h : d.memWf) : (d.windowWriteAt o bs).memWf := by
  unfold Dev.windowWriteAt
  exact foldl_memWf _ (fun d p hd => Dev.memWf_setWay _ (Store.wf_write (Dev.way_wf hd _) _ _) hd) _ _ h

theorem Dev.memWf_lineStore {d : Dev} (line off bs) (h : d.memWf) : (d.lineStore line off bs).memWf := by
  unfold Dev.lineStore
  split
  · exact h
  · exact Dev.memWf_withDram _ _ h

theorem Dev.memWf_storeBlock {d : Dev} (q b mode x) (h : d.memWf) : (d.storeBlock q b mode x).memWf := by
  have h2 : ∀ n, (((if mode = 1 ∨ mode = 2 then d.fresh.2 else d) : Dev).moved q true b n).memWf :=
    fun n => Dev.memWf_moved _ _ _ _ (by split <;> exact h)
  have h3 := fun n r => Dev.memWf_withDram b r (h2 n)
  unfold Dev.storeBlock
  simp only []
  split
  · split
    · exact Dev.memWf_bump _ _ _ (h3 _ _)
    · exact Dev.memWf_bump _ _ _ (Dev.memWf_lineStore _ _ _ (h3 _ _))
  · split
    · exact h3 _ _
    · exact Dev.memWf_lineStore _ _ _ (h3 _ _)

theorem Dev.memWf_cleanLine {d : Dev} (q line) (h : d.memWf) : (d.cleanLine q line).memWf := by
  unfold Dev.cleanLine
  split
  · exact h
  · split
    · simp only []
      split
      · exact Dev.memWf_withLake _ (Dev.memWf_storeBlock _ _ _ _ h)
      · exact h
    · split
      · refine Dev.memWf_withLake _ ?_
        have h1 := Dev.memWf_withDram (64 * line) (by assumption : LakeLine).data (Dev.memWf_moved q true (64 * line) 64 h)
        rwa [show (d.moved q true (64 * line) 64).mem = d.mem from Dev.count_mem _ _ _ _] at h1
      · exact h

theorem Dev.memWf_dropLine {d : Dev} (line) (h : d.memWf) : (d.dropLine line).memWf := h

theorem Dev.memWf_flushWays {d : Dev} (mask) (h : d.memWf) : (d.flushWays mask).memWf := by
  unfold Dev.flushWays
  exact foldl_memWf _ (fun d l hd => Dev.memWf_dropLine _ hd) _ _ (foldl_memWf _ (fun d l hd => Dev.memWf_cleanLine _ _ hd) _ _ h)

/-- Making room for lines writes back those that stood there. -/
theorem Dev.memWf_wayFor {d : Dev} (q cached ls a) (h : d.memWf) : (d.wayFor q cached ls a).1.memWf := by
  unfold Dev.wayFor Dev.makeRoom
  split
  · simp only []
    split
    · exact h
    · split
      · exact h
      · exact foldl_memWf _ (fun d l hd => Dev.memWf_dropLine _ (Dev.memWf_cleanLine _ _ hd)) _ _ h
  · exact h

theorem Dev.memWf_lineTouched {d : Dev} (q line) (h : d.memWf) : (d.lineTouched q line).memWf :=
  Dev.memWf_looked _ _ (Dev.memWf_withSide _ h)

theorem Dev.memWf_lineWrite {d : Dev} (q cached a bs) (h : d.memWf) : (d.lineWrite q cached a bs).memWf := by
  have h1 := Dev.memWf_lineTouched q (a / 64) h
  have h2 := Dev.memWf_wayFor q cached [a / 64] a h1
  unfold Dev.lineWrite
  simp only []
  split
  · exact h1
  · split
    · rename_i hw
      rw [hw] at h2
      exact Dev.memWf_withLake _ (ite_memWf (Dev.memWf_moved _ _ _ _ h2) h2)
    · rename_i hw
      rw [hw] at h2
      have h3 := Dev.memWf_withDram a bs (Dev.memWf_moved q true a bs.length h2)
      rwa [show ∀ e : Dev, (e.moved q true a bs.length).mem = e.mem from fun e => Dev.count_mem _ _ _ _] at h3

theorem Dev.memWf_blockWrite {d : Dev} (q cached mode a bs) (h : d.memWf) : (d.blockWrite q cached mode a bs).memWf := by
  have h1 := foldl_memWf (fun (d : Dev) (p : Nat × Nat) => d.lineTouched q (p.1 / 64)) (fun d p h => Dev.memWf_lineTouched _ _ h)
    (pieces 64 a bs.length) d h
  have h2 : ∀ (c : Bool) (e : Dev), e.memWf → ((if c = true then e.bump Fld.CPR_CODEC_BAD_count 0 1 else e) : Dev).memWf :=
    fun c e he => ite_memWf (Dev.memWf_bump _ _ _ he) he
  have h3 : ∀ (c : Bool) (e : Dev) (b n : Nat), e.memWf → ((if c = true then e else e.moved q false b n) : Dev).memWf :=
    fun c e b n he => ite_memWf he (Dev.memWf_moved _ _ _ _ he)
  have h4 : ∀ (o : Option LakeLine) (e f : Dev) (w : Option Nat), e.memWf → (match o with
      | some l => (e, some l.way)
      | none => e.wayFor q cached (blockLines (a / 256 * 256)) a) = (f, w) → f.memWf := by
    intro o e f w he hy
    have h := Dev.memWf_wayFor q cached (blockLines (a / 256 * 256)) a he
    cases o with
    | none => simp only [] at hy; rw [hy] at h; exact h
    | some l => cases hy; exact he
  unfold Dev.blockWrite
  simp only []
  split
  · rename_i hy; exact Dev.memWf_withLake _ (h4 _ _ _ _ (h3 _ _ _ _ (h2 _ _ h1)) hy)
  · rename_i hy; exact Dev.memWf_storeBlock _ _ _ _ (h4 _ _ _ _ (h3 _ _ _ _ (h2 _ _ h1)) hy)

/-- Writing DRAM keeps the canonical form. -/
theorem Dev.memWf_dramWrite {d : Dev} (q cached mode a bs) (h : d.memWf) : (d.dramWrite q cached mode a bs).memWf := by
  unfold Dev.dramWrite
  refine foldl_memWf _ (fun d p hd => ?_) _ _ h
  simp only []
  exact ite_memWf (Dev.memWf_blockWrite _ _ _ _ _ (Dev.memWf_bridged _ _ _ hd))
    (foldl_memWf _ (fun d q hd => Dev.memWf_lineWrite _ _ _ _ hd) _ _ (Dev.memWf_bridged _ _ _ hd))

theorem Dev.memWf_lineRead {d : Dev} (a n) (h : d.memWf) : (d.lineRead a n).1.memWf := by
  unfold Dev.lineRead
  split
  · exact ite_memWf (Dev.memWf_bump _ _ _ h) h
  · exact h

theorem Dev.memWf_dramRead {d : Dev} (a n) (h : d.memWf) : (d.dramRead a n).1.memWf := by
  have H : ∀ (l : List (Nat × Nat)) (acc : Dev × Bytes), acc.1.memWf → (l.foldl (fun (acc : Dev × Bytes) p =>
      ((acc.1.lineRead p.1 p.2).1, acc.2 ++ (acc.1.lineRead p.1 p.2).2)) acc).1.memWf := by
    intro l; induction l with
    | nil => intro acc h; exact h
    | cons p t ih =>
      intro acc h
      exact ih _ (Dev.memWf_lineRead _ _ h)
  exact H _ _ h

theorem Dev.memWf_leaveIdle {d : Dev} (h : d.memWf) : d.leaveIdle.memWf := by
  unfold Dev.leaveIdle
  split
  · exact Dev.memWf_of_mem h rfl rfl
  · exact h

theorem Dev.memWf_stopRing {d : Dev} (i n) (h : d.memWf) : (d.stopRing i n).memWf := by
  unfold Dev.stopRing; simp only []; split
  · exact h
  · split <;> exact h

theorem Dev.memWf_offer {d : Dev} (src i t) (h : d.memWf) : (d.offer src i t).memWf := by
  have h1 := fun n a => Dev.memWf_leaveIdle (Dev.memWf_count 0x0042 n a h)
  unfold Dev.offer
  simp only []
  split
  · exact h
  · split
    · exact h1 _ _
    · split
      · exact h1 _ _
      · split
        · split
          · exact Dev.memWf_stopRing _ _ (h1 _ _)
          · exact h1 _ _
        · exact h1 _ _

theorem Dev.memWf_localRead {d : Dev} (a n) (h : d.memWf) : (d.localRead a n).1.memWf := by
  unfold Dev.localRead
  split
  · split
    · exact Dev.memWf_dramRead _ _ h
    · exact h
  · split <;> exact h
  · exact h
  · exact h

/-- A write of local bytes keeps the canonical form. -/
theorem Dev.memWf_localWrite {d : Dev} (q cached mode src a bs) (h : d.memWf) : (d.localWrite q cached mode src a bs).1.memWf := by
  unfold Dev.localWrite
  split
  · split
    · exact Dev.memWf_dramWrite _ _ _ _ _ h
    · exact h
  · split
    · exact Dev.memWf_bridged _ _ _ (Dev.memWf_windowWriteAt _ _ h)
    · exact h
  · unfold Dev.doorbellWrite
    split
    · exact Dev.memWf_offer _ _ _ h
    · exact h
  · exact h

theorem Dev.memWf_noteMiss {d : Dev} (line) (h : d.memWf) : (d.noteMiss line).memWf := by
  unfold Dev.noteMiss
  exact ite_memWf h h

theorem Dev.memWf_sideHit {d : Dev} (line) (h : d.memWf) : (d.sideHit line).1.memWf := by
  unfold Dev.sideHit
  split
  · exact Dev.memWf_bump _ _ _ (Dev.memWf_withSide _ h)
  · exact h

theorem Dev.memWf_demandLine {d : Dev} (q cached line n) (h : d.memWf) : (d.demandLine q cached line n).memWf := by
  have h1 := Dev.memWf_bridged q (dieOf (64 * line)) n (Dev.memWf_looked q line h)
  unfold Dev.demandLine
  simp only []
  split
  · exact h1
  · split
    · have h2 := Dev.memWf_wayFor q cached (blockLines (line / 4 * 256)) (64 * line)
        (Dev.memWf_moved q false (line / 4 * 256) (((d.looked q line).bridged q (dieOf (64 * line)) n).slotBytes (line / 4 * 256))
          (Dev.memWf_noteMiss line h1))
      split
      · rename_i hw; rw [hw] at h2; exact h2
      · rename_i hw; rw [hw] at h2
        exact Dev.memWf_withLake _ (Dev.memWf_sideHit _ (ite_memWf (Dev.memWf_bump _ _ _ h2) h2))
    · have h2 := Dev.memWf_wayFor q cached [line] (64 * line) h1
      split
      · rename_i hw; rw [hw] at h2; exact Dev.memWf_moved _ _ _ _ (Dev.memWf_noteMiss _ h2)
      · rename_i hw; rw [hw] at h2
        exact Dev.memWf_withLake _ (ite_memWf (Dev.memWf_sideHit _ h2)
          (Dev.memWf_moved _ _ _ _ (Dev.memWf_noteMiss _ (Dev.memWf_sideHit _ h2))))

/-- A demand read of local bytes keeps the canonical form. -/
theorem Dev.memWf_readAt {d : Dev} (q cached a n) (h : d.memWf) : (d.readAt q cached a n).1.memWf := by
  unfold Dev.readAt
  split
  · exact Dev.memWf_localRead _ _ (foldl_memWf _ (fun d p hd => Dev.memWf_demandLine _ _ _ _ hd) _ _ h)
  · exact Dev.memWf_localRead _ _ (Dev.memWf_bridged _ _ _ h)
  · exact Dev.memWf_localRead _ _ h

/-- A change of the ways in memory mode keeps the canonical form. -/
theorem Dev.memWf_setMemWays {d : Dev} (mask) (h : d.memWf) : (d.setMemWays mask).memWf :=
  foldl_memWf _ (fun _ _ hd => Dev.memWf_setWay _ rfl hd) _ _ (foldl_memWf _ (fun _ _ hd => Dev.memWf_flushWays _ hd) _ _ h)

theorem Dev.memWf_reset : State.reset.dev.memWf := rfl

end Sys2Proof.Machine
end

