-- ==== Sys2Proof/Tests/States.lean ====
section
/-! SUPPORT. Small states for the tests: a device in FULL whose memory reads zero, one ring, one command in flight, and the
lemmas that turn a computed outcome into the equation a statement asks for. -/

namespace Sys2Proof.Tests

open Sys2Proof Sys2Proof.Machine

/-! ## Small states -/

/-- A descriptor from values at byte offsets. -/
def desc (l : List (Nat × Nat)) : Line := BitVec.ofNat 512 (l.foldl (fun n e => n + e.2 * 2 ^ (8 * e.1)) 0)

/-- A leaf that maps a 1 GiB page at DRAM offset 0 for partition 0: valid, read, write and execute. -/
def leaf0 : Wide := BitVec.ofNat 64 (0x1F + 2 ^ 54)

/-- A running ring of partition 0 and address space 1. -/
def ring0 : Ring := { Ring.absent with sizeLog2 := 6, asid := 1, state := .running, cls := 2 }

/-- A device in FULL whose DRAM reads zero where nothing is written, with ring 8 and a translation of the first GiB. -/
def dev0 : Dev :=
  { Dev.reset with
    boot := { BootSt.start 0 0 0 with phase := 5, dramOpen := true }
    mem := { MemSt.start Store.zero with tagInit := false }
    bricks := []
    regs := ⟨[(Fld.XLT_AS_CTRL_enable.at 1, 1)], [], []⟩
    xlt := ⟨[], [⟨1, 0, 2 ^ 30, leaf0⟩], [], none⟩
    sub := { SubSt.start with rings := [(8, ring0)] } }

/-- A started command of ring 8. -/
def cmd0 (l : Line) : Cmd :=
  { ring := 8, serial := 1, desc := l, part := 0, asid := 1, cls := 2, refs := [], phase := .started
    status := 0, detail := 0, unit := noUnit, tick := 0, run := .none, faulted := false, remote := [], input := []
    bellAt := 0, startAt := 0, endAt := 0, edges := 0, recordDone := false, fenceless := false }

/-- A machine with blank fuses and nothing waiting. -/
def on (d : Dev) : State := { dev := d, nv := Nv.blank, pending := [] }

/-- A machine whose only command in flight is `c`. -/
def with0 (d : Dev) (c : Cmd) : State := on (d.withCmds [c])

/-- A machine whose only command in flight is a fresh one with descriptor `l`. -/
def run0 (d : Dev) (l : Line) : State := with0 d (cmd0 l)

/-- The source of that command. -/
def src0 : CmdSource := .ring 8 1

theorem starts0 {d : Dev} {l : Line} {row : Line → Bool} (h : (d.withCmds [cmd0 l]).serves = true) (r : row l = true) :
    Starts (run0 d l) src0 row (d.withCmds [cmd0 l]) (cmd0 l) := by
  refine ⟨h, ?_⟩
  have : (cmd0 l).desc = l := rfl
  simp [Dev.issued, src0, run0, with0, on, Dev.cmd?, Dev.withCmds, cmd0, Cmd.active, r]

/-- The device with register fields set: field, element and value. -/
def fields (d : Dev) (l : List (Fld × Nat × Nat)) : Dev := l.foldl (fun d e => d.setFld e.1 e.2.1 (BitVec.ofNat 64 e.2.2)) d

/-- The device with committed register fields set. -/
def committed (d : Dev) (l : List (Fld × Nat × Nat)) : Dev :=
  { d with regs := { d.regs with committed := (fields ({ d with regs := { d.regs with file := d.regs.committed } } : Dev) l).regs.file } }

/-- A handle of a table entry of generation 0. -/
def handle (typ i : Nat) : Nat := typ * 2 ^ 56 + i

/-- Port 0 as a Mortar link that is up. -/
def link0 : Port := { Port.idle with powered := true, modeActive := 1, linkUp := true, pcsLock := true, signal := true }

/-- A device of address 1 on the OWNING side, with a link at port 0 over which device 2 is reached. -/
def devF : Dev :=
  fields { dev0 with fab := { dev0.fab with ports := [(0, link0)] } }
    [(Fld.FAB_ADDR_addr, 0, 1), (Fld.FAB_STATE_side, 0, 1), (Fld.FAB_RT_valid, 2, 1)]

/-! ## From computed outcomes to equations -/

theorem okPair {α β : Type} {x : α × β} {y : β} (h : x.2 = y) : x = (x.1, y) := by rw [← h]
theorem okTriple {α β γ : Type} {x : α × β × γ} {y : β} (h : x.2.1 = y) : x = (x.1, y, x.2.2) := by rw [← h]
theorem okTripleWith {α β γ : Type} [DecidableEq β] [DecidableEq γ] {x : α × β × γ} {y : β} {z : γ}
    (h : decide (x.2.1 = y) && decide (x.2.2 = z) = true) : x = (x.1, y, z) := by
  obtain ⟨a, b, c⟩ := x
  simp_all
theorem truePair {α : Type} {x : α × Bool} (h : x.2 = true) : x = (x.1, true) := by rw [← h]
theorem trueTriple {α β : Type} {x : α × β × Bool} (h : x.2.2 = true) : x = (x.1, x.2.1, true) := by rw [← h]
theorem pairSome {α β : Type} {x : α × Option β} (h : x.2.isSome = true) : x = (x.1, some (x.2.get h)) := by simp
theorem someOf {α : Type} {o : Option α} (h : o.isSome = true) : o = some (o.get h) := by simp
theorem somePair {α : Type} {x : α × Option Nat} (h : x.2.isSome = true) : x = (x.1, some (x.2.getD 0)) := by
  obtain ⟨a, b⟩ := x
  cases b <;> simp_all
theorem someThird {o : Option (Nat × Dev)} (h : o.isSome = true) : o = some ((o.getD (0, dev0)).1, (o.getD (0, dev0)).2) := by
  cases o <;> simp_all
theorem pairEta {α β : Type} (x : α × β) : x = (x.1, x.2) := rfl

/-- Block 0 of a launch on ring 8, with 32 threads and 1 KiB of local store. -/
def blk0 : Block := {
  ring := 8, serial := 1, index := 0, threads := 32, quad := 0, regsPerLane := 8, lsBase := 0, lsBytes := 1024, rank := 0
  clusterSize := 1, clusterBase := 0, exited := [], arrivals := [], blocked := [], stage := .compute, helpers := [], paths := []
  pathNo := 0, releases := [], outputs := [], out := [], done := false }

theorem someBlock {o : Option (Nat × Block)} {n : Nat} (h : o.any (fun x => decide (x.1 = n)) = true) :
    o = some (n, (o.getD (n, blk0)).2) := by
  cases o with
  | none => simp at h
  | some x => simp at h; subst h; rfl

theorem residentOf {s : State} {r : BlockRef} {n : Nat} {b : Block}
    (h : s.dev.serves = true ∧ s.dev.findBlock r = some (n, b) ∧ b.done = false ∧
      ((s.dev.ring r.ring).saving && b.stage = .compute) = false) : Resident s r n b := h

theorem someWith {o : Option (Dev × Option Nat)} (h : (o.bind (·.2)).isSome = true) :
    o = some ((o.getD (dev0, none)).1, some ((o.getD (dev0, none)).2.getD 0)) := by
  cases o with
  | none => simp at h
  | some x => simpa using somePair (x := x) (by simpa using h)

end Sys2Proof.Tests
end

