-- ==== Sys2Proof/Tests/Slice0.lean ====
section
/-! SUPPORT. Tests of slice 0: for every check of WellFormed an ill-formed command that it refuses, words of the table, and
single steps whose results are worked out from the spec. The witnesses of the statements are in the files Wit1 to Wit11. -/

namespace Sys2Proof.Tests

open Sys2Proof Sys2Proof.Machine

set_option maxRecDepth 4000

/-! ## Ill-formed commands -/

/-- A block reference on a ring that does not exist, a lane access, an atomic, and matrix arguments. -/
def badRef : BlockRef := ⟨1024, 1, 0⟩
def goodRef : BlockRef := ⟨8, 1, 0⟩

theorem test_wf_ring : instrWf (.ringDisabledRelease 1024) = false := by decide
theorem test_wf_ring_good : instrWf (.ringDisabledRelease 1023) = true := by decide
theorem test_wf_queue : instrWf (.fenceWaitSatisfied 1025 0) = false := by decide
theorem test_wf_queue_good : instrWf (.fenceWaitSatisfied 1024 0) = true := by decide
theorem test_wf_source_ring : instrWf (.nop (.ring 1024 1)) = false := by decide
theorem test_wf_source_part : instrWf (.nop (.gotik 8 0 0)) = false := by decide
theorem test_wf_source_asid : instrWf (.nop (.gotik 0 256 0)) = false := by decide
theorem test_wf_reg_source : instrWf (.tickCommit (.mortar 0)) = false := by decide
theorem test_wf_doorbell_device : instrWf (.doorbell (.device 0xFFF) 8 1) = false := by decide
theorem test_wf_doorbell_pair : instrWf (.doorbell (.queuePair 4096) 8 1) = false := by decide
theorem test_wf_brick : instrWf (.springTileFetch 96 0) = false := by decide
theorem test_wf_spring : instrWf (.springTileFetch 0 4) = false := by decide
theorem test_wf_tile_slot : instrWf (.springTileReady 0 0 8) = false := by decide
theorem test_wf_port : instrWf (.linkUp 8) = false := by decide
theorem test_wf_hop : instrWf (.hello 24) = false := by decide
theorem test_wf_part : instrWf (.autoPreempt 8) = false := by decide
theorem test_wf_asid : instrWf (.faultRingRoom 256) = false := by decide
theorem test_wf_stream : instrWf (.poseLatch 64) = false := by decide
theorem test_wf_pair : instrWf (.roceEcnCe 4096) = false := by decide
theorem test_wf_entry : instrWf (.objectEntryFreed 0) = false := by decide
theorem test_wf_block : instrWf (.blockExit badRef []) = false := by decide
theorem test_wf_threads_range : instrWf (.blockExit goodRef [1024]) = false := by decide
theorem test_wf_threads_twice : instrWf (.blockExit goodRef [3, 3]) = false := by decide
theorem test_wf_die : instrWf (.maintenanceOpStart 2) = false := by decide
theorem test_wf_front_end : instrWf (.heapGrowRequest 8 1 2) = false := by decide
theorem test_wf_walk_length : instrWf (.tableWalk 0 0 0 false false false 257) = false := by decide
theorem test_wf_block_write_back : instrWf (.codecBlockWriteBack (2 ^ 40)) = false := by decide
theorem test_wf_block_merge : instrWf (.codecBlockMerge 255 [1, 2] none) = false := by decide
theorem test_wf_pool_device : instrWf (.guestPageRequest 0 0 0) = false := by decide
theorem test_wf_slot : instrWf (.opTimeout 16384) = false := by decide
theorem test_wf_tunnel : instrWf (.tunnelDatagram 0 (some 16) []) = false := by decide
theorem test_wf_check : instrWf (.bootPhase3 (some (16, 0))) = false := by decide
theorem test_wf_wake : instrWf (.wakeEvent (.signalDetect 8)) = false := by decide
theorem test_wf_domain : instrWf (.domainPowerOn 48) = false := by decide
theorem test_wf_wall : instrWf (.dvfsChange 12) = false := by decide
theorem test_wf_prefetch : instrWf (.lakePrefetch (2 ^ 40) none) = false := by decide
theorem test_wf_sample : instrWf (.extremesSample [⟨128, 0⟩]) = false := by decide
theorem test_wf_register_width : instrWf (.registerWrite .mgmt 0 3 0) = false := by decide
theorem test_wf_register_offset : instrWf (.registerWrite .mgmt (2 ^ 26) 4 0) = false := by decide
theorem test_wf_remote : instrWf (.remoteAccessIssue ⟨none, 0, none, 0, 4, 0, 0, 2, 0, 64, []⟩) = false := by decide
theorem test_wf_frame : instrWf (.mortarRead 0 ⟨⟨1, 8, 1, 0, 1, 2, 0, 0, 0, 0, 0, 0, 0⟩, [], true⟩) = false := by decide
theorem test_wf_roce : instrWf (.roceSend ⟨4096, 0, 0, 0, [], 0, 0⟩) = false := by decide
theorem test_wf_spring_store : instrWf (.springDescriptorStore goodRef 0 0x10000 [0, 0, 0, 0]) = false := by decide
theorem test_wf_bad_access : instrWf (.springPortBadAccess goodRef 0x10000 4 true false) = false := by decide
theorem test_wf_lane : instrWf (.kernelLoadStore ⟨goodRef, .buffer, false, 4, [⟨1024, 0, [], none⟩], none⟩) = false := by decide
theorem test_wf_lane_size : instrWf (.kernelLoadStore ⟨goodRef, .buffer, false, 17, [⟨0, 0, [], none⟩], none⟩) = false := by decide
theorem test_wf_atomic : instrWf (.atomicExchange ⟨goodRef, .buffer, 3, []⟩) = false := by decide
theorem test_wf_matrix : instrWf (.blockMatMulAdd ⟨goodRef, 0, [], 0, 0, none, [], [], [], [], []⟩) = false := by decide
theorem test_wf_convert : instrWf (.convertRounded ⟨goodRef, 32, [], 0, 0, 1, 0, 0, 1⟩) = false := by decide
theorem test_wf_quantize : instrWf (.blockQuantize ⟨goodRef, 0, [32], 0, 32, 0, []⟩) = false := by decide

/-! ## Words: the table gives no row any bits -/

theorem test_no_word_decodes : decodeTableWord 32 0 = none := rfl

theorem test_no_word_is_placed : State.reset.withFetchWord 32 1 = State.reset := rfl

/-! ## Functions with published check values -/

/-- The check value of CRC-32 over "123456789". -/
theorem test_crc32 : crc32 (ascii "123456789") = 0xCBF43926 := by decide +kernel

/-- SHA-256 of "abc" (FIPS 180-4). -/
theorem test_sha256 : sha256 (ascii "abc") = beBytes 32 0xba7816bf8f01cfea414140de5dae2223b00361a396177a9cb410ff61f20015ad := by
  decide +kernel

/-! ## Steps -/

/-- A device with ring 8 at doorbell count 5. -/
def devBell : Dev := { dev0 with sub := { dev0.sub with rings := [(8, { ring0 with doorbell := 5 })] } }

/-- What a step leaves of a field; the outcome of a step that stops has none. -/
def after {α : Type} (o : Host.Outcome State Fault Refusal) (f : Dev → α) : Option α :=
  match o with
  | .next s => some (f s.dev)
  | .fault _ => none
  | .refused _ => none

/-- R298: a doorbell not above the count is counted, and changes nothing. -/
theorem test_doorbell_stale :
    after (exec (.doorbell .local 8 4) (on devBell)) (fun d => ((d.ring 8).doorbell, d.fld Fld.SUB_DB_STALE_count 0)) = some (5, 1) := by
  decide +kernel

/-- R298: one that passes the ring's size stops the ring with reason 3. -/
theorem test_doorbell_overrun :
    after (exec (.doorbell .local 8 65) (on devBell)) (fun d => ((d.ring 8).state, (d.ring 8).stopReason)) = some (.stopped, 3) := by
  decide +kernel

/-- R30, R473: from reset the first edge comes after a period of 1 ms, and counts 1. -/
theorem test_first_edge : after (exec .tickEdge (on dev0)) (fun d => (d.now, d.tickCount)) = some (1000000, 1) := by
  decide +kernel

/-- R398: above 80 V the model stops. -/
theorem test_absolute_maximum : exec (.overvoltage 80001 0) (on dev0) = .fault .absoluteMaximum := rfl

/-- A step takes the front of the queue and leaves the rest. -/
theorem test_queue : (match step { on dev0 with pending := [.idleExit, .tickEdge] } with
    | .next s => s.pending
    | _ => []) = [.tickEdge] := by decide +kernel

end Sys2Proof.Tests
end

