-- ==== Sys2Proof/Tests/Wit1.lean ====
section
/-! SUPPORT. Witnesses for the statements about rings. -/

namespace Sys2Proof.Tests

open Sys2Proof Sys2Proof.Machine

set_option maxRecDepth 4000
set_option Elab.async false

/-- Two more rings: ring 9 is STOPPED at count 3, ring 10 is DESTROYING, with a release fence on entry 1 for ring 11. -/
def devR : Dev :=
  { dev0 with sub := { dev0.sub with
      rings := dev0.sub.rings ++ [(9, { ring0 with state := .stopped, fetch := 3, doorbell := 3 }), (10, { ring0 with state := .destroying }),
        (11, { ring0 with state := .destroying, release := [⟨1, 5⟩] })]
      entries := [(1, ⟨0, typFence, .live, 2, none, .fence 4096⟩)], fresh := 2 } }

theorem wit_ring_commands_complete_1 :
    ∃ s src d c, Starts s src (isOp 0x01) d c ∧ reservedZero c.desc [] :=
  ⟨run0 dev0 (desc [(0, 0x01)]), src0, _, _, starts0 (by decide +kernel) (by decide +kernel), by decide +kernel⟩

theorem wit_ring_commands_complete_2 :
    ∃ s src d c r, Starts s src (isOp 0x10) d c ∧ r = ringCreateD c.desc ∧ reservedZero c.desc ringCreateFields ∧ d.ringOk r ∧
    (8 ≤ r.ring ∨ c.gotik) ∧ (d.ring r.ring).state = .disabled ∧ d.admits c.part r.ring r.cls r.budget :=
  ⟨run0 dev0 (desc [(0, 0x10), (16, 1023), (18, 6), (19, 1), (20, 2), (32, 65536)]), src0, _, _, _,
  starts0 (by decide +kernel) (by decide +kernel), rfl, by decide +kernel, by decide +kernel, by decide +kernel,
  by decide +kernel, by decide +kernel⟩

theorem wit_ring_commands_complete_3 :
    ∃ s src d c, Starts s src (fun l => isOp 0x11 l && (rctlOp l = 0 || rctlOp l = 3)) d c ∧ d.controlFails c = none ∧ (d.ring
    (rctlRing c.desc)).state ∈ [.running, .stopped, .aborted] ∧ d.preempted (rctlRing c.desc) = false ∧ rctlRelease c.desc = 0
    :=
  ⟨run0 devR (desc [(0, 0x11), (16, 9)]), src0, _, _, starts0 (by decide +kernel) (by decide +kernel), by decide +kernel,
  by decide +kernel, by decide +kernel, by decide +kernel⟩

theorem wit_ring_commands_complete_4 :
    ∃ s src d c, Starts s src (fun l => isOp 0x11 l && (rctlOp l = 0 || rctlOp l = 3)) d c ∧ d.controlFails c = none ∧ (d.ring
    (rctlRing c.desc)).state ∈ [.running, .stopped, .aborted] ∧ d.preempted (rctlRing c.desc) = false ∧ rctlRelease c.desc ≠ 0
    :=
  ⟨run0 devR (desc [(0, 0x11), (16, 9), (24, 7), (32, handle typFence 1)]), src0, _, _,
  starts0 (by decide +kernel) (by decide +kernel), by decide +kernel, by decide +kernel, by decide +kernel, by decide +kernel⟩

theorem wit_ring_commands_complete_5 :
    ∃ s src d c, Starts s src (fun l => isOp 0x11 l && rctlOp l = 1) d c ∧ d.controlFails c = none ∧ (d.ring (rctlRing
    c.desc)).state = .stopped ∧ d.preempted (rctlRing c.desc) = false :=
  ⟨run0 devR (desc [(0, 0x11), (16, 9), (18, 1), (24, 3)]), src0, _, _, starts0 (by decide +kernel) (by decide +kernel),
  by decide +kernel, by decide +kernel, by decide +kernel⟩

theorem wit_ring_commands_complete_6 :
    ∃ s src d c r, Starts s src (fun l => isOp 0x11 l && rctlOp l = 2) d c ∧ d.controlFails c = none ∧ r = d.ring (rctlRing
    c.desc) ∧ r.state ∈ [.running, .stopped] ∧ d.preempted (rctlRing c.desc) = false ∧ d.admits r.part (rctlRing c.desc) r.cls
    (rctlBudget c.desc) :=
  ⟨run0 devR (desc [(0, 0x11), (16, 9), (18, 2)]), src0, _, _, _, starts0 (by decide +kernel) (by decide +kernel),
  by decide +kernel, rfl, by decide +kernel, by decide +kernel, by decide +kernel⟩

theorem wit_destroyed_ring_disables_1 :
    ∃ s : State, ∃ i, s.dev.serves ∧ (s.dev.ring i).state = .destroying ∧ s.dev.inFlight i = 0 ∧ (s.dev.ring i).release = [] :=
  ⟨on devR, 10, by decide +kernel, by decide +kernel, by decide +kernel, by decide +kernel⟩

theorem wit_destroyed_ring_disables_2 :
    ∃ s : State, ∃ i f off, s.dev.serves ∧ (s.dev.ring i).state = .destroying ∧ s.dev.inFlight i = 0 ∧ (s.dev.ring i).release =
    [f] ∧ (s.dev.entry f.fence).payload = .fence off ∧ NMap.get? s.dev.sub.exports f.fence = none :=
  ⟨on devR, 11, ⟨1, 5⟩, 4096, by decide +kernel, by decide +kernel, by decide +kernel, by decide +kernel, by decide +kernel,
  by decide +kernel⟩

theorem wit_ring_control_checks_1 :
    ∃ s src d c n i, i ∈ [Instr.ringControlDestroy src, .ringControlRestart src, .ringControlBudget src] ∧ Starts s src (fun l
    => isOp 0x11 l && (match i with
      | .ringControlDestroy _ => rctlOp l = 0 || rctlOp l = 3
      | .ringControlRestart _ => rctlOp l = 1
      | _ => rctlOp l = 2)) d c ∧ d.controlFails c = some n :=
  ⟨run0 devR (desc [(0, 0x11), (16, 12), (18, 1)]), src0, _, _, _, .ringControlRestart src0, by decide +kernel,
  starts0 (by decide +kernel) (by decide +kernel), someOf (by decide +kernel)⟩

end Sys2Proof.Tests
end

