-- ==== Sys2Proof/Tests/Wit7.lean ====
section
/-! SUPPORT. Witnesses for the statements about signed commands: blocks signed with a test key, their signatures written out. -/

namespace Sys2Proof.Tests

open Sys2Proof Sys2Proof.Machine

set_option maxRecDepth 4000
set_option Elab.async false

/-- The modulus that signs in these tests: a prime of 3,072 bits. -/
def testModulus : Nat := 2 ^ 3072 - 1103717

/-- Fuses with that vendor key. -/
def nvV : Nv := { Nv.blank with vendorModulus := testModulus }

/-- A DER element of a tag. -/
def der (tag : Nat) (c : Bytes) : Bytes :=
  let n := c.length
  leBytes 1 tag ++ (if n < 128 then leBytes 1 n else leBytes 1 0x82 ++ beBytes 2 n) ++ c

/-- A SubjectPublicKeyInfo with that modulus, and a certificate around it. -/
def testSpki : Bytes :=
  der 0x30 (der 0x30 [] ++ der 3 (0 :: der 0x30 (der 2 (0 :: beBytes 384 testModulus) ++ der 2 [1, 0, 1])))

def testCert : Bytes :=
  der 0x30 (der 0x30 (der 0xA0 [] ++ der 2 [1] ++ (List.replicate 4 (der 0x30 [])).flatten ++ testSpki))

/-- The hash of that key. -/
def testHash : Bytes := beBytes 32 0x3564dd427012af17af8d8255ce1cb75a1ea79bf4794213c3285e5f44f30d4fd3

/-- Fuses with that key as the owner's. -/
def nvO : Nv := { nvV with ownerKeyHash := some testHash, ownerCert := testCert }

/-- An object with a signature block of a signer and key hash whose signature is the number `sig`. -/
def signedBy (obj : Bytes) (signer : Nat) (hash : Bytes) (sig : Nat) : Bytes :=
  obj ++ ascii "PSSG" ++ leBytes 1 1 ++ leBytes 1 signer ++ leBytes 2 0 ++ leBytes 4 obj.length ++ List.replicate 20 0 ++ hash
    ++ beBytes 384 sig

/-- A signed command block before its signature block. -/
def commandBody (op seq : Nat) (target payload : Bytes) : Bytes :=
  ascii "PSCM" ++ leBytes 1 1 ++ leBytes 1 op ++ leBytes 2 0 ++ leBytes 8 seq ++ target ++ leBytes 4 payload.length
    ++ List.replicate 12 0 ++ payload ++ List.replicate (roundUp payload.length 8 - payload.length) 0

/-- A hash of zeros. -/
def zeroHash : Bytes := List.replicate 32 0

/-- A device whose first GiB is mapped to device 2. -/
def devG : Dev := { dev0 with xlt := ⟨[], [⟨1, 0, 2 ^ 30, BitVec.ofNat 64 (0x3F + 2 * 2 ^ 40 + 2 ^ 54)⟩], [], none⟩ }

/-- Bytes at an address of device 2, as a command has received them. -/
def gotAt (a : Nat) (b : Bytes) : List (Nat × Bytes) :=
  (List.range (ceilDiv b.length 256)).map (fun k => (2 * 2 ^ 40 + a + 256 * k, (b.drop (256 * k)).take 256))

/-- A SIGNED_COMMAND that has received its block `b`, and `more`. -/
def sgnCmd (b : Bytes) (more : List (Nat × Bytes)) : Cmd :=
  { cmd0 (desc [(0, 0x70), (16, 4096), (24, b.length)]) with remote := gotAt 4096 b ++ more }

/-- A machine with fuses `nv` whose one command in flight is a SIGNED_COMMAND of the block `b`. -/
def sgn (nv : Nv) (d : Dev) (c : Cmd) : State := { dev := d.withCmds [c], nv := nv, pending := [] }

theorem startsSgn {nv : Nv} {d : Dev} {b : Bytes} {m : List (Nat × Bytes)} (h : (d.withCmds [sgnCmd b m]).serves = true)
    (r : isOp 0x70 (sgnCmd b m).desc = true) :
    Starts (sgn nv d (sgnCmd b m)) src0 (isOp 0x70) (d.withCmds [sgnCmd b m]) (sgnCmd b m) := by
  refine ⟨h, ?_⟩
  simp only [sgnCmd, cmd0] at r
  simp [Dev.issued, src0, sgn, Dev.cmd?, Dev.withCmds, sgnCmd, cmd0, Cmd.active, r]

theorem signedPasses {d : Dev} {nv : Nv} {x : SignedBlock}
    (h : x.target = slice nv.identityDigest 0 32 ∧ nv.cmdSeq.toNat < x.seq.toNat ∧ nv.signerOk x = true
      ∧ ((x.op = 6 && nv.ownerKeyHash.isSome) || (x.op = 5 && leAt x.payload 0 2 ≠ 0 && !(d.grants.contains 0))) = false)
    (hp : nv.payloadOk x = true) (hs : nv.signedOk x = true) : d.signedFails nv x = none := by
  obtain ⟨h1, h2, h3, h4⟩ := h
  unfold Dev.signedFails firstReason
  rw [h3, hp, hs, h4, h1]
  have : ¬ x.seq.toNat ≤ nv.cmdSeq.toNat := by omega
  simp [this]

/-- A signed command block: wrong target. -/
def blockWrongTarget : Bytes :=
  signedBy (commandBody 4 1 (List.replicate 32 1) [1]) 0 zeroHash
    0x0

theorem wit_signed_commands_run_1_wrong_target :
    ∃ s, ∃ src : CmdSource, ∃ d d1 c b x, ∃ i : Instr, ∃ n : Nat, i ∈ [Instr.signedCommandRecorderClear src,
    .signedCommandMembership src, .signedCommandFirmwareUpdate src, .signedCommandDebugUnlock src, .signedCommandMgmtGrant src,
    .signedCommandOwnerBind src] ∧ Starts s src (isOp 0x70) d c ∧ reservedZero c.desc sgnFields ∧ (sgnBlock c.desc).toNat % 8 =
    0 ∧ sgnLength c.desc ≠ 0 ∧ sgnLength c.desc ≤ 65536 ∧ d.signedTurn c ∧ d.cmdRead c engOther (sgnBlock c.desc) (sgnLength
    c.desc) = (d1, .ok, b) ∧ signedBlock b = some x ∧ (match i with
      | .signedCommandRecorderClear _ => x.op = 1
      | .signedCommandMembership _ => x.op = 2
      | .signedCommandFirmwareUpdate _ => x.op = 3
      | .signedCommandDebugUnlock _ => x.op = 4
      | .signedCommandMgmtGrant _ => x.op = 5
      | _ => x.op = 6) ∧ d1.signedFails s.nv x = some n :=
  ⟨sgn nvV devG (sgnCmd blockWrongTarget []), src0, _, _, _, blockWrongTarget,
  ⟨4, 1, (List.replicate 32 1), [1], blockWrongTarget⟩, .signedCommandDebugUnlock src0, 2, by simp,
  startsSgn (by decide +kernel) (by decide +kernel), by decide +kernel, by decide +kernel, by decide +kernel,
  by decide +kernel, by decide +kernel, okTripleWith (by decide +kernel), by decide +kernel, Eq.refl _, by decide +kernel⟩

/-- A signed command block: recorder clear. -/
def blockRecorderClear : Bytes :=
  signedBy (commandBody 1 1 zeroHash []) 0 zeroHash
    0x5d7c3665053603021a2c527411cc5eec2c2e966a1e012c21bf49a3bc8d4956436866e2b8db21990cdf7e6f1faf267a9dcab53b1584435b609d5660f0a686d47f08967b7dd276905f381666fee4304102295c0140bc1f12798ca8b8c4dff63b287ea7d1f206301ade1f5a9472a03440cc7c5544e4cf0120d7a9fcc8ddeb8ad55a0d477110066e5f96bdf65f1e982704322246db4c01b5b3d5938d2ad9ddd26d5803d600c888d874874684abd81d912ee7eb2c8adca883d618e86aa83a8286ef84a27da659e16f335f97610f79d1cdaaf640ea8bc906b8fa717beff59f954adbe63f7b791b2e37ad7c998e8923a94690d609d1e8c8ccfb78c47404b7f77479d49314a9bca8233b9008c91900850a35346c1f2841c30027035e7c95402bb5a6c91d3a073121d6994a1b8dd68bc803e7285fe3786131146956bf9b0cd58b3604ee63bcdbd08f0b5b65dd3c55ea561bb18f16f4338d3be5dba787fe44d397de75f8849feeb5bb415c3a1308ec3f7ea14129534ef145723019289781b8013215cc6a2

theorem wit_signed_commands_run_1_recorder_clear :
    ∃ s, ∃ src : CmdSource, ∃ d d1 c b x, ∃ i : Instr, i ∈ [Instr.signedCommandRecorderClear src, .signedCommandMembership src,
    .signedCommandFirmwareUpdate src, .signedCommandDebugUnlock src, .signedCommandMgmtGrant src, .signedCommandOwnerBind src] ∧
    Starts s src (isOp 0x70) d c ∧ reservedZero c.desc sgnFields ∧ (sgnBlock c.desc).toNat % 8 = 0 ∧ sgnLength c.desc ≠ 0 ∧
    sgnLength c.desc ≤ 65536 ∧ d.signedTurn c ∧ d.cmdRead c engOther (sgnBlock c.desc) (sgnLength c.desc) = (d1, .ok, b) ∧
    signedBlock b = some x ∧ (match i with
      | .signedCommandRecorderClear _ => x.op = 1
      | .signedCommandMembership _ => x.op = 2
      | .signedCommandFirmwareUpdate _ => x.op = 3
      | .signedCommandDebugUnlock _ => x.op = 4
      | .signedCommandMgmtGrant _ => x.op = 5
      | _ => x.op = 6) ∧ (d1.signedFails s.nv x = none) ∧ x.op = 1 ∧ d1.fld Fld.REC_CTRL_hold 0 = 0 :=
  ⟨sgn nvV devG (sgnCmd blockRecorderClear []), src0, _, _, _, blockRecorderClear, ⟨1, 1, zeroHash, [], blockRecorderClear⟩,
  .signedCommandRecorderClear src0, by simp, startsSgn (by decide +kernel) (by decide +kernel), by decide +kernel,
  by decide +kernel, by decide +kernel, by decide +kernel, by decide +kernel, okTripleWith (by decide +kernel),
  by decide +kernel, Eq.refl _, signedPasses (by decide +kernel) (by decide +kernel) (by decide +kernel), by decide +kernel,
  by decide +kernel⟩

/-- A membership list of one member. -/
def listBody : Bytes :=
  ascii "PSML" ++ [1, 0, 0, 0, 1, 0, 0, 0, 1, 0, 0, 0] ++ List.replicate 48 0 ++ List.replicate 32 5 ++ [1, 0, 0, 0, 0, 0, 0, 0]

/-- The list signed by the owner. -/
def listSignedO : Bytes :=
  signedBy listBody 1 testHash
    0x26d82113685688278bf1af36fe54d19f5c217f90a8c263c70e49dc83378f46d170c592a2d954af78f21f364788d8d3d27b50b9d066940f18377a97482bcaeaf6dfc5aed3497384e9d76d6e66ae008c5868ab6cf4a7c91d79bf7639a7616a7561abf005cdab5a3841761e3dabefd731fc2697d785795909dbdf1d806e17520a640d5d7758fdf3052c9b3a49b83a6104ae8841e8490d47a77fe8e9904d752b2fc61ad4be2c1dc2e9b934f3b39df970b9b58ddbbbcd36091423fd9ede9878c516db24925f5108761eaf58bd17882961a40465bd09b7c36aa53311f25f3cf6240f5d9efa62b5ace2611cc7aacf05d3243b86d10fe95754e56a659f800349f921b808cea5ba1f9cd733468659700d3f92cecd7823b77c24e404cd40be835909f8aacd591f427395d0e490c51f6fb62c3e9c987da487e07babdb5894bd82e16021171992310ef02cc55966d0f51b4e61de41ca944a7ac170e238f7e7d9e7bbc99ab1be1577465376a50434cbf0bdf8916338dfe989cab022ffa48be5dbb003c7be0f34

/-- The device on the OWNING side. -/
def devGO : Dev := fields devG [(Fld.FAB_STATE_side, 0, 1)]

/-- A signed command block: membership. -/
def blockMembership : Bytes :=
  signedBy (commandBody 2 1 zeroHash listSignedO) 1 testHash
    0x5f9d66f45e33482fc08dac980c24c0fdf1e10a7c1950257321fdf48cadaef2e6e8e7de2782d3ee9a76fb430beef464084917dd27bd448d09da5b6e521e9d9566347ec7fffaa3c553c31c3db1ea38dba2f19292b923a34e5efd8062b50cba2bd0cd19fdd3934a87db5b438d4368d3a9c2f16dfa198ed599fff4515fb12c7bbc6b52d276836f2441e04b145cda5064a86781f2547ec39ab7ca4e329c5593ec4088c1cb52c88b8d88e4405a8b54ddb35e301d5f976450e2ec49a2020011d7da737e1b6a1e0b2aea5288004df4bf088f8fda27b003d8297c41f4e59f0961be030c24efaebf5a22ba038495b16a779605f28d5a04a5fcfc6460df20456738712b4b2c00133b08d6b802a2de52466d2b9a333be475d782cef375eabb7b87112b6195fec6c9a59fac319efabdf4f6594da42f9986b054c539801c29afecd4d679d727eef7100d48e30307a10bdbfedd13c6e23c7217bda3d824f2ea169c62016ef6a40ade0f17ff234567e37d8ef45332b626b0f61915492f85ded4b1c3a256a09e458

theorem wit_signed_commands_run_1_membership :
    ∃ s, ∃ src : CmdSource, ∃ d d1 c b x, ∃ i : Instr, i ∈ [Instr.signedCommandRecorderClear src, .signedCommandMembership src,
    .signedCommandFirmwareUpdate src, .signedCommandDebugUnlock src, .signedCommandMgmtGrant src, .signedCommandOwnerBind src] ∧
    Starts s src (isOp 0x70) d c ∧ reservedZero c.desc sgnFields ∧ (sgnBlock c.desc).toNat % 8 = 0 ∧ sgnLength c.desc ≠ 0 ∧
    sgnLength c.desc ≤ 65536 ∧ d.signedTurn c ∧ d.cmdRead c engOther (sgnBlock c.desc) (sgnLength c.desc) = (d1, .ok, b) ∧
    signedBlock b = some x ∧ (match i with
      | .signedCommandRecorderClear _ => x.op = 1
      | .signedCommandMembership _ => x.op = 2
      | .signedCommandFirmwareUpdate _ => x.op = 3
      | .signedCommandDebugUnlock _ => x.op = 4
      | .signedCommandMgmtGrant _ => x.op = 5
      | _ => x.op = 6) ∧ (d1.signedFails s.nv x = none) ∧ x.op = 2 ∧ d1.side = 1 :=
  ⟨sgn nvO devGO (sgnCmd blockMembership []), src0, _, _, _, blockMembership, ⟨2, 1, zeroHash, listSignedO, blockMembership⟩,
  .signedCommandMembership src0, by simp, startsSgn (by decide +kernel) (by decide +kernel), by decide +kernel,
  by decide +kernel, by decide +kernel, by decide +kernel, by decide +kernel, okTripleWith (by decide +kernel),
  by decide +kernel, Eq.refl _, signedPasses (by decide +kernel) (by decide +kernel) (by decide +kernel), by decide +kernel,
  by decide +kernel⟩

theorem wit_signed_commands_run_1_membership_partitioned :
    ∃ s, ∃ src : CmdSource, ∃ d d1 c b x, ∃ i : Instr, i ∈ [Instr.signedCommandRecorderClear src, .signedCommandMembership src,
    .signedCommandFirmwareUpdate src, .signedCommandDebugUnlock src, .signedCommandMgmtGrant src, .signedCommandOwnerBind src] ∧
    Starts s src (isOp 0x70) d c ∧ reservedZero c.desc sgnFields ∧ (sgnBlock c.desc).toNat % 8 = 0 ∧ sgnLength c.desc ≠ 0 ∧
    sgnLength c.desc ≤ 65536 ∧ d.signedTurn c ∧ d.cmdRead c engOther (sgnBlock c.desc) (sgnLength c.desc) = (d1, .ok, b) ∧
    signedBlock b = some x ∧ (match i with
      | .signedCommandRecorderClear _ => x.op = 1
      | .signedCommandMembership _ => x.op = 2
      | .signedCommandFirmwareUpdate _ => x.op = 3
      | .signedCommandDebugUnlock _ => x.op = 4
      | .signedCommandMgmtGrant _ => x.op = 5
      | _ => x.op = 6) ∧ (d1.signedFails s.nv x = none) ∧ x.op = 2 ∧ d1.side ≠ 1 :=
  ⟨sgn nvO devG (sgnCmd blockMembership []), src0, _, _, _, blockMembership, ⟨2, 1, zeroHash, listSignedO, blockMembership⟩,
  .signedCommandMembership src0, by simp, startsSgn (by decide +kernel) (by decide +kernel), by decide +kernel,
  by decide +kernel, by decide +kernel, by decide +kernel, by decide +kernel, okTripleWith (by decide +kernel),
  by decide +kernel, Eq.refl _, signedPasses (by decide +kernel) (by decide +kernel) (by decide +kernel), by decide +kernel,
  by decide +kernel⟩

/-- A Gotik image of security version 3 with eight bytes of code, and its hash. -/
def imageS : Bytes :=
  signedBy (ascii "PSGI" ++ [1, 0, 0, 0, 3, 0, 0, 0, 8, 0, 0, 0] ++ List.replicate 48 0 ++ List.replicate 8 7) 0 zeroHash
    0xbefaa443d1616158a6bb4a3aac1fc35a9c915f9855230f347cb0591e97ac376cf0dafcb23fe2b99f1058b3e422e09217c8b3187fbece6896f6f77a5855d304a094f6ac5d5845a90f1d4472ce7fea5726de942e4328ba9d690b78495601f06e52090b9b61dc9d58cfa8dbe0fdcff4fc2fadf04120cd61221523ccdf78efd52c62e33292f4573b4be68759f0a3368c05f3d03a33bd6d4d69b8cbb2eb04d3d878c0d914c2b745c7875e5ae47e6ad641dc6f3615d2551acde7b6da94a706d150e44840868102a0fb905406ef2ca58332b0626be588b78da09e0f1c5ec840b6f8ea625643fc49abbe97d0343d94788c6a1b7d7070b67b515e15cc907fe87045ab25c51c1ae959544beb032a3f1d39ca4c118f76eed9aeec38e8e8da36174484b185bee93b414471d166ef845496d57b2ea283ccc50f9306ceabe43eae2ead51388228e7a6462cbb2099b19cb3faf505a26bda7143b8953ff83be5d9b711798cf233730b0adf20c68974d8a33b746349d487c5013b1fff224649255d562a2805614ace

def imageHash : Bytes := beBytes 32 0x3dd3c861c713526291f86f524a74383d3576500954ed35cebb487685da929ee6

/-- The payload of a FIRMWARE_UPDATE that names it at 8192. -/
def imagePayload : Bytes := leBytes 8 8192 ++ leBytes 8 imageS.length ++ imageHash

/-- A signed command block: firmware update. -/
def blockFirmwareUpdate : Bytes :=
  signedBy (commandBody 3 1 zeroHash imagePayload) 0 zeroHash
    0xdc95c9c81e95bd3be23f84021077029807bccfc3a170bb6037a1cfea3bd1fbe70abd20d41b83f55bac46e53335ece717673612f81e99b6fbd2b18fb73add7029537485cba49dff403cf4d50d53bc35bf89da3e81a993e091e0a8b87c1ee41a9c1af38d694be757bb952c1b1944f5a4d8472a1b9be7479c6e08f1e4e2f17f262d9d3d3760d0c982f52e193786a846aa314c51174dfb372fc7818f86a72c48661f936260755de52c77959fc4e96c3d55d45767b418bf589192c28af544f2cdcc17a50aa5fc9b2e6131332b7a645537973f0cde10f2af543dfaedff1b9d6dba870faa4cc1cda1bab3bb4714cb926bdb974d4705f6bce585a905c05b23c6afc0bf6187c839a2aac9ac966d0e1efc0bd5c6ec3605f255cdae81daf9ebf660035b1d1ab01d2e7d672817cc8e176ee0f58e9187a5088ca975be2d8ee8aefd437027cca6c4de4604c13542ea695ece1af3d3d265d5312853f3fd254d904a9a7b9b245c476f676b234ccfbc9906575c95d64d3e9abb1952c03ef4f5e309ffd72f53888b10

theorem wit_signed_commands_run_1_firmware_update :
    ∃ s, ∃ src : CmdSource, ∃ d d1 c b x, ∃ i : Instr, ∃ d2 : Dev, ∃ img : Bytes, i ∈ [Instr.signedCommandRecorderClear src,
    .signedCommandMembership src, .signedCommandFirmwareUpdate src, .signedCommandDebugUnlock src, .signedCommandMgmtGrant src,
    .signedCommandOwnerBind src] ∧ Starts s src (isOp 0x70) d c ∧ reservedZero c.desc sgnFields ∧ (sgnBlock c.desc).toNat % 8 =
    0 ∧ sgnLength c.desc ≠ 0 ∧ sgnLength c.desc ≤ 65536 ∧ d.signedTurn c ∧ d.cmdRead c engOther (sgnBlock c.desc) (sgnLength
    c.desc) = (d1, .ok, b) ∧ signedBlock b = some x ∧ (match i with
      | .signedCommandRecorderClear _ => x.op = 1
      | .signedCommandMembership _ => x.op = 2
      | .signedCommandFirmwareUpdate _ => x.op = 3
      | .signedCommandDebugUnlock _ => x.op = 4
      | .signedCommandMgmtGrant _ => x.op = 5
      | _ => x.op = 6) ∧ (d1.signedFails s.nv x = none) ∧ x.op = 3 ∧ d1.cmdRead c engOther (wideAt x.payload 0) (leAt x.payload
    8 4) = (d2, .ok, img) ∧ sha256 img = slice x.payload 16 32 ∧ s.nv.imageOk img :=
  ⟨sgn nvV devG (sgnCmd blockFirmwareUpdate (gotAt 8192 imageS)), src0, _, _, _, blockFirmwareUpdate,
  ⟨3, 1, zeroHash, imagePayload, blockFirmwareUpdate⟩, .signedCommandFirmwareUpdate src0, _, imageS, by simp,
  startsSgn (by decide +kernel) (by decide +kernel), by decide +kernel, by decide +kernel, by decide +kernel,
  by decide +kernel, by decide +kernel, okTripleWith (by decide +kernel), by decide +kernel, Eq.refl _,
  signedPasses (by decide +kernel) (by decide +kernel) (by decide +kernel), by decide +kernel,
  okTripleWith (by decide +kernel), by decide +kernel, by decide +kernel⟩

/-- A signed command block: debug unlock. -/
def blockDebugUnlock : Bytes :=
  signedBy (commandBody 4 1 zeroHash [1]) 0 zeroHash
    0xc4f19ef72bd25da5e36262954a13f51e6db3ae8fcf10fb42cefe3e7ba1f5a29d8ed24ee82e40c41572645c64be5ae7231abc523c08a0e434c8bbda1e7019926600f2d1a1a722a0a22d23c9da738519c7c342f14af9d041eef309b9dc9358e4cf76b83e8b3b8cbaff3f4b692c777e7ca874ca6f22f4972608b1f9fd9b0673ab957e2ced748f1a6f51ddcf44154e0784a6f21d506f235ff8f0da41dee0749d37556e4250c001ce8e9312e6b588822889f0ab7aebc2a1ec3a2b654b668b77bd04d60d9311c11c2d275b89cd41c8a0ffd10792228e15d68f98e0a1e8f1795dc4c4a8e8db13f32c2b9221517c914ec3d00637f4309b91452bf2e3001b40a5754a3a318a144f23d28748743b7332455f1c52529e57c5a4afdc6370f8a20de20e623c5783aa67ac3d53e0dc4f686120b7de9db9c81e770ef364f0f08c8048b30c46da4cbf96f0a1052d7a3b5dee10e596d3df62b0056615756cfd15231a0cde77e10ca2481444ade973121b07bb3df670e0938e74335dbb91e921b08613839de1c35af7

theorem wit_signed_commands_run_1_debug_unlock :
    ∃ s, ∃ src : CmdSource, ∃ d d1 c b x, ∃ i : Instr, i ∈ [Instr.signedCommandRecorderClear src, .signedCommandMembership src,
    .signedCommandFirmwareUpdate src, .signedCommandDebugUnlock src, .signedCommandMgmtGrant src, .signedCommandOwnerBind src] ∧
    Starts s src (isOp 0x70) d c ∧ reservedZero c.desc sgnFields ∧ (sgnBlock c.desc).toNat % 8 = 0 ∧ sgnLength c.desc ≠ 0 ∧
    sgnLength c.desc ≤ 65536 ∧ d.signedTurn c ∧ d.cmdRead c engOther (sgnBlock c.desc) (sgnLength c.desc) = (d1, .ok, b) ∧
    signedBlock b = some x ∧ (match i with
      | .signedCommandRecorderClear _ => x.op = 1
      | .signedCommandMembership _ => x.op = 2
      | .signedCommandFirmwareUpdate _ => x.op = 3
      | .signedCommandDebugUnlock _ => x.op = 4
      | .signedCommandMgmtGrant _ => x.op = 5
      | _ => x.op = 6) ∧ (d1.signedFails s.nv x = none) ∧ x.op = 4 :=
  ⟨sgn nvV devG (sgnCmd blockDebugUnlock []), src0, _, _, _, blockDebugUnlock, ⟨4, 1, zeroHash, [1], blockDebugUnlock⟩,
  .signedCommandDebugUnlock src0, by simp, startsSgn (by decide +kernel) (by decide +kernel), by decide +kernel,
  by decide +kernel, by decide +kernel, by decide +kernel, by decide +kernel, okTripleWith (by decide +kernel),
  by decide +kernel, Eq.refl _, signedPasses (by decide +kernel) (by decide +kernel) (by decide +kernel), by decide +kernel⟩

/-- A signed command block: grants cleared. -/
def blockGrantsCleared : Bytes :=
  signedBy (commandBody 5 1 zeroHash [0, 0]) 0 zeroHash
    0xbf01cd08282ed6e35eb7d19eeac7ec9440a75867de7a0d333089aa3832a1b452408c94cc54a6a62959ef8f1322fc5ba708f384ed4d3530beffcd2473e19c62e5779b5acb95c13604b02122f58f8c27308ded0cb7a58663f29c96f4da1287b367286b1943741ab287aa911cd2e1d9f4c0a2d9825a3d5b38ee7eae0f54eb66b6a3e5d1a8c0dbe2b7d2e7661cb87d32dbb81df5eb32657c268f0e8646f4af416b9cc35a66f7265e8f57ad05d6a19f3a4ef04d3085945b7bdd2506060af486bdc8a7a7cfb2c576464b667d09ffecc41c827d26c5554d5b88ed0a22706104da8ade1925481b09a7b8a46e426053a300fe12f16b3d47f9deee804e38342f1d3939683cf91642f53e21b45b3b8bfb9a56cafb28e9fb831016e092d31f3ba3eaeefa48b5e7f778661dea6840b63f24a9d1b6b69bab93c5468dd10587d64cbcdc516789487a01a07eb07f1db84b835feccef238960df74dc6030e4ec2d9dc99fc9feec50c62a47d4d5e5ae9038ad1f45bc3c2ce2a1077ccdd237dc8c1dce222f077f8a788

theorem wit_signed_commands_run_1_grants_cleared :
    ∃ s, ∃ src : CmdSource, ∃ d d1 c b x, ∃ i : Instr, i ∈ [Instr.signedCommandRecorderClear src, .signedCommandMembership src,
    .signedCommandFirmwareUpdate src, .signedCommandDebugUnlock src, .signedCommandMgmtGrant src, .signedCommandOwnerBind src] ∧
    Starts s src (isOp 0x70) d c ∧ reservedZero c.desc sgnFields ∧ (sgnBlock c.desc).toNat % 8 = 0 ∧ sgnLength c.desc ≠ 0 ∧
    sgnLength c.desc ≤ 65536 ∧ d.signedTurn c ∧ d.cmdRead c engOther (sgnBlock c.desc) (sgnLength c.desc) = (d1, .ok, b) ∧
    signedBlock b = some x ∧ (match i with
      | .signedCommandRecorderClear _ => x.op = 1
      | .signedCommandMembership _ => x.op = 2
      | .signedCommandFirmwareUpdate _ => x.op = 3
      | .signedCommandDebugUnlock _ => x.op = 4
      | .signedCommandMgmtGrant _ => x.op = 5
      | _ => x.op = 6) ∧ (d1.signedFails s.nv x = none) ∧ x.op = 5 ∧ leAt x.payload 0 2 = 0 :=
  ⟨sgn nvV devG (sgnCmd blockGrantsCleared []), src0, _, _, _, blockGrantsCleared, ⟨5, 1, zeroHash, [0, 0], blockGrantsCleared⟩,
  .signedCommandMgmtGrant src0, by simp, startsSgn (by decide +kernel) (by decide +kernel), by decide +kernel,
  by decide +kernel, by decide +kernel, by decide +kernel, by decide +kernel, okTripleWith (by decide +kernel),
  by decide +kernel, Eq.refl _, signedPasses (by decide +kernel) (by decide +kernel) (by decide +kernel), by decide +kernel,
  by decide +kernel⟩

/-- A signed command block: grant added. -/
def blockGrantAdded : Bytes :=
  signedBy (commandBody 5 1 zeroHash [7, 0]) 0 zeroHash
    0x1f31bd59d45362c45eb776280a420f43e7ed4d9de5598b0ae0615b418ff94ebe641e6af15138ca0c6e748bf79fb12ab23c8d6ef799f0afdccb6a0cf006cc3124ac35d3919b00d38c4a838260eaef894734efc38e61995c98b8d70a41dbb56e71dde5e865e36f2370558fdb7aaf8e7dd2290abe7325779efcc5e705d0158bfc17b9e49b2a7860ff429e8e0fb404beef86e909675fa3f9a77d0194a88c5fd477b7ed5a5c7ce9adc15fb591a54ace35ba3a30840b73bb4979e260a50f19266c91d74dfa297b18bb36c3a2d46b2399c6ff1455407874b6b4dc9d0e07d89f68e201df6fb33321165de43ada0cd4480f1a4ef3a1167b9766841ca37bbc9f638df44301e23d4ecf67f15ce4f034e4040439283f47fcd0ed4d99f2d7b99d1c922e4c444f82a14ecf72978cb465725be186c1bac6d5784ee63fda80ae74b71bce2a17bfe846d79ca29d33fc8ce5237a1c587cfd2ccc6620d57da1c82ca91801d24026996845802e882aee5358ba38bf12f37d8baee89859a130ea7401634dec17e2d48c2a

theorem wit_signed_commands_run_1_grant_added :
    ∃ s, ∃ src : CmdSource, ∃ d d1 c b x, ∃ i : Instr, ∃ k : Nat, i ∈ [Instr.signedCommandRecorderClear src,
    .signedCommandMembership src, .signedCommandFirmwareUpdate src, .signedCommandDebugUnlock src, .signedCommandMgmtGrant src,
    .signedCommandOwnerBind src] ∧ Starts s src (isOp 0x70) d c ∧ reservedZero c.desc sgnFields ∧ (sgnBlock c.desc).toNat % 8 =
    0 ∧ sgnLength c.desc ≠ 0 ∧ sgnLength c.desc ≤ 65536 ∧ d.signedTurn c ∧ d.cmdRead c engOther (sgnBlock c.desc) (sgnLength
    c.desc) = (d1, .ok, b) ∧ signedBlock b = some x ∧ (match i with
      | .signedCommandRecorderClear _ => x.op = 1
      | .signedCommandMembership _ => x.op = 2
      | .signedCommandFirmwareUpdate _ => x.op = 3
      | .signedCommandDebugUnlock _ => x.op = 4
      | .signedCommandMgmtGrant _ => x.op = 5
      | _ => x.op = 6) ∧ (d1.signedFails s.nv x = none) ∧ x.op = 5 ∧ leAt x.payload 0 2 ≠ 0 ∧ d1.grants.contains (leAt x.payload
    0 2) = false ∧ d1.grants.findIdx? (· = 0) = some k :=
  ⟨sgn nvV devG (sgnCmd blockGrantAdded []), src0, _, _, _, blockGrantAdded, ⟨5, 1, zeroHash, [7, 0], blockGrantAdded⟩,
  .signedCommandMgmtGrant src0, 0, by simp, startsSgn (by decide +kernel) (by decide +kernel), by decide +kernel,
  by decide +kernel, by decide +kernel, by decide +kernel, by decide +kernel, okTripleWith (by decide +kernel),
  by decide +kernel, Eq.refl _, signedPasses (by decide +kernel) (by decide +kernel) (by decide +kernel), by decide +kernel,
  by decide +kernel, by decide +kernel, by decide +kernel⟩

/-- A signed command block: owner bound. -/
def blockOwnerBound : Bytes :=
  signedBy (commandBody 6 1 zeroHash testCert) 3 testHash
    0xea6f0b7bed5fc6e227ee9cec86318de9cfd233e1d4d0b034719ab17afe3972d3fb6bbe8b74c3e7d54d60105a978e8eebc9d6cc287022dec4bf2d5abd2fc50f83aa01b67612e23d5ed7259fb720dfa7fc8cce66550a4a931bccdd61c1e4ed3b6601cd841680da59b5b981b2ee7adf253d00bb07c913d7e1ac3ed2a2227f262afc561b4644fbeff401bcf9c14f2ad74059720de95144c2f2aadb8ea07c829f165524a8c13061eebb42c4bcfce7938f024169e80e2e7aa04b842d481b9e0e85322072af3f46a1de81d847b718ebbb0232bca3000310c6ea504d00758d55eeb6a3448d0aa25af6d2d7c2c5d78feccb96cd5d4a2ebb9fd20e3573df789b9f9120054f1ef569fe0817fe8eceb17b709edee5f8858a9e4ab723d720379a1ca43a83a3048c9baf8b2e7b4072ee736877b7ff8b08be6fae2e4980275168219ffa9edddab0904fbadce5a0c165e17e74593818adf1cb09e218b2306a41c36fe6e26045ddcf21de3cb2654bf54223399a833b6c0158b5eefdafb40fdccc9eede7aa2b9448b1

theorem wit_signed_commands_run_1_owner_bound :
    ∃ s, ∃ src : CmdSource, ∃ d d1 c b x, ∃ i : Instr, i ∈ [Instr.signedCommandRecorderClear src, .signedCommandMembership src,
    .signedCommandFirmwareUpdate src, .signedCommandDebugUnlock src, .signedCommandMgmtGrant src, .signedCommandOwnerBind src] ∧
    Starts s src (isOp 0x70) d c ∧ reservedZero c.desc sgnFields ∧ (sgnBlock c.desc).toNat % 8 = 0 ∧ sgnLength c.desc ≠ 0 ∧
    sgnLength c.desc ≤ 65536 ∧ d.signedTurn c ∧ d.cmdRead c engOther (sgnBlock c.desc) (sgnLength c.desc) = (d1, .ok, b) ∧
    signedBlock b = some x ∧ (match i with
      | .signedCommandRecorderClear _ => x.op = 1
      | .signedCommandMembership _ => x.op = 2
      | .signedCommandFirmwareUpdate _ => x.op = 3
      | .signedCommandDebugUnlock _ => x.op = 4
      | .signedCommandMgmtGrant _ => x.op = 5
      | _ => x.op = 6) ∧ (d1.signedFails s.nv x = none) ∧ x.op = 6 :=
  ⟨sgn nvV devG (sgnCmd blockOwnerBound []), src0, _, _, _, blockOwnerBound, ⟨6, 1, zeroHash, testCert, blockOwnerBound⟩,
  .signedCommandOwnerBind src0, by simp, startsSgn (by decide +kernel) (by decide +kernel), by decide +kernel,
  by decide +kernel, by decide +kernel, by decide +kernel, by decide +kernel, okTripleWith (by decide +kernel),
  by decide +kernel, Eq.refl _, signedPasses (by decide +kernel) (by decide +kernel) (by decide +kernel), by decide +kernel⟩

end Sys2Proof.Tests
end

