-- ==== Sys2Proof/Tests/Wit10.lean ====
section
/-! SUPPORT. Witnesses for the statements about the fabric domain. -/

namespace Sys2Proof.Tests

open Sys2Proof Sys2Proof.Machine

set_option maxRecDepth 4000
set_option Elab.async false

/-- Digests of this device, of its neighbour and of a third device. -/
def me : Bytes := List.replicate 32 9
def other : Bytes := List.replicate 32 5
def third : Bytes := List.replicate 32 7

/-- A machine with that identity. -/
def own (d : Dev) : State := { dev := d, nv := { Nv.blank with identityDigest := me }, pending := [] }

/-- A HELLO of the neighbour, which follows or is a manager. -/
def hello0 (role manager : Nat) : Hello := ⟨true, role, 1, 0, 2, manager, 0, 0, 4, 0, other, other⟩

/-- Devices whose hop 0 has that neighbour, with a role of their own. -/
def devN (role nrole manager : Nat) : Dev :=
  let d := fields devF [(Fld.FAB_STATE_role, 0, role), (Fld.FAB_DISC_eligible, 0, 1)]
  d.withDom { d.fab.dom with neighbours := [(0, ⟨hello0 nrole manager, 0, 0⟩)], members := [⟨other, 2, [], 0, false⟩], bestSince := some 0 }

/-- The device alone, with a role. -/
def devA (role : Nat) : Dev :=
  let d := fields devF [(Fld.FAB_STATE_role, 0, role), (Fld.FAB_DISC_eligible, 0, 1)]
  d.withDom { d.fab.dom with bestSince := some 0, members := [⟨other, 2, [], 0, false⟩] }

/-- A REPORT of the third device and an ASSIGN for a digest. -/
def report0 : Bytes := (reportBytes 3 third []).headD []
def assign0 (digest : Bytes) : Bytes := assignBytes 4 2 1 3 digest

/-- A LIST_REQ for chunk 0 of version 1. -/
def listReq0 : Bytes := [4, 1, 0, 0, 1, 0, 0, 0, 0, 0, 0, 0]

/-- The device while it fetches a list of three chunks, the first `n` of which it has. -/
def devLF (n : Nat) : Dev :=
  (devA 0).withDom { (devA 0).fab.dom with
    fetching := some ⟨1, 0, (List.range n).map (fun k => (k, (listSignedO.drop (240 * k)).take 240))⟩ }

/-- The LIST_DATA with chunk `k`. -/
def listData0 (k : Nat) : Bytes := [5, 1, 0, 0, 1, 0, 0, 0, BitVec.ofNat 8 k, 0, 3, 0, 0, 0, 0, 0] ++ (listSignedO.drop (240 * k)).take 240

theorem wit_domain_messages_1 :
    ∃ s : State, ∃ d d1, ∃ hop : Nat, ∃ b : Bytes, s.dev = d ∧ d.serves ∧ d.discHop hop ∧ NMap.get? d.fab.dom.said hop = none ∧
    d1 = d.raiseSeq ∧ b = (d1.hello s.nv.identityDigest s.nv.listVersion hop).bytes :=
  ⟨own devF, _, _, 0, _, rfl, by decide +kernel, by decide +kernel, by decide +kernel, rfl, rfl⟩

theorem wit_domain_messages_2_hello :
    ∃ s : State, ∃ d, ∃ hop : Nat, s.dev = d ∧ d.serves ∧ d.discHop hop :=
  ⟨own devF, _, 0, rfl, by decide +kernel, by decide +kernel⟩

theorem wit_domain_messages_2_report :
    ∃ s : State, ∃ d, ∃ hop : Nat, s.dev = d ∧ d.serves ∧ d.discHop hop :=
  ⟨own devF, _, 0, rfl, by decide +kernel, by decide +kernel⟩

theorem wit_domain_messages_2_assign :
    ∃ s : State, ∃ d, ∃ hop : Nat, s.dev = d ∧ d.serves ∧ d.discHop hop :=
  ⟨own devF, _, 0, rfl, by decide +kernel, by decide +kernel⟩

theorem wit_domain_messages_2_list :
    ∃ s : State, ∃ d, ∃ hop : Nat, s.dev = d ∧ d.serves ∧ d.discHop hop :=
  ⟨own devF, _, 0, rfl, by decide +kernel, by decide +kernel⟩

theorem wit_domain_messages_3 :
    ∃ s : State, ∃ d d0 d1 d2, ∃ hop : Nat, ∃ p : Bytes, ∃ h : Hello, ∃ me, s.dev = d ∧ d.serves ∧ d.discHop hop ∧ discOk 1 p ∧
    me = s.nv.identityDigest ∧ h = helloOf p ∧ d0 = d.discTaken hop p ∧ NMap.get? d0.fab.dom.neighbours hop = none ∧
    d1 = ({ d0 with fab := { d0.fab with dom := { d0.fab.dom with neighbours := NMap.set d0.fab.dom.neighbours hop ⟨h, d0.now, d0.now⟩, seqAt := if d0.fab.dom.seq < h.seq then d0.now else d0.fab.dom.seqAt, seq := max d0.fab.dom.seq h.seq } } } : Dev).noteBest me
    ∧ d2 = (if d1.role = 0 ∧ d1.parent me = some hop then d1.follow h (d0.fab.dom.seq < h.seq) else d1) ∧ h.list ≤
    s.nv.listVersion :=
  ⟨own (devA 0), _, _, _, _, 0, (hello0 1 2).bytes, _, _, rfl, by decide +kernel, by decide +kernel, by decide +kernel, rfl,
  rfl, rfl, by decide +kernel, rfl, rfl, by decide +kernel⟩

theorem wit_domain_messages_4 :
    ∃ s : State, ∃ d d0, ∃ hop : Nat, ∃ p : Bytes, ∃ k : Nat, s.dev = d ∧ d.serves ∧ d.discHop hop ∧ discOk 2 p ∧ slice p 8 32 ≠
    s.nv.identityDigest ∧ d0 = (d.discTaken hop p).recordReport hop p ∧ d0.parent s.nv.identityDigest = some k :=
  ⟨own (devN 0 1 2), _, _, 0, report0, 0, rfl, by decide +kernel, by decide +kernel, by decide +kernel, by decide +kernel, rfl,
  by decide +kernel⟩

theorem wit_domain_messages_5 :
    ∃ s : State, ∃ d d0, ∃ hop : Nat, ∃ p : Bytes, s.dev = d ∧ d.serves ∧ d.discHop hop ∧ discOk 2 p ∧ slice p 8 32 ≠
    s.nv.identityDigest ∧ d0 = (d.discTaken hop p).recordReport hop p ∧ d0.parent s.nv.identityDigest = none ∧ d0.role = 1 ∧
    d0.side = 1 :=
  ⟨own (devA 1), _, _, 0, report0, rfl, by decide +kernel, by decide +kernel, by decide +kernel, by decide +kernel, rfl,
  by decide +kernel, by decide +kernel, by decide +kernel⟩

theorem wit_domain_messages_6 :
    ∃ s : State, ∃ d, ∃ hop : Nat, ∃ p : Bytes, s.dev = d ∧ d.serves ∧ d.discHop hop ∧ discOk 3 p ∧ slice p 16 32 =
    s.nv.identityDigest :=
  ⟨own devF, _, 0, assign0 me, rfl, by decide +kernel, by decide +kernel, by decide +kernel, by decide +kernel⟩

theorem wit_domain_messages_7 :
    ∃ d : Dev, ∃ p : Bytes, ∃ a : Nat, (d.addr = 0 ∨ d.addr = a) ∧ a = leAt p 4 4 % 4096 :=
  ⟨fields devF [(Fld.FAB_ADDR_addr, 0, 0)], assign0 me, _, by decide +kernel, rfl⟩

theorem wit_domain_messages_8 :
    ∃ s : State, ∃ d, ∃ hop : Nat, ∃ p : Bytes, ∃ m, s.dev = d ∧ d.serves ∧ d.discHop hop ∧ discOk 3 p ∧ slice p 16 32 ≠
    s.nv.identityDigest ∧ (d.discTaken hop p).fab.dom.members.find? (fun m => m.digest = slice p 16 32) = some m :=
  ⟨own (devA 1), _, 0, assign0 other, ⟨other, 2, [], 0, false⟩, rfl, by decide +kernel, by decide +kernel, by decide +kernel,
  by decide +kernel, by decide +kernel⟩

theorem wit_domain_messages_9 :
    ∃ s : State, ∃ d, ∃ hop : Nat, ∃ p : Bytes, ∃ v k n : Nat, s.dev = d ∧ d.serves ∧ d.discHop hop ∧ discOk 4 p ∧ v = leAt p 4
    4 ∧ k = leAt p 8 2 ∧ n = ceilDiv s.nv.list.length 240 ∧ v = s.nv.listVersion ∧ v ≠ 0 ∧ k < n :=
  ⟨{ own devF with nv := { Nv.blank with list := listBody } }, _, 0, listReq0, _, _, _, rfl, by decide +kernel,
  by decide +kernel, by decide +kernel, rfl, rfl, rfl, rfl, by decide +kernel, by decide +kernel⟩

theorem wit_domain_messages_10_first :
    ∃ s : State, ∃ d d0, ∃ hop : Nat, ∃ p : Bytes, ∃ f, ∃ k n : Nat, ∃ g : ListFetch, s.dev = d ∧ d.serves ∧ d.discHop hop ∧
    discOk 5 p ∧ d0 = d.discTaken hop p ∧ d0.fab.dom.fetching = some f ∧ f.hop = hop ∧ leAt p 4 4 = f.version ∧ k = leAt p 8 2 ∧
    n = leAt p 10 2 ∧ k < n ∧ f.chunks.any (fun c => c.1 = k) = false ∧ g = { f with chunks := f.chunks ++ [(k, p.drop 16)] } ∧
    g.next < n :=
  ⟨own (devLF 0), _, _, 0, listData0 0, _, _, _, _, rfl, by decide +kernel, by decide +kernel, by decide +kernel, rfl,
  someOf (by decide +kernel), by decide +kernel, by decide +kernel, rfl, rfl, by decide +kernel, by decide +kernel, rfl,
  by decide +kernel⟩

theorem wit_domain_messages_10_last :
    ∃ s : State, ∃ d d0, ∃ hop : Nat, ∃ p : Bytes, ∃ f, ∃ k n : Nat, ∃ g : ListFetch, ∃ bytes : Bytes, ∃ l : MList, s.dev = d ∧
    d.serves ∧ d.discHop hop ∧ discOk 5 p ∧ d0 = d.discTaken hop p ∧ d0.fab.dom.fetching = some f ∧ f.hop = hop ∧ leAt p 4 4 =
    f.version ∧ k = leAt p 8 2 ∧ n = leAt p 10 2 ∧ k < n ∧ f.chunks.any (fun c => c.1 = k) = false ∧ g = { f with chunks :=
    f.chunks ++ [(k, p.drop 16)] } ∧ n ≤ g.next ∧ bytes = (List.range n).flatMap (fun i => ((g.chunks.find? (fun c => c.1 =
    i)).map (·.2)).getD []) ∧ listOf bytes = some l ∧ d0.side = 1 ∧ l.version = f.version ∧ s.nv.listVersion < l.version ∧
    bytes.length = listSize bytes + sigSize ∧ s.nv.listSigned bytes :=
  ⟨{ own (devLF 2) with nv := nvO }, _, _, 0, listData0 2, _, _, _, _, listSignedO, _, rfl, by decide +kernel,
  by decide +kernel, by decide +kernel, rfl, someOf (by decide +kernel), by decide +kernel, by decide +kernel, rfl, rfl,
  by decide +kernel, by decide +kernel, rfl, by decide +kernel, by decide +kernel, someOf (by decide +kernel),
  by decide +kernel, by decide +kernel, by decide +kernel, by decide +kernel, by decide +kernel⟩

theorem wit_domain_roles_1 :
    ∃ s : State, ∃ d d0 d1, ∃ hop : Nat, ∃ n : Neighbour, ∃ me : Bytes, s.dev = d ∧ d.serves ∧ NMap.get? d.fab.dom.neighbours
    hop = some n ∧ me = s.nv.identityDigest ∧ d0 = (if d.discHop hop then d.advanceTo (n.heard + 3 * (1000 * d.fld
    Fld.FAB_DISC_hello_us 0)) else d) ∧
    d1 = { d0 with fab := { d0.fab with dom := { d0.fab.dom with neighbours := NMap.erase d0.fab.dom.neighbours hop, said := NMap.erase d0.fab.dom.said hop, members := d0.fab.dom.members.filter (fun m => m.via ≠ hop), fetching := d0.fab.dom.fetching.filter (fun f => f.hop ≠ hop) } } }
    :=
  ⟨own (devN 0 1 2), _, _, _, 0, _, _, rfl, by decide +kernel, someOf (by decide +kernel), rfl, rfl, rfl⟩

theorem wit_domain_roles_2 :
    ∃ s : State, ∃ d d1 d2 d3 c, ∃ t : Nat, s.dev = d ∧ d.serves ∧ d.best s.nv.identityDigest = some c ∧ d.fab.dom.bestSince =
    some t ∧ d.eligible ∧ c.digest = s.nv.identityDigest ∧ d.role = 0 ∧ d1 = d.advanceTo (t + 10000 * d.fld Fld.FAB_DISC_settle
    0) ∧ d2 = (if d1.addr ≠ 0 then d1 else d1.setFld Fld.FAB_ADDR_addr 0 (BitVec.ofNat 64 ((lowestFree (((d1.nodes
    s.nv.identityDigest).map Node.addr).filter (fun a => a ≠ 0))).getD 0))) ∧ d3 = d2.setFld Fld.FAB_MGR_manager_addr 0
    (BitVec.ofNat 64 d2.addr) :=
  ⟨own (devA 0), _, _, _, _, _, _, rfl, by decide +kernel, someOf (by decide +kernel), someOf (by decide +kernel),
  by decide +kernel, by decide +kernel, by decide +kernel, rfl, rfl, rfl⟩

theorem wit_domain_roles_3 :
    ∃ s : State, ∃ d d1 d2 d3 c, ∃ me : Bytes, s.dev = d ∧ d.serves ∧ d.role = 0 ∧ me = s.nv.identityDigest ∧ d.best me = some c
    ∧ c.digest ≠ me ∧ d1 = d.advanceTo (d.fab.dom.seqAt + 100000 * d.fld Fld.FAB_DISC_manager_timeout 0) ∧
    d2 = ((d1.withDom { d1.fab.dom with dropped := (c.digest, d1.fab.dom.seq) :: d1.fab.dom.dropped }).bump Fld.FAB_ELECTIONS_count 0 1).setFld Fld.FAB_MGR_manager_addr 0 0
    ∧ d3 = d2.setSideTo (if (d2.candidates me).isEmpty then 2 else 0) :=
  ⟨own (devN 0 1 2), _, _, _, _, _, _, rfl, by decide +kernel, by decide +kernel, rfl, someOf (by decide +kernel),
  by decide +kernel, rfl, rfl, rfl⟩

theorem wit_domain_roles_4 :
    ∃ s : State, ∃ d, s.dev = d ∧ d.serves ∧ d.role ≠ 0 :=
  ⟨own (devA 1), _, rfl, by decide +kernel, by decide +kernel⟩

theorem wit_domain_roles_5 :
    ∃ s : State, ∃ d, s.dev = d ∧ d.serves ∧ d.role = 0 ∧ d.side = 1 :=
  ⟨own (devA 0), _, rfl, by decide +kernel, by decide +kernel, by decide +kernel⟩

theorem wit_domain_roles_6 :
    ∃ s : State, ∃ d d1, ∃ hop : Nat, ∃ n : Neighbour, ∃ l, ∃ me : Bytes, s.dev = d ∧ d.serves ∧ d.role = 1 ∧ d.side = 1 ∧
    NMap.get? d.fab.dom.neighbours hop = some n ∧ l = s.nv.inForce ∧ me = s.nv.identityDigest ∧ d1 = ((d.assignStep l
    me).rewrite l me).bump Fld.FAB_EPOCH_domain_epoch 0 1 :=
  ⟨own (devN 1 0 0), _, _, 0, _, _, _, rfl, by decide +kernel, by decide +kernel, by decide +kernel, someOf (by decide +kernel),
  rfl, rfl, rfl⟩

end Sys2Proof.Tests
end

