-- ==== Sys2Proof/Tests/Wit11.lean ====
section
/-! SUPPORT. Witnesses for the statements about resets, boot, power, walls, registers, the recorder and the machine as a whole. -/

namespace Sys2Proof.Tests

open Sys2Proof Sys2Proof.Machine

set_option maxRecDepth 4000
set_option Elab.async false

/-- Devices in which power is not good, in a phase of boot, in a power state, and with an entry in progress. -/
def devDown : Dev := { dev0 with pins := { dev0.pins with powerGood := false } }
def devPh (n : Nat) : Dev := { dev0 with boot := { BootSt.start 0 0 0 with phase := n } }
def devPw (st : PState) (waking : Option Nat) : Dev := { dev0 with pwr := { dev0.pwr with state := st, waking := waking } }
def devGo (st : PState) (w : Nat) : Dev := { dev0 with pwr := { dev0.pwr with entering := some (st, w) } }

theorem wit_resets_happen_1 :
    ∃ s : State, ∃ d x, s.dev = d ∧ d.pins.holdPhase2 = false ∧ d.pins.powerGood = false ∧ x = d.coldReset d.boot.causeSource
    (d.now + 10000000) :=
  ⟨on devDown, _, _, rfl, by decide +kernel, by decide +kernel, rfl⟩

theorem wit_resets_happen_2 :
    ∃ s : State, ∃ d, ∃ us : Nat, ∃ x, s.dev = d ∧ 50 ≤ us ∧ d.pins.powerGood ∧ d.boot.phase = 2 ∧ d.boot.halted = false ∧
    d.pwr.state = .run ∧ x = d.restartPhase2 1 (d.now + 1000 * us) :=
  ⟨on (devPh 2), _, 50, _, rfl, by decide +kernel, by decide +kernel, by decide +kernel, by decide +kernel, by decide +kernel,
  rfl⟩

theorem wit_resets_happen_3 :
    ∃ s : State, ∃ d, ∃ us : Nat, s.dev = d ∧ 50 ≤ us ∧ d.pins.powerGood ∧ d.boot.phase ≠ 2 ∧ d.pwr.state ≠ .off :=
  ⟨on dev0, _, 50, rfl, by decide +kernel, by decide +kernel, by decide +kernel, by decide +kernel⟩

theorem wit_resets_happen_4 :
    ∃ us : Nat, us < 50 :=
  ⟨49, by decide +kernel⟩

theorem wit_resets_happen_5 :
    ∃ s : State, ∃ d, ∃ mv us : Nat, s.dev = d ∧ beyondMaximum mv us = false ∧ 62000 < mv ∧ 10 ≤ us :=
  ⟨on dev0, _, 62001, 10, rfl, by decide +kernel, by decide +kernel, by decide +kernel⟩

theorem wit_resets_happen_7 :
    ∃ s : State, ∃ d, s.dev = d ∧ d.pins.powerGood = false :=
  ⟨on devDown, _, rfl, by decide +kernel⟩

theorem wit_resets_happen_8 :
    ∃ s : State, ∃ d, ∃ ns : Nat, s.dev = d ∧ d.pins.powerGood ∧ d.pwr.state ≠ .off ∧ 200 ≤ ns ∧ (d.boot.phase ≠ 2 ∨
    d.boot.halted) :=
  ⟨on dev0, _, 200, rfl, by decide +kernel, by decide +kernel, by decide +kernel, Or.inl (by decide +kernel)⟩

theorem wit_resets_happen_9 :
    ∃ ns : Nat, ns < 120 :=
  ⟨119, by decide +kernel⟩

theorem wit_resets_happen_10 :
    ∃ s : State, ∃ d, ∃ src : RegSource, ∃ n : Nat, ∃ v : Word, s.dev.serves ∧ d = s.dev.touch src Reg.RST_DEVICE_RESET.off ∧
    d.resetSource src = some n ∧ v.toNat / 65536 = 0x5244 ∧ v.toNat % 2 = 1 :=
  ⟨on dev0, _, .mgmt, 4, 0x52440001, by decide +kernel, rfl, by decide +kernel, by decide +kernel, by decide +kernel⟩

theorem wit_resets_happen_11 :
    ∃ s : State, ∃ d, ∃ src : RegSource, ∃ n p : Nat, ∃ x, s.dev.serves ∧ d = s.dev.touch src Reg.RST_PART_RESET.off ∧
    d.resetSource src = some n ∧ p < 8 ∧ x = d.leaveIdle :=
  ⟨on dev0, _, .gotik, 7, 7, _, by decide +kernel, rfl, by decide +kernel, by decide +kernel, rfl⟩

theorem wit_resets_happen_12 :
    ∃ s : State, ∃ d, ∃ src : RegSource, ∃ n : Nat, ∃ v : Word, ∃ k u : Nat, ∃ x y, s.dev.serves ∧ d = s.dev.touch src
    Reg.RST_BLOCK_RESET.off ∧ d.resetSource src = some n ∧ k = v.toNat / 256 % 16 ∧ u = v.toNat % 256 ∧ u < blockUnits k ∧ x =
    d.leaveIdle ∧
    y = (({ x with boot := { x.boot with causeClass := 3, causeSource := n } } : Dev).bump Fld.RST_COUNTS_block 0 1).loseSides.blockWork k u
    :=
  ⟨on dev0, _, .manager, 5, 0x05F, _, _, _, _, by decide +kernel, rfl, by decide +kernel, rfl, rfl, by decide +kernel, rfl, rfl⟩

theorem wit_resets_happen_13 :
    ∃ s : State, ∃ d, s.dev = d ∧ d.serves ∧ d.fld Fld.RST_WDOG_enable 0 = 1 ∧ 3 ≤ d.boot.phase :=
  ⟨on (fields dev0 [(Fld.RST_WDOG_enable, 0, 1)]), _, rfl, by decide +kernel, by decide +kernel, by decide +kernel⟩

theorem wit_resets_happen_14 :
    ∃ s : State, ∃ d, s.dev.serves ∧ d = s.dev.touch .gotik Reg.RST_WDOG_KICK.off :=
  ⟨on dev0, _, by decide +kernel, rfl⟩

theorem wit_boot_runs_1 :
    ∃ s : State, ∃ d d1, s.dev = d ∧ d.booting 0 ∧ d1 = d.advanceTo (d.boot.anchor + 2000000) :=
  ⟨on (devPh 0), _, _, rfl, by decide +kernel, rfl⟩

theorem wit_boot_runs_4_slot0 :
    ∃ s : State, ∃ d d1, s.dev = d ∧ d.booting 1 ∧ d1 = d.advanceTo (d.boot.anchor + 60000000) ∧ s.nv.imageOk s.nv.slot0 :=
  ⟨{ on (devPh 1) with nv := { nvV with slot0 := imageS } }, _, _, rfl, by decide +kernel, rfl, by decide +kernel⟩

theorem wit_boot_runs_4_slot1 :
    ∃ s : State, ∃ d d1, s.dev = d ∧ d.booting 1 ∧ d1 = d.advanceTo (d.boot.anchor + 60000000) ∧ s.nv.imageOk s.nv.slot0 = false
    ∧ s.nv.imageOk s.nv.slot1 :=
  ⟨{ on (devPh 1) with nv := { nvV with slot1 := imageS } }, _, _, rfl, by decide +kernel, rfl, by decide +kernel,
  by decide +kernel⟩

theorem wit_boot_runs_4_halt :
    ∃ s : State, ∃ d d1, s.dev = d ∧ d.booting 1 ∧ d1 = d.advanceTo (d.boot.anchor + 60000000) ∧ s.nv.imageOk s.nv.slot0 = false
    ∧ s.nv.imageOk s.nv.slot1 = false :=
  ⟨on (devPh 1), _, _, rfl, by decide +kernel, rfl, by decide +kernel, by decide +kernel⟩

theorem wit_boot_runs_6 :
    ∃ s : State, ∃ d d1 d2, s.dev = d ∧ d.booting 2 ∧ d1 = d.advanceTo (d.boot.anchor + 80000000) ∧
    d2 = (if s.nv.optionsOk then (((d1.extend 1 2 (sha256 s.nv.options.signed)).applyOptions s.nv s.nv.options.writes).extend 3 4 (sha256 (leBytes 4 ((((d1.extend 1 2 (sha256 s.nv.options.signed)).applyOptions s.nv s.nv.options.writes).regs.get (Reg.FAB_DISC.at 0) Reg.FAB_DISC.reset)).toNat))) else { d1 with boot := { d1.boot with optionsDefault := true } }).measureRest s.nv
    :=
  ⟨on (devPh 2), _, _, _, rfl, by decide +kernel, rfl, rfl⟩

theorem wit_boot_runs_7 :
    ∃ s : State, ∃ d d1 d2, s.dev = d ∧ d.booting 3 ∧ d1 = d.advanceTo (d.boot.anchor + 150000000) ∧
    d2 = (List.range 8).foldl (fun (d : Dev) p => if d.domainWanted (32 + p) ∧ !d.pwr.on.testBit (32 + p) then ({ d with pwr := { d.pwr with on := d.pwr.on + 2 ^ (32 + p) } } : Dev).portOn p else d) d1
    :=
  ⟨on (devPh 3), _, _, _, rfl, by decide +kernel, rfl, rfl⟩

theorem wit_boot_runs_8 :
    ∃ s : State, ∃ d d1 d2 d3, s.dev = d ∧ d.booting 4 ∧ (d.pwr.state = .run ∨ d.pwr.state = .idle) ∧ d1 = d.advanceTo
    (d.boot.anchor + 1200000000) ∧ d2 = (d1.setMemWays (d1.fld Fld.RST_FULL_SERVICE_full_ways 0)).setFld
    Fld.MEM_PREFETCH_MODE_mode 0 0 ∧ d3 = ({ d2 with boot := { d2.boot with dramOpen := true } } : Dev).performHeld :=
  ⟨on (devPh 4), _, _, _, _, rfl, by decide +kernel, by decide +kernel, rfl, rfl, rfl⟩

theorem wit_boot_runs_9 :
    ∃ d : Dev, d.sub.cmds = [] :=
  ⟨dev0, by decide +kernel⟩

theorem wit_power_states_change_1_sleep :
    ∃ s : State, ∃ d x, ∃ src : RegSource, ∃ i : Instr, ∃ st : PState, s.dev.serves ∧ d = s.dev.touch src Reg.PWR_CTRL.off ∧
    (src = .gotik ∨ d.mayWrite src) ∧ x = d.leaveIdle ∧ ((i = .pwrTargetSleep src ∧ st = .sleep) ∨ (i = .pwrTargetDeep src ∧ st
    = .deep) ∨ (i = .pwrTargetOff src ∧ st = .off)) ∧ x.pwr.state = .run ∧ x.pwr.entering = none ∧ x.quiet :=
  ⟨on dev0, _, _, .gotik, .pwrTargetSleep .gotik, .sleep, by decide +kernel, rfl, by decide +kernel, rfl, Or.inl ⟨rfl, rfl⟩,
  by decide +kernel, by decide +kernel, by decide +kernel⟩

theorem wit_power_states_change_1_deep :
    ∃ s : State, ∃ d x, ∃ src : RegSource, ∃ i : Instr, ∃ st : PState, s.dev.serves ∧ d = s.dev.touch src Reg.PWR_CTRL.off ∧
    (src = .gotik ∨ d.mayWrite src) ∧ x = d.leaveIdle ∧ ((i = .pwrTargetSleep src ∧ st = .sleep) ∨ (i = .pwrTargetDeep src ∧ st
    = .deep) ∨ (i = .pwrTargetOff src ∧ st = .off)) ∧ x.pwr.state = .run ∧ x.pwr.entering = none ∧ x.quiet :=
  ⟨on dev0, _, _, .gotik, .pwrTargetDeep .gotik, .deep, by decide +kernel, rfl, by decide +kernel, rfl,
  Or.inr (Or.inl ⟨rfl, rfl⟩), by decide +kernel, by decide +kernel, by decide +kernel⟩

theorem wit_power_states_change_1_off :
    ∃ s : State, ∃ d x, ∃ src : RegSource, ∃ i : Instr, ∃ st : PState, s.dev.serves ∧ d = s.dev.touch src Reg.PWR_CTRL.off ∧
    (src = .gotik ∨ d.mayWrite src) ∧ x = d.leaveIdle ∧ ((i = .pwrTargetSleep src ∧ st = .sleep) ∨ (i = .pwrTargetDeep src ∧ st
    = .deep) ∨ (i = .pwrTargetOff src ∧ st = .off)) ∧ x.pwr.state = .run ∧ x.pwr.entering = none ∧ x.quiet :=
  ⟨on dev0, _, _, .gotik, .pwrTargetOff .gotik, .off, by decide +kernel, rfl, by decide +kernel, rfl,
  Or.inr (Or.inr ⟨rfl, rfl⟩), by decide +kernel, by decide +kernel, by decide +kernel⟩

theorem wit_power_states_change_1_entering :
    ∃ s : State, ∃ d x, ∃ src : RegSource, ∃ i : Instr, ∃ st : PState, s.dev.serves ∧ d = s.dev.touch src Reg.PWR_CTRL.off ∧
    (src = .gotik ∨ d.mayWrite src) ∧ x = d.leaveIdle ∧ ((i = .pwrTargetSleep src ∧ st = .sleep) ∨ (i = .pwrTargetDeep src ∧ st
    = .deep) ∨ (i = .pwrTargetOff src ∧ st = .off)) ∧ (x.pwr.state ≠ .run ∨ x.pwr.entering.isSome) :=
  ⟨on (devGo .sleep 5), _, _, .gotik, .pwrTargetSleep .gotik, .sleep, by decide +kernel, rfl, by decide +kernel, rfl,
  Or.inl ⟨rfl, rfl⟩, by decide +kernel⟩

theorem wit_power_states_change_1_busy :
    ∃ s : State, ∃ d x, ∃ src : RegSource, ∃ i : Instr, ∃ st : PState, s.dev.serves ∧ d = s.dev.touch src Reg.PWR_CTRL.off ∧
    (src = .gotik ∨ d.mayWrite src) ∧ x = d.leaveIdle ∧ ((i = .pwrTargetSleep src ∧ st = .sleep) ∨ (i = .pwrTargetDeep src ∧ st
    = .deep) ∨ (i = .pwrTargetOff src ∧ st = .off)) ∧ x.pwr.state = .run ∧ x.pwr.entering = none ∧ x.quiet = false :=
  ⟨on (dev0.withCmds [cmd0 0]), _, _, .gotik, .pwrTargetSleep .gotik, .sleep, by decide +kernel, rfl, by decide +kernel, rfl,
  Or.inl ⟨rfl, rfl⟩, by decide +kernel, by decide +kernel, by decide +kernel⟩

theorem wit_power_states_change_2_abandon :
    ∃ s : State, ∃ d x, ∃ src : RegSource, s.dev.serves ∧ d = s.dev.touch src Reg.PWR_CTRL.off ∧ (src = .gotik ∨ d.mayWrite src)
    ∧ x = d.leaveIdle ∧ x.pwr.entering.isSome ∧ x.inLostWindow = false :=
  ⟨on (devGo .sleep 400), _, _, .gotik, by decide +kernel, rfl, by decide +kernel, rfl, by decide +kernel, by decide +kernel⟩

theorem wit_power_states_change_2_wake :
    ∃ s : State, ∃ d x, ∃ src : RegSource, s.dev.serves ∧ d = s.dev.touch src Reg.PWR_CTRL.off ∧ (src = .gotik ∨ d.mayWrite src)
    ∧ x = d.leaveIdle ∧ x.pwr.entering = none ∧ x.pwr.state = .sleep :=
  ⟨on (devPw .sleep none), _, _, .gotik, by decide +kernel, rfl, by decide +kernel, rfl, by decide +kernel, by decide +kernel⟩

theorem wit_power_states_change_2_already :
    ∃ s : State, ∃ d x, ∃ src : RegSource, s.dev.serves ∧ d = s.dev.touch src Reg.PWR_CTRL.off ∧ (src = .gotik ∨ d.mayWrite src)
    ∧ x = d.leaveIdle ∧ x.pwr.entering = none ∧ x.pwr.state = .run :=
  ⟨on dev0, _, _, .gotik, by decide +kernel, rfl, by decide +kernel, rfl, by decide +kernel, by decide +kernel⟩

theorem wit_power_states_change_3 :
    ∃ s : State, ∃ d, ∃ w : Nat, s.dev = d ∧ d.pwr.entering = some (.sleep, w) ∧ ((d.advanceTo w).sleepNow.levels.find? (fun x
    => !wakeEdge x && (d.advanceTo w).sleepNow.wakes .sleep x)) = none :=
  ⟨on (devGo .sleep 400), _, 400, rfl, by decide +kernel, by decide +kernel⟩

theorem wit_power_states_change_4 :
    ∃ s : State, ∃ d, ∃ w : Nat, s.dev = d ∧ d.pwr.entering = some (.off, w) ∧ d.recPending = false ∧ (d.advanceTo
    w).pins.wakeLow = false :=
  ⟨on (devGo .off 400), _, 400, rfl, by decide +kernel, by decide +kernel, by decide +kernel⟩

theorem wit_power_states_change_5 :
    ∃ s : State, ∃ d, s.dev = d ∧ d.pwr.entering = none :=
  ⟨on dev0, _, rfl, by decide +kernel⟩

theorem wit_power_states_change_7 :
    ∃ s : State, ∃ d x, s.dev = d ∧ d.serves ∧ d.fld Fld.PWR_CTRL_auto_idle 0 = 1 ∧ d.pwr.state = .run ∧ d.pwr.entering = none ∧
    d.quiet ∧ x = d.advanceTo (d.now + 1000 * d.fld Fld.PWR_CTRL_idle_us 0) :=
  ⟨on (fields dev0 [(Fld.PWR_CTRL_auto_idle, 0, 1)]), _, _, rfl, by decide +kernel, by decide +kernel, by decide +kernel,
  by decide +kernel, by decide +kernel, rfl⟩

theorem wit_power_states_change_8 :
    ∃ s : State, ∃ d, s.dev = d ∧ d.serves ∧ d.pwr.state = .idle :=
  ⟨on (devPw .idle none), _, rfl, by decide +kernel, by decide +kernel⟩

theorem wit_power_states_change_9 :
    ∃ s : State, ∃ d x, s.dev = d ∧ d.pins.powerGood ∧ (d.pwr.state = .sleep ∨ d.pwr.state = .deep) ∧ d.pwr.entering = none ∧
    d.fld Fld.PWR_WAKE_EN_wake_n 0 = 1 ∧ x = { d with pins := { d.pins with wakeLow := true } } :=
  ⟨on (fields (devPw .deep none) [(Fld.PWR_WAKE_EN_wake_n, 0, 1)]), _, _, rfl, by decide +kernel, by decide +kernel,
  by decide +kernel, by decide +kernel, rfl⟩

theorem wit_power_states_change_10 :
    ∃ d : Dev, ∃ cause : Nat, d.pwr.waking = none ∧ cause < 16 :=
  ⟨devPw .sleep none, 15, by decide +kernel, by decide +kernel⟩

theorem wit_power_states_change_11 :
    ∃ s : State, ∃ d t d1 d2 d3 d4 d5 up, s.dev = d ∧ d.pwr.state = .sleep ∧ d.pwr.waking = some t ∧ d1 = d.advanceTo (t +
    300000) ∧
    d2 = ({ d1 with mem := { d1.mem with tagInit := false }, boot := { d1.boot with dramOpen := decide (d1.boot.phase = 5) } } : Dev).loseSides
    ∧ up = (List.range 48).filter (fun n => d2.domainWanted n) ∧
    d3 = { d2 with pwr := { d2.pwr with state := .run, since := d2.now, waking := none, on := sumN (up.map (2 ^ ·)) } } ∧ d4 =
    (List.range 8).foldl (fun (d : Dev) p => if up.contains (32 + p) ∧ !d2.pwr.on.testBit (32 + p) then d.portOn p else d) d3 ∧
    d5 = (List.range 12).foldl (fun (d : Dev) w => d.setWall w { d.wall w with current := d.effective w, changing := false, capping := false }) d4
    :=
  ⟨on (devPw .sleep (some 7)), _, 7, _, _, _, _, _, _, rfl, by decide +kernel, by decide +kernel, rfl, rfl, rfl, rfl, rfl, rfl⟩

/-- A device leaving DEEP whose retained digest is that of an empty image, or not. -/
def devDeep (digest : Bytes) : Dev :=
  { devPw .deep (some 7) with pwr := { (devPw .deep (some 7)).pwr with retained := some ⟨digest, 0, 0, true, [], [], false⟩ } }

theorem wit_power_states_change_12_match :
    ∃ s : State, ∃ d t r, s.dev = d ∧ d.pwr.state = .deep ∧ d.pwr.waking = some t ∧ d.pwr.retained = some r ∧ sha256 (if r.slot
    = 0 then s.nv.slot0 else s.nv.slot1) = r.digest :=
  ⟨on (devDeep (sha256 [])), _, 7, _, rfl, by decide +kernel, by decide +kernel, someOf (by decide +kernel), by decide +kernel⟩

theorem wit_power_states_change_12_mismatch :
    ∃ s : State, ∃ d t r, s.dev = d ∧ d.pwr.state = .deep ∧ d.pwr.waking = some t ∧ d.pwr.retained = some r ∧ sha256 (if r.slot
    = 0 then s.nv.slot0 else s.nv.slot1) ≠ r.digest :=
  ⟨on (devDeep []), _, 7, _, rfl, by decide +kernel, by decide +kernel, someOf (by decide +kernel), by decide +kernel⟩

theorem wit_power_states_change_14 :
    ∃ s : State, ∃ d, ∃ n : Nat, s.dev = d ∧ n = (d.fldW Fld.PWR_DEEP_TIMER_ao_cycles 0).toNat ∧ n ≠ 0 ∧ (d.pwr.state = .sleep ∨
    d.pwr.state = .deep) :=
  ⟨on (fields (devPw .sleep none) [(Fld.PWR_DEEP_TIMER_ao_cycles, 0, 5)]), _, 5, rfl, rfl, by decide +kernel, by decide +kernel⟩

theorem wit_power_states_change_15 :
    ∃ s : State, ∃ d t, ∃ n : Nat, ∃ x, s.dev = d ∧ d.serves ∧ NMap.get? d.pwr.powering n = some t ∧ n < 32 ∧ x = d.advanceTo t
    :=
  ⟨on { dev0 with pwr := { dev0.pwr with powering := [(31, 9)] } }, _, 9, 31, _, rfl, by decide +kernel, by decide +kernel,
  by decide +kernel, rfl⟩

theorem wit_power_states_change_16 :
    ∃ s : State, ∃ d, ∃ c : Nat, s.dev = d ∧ 110 ≤ c ∧ d.pins.powerGood ∧ d.pwr.state ≠ .off :=
  ⟨on dev0, _, 110, rfl, by decide +kernel, by decide +kernel, by decide +kernel⟩

theorem wit_power_states_change_17 :
    ∃ c : Nat, c < 110 :=
  ⟨109, by decide +kernel⟩

/-- A device whose wall 11 changes its point, by a move of capping or not, and one on whose point capping has an effect. -/
def devWall (cap : Nat) (changing capping : Bool) : Dev := dev0.setWall 11 ⟨4, cap, changing, capping⟩

/-- A device whose walls may not move. -/
def devFloor : Dev := fields dev0 ((List.range 12).map (fun w => (Fld.PWR_WALL_floor, w, 0)))

/-- A device with every wall forced. -/
def devHot : Dev := { dev0 with pwr := { dev0.pwr with forced := true } }

theorem wit_walls_move_1_target :
    ∃ s : State, ∃ d, ∃ w : Nat, ∃ x : WallSt, s.dev = d ∧ d.serves ∧ w < 12 ∧ x = d.wall w ∧ x.changing ∧ x.capping = false :=
  ⟨on (devWall 0 true false), _, 11, _, rfl, by decide +kernel, by decide +kernel, rfl, by decide +kernel, by decide +kernel⟩

theorem wit_walls_move_1_capping :
    ∃ s : State, ∃ d, ∃ w : Nat, ∃ x : WallSt, s.dev = d ∧ d.serves ∧ w < 12 ∧ x = d.wall w ∧ x.changing ∧ x.capping :=
  ⟨on (devWall 0 true true), _, 11, _, rfl, by decide +kernel, by decide +kernel, rfl, by decide +kernel, by decide +kernel⟩

theorem wit_walls_move_2 :
    ∃ s : State, ∃ d d1 d2, ∃ m v : Nat, ∃ ws, s.dev = d ∧ d.serves ∧ (d.pwr.state = .run ∨ d.pwr.state = .idle) ∧
    d.pwr.walls.any (fun e => e.2.capping) = false ∧ d1 = d.advanceTo (d.pwr.lastMove + 1000000) ∧
    d2 = { d1 with pwr := { d1.pwr with avgW := min m 1023, nowW := min m 1023 } } ∧ min (1000 * d2.fld Fld.PWR_CAP_cap_w 0) (27
    * v / 2) < 1000 * m ∧ ws = (List.range 12).filter (fun w => d2.effective w < d2.fld Fld.PWR_WALL_floor w) ∧ ws ≠ [] :=
  ⟨on dev0, _, _, _, 1000, 48000, _, rfl, by decide +kernel, by decide +kernel, by decide +kernel, rfl, rfl, by decide +kernel,
  rfl, by decide +kernel⟩

theorem wit_walls_move_3 :
    ∃ s : State, ∃ d d1 d2, ∃ m v : Nat, ∃ ws, s.dev = d ∧ d.serves ∧ (d.pwr.state = .run ∨ d.pwr.state = .idle) ∧
    d.pwr.walls.any (fun e => e.2.capping) = false ∧ d1 = d.advanceTo (d.pwr.lastMove + 1000000) ∧
    d2 = { d1 with pwr := { d1.pwr with avgW := min m 1023, nowW := min m 1023, capExceeded := false } } ∧ 100000 * m < 95 * min
    (1000 * d2.fld Fld.PWR_CAP_cap_w 0) (27 * v / 2) ∧ ws = (List.range 12).filter (fun w => d2.fld Fld.PWR_WALL_target w <
    (d2.wall w).cap) ∧ ws ≠ [] :=
  ⟨on (devWall 7 false false), _, _, _, 0, 48000, _, rfl, by decide +kernel, by decide +kernel, by decide +kernel, rfl, rfl,
  by decide +kernel, rfl, by decide +kernel⟩

theorem wit_walls_move_4 :
    ∃ s : State, ∃ d, s.dev = d ∧ d.serves ∧ (d.pwr.state = .run ∨ d.pwr.state = .idle) ∧ d.pwr.walls.any (fun e => e.2.capping)
    :=
  ⟨on (devWall 0 true true), _, rfl, by decide +kernel, by decide +kernel, by decide +kernel⟩

theorem wit_walls_move_5 :
    ∃ s : State, ∃ d d1, ∃ m v : Nat, s.dev = d ∧ d.serves ∧ (d.pwr.state = .run ∨ d.pwr.state = .idle) ∧ (List.range 12).all
    (fun w => !(d.effective w < d.fld Fld.PWR_WALL_floor w)) ∧ min (1000 * d.fld Fld.PWR_CAP_cap_w 0) (27 * v / 2) < 1000 * m ∧
    d1 = d.advanceTo (d.pwr.lastMove + 10000000) :=
  ⟨on devFloor, _, _, 1000, 48000, rfl, by decide +kernel, by decide +kernel, by decide +kernel, by decide +kernel, rfl⟩

theorem wit_walls_move_6_power :
    ∃ s : State, ∃ d, ∃ m c : Nat, s.dev = d ∧ d.serves ∧ (650 < m ∨ 100 ≤ c) ∧ d.pwr.forced = false ∧ (d.pwr.state = .run ∨
    d.pwr.state = .idle) :=
  ⟨on dev0, _, 651, 0, rfl, by decide +kernel, by decide +kernel, by decide +kernel, by decide +kernel⟩

theorem wit_walls_move_6_heat :
    ∃ s : State, ∃ d, ∃ m c : Nat, s.dev = d ∧ d.serves ∧ (650 < m ∨ 100 ≤ c) ∧ d.pwr.forced = false ∧ (d.pwr.state = .run ∨
    d.pwr.state = .idle) :=
  ⟨on dev0, _, 0, 100, rfl, by decide +kernel, by decide +kernel, by decide +kernel, by decide +kernel⟩

theorem wit_walls_move_7 :
    ∃ s : State, ∃ d, ∃ m c : Nat, s.dev = d ∧ d.serves ∧ m ≤ 650 ∧ c < 100 ∧ d.pwr.forced :=
  ⟨on devHot, _, 650, 99, rfl, by decide +kernel, by decide +kernel, by decide +kernel, by decide +kernel⟩

theorem wit_walls_move_8 :
    ∃ d : Dev, d.pwr.forced :=
  ⟨devHot, by decide +kernel⟩

theorem wit_registers_act_1_no_register :
    ∃ s : State, ∃ off width : Nat, ∃ v : Wide, ∃ d, s.dev = d ∧ d.serves ∧ d.reach off width v = none :=
  ⟨on dev0, 0xFFFFFF0, 4, 0, _, rfl, by decide +kernel, by decide +kernel⟩

theorem wit_registers_act_1_denied :
    ∃ s : State, ∃ src : RegSource, ∃ off width : Nat, ∃ v : Wide, ∃ d, ∃ i : Nat, ∃ new : Wide, ∃ r : RegDef, s.dev = d ∧
    d.serves ∧ d.reach off width v = some (r, i, new) ∧ d.mayWriteReg src r.off = false :=
  ⟨on dev0, .other, Reg.RST_WDOG.off, 4, 1, _, 0, 1, Reg.RST_WDOG, rfl, by decide +kernel, by decide +kernel, by decide +kernel⟩

theorem wit_registers_act_1_permitted :
    ∃ s : State, ∃ src : RegSource, ∃ off width : Nat, ∃ v : Wide, ∃ d, ∃ i : Nat, ∃ new : Wide, ∃ r : RegDef, s.dev = d ∧
    d.serves ∧ d.reach off width v = some (r, i, new) ∧ d.mayWriteReg src r.off :=
  ⟨on dev0, .mgmt, Reg.RST_WDOG.off, 4, 1, _, 0, 1, Reg.RST_WDOG, rfl, by decide +kernel, by decide +kernel, by decide +kernel⟩

theorem wit_registers_act_2 :
    ∃ s : State, ∃ src : RegSource, ∃ d, ∃ i : Instr, ∃ off : Nat, ∃ v : Word, ∃ k : Nat, ∃ h : Bool, s.dev = d ∧ d.serves ∧ (i,
    off) ∈ [ (Instr.lakeMemWaysChange src v, Reg.MEM_LAKE_MEM_WAYS.off), (.cprCwinWrite src v, Reg.CPR_CWIN.off) ,
    (.fabPCtrlMode src k v, Reg.FAB_P_CTRL.off), (.attestGo src, Reg.SEC_ATTEST_CTRL.off), (.recCtrlHold src h,
    Reg.REC_CTRL.off) , (.pmcCtrlFreeze src v, Reg.PMC_CTRL.off), (.pmcBwWindowWrite src v, Reg.PMC_BW_WINDOW.off) ,
    (.tickSourceSelect src v, Reg.TICK_SOURCE.off), (.tickCommit src, Reg.TICK_COMMIT.off), (.poolcfgCommit src k,
    Reg.SEQ_P_COMMIT.off) , (.partcfgCommit src k, Reg.PAR_P_COMMIT.off), (.outgeomCommit src k, Reg.CMP_S_COMMIT.off),
    (.cmatrixCommit src k, Reg.CMP_S_COMMIT.off) , (.pwrTargetSleep src, Reg.PWR_CTRL.off), (.pwrTargetDeep src,
    Reg.PWR_CTRL.off), (.pwrTargetOff src, Reg.PWR_CTRL.off) , (.pwrTargetRun src, Reg.PWR_CTRL.off), (.rstDeviceReset src v,
    Reg.RST_DEVICE_RESET.off) , (.rstPartReset src v, Reg.RST_PART_RESET.off), (.rstBlockReset src v, Reg.RST_BLOCK_RESET.off) ,
    (.rstWdogKick src, Reg.RST_WDOG_KICK.off)] ∧ d.mayWriteReg src off = false :=
  ⟨on dev0, .other, _, .tickCommit .other, Reg.TICK_COMMIT.off, 0, 0, false, rfl, by decide +kernel, by simp, by decide +kernel⟩

theorem wit_registers_act_3 :
    ∃ s : State, ∃ src : RegSource, ∃ d, s.dev = d ∧ d.serves ∧ (src = .gotik ∨ d.mayWrite src) :=
  ⟨on dev0, .gotik, _, rfl, by decide +kernel, by decide +kernel⟩

/-- A device in phase 4 that invalidates its tags, and one with line 0 in its lake, whose demand miss may be followed by a prefetch. -/
def devTag : Dev := { devPh 4 with mem := { dev0.mem with tagInit := true } }
def devPf (mode : Nat) : Dev :=
  fields { dev0 with mem := { dev0.mem with lake := [(0, ⟨List.replicate 64 0, false, 0, 0⟩)], missed := [0] } } [(Fld.MEM_PREFETCH_MODE_mode, 0, mode)]

theorem wit_registers_act_4 :
    ∃ s : State, ∃ d, s.dev = d ∧ d.serves ∧ d.mem.tagInit :=
  ⟨on devTag, _, rfl, by decide +kernel, by decide +kernel⟩

theorem wit_registers_act_5 :
    ∃ d : Dev, d.mem.tagInit :=
  ⟨devTag, by decide +kernel⟩

theorem wit_registers_act_6 :
    ∃ s : State, ∃ a : Nat, ∃ d, ∃ k : Nat, ∃ d1 r, s.dev = d ∧ d.serves ∧ d.fld Fld.MEM_PREFETCH_MODE_mode 0 = 1 ∧ d.dramGate =
    .ok ∧ k = a / 64 + 1 ∧ (a / 64) ∈ d.mem.missed ∧ d.inCwin (64 * k) = false ∧ NMap.get? d.mem.lake k = none ∧ (NMap.getD
    d.mem.side (sliceOf (64 * k)) []).any (fun x => x.line = k) = false ∧
    d1 = ({ d with mem := { d.mem with missed := d.mem.missed.filter (· ≠ a / 64) } } : Dev).moved Asker.none false (64 * k) 64
    ∧ r = pushSide (NMap.getD d.mem.side (sliceOf (64 * k)) []) ⟨k, d.mem.dram.read (64 * k) 64⟩ :=
  ⟨on (devPf 1), 0, _, _, _, _, rfl, by decide +kernel, by decide +kernel, by decide +kernel, rfl, by decide +kernel,
  by decide +kernel, by decide +kernel, by decide +kernel, rfl, rfl⟩

theorem wit_registers_act_7 :
    ∃ s : State, ∃ a : Nat, ∃ d, s.dev = d ∧ d.serves ∧ d.fld Fld.MEM_PREFETCH_MODE_mode 0 ≠ 1 ∧ d.dramGate = .ok ∧ (a / 64) ∈
    d.mem.missed :=
  ⟨on (devPf 2), 0, _, rfl, by decide +kernel, by decide +kernel, by decide +kernel, by decide +kernel⟩

theorem wit_registers_act_8 :
    ∃ s : State, ∃ a : Nat, ∃ d, s.dev = d ∧ d.serves ∧ (a / 64) ∉ d.mem.missed :=
  ⟨on dev0, 0, _, rfl, by decide +kernel, by decide +kernel⟩

theorem wit_registers_act_9 :
    ∃ s : State, ∃ a n : Nat, ∃ d, s.dev = d ∧ d.serves ∧ (a / 64) ∉ (d.brick n).missed :=
  ⟨on dev0, 0, 0, _, rfl, by decide +kernel, by decide +kernel⟩

theorem wit_registers_act_10_good :
    ∃ s : State, ∃ src : RegSource, ∃ v : Word, ∃ d size base side, s.dev.serves ∧ d = s.dev.touch src Reg.CPR_CWIN.off ∧
    d.mayWrite src ∧ d.fld Fld.CPR_CWIN_size_gib 0 = 0 ∧ v.toNat / 65536 % 2 = 0 ∧ size = v.toNat / 256 % 256 ∧ base = v.toNat %
    256 ∧ 1 ≤ size ∧ size ≤ 144 ∧ base ≤ 143 ∧ side = d.fld Fld.CPR_SIDE_BASE_side_base 0 * 65536 ∧ base + size ≤ 144 ∧ side +
    size * 2 ^ 24 ≤ dramSize ∧ (side + size * 2 ^ 24 ≤ base * 2 ^ 30 ∨ (base + size) * 2 ^ 30 ≤ side) :=
  ⟨on (fields dev0 [(Fld.CPR_SIDE_BASE_side_base, 0, 0x8000)]), .mgmt, 256, _, _, _, _, by decide +kernel, rfl,
  by decide +kernel, by decide +kernel, by decide +kernel, rfl, rfl, by decide +kernel, by decide +kernel, by decide +kernel,
  rfl, by decide +kernel, by decide +kernel, by decide +kernel⟩

theorem wit_registers_act_10_outside :
    ∃ s : State, ∃ src : RegSource, ∃ v : Word, ∃ d size base side, s.dev.serves ∧ d = s.dev.touch src Reg.CPR_CWIN.off ∧
    d.mayWrite src ∧ d.fld Fld.CPR_CWIN_size_gib 0 = 0 ∧ v.toNat / 65536 % 2 = 0 ∧ size = v.toNat / 256 % 256 ∧ base = v.toNat %
    256 ∧ 1 ≤ size ∧ size ≤ 144 ∧ base ≤ 143 ∧ side = d.fld Fld.CPR_SIDE_BASE_side_base 0 * 65536 ∧ 144 < base + size :=
  ⟨on (fields dev0 [(Fld.CPR_SIDE_BASE_side_base, 0, 0x8000)]), .mgmt, 0x28F, _, _, _, _, by decide +kernel, rfl,
  by decide +kernel, by decide +kernel, by decide +kernel, rfl, rfl, by decide +kernel, by decide +kernel, by decide +kernel,
  rfl, by decide +kernel⟩

theorem wit_registers_act_11 :
    ∃ s : State, ∃ src : RegSource, ∃ k : Nat, ∃ v : Word, ∃ d x, s.dev.serves ∧ d = s.dev.touch src Reg.FAB_P_CTRL.off ∧
    d.mayWrite src ∧ k < 8 ∧ x = d.regStore (Reg.FAB_P_CTRL.at k) 4 (v.setWidth 64) ∧ (x.port k).powered ∧ (x.port k).modeActive
    ≠ x.fld Fld.FAB_P_CTRL_mode k :=
  ⟨on devF, .mgmt, 0, 0, _, _, by decide +kernel, rfl, by decide +kernel, by decide +kernel, rfl, by decide +kernel,
  by decide +kernel⟩

theorem wit_registers_act_12 :
    ∃ s : State, ∃ src : RegSource, ∃ d x, s.dev = d ∧ d.serves ∧ d.mayWrite src ∧ x = d.leaveIdle ∧ x.sec.attesting = none :=
  ⟨on dev0, .mgmt, _, _, rfl, by decide +kernel, by decide +kernel, rfl, by decide +kernel⟩

theorem wit_registers_act_13 :
    ∃ s : State, ∃ d h x, s.dev = d ∧ d.serves ∧ d.sec.attesting = some h ∧ x = (List.range 224).foldl (fun (d : Dev) j =>
    d.setFld Fld.SEC_REPORT_report j (BitVec.ofNat 64 (leAt (h ++ s.nv.signBlock h) (4 * j) 4))) d :=
  ⟨on { dev0 with sec := ⟨some [], none⟩ }, _, [], _, rfl, by decide +kernel, by decide +kernel, rfl⟩

theorem wit_registers_act_14 :
    ∃ s : State, ∃ d g, ∃ n : Nat, s.dev = d ∧ d.serves ∧ d.side = 0 ∧ n < 2 ^ 64 ∧ d.fab.inbound[n]? = some g :=
  ⟨on { dev0 with fab := { dev0.fab with inbound := [(.idleExit, 0)] } }, _, _, 0, rfl, by decide +kernel, by decide +kernel,
  by decide +kernel, someOf (by decide +kernel)⟩

theorem wit_registers_act_15 :
    ∃ s : State, ∃ d, ∃ ring : Nat, ∃ n : Wide, ∃ c : Cmd, ∃ t, s.dev = d ∧ d.serves ∧ ring < 1024 ∧ d.cmd? ring n = some c ∧
    c.run = .shared t ∧ d.side = 0 :=
  ⟨with0 dev0 { cmd0 0 with run := .shared 3 }, _, 8, 1, { cmd0 0 with run := .shared 3 }, 3, rfl, by decide +kernel,
  by decide +kernel, by decide +kernel, by decide +kernel, by decide +kernel⟩

theorem wit_registers_act_16 :
    ∃ s : State, ∃ d, s.dev = d ∧ d.live ∧ d.fld Fld.SEC_STATUS_debug 0 = 0 :=
  ⟨on dev0, _, rfl, by decide +kernel, by decide +kernel⟩

theorem wit_registers_act_17 :
    ∃ s : State, ∃ d, s.dev = d ∧ d.live ∧ d.fld Fld.SEC_STATUS_debug 0 ≠ 0 :=
  ⟨on (fields dev0 [(Fld.SEC_STATUS_debug, 0, 1)]), _, rfl, by decide +kernel, by decide +kernel⟩

/-- A device with one entry pending for a histogram bin, and one that holds its recorder. -/
def devRec : Dev := dev0.withMeter { dev0.meter with bins := [(5, 2)], ext := [] }
def devHold : Dev := fields dev0 [(Fld.REC_CTRL_hold, 0, 1)]

theorem wit_recorder_runs_1 :
    ∃ s : State, ∃ d d1, s.dev = d ∧ d.serves ∧ d.recPending ∧ d.fld Fld.REC_CTRL_hold 0 = 0 ∧ d1 = d.advanceTo
    (d.meter.lastRound + 10000) :=
  ⟨on devRec, _, _, rfl, by decide +kernel, by decide +kernel, by decide +kernel, rfl⟩

theorem wit_recorder_runs_2 :
    ∃ d : Dev, ∃ b n : Nat, d.meter.ext = [] ∧ d.meter.bins = [(b, n)] :=
  ⟨devRec, 5, 2, by decide +kernel, by decide +kernel⟩

theorem wit_recorder_runs_3 :
    ∃ s : State, ∃ d, s.dev = d ∧ d.serves ∧ d.fld Fld.REC_CTRL_hold 0 = 1 :=
  ⟨on devHold, _, rfl, by decide +kernel, by decide +kernel⟩

theorem wit_recorder_runs_4 :
    ∃ s : State, ∃ d d1 d2, s.dev = d ∧ d.serves ∧ d1 = d.advanceTo (d.meter.windowAt + 1000000 * d.fld Fld.REC_WINDOW_window_ms
    0) ∧ d2 = ((List.range 7).map (24 + ·) ++ (List.range 16).map (32 + ·)).foldl (fun (d : Dev) h => d.hist h (NMap.getD
    d.meter.window h 0)) d1 :=
  ⟨on dev0, _, _, _, rfl, by decide +kernel, rfl, rfl⟩

theorem wit_recorder_runs_5 :
    ∃ s : State, ∃ d d1, ∃ x : Sample, ∃ v : Int, s.dev = d ∧ d.serves ∧ d1 = d.advanceTo (d.meter.lastSample + 1000000) ∧
    ({ d1 with meter := { d1.meter with lastSample := d1.now } } : Dev).pairValue x = some v :=
  ⟨on dev0, _, _, ⟨20, 0⟩, _, rfl, by decide +kernel, rfl, someOf (by decide +kernel)⟩

theorem wit_recorder_runs_6 :
    ∃ s : State, ∃ src : RegSource, ∃ d, s.dev.serves ∧ d = s.dev.touch src Reg.REC_CTRL.off ∧ d.mayWrite src ∧ d.fld
    Fld.REC_CTRL_hold 0 = 0 :=
  ⟨on dev0, .mgmt, _, by decide +kernel, rfl, by decide +kernel, by decide +kernel⟩

theorem wit_recorder_runs_7 :
    ∃ s : State, ∃ src : RegSource, ∃ d, s.dev.serves ∧ d = s.dev.touch src Reg.REC_CTRL.off ∧ d.mayWrite src :=
  ⟨on devHold, .mgmt, _, by decide +kernel, rfl, by decide +kernel⟩

theorem wit_recorder_runs_8 :
    ∃ s : State, ∃ d, s.dev = d ∧ d.serves ∧ d.fld Fld.REC_CTRL_hold 0 = 1 :=
  ⟨on devHold, _, rfl, by decide +kernel, by decide +kernel⟩

theorem wit_recorder_runs_9 :
    ∃ s : State, ∃ src : RegSource, ∃ d, s.dev.serves ∧ d = s.dev.touch src Reg.PMC_CTRL.off ∧ d.mayWrite src :=
  ⟨on dev0, .mgmt, _, by decide +kernel, rfl, by decide +kernel⟩

theorem wit_recorder_runs_10 :
    ∃ d : Dev, (d.fld Fld.PMC_CTRL_freeze 0 = 1 ∨ d.fld Fld.PMC_CTRL_enable 0 = 0) :=
  ⟨fields dev0 [(Fld.PMC_CTRL_freeze, 0, 1)], by decide +kernel⟩

theorem wit_recorder_runs_11 :
    ∃ s : State, ∃ p : Nat, ∃ d d1 d2, s.dev = d ∧ d.serves ∧ p < 8 ∧ d1 = d.advanceTo (NMap.getD d.meter.bwAt p 0 + d.fld
    Fld.PMC_BW_WINDOW_window_ns 0) ∧ d2 = ((d1.setFld Fld.PMC_BW_TX_tx_last p (BitVec.ofNat 64 (NMap.getD d1.meter.tx p
    0))).setFld Fld.PMC_BW_RX_rx_last p (BitVec.ofNat 64 (NMap.getD d1.meter.rx p 0))).bump Fld.PMC_BW_SERIAL_window_serial p 1
    :=
  ⟨on dev0, 7, _, _, _, rfl, by decide +kernel, by decide +kernel, rfl, rfl⟩

theorem wit_recorder_runs_12 :
    ∃ s : State, ∃ src : RegSource, ∃ v : Word, ∃ d, ∃ x : Dev, s.dev.serves ∧ d = s.dev.touch src Reg.PMC_BW_WINDOW.off ∧
    d.mayWrite src ∧ x = d.regStore (Reg.PMC_BW_WINDOW.at 0) 4 (v.setWidth 64) :=
  ⟨on dev0, .mgmt, 1, _, _, by decide +kernel, rfl, by decide +kernel, rfl⟩

theorem wit_recorder_runs_13 :
    ∃ s : State, ∃ p : Nat, ∃ d d1 d2, s.dev = d ∧ d.serves ∧ p < 8 ∧ (d.fld Fld.PMC_USER_EN_user_en 0).testBit p ∧ d.fld
    Fld.PMC_P_MIRROR_enable p = 1 ∧ d.boot.phase = 5 ∧ d1 = (d.advanceTo (NMap.getD d.meter.lastMirror p 0 + 1000 * d.fld
    Fld.PMC_MIRROR_PERIOD_period_us 0)).leaveIdle ∧
    d2 = { d1 with meter := { d1.meter with lastMirror := NMap.set d1.meter.lastMirror p d1.now } } :=
  ⟨on (fields dev0 [(Fld.PMC_USER_EN_user_en, 0, 1), (Fld.PMC_P_MIRROR_enable, 0, 1)]), 0, _, _, _, rfl, by decide +kernel,
  by decide +kernel, by decide +kernel, by decide +kernel, by decide +kernel, rfl, rfl⟩

theorem wit_state_at_reset_9 :
    ∃ w : Nat, w < 12 :=
  ⟨11, by decide +kernel⟩

theorem wit_empty_queue_passes_time_1 :
    ∃ s : State, s.pending = [] :=
  ⟨State.reset, by decide +kernel⟩

theorem wit_queue_is_first_in_first_out_1 :
    ∃ c : Instr, ∃ s t : State, exec c s = .next t :=
  ⟨.idleExit, { on dev0 with pending := [.idleExit] }, _, rfl⟩

theorem wit_nothing_served_while_down_1 :
    ∃ c : Instr, ∃ s : State, needsService c = true ∧ s.dev.serves = false :=
  ⟨.idleExit, on devDown, by decide +kernel, by decide +kernel⟩

theorem wit_few_commands_write_flash_1 :
    ∃ c : Instr, ∃ s t : State, changesNv c = false ∧ exec c s = .next t :=
  ⟨.idleExit, on dev0, _, by decide +kernel, rfl⟩

theorem wit_fuses_only_advance_1 :
    ∃ a : Nv, ∃ s t : State, a.keeps s.nv ∧ step s = .next t :=
  ⟨Nv.blank, State.reset, _, ⟨rfl, rfl, rfl, rfl, Nat.le_refl _, fun _ => ⟨rfl, rfl⟩⟩, rfl⟩

end Sys2Proof.Tests
end

