-- ==== Sys2Proof/Tests/Wit2.lean ====
section
/-! SUPPORT. Witnesses for the statements about objects and fences. -/

namespace Sys2Proof.Tests

open Sys2Proof Sys2Proof.Machine

set_option maxRecDepth 4000
set_option Elab.async false

/-- A device with a fence of value 7 at offset 4096 as entry 1, a mirror of device 2's fence as entry 2, a memory object as entry
3, and two dying entries of generations 1 and 0. -/
def devO : Dev :=
  { devF with
    mem := { devF.mem with dram := (devF.mem.dram).write 4096 [7] }
    sub := { devF.sub with
      entries := [(1, ⟨0, typFence, .live, 2, none, .fence 4096⟩), (2, ⟨0, typFabricFence, .live, 2, none, .mirror 4104 2 0x300000000000005 false⟩),
        (3, ⟨0, typMemory, .live, 2, none, .memory 1 65536 4096⟩), (4, ⟨1, typMemory, .dying, 0, none, .memory 1 0 64⟩),
        (5, ⟨0, typMemory, .dying, 0, none, .memory 1 0 64⟩)]
      fresh := 6 } }

/-- That device with every watch slot taken. -/
def devFull : Dev := { devO with sub := { devO.sub with slots := (List.range 48).map (fun n => (9, BitVec.ofNat 64 n)) } }

/-- A FENCE_WAIT of entry 1 for a value. -/
def waitFor (v : Nat) : Line := desc [(0, 0x14), (16, handle typFence 1), (24, v)]

theorem wit_objects_are_created_1 :
    ∃ s src d c i, Starts s src (isOp 0x12) d c ∧ c.run = .none ∧ d.objOk c.desc ∧ objType c.desc = typMemory ∧ d.nextEntry =
    some i ∧ d.sub.fresh = i ∧ i < handleEntries :=
  ⟨run0 devO (desc [(0, 0x12), (16, typMemory), (24, 2 ^ 52 - 1), (32, 1), (40, 64)]), src0, _, _, _,
  starts0 (by decide +kernel) (by decide +kernel), by decide +kernel, by decide +kernel, by decide +kernel,
  someOf (by decide +kernel), by decide +kernel, by decide +kernel⟩

theorem wit_objects_are_created_2 :
    ∃ s src d d1 d2 c a, Starts s src (isOp 0x12) d c ∧ c.run = .none ∧ d.objOk c.desc ∧ objType c.desc = typFence ∧
    d.fenceWordAt c (objVa c.desc) = some (d1, some a) ∧ d1.exhausted typFence = none ∧ d1.localWrite Asker.none true none
    .local a (leBytes 8 (objArg c.desc).toNat) = (d2, .ok) :=
  ⟨run0 devO (desc [(0, 0x12), (16, typFence), (24, 8192), (32, 5), (40, 64)]), src0, _, _, _, _, _,
  starts0 (by decide +kernel) (by decide +kernel), by decide +kernel, by decide +kernel, by decide +kernel,
  someWith (by decide +kernel), by decide +kernel, okPair (by decide +kernel)⟩

theorem wit_objects_are_created_3 :
    ∃ s src d d1 d2 d3 c a i, Starts s src (isOp 0x12) d c ∧ c.run = .none ∧ d.objOk c.desc ∧ objType c.desc = typFabricFence ∧
    d.fenceWordAt c (objVa c.desc) = some (d1, some a) ∧ d1.exhausted typFabricFence = none ∧ d1.sharedGate = .ok ∧ d1.issue
    ⟨c.ring, c.serial, 6, 3, 2, objHome c.desc, 0, 0, none, 0, .subscribe, leBytes 8 (objArg c.desc).toNat ++ leBytes 8 0⟩ =
    (d2, .ok) ∧ d2.alloc typFabricFence (.mirror a (objHome c.desc) (objArg c.desc) false) = some (i, d3) :=
  ⟨run0 devO (desc [(0, 0x12), (16, typFabricFence), (20, 2), (24, 8192), (32, handle typFence 9), (40, 64)]), src0, _, _, _, _,
  _, _, _, starts0 (by decide +kernel) (by decide +kernel), by decide +kernel, by decide +kernel, by decide +kernel,
  someWith (by decide +kernel), by decide +kernel, by decide +kernel, okPair (by decide +kernel), someThird (by decide +kernel)⟩

theorem wit_objects_are_created_4 :
    ∃ s src d c, Starts s src (isOp 0x12) d c ∧ c.run = .none ∧ d.objOk c.desc = false :=
  ⟨run0 devO (desc [(0, 0x12), (16, typMemory), (32, 0), (40, 64)]), src0, _, _,
  starts0 (by decide +kernel) (by decide +kernel), by decide +kernel, by decide +kernel⟩

theorem wit_objects_are_freed_1 :
    ∃ s src d c i e, Starts s src (isOp 0x13) d c ∧ d.current (freeHandle c.desc) ∧ reservedZero c.desc freeFields ∧ i =
    handleIndex (freeHandle c.desc) ∧ e = d.entry i ∧ e.payload.word = none ∧ freeFence c.desc = 0 :=
  ⟨run0 devO (desc [(0, 0x13), (16, handle typMemory 3)]), src0, _, _, _, _, starts0 (by decide +kernel) (by decide +kernel),
  by decide +kernel, by decide +kernel, rfl, rfl, by decide +kernel, by decide +kernel⟩

theorem wit_objects_are_freed_2 :
    ∃ s src d c, Starts s src (isOp 0x13) d c ∧ d.current (freeHandle c.desc) = false :=
  ⟨run0 devO (desc [(0, 0x13), (16, handle typMemory 4)]), src0, _, _, starts0 (by decide +kernel) (by decide +kernel),
  by decide +kernel⟩

theorem wit_objects_are_freed_3 :
    ∃ s : State, ∃ i e, s.dev.serves ∧ e = s.dev.entry i ∧ e.state = .dying ∧ e.refs = 0 ∧ e.release = none ∧ e.gen ≠ 0 ∧
    e.payload.holds = [] :=
  ⟨on devO, 4, _, by decide +kernel, rfl, by decide +kernel, by decide +kernel, by decide +kernel, by decide +kernel,
  by decide +kernel⟩

theorem wit_objects_are_freed_4 :
    ∃ s : State, ∃ i e, s.dev.serves ∧ e = s.dev.entry i ∧ e.state = .dying ∧ e.refs = 0 ∧ e.release = none ∧ e.gen = 0 ∧
    e.payload.holds = [] :=
  ⟨on devO, 5, _, by decide +kernel, rfl, by decide +kernel, by decide +kernel, by decide +kernel, by decide +kernel,
  by decide +kernel⟩

theorem wit_fence_waits_1 :
    ∃ s src d c i, Starts s src (isOp 0x14) d c ∧ c.run = .none ∧ i = handleIndex (waitFence c.desc) ∧ reservedZero c.desc
    waitFields ∧ d.lost (d.handleOf i) = false ∧ d.satisfied i (waitValue c.desc) :=
  ⟨run0 devO (waitFor 7), src0, _, _, _, starts0 (by decide +kernel) (by decide +kernel), by decide +kernel, rfl,
  by decide +kernel, by decide +kernel, by decide +kernel⟩

theorem wit_fence_waits_2 :
    ∃ s src d c i, Starts s src (isOp 0x14) d c ∧ c.run = .none ∧ i = handleIndex (waitFence c.desc) ∧ reservedZero c.desc
    waitFields ∧ d.lost (d.handleOf i) = false ∧ d.satisfied i (waitValue c.desc) = false ∧ d.sharedFence i = false ∧
    d.sub.slots.length + d.sub.parked.length < 48 ∧ waitTimeoutTicks c.desc ≠ 0 :=
  ⟨run0 devO (desc [(0, 0x14), (16, handle typFence 1), (24, 8), (32, 1)]), src0, _, _, _,
  starts0 (by decide +kernel) (by decide +kernel), by decide +kernel, rfl, by decide +kernel, by decide +kernel,
  by decide +kernel, by decide +kernel, by decide +kernel, by decide +kernel⟩

theorem wit_fence_waits_3 :
    ∃ s src d c i, Starts s src (isOp 0x14) d c ∧ c.run = .none ∧ i = handleIndex (waitFence c.desc) ∧ reservedZero c.desc
    waitFields ∧ d.lost (d.handleOf i) = false ∧ d.satisfied i (waitValue c.desc) = false ∧ d.sharedFence i = false ∧ 48 ≤
    d.sub.slots.length + d.sub.parked.length ∧ waitTimeoutTicks c.desc = 0 :=
  ⟨run0 devFull (waitFor 8), src0, _, _, _, starts0 (by decide +kernel) (by decide +kernel), by decide +kernel, rfl,
  by decide +kernel, by decide +kernel, by decide +kernel, by decide +kernel, by decide +kernel, by decide +kernel⟩

theorem wit_fence_waits_4 :
    ∃ s : State, ∃ r n c t, s.dev.serves ∧ s.dev.cmd? r n = some c ∧ c.run = .waiting false t ∧ s.dev.lostEntry (handleIndex
    (waitFence c.desc)) = false ∧ s.dev.satisfied (handleIndex (waitFence c.desc)) (waitValue c.desc) :=
  ⟨with0 devO { cmd0 (waitFor 7) with run := .waiting false none }, 8, 1, _, none, by decide +kernel,
  someOf (by decide +kernel), rfl, by decide +kernel, by decide +kernel⟩

theorem wit_fence_waits_5 :
    ∃ s : State, ∃ r n c p t off w, s.dev.serves ∧ s.dev.cmd? r n = some c ∧ c.run = .waiting p (some t) ∧ t ≤ s.dev.meter.edges
    ∧ s.dev.lostEntry (handleIndex (waitFence c.desc)) = false ∧ s.dev.satisfied (handleIndex (waitFence c.desc)) (waitValue
    c.desc) = false ∧ (s.dev.entry (handleIndex (waitFence c.desc))).payload.word = some off ∧ s.dev.wordRead off = some w :=
  ⟨with0 devO { cmd0 (waitFor 8) with run := .waiting false (some 0) }, 8, 1, _, false, 0, 4096, 7, by decide +kernel,
  someOf (by decide +kernel), rfl, by decide +kernel, by decide +kernel, by decide +kernel, by decide +kernel,
  by decide +kernel⟩

theorem wit_fence_waits_6 :
    ∃ s : State, ∃ k rest c t, s.dev.serves ∧ s.dev.sub.slots.length < 48 ∧ s.dev.sub.parked = k :: rest ∧ s.dev.cmd? k.1 k.2 =
    some c ∧ c.run = .waiting true t :=
  ⟨with0 { devO with sub := { devO.sub with parked := [(8, 1)] } } { cmd0 (waitFor 8) with run := .waiting true none }, (8, 1),
  [], _, none, by decide +kernel, by decide +kernel, by decide +kernel, someOf (by decide +kernel), rfl⟩

theorem wit_signal_rule_1 :
    ∃ d d1 : Dev, ∃ off bs, d.localRead off 8 = (d1, .ok, bs) ∧ BitVec.ofNat 64 (leNat bs) = BitVec.allOnes 64 :=
  ⟨{ devO with mem := { devO.mem with dram := devO.mem.dram.write 4096 (List.replicate 8 0xFF) } }, _, 4096, _,
  okTriple (by decide +kernel), by decide +kernel⟩

theorem wit_fences_are_signalled_1 :
    ∃ s src d d1 c i off bs v x, Starts s src (isOp 0x15) d c ∧ c.run = .none ∧ i = handleIndex (waitFence c.desc) ∧
    reservedZero c.desc signalFields ∧ (d.entry i).payload = .fence off ∧ NMap.get? d.sub.exports i = none ∧ d.localRead off 8 =
    (d1, .ok, bs) ∧ v = (if signalIncrement c.desc then none else some (waitValue c.desc)) ∧ signalValue (BitVec.ofNat 64 (leNat
    bs)) v = some x :=
  ⟨run0 devO (desc [(0, 0x15), (16, handle typFence 1), (24, 8)]), src0, _, _, _, _, 4096, _, _, _,
  starts0 (by decide +kernel) (by decide +kernel), by decide +kernel, rfl, by decide +kernel, by decide +kernel,
  by decide +kernel, okTriple (by decide +kernel), rfl, someOf (by decide +kernel)⟩

theorem wit_fences_are_signalled_2 :
    ∃ s src d d1 c i off h home, Starts s src (isOp 0x15) d c ∧ c.run = .none ∧ i = handleIndex (waitFence c.desc) ∧
    reservedZero c.desc signalFields ∧ (d.entry i).payload = .mirror off home h false ∧ d.sharedGate = .ok ∧ d.issue ⟨c.ring,
    c.serial, 6, (if signalIncrement c.desc then 1 else 0), 2, home, 0, 0, none, 0, .fenceSignal i, leBytes 8 h.toNat ++ leBytes
    8 (if signalIncrement c.desc then 0 else waitValue c.desc).toNat⟩ = (d1, .ok) ∧ (d1.entry i).payload = .mirror off home h
    false :=
  ⟨run0 devO (desc [(0, 0x15), (16, handle typFabricFence 2), (32, 1)]), src0, _, _, _, _, 4104, 0x300000000000005, 2,
  starts0 (by decide +kernel) (by decide +kernel), by decide +kernel, rfl, by decide +kernel, by decide +kernel,
  by decide +kernel, okPair (by decide +kernel), by decide +kernel⟩

theorem wit_fences_are_signalled_3 :
    ∃ d d1 : Dev, ∃ off bs, d.localRead off 8 = (d1, .wait, bs) :=
  ⟨{ devO with boot := { devO.boot with dramOpen := false } }, _, 4096, _, okTriple (by decide +kernel)⟩

end Sys2Proof.Tests
end

