-- ==== Sys2Proof/Tests/Wit3.lean ====
section
/-! SUPPORT. Witnesses for the statements about kernels, blocks, lanes and springs. -/

namespace Sys2Proof.Tests

open Sys2Proof Sys2Proof.Machine

set_option maxRecDepth 4000
set_option Elab.async false

/-- A module with one compute entry point "m" that does nothing, as words. -/
def kernelWords : List Nat :=
  [0x7230203, 0x10600, 0x0, 0x5, 0x0, 0x20011, 0x1, 0x3000e, 0x0, 0x1,
    0x4000f, 0x5, 0x3, 0x6d, 0x20013, 0x1, 0x30021, 0x2, 0x1, 0x50036,
    0x1, 0x3, 0x0, 0x2, 0x200f8, 0x4, 0x100fd, 0x10038]

/-- Its bytes. -/
def kernelModule : Bytes := kernelWords.flatMap (fun w => leBytes 4 w)

/-- The record of a READY compute kernel of 8 registers and 1 KiB of local store. -/
def readyRecord : Bytes := (KRecord.mk 1 2 0 0 8 1024 0 (0, 0, 0) 1024 (0, 0, 0) 0 0).bytes

/-- A device with that module at 8192, the name "m" at 12288, a READY kernel as entry 1 and code memory as entry 2. -/
def devK : Dev :=
  { dev0 with
    mem := { dev0.mem with dram := (dev0.mem.dram.write 8192 kernelModule).write 12288 [0x6D] }
    sub := { dev0.sub with
      entries := [(1, ⟨0, typKernel, .live, 1, none, .kernel .ready readyRecord 2 [] [] 0 [] 0⟩), (2, ⟨0, typMemory, .live, 2, none, .memory 1 65536 1048576⟩)]
      fresh := 3 } }

/-- A KERNEL_LOAD of the module. -/
def kload : Line := desc [(0, 0x20), (16, 8192), (24, 112), (28, 3), (32, 12288), (40, 64), (48, 16384), (56, handle typMemory 2)]

/-- What Gotik's translation finds of the module. -/
def trans0 : Translation := ⟨none, 4, 0, [], 1024⟩

/-- The device with the KERNEL_LOAD's object made and its module read, as entry 3. -/
def devT : Dev :=
  { devK with sub := { devK.sub with
      entries := devK.sub.entries ++ [(3, ⟨0, typKernel, .live, 1, none, .kernel .translating [] 2 kernelModule [0x6D, 0] 3 [] 0⟩)], fresh := 4 } }

theorem test_kernel_is_accepted : (translated kernelModule (some [0x6D]) 3 trans0).state = 1 := by decide +kernel

theorem test_kernel_name_not_found : (translated kernelModule (some [0x6E]) 3 trans0).reason = rejNotFound := by decide +kernel

/-- A DISPATCH of the READY kernel over x blocks of 32 threads. -/
def launch (x : Nat) : Line := desc [(0, 0x21), (16, handle typKernel 1), (24, x), (28, 1), (30, 1), (32, 32 + 2 ^ 11 + 2 ^ 22), (36, 0x1000)]

/-- A launch of two blocks, the first of which has been placed. -/
def launched : DispatchRun := ⟨1, 2, 1, 0, 8, 1024, 32, (2, 1, 1), (1, 1, 1), 1, 0, [], [], none⟩

/-- The command that runs it. -/
def launchCmd : Cmd := { cmd0 (launch 2) with run := .dispatch launched }

/-- A reference to it. -/
def ref0 : BlockRef := ⟨8, 1, 0⟩

/-- A device with wall 0 for partition 0 and one brick that holds the block. -/
def devB : Dev :=
  committed { devK with bricks := [(0, { Brick.fresh with split := 1, ls := Store.zero, blocks := [blk0] })] } [(Fld.PAR_P_MASKS_wall_mask, 0, 1), (Fld.PAR_P_CTRL_enable, 0, 1)]

/-- The device with the block changed. -/
def blkWith (f : Block → Block) : Dev := devB.modBlock 0 ref0 f

/-- The descriptor of an image of one texel at address 65536. -/
def imageBytes : Bytes := [0, 0, 1, 0] ++ List.replicate 17 0 ++ [3, 0, 0, 0, 1, 0, 0, 0, 0, 0, 0]

/-- The device with other blocks on the brick. -/
def blkWith2 (bs : List Block) : Dev := devB.modBrick 0 (fun y => { y with blocks := bs })

/-- The machine that runs the launch on a device. -/
def runB (d : Dev) : State := with0 d launchCmd



theorem wit_kernels_load_1 :
    ∃ s src d d1 d2 d3 d4 c i m name e st x code u pu ms ns w, Starts s src (isOp 0x20) d c ∧ c.run = .none ∧ d.kernelFails c =
    none ∧ d.exhausted typKernel = none ∧ d.alloc typKernel (.kernel .translating [] (handleIndex (kldCode c.desc)) [] []
    (kldModel c.desc) [] 0) = some (i, d1) ∧ Dev.cmdWrites c engOther (d1.takeRef (handleIndex (kldCode c.desc))) ((d1.takeRef
    (handleIndex (kldCode c.desc))).handleWrite (kldResult c.desc) i) = (d2, .ok, w) ∧ (d2.setRun c.ring c.serial (.kernelLoad
    i)).cmdRead c engOther (kldModule c.desc) (kldBytes c.desc) = (d3, .ok, m) ∧ d3.readName c (kldEntry c.desc) = (d4, .ok,
    name) ∧ e = d4.entry i ∧ e.payload = .kernel st x code ms ns (kldModel c.desc) u pu :=
  ⟨run0 devK kload, src0, _, _, _, _, _, _, _, _, _, _, .translating, [], 2, [], 0, [], [], _,
  starts0 (by decide +kernel) (by decide +kernel), by decide +kernel, by decide +kernel, by decide +kernel,
  someThird (by decide +kernel), okTriple (by decide +kernel), okTriple (by decide +kernel), okTriple (by decide +kernel), rfl,
  by decide +kernel⟩

theorem wit_kernels_load_2 :
    ∃ s : State, ∃ i t c code b m n x u p k d1 d2 d3 e e3 l r is, s.dev.serves ∧ is = (spvIntake (b :: m) t.malformedAt).ins ∧
    s.dev.sub.cmds.find? (fun c => c.run = .kernelLoad i && c.active) = some c ∧ (s.dev.entry i).payload = .kernel .translating
    [] code (b :: m) n x u p ∧ k = translated (b :: m) (entryName n) x t ∧ (if k.state = 1 then s.dev.writeCode c code
    k.codeBytes else (s.dev, .ok)) = (d1, .ok) ∧ e = d1.entry i ∧ d2 = d1.setEntry i { e with payload := (.kernel .translating
    k.bytes code (b :: m) n x
      (match spvChosen is (entryName n) x with
        | f :: _ => spvUses is f.fn
        | [] => []) (spvPush is)) } ∧ Dev.cmdWrites c engOther d2 [⟨kldRecord c.desc, k.bytes, false⟩] = (d3, .ok, l) ∧ e3 =
    d3.entry i ∧ e3.payload = .kernel .translating k.bytes code (b :: m) n x u p ∧ r = krecordOf k.bytes :=
  ⟨with0 devT { cmd0 kload with run := .kernelLoad 3 }, 3, trans0, { cmd0 kload with run := .kernelLoad 3 }, 2, 0x03,
  kernelModule.tail, [0x6D, 0], 3, [], 0, _, _, _, _, _, _, _, _, _, by decide +kernel, rfl, by decide +kernel,
  by decide +kernel, rfl, okPair (by decide +kernel), rfl, rfl, okTriple (by decide +kernel), rfl, by decide +kernel, rfl⟩

theorem wit_dispatches_run_1 :
    ∃ s src d d1 c x rec k code m n mo uses push args, Starts s src (isOp 0x21) d c ∧ c.run = .none ∧ x = dispatchD c.desc ∧
    (d.entry (handleIndex x.kernel)).payload = .kernel .ready rec code m n mo uses push ∧ k = krecordOf rec ∧ d.dispatchFails c
    k = none ∧ x.grid.1 * x.grid.2.1 * x.grid.2.2 ≠ 0 ∧ Dev.readRanges c engOther d (argRanges x.args uses push) = (d1, .ok,
    args) :=
  ⟨run0 devK (launch 1), src0, _, _, _, _, readyRecord, _, 2, [], [], 0, [], 0, _,
  starts0 (by decide +kernel) (by decide +kernel), by decide +kernel, rfl, by decide +kernel, rfl, by decide +kernel,
  by decide +kernel, okTriple (by decide +kernel)⟩

theorem wit_dispatches_run_2 :
    ∃ s src d c x k, Starts s src (isOp 0x21) d c ∧ c.run = .none ∧ x = dispatchD c.desc ∧ d.kernelView (handleIndex x.kernel) =
    .ready k ∧ d.dispatchFails c k = none ∧ x.grid.1 * x.grid.2.1 * x.grid.2.2 = 0 :=
  ⟨run0 devK (launch 0), src0, _, _, _, krecordOf readyRecord, starts0 (by decide +kernel) (by decide +kernel),
  by decide +kernel, rfl, by decide +kernel, by decide +kernel, by decide +kernel⟩

theorem wit_dispatches_run_3 :
    ∃ s : State, ∃ ref : BlockRef, ∃ bricks : List Nat, ∃ c r unit d1, s.dev.serves ∧ s.dev.cmd? ref.ring ref.serial = some c ∧
    c.run = .dispatch r ∧ c.phase = .started ∧ r.next < r.units ∧ unit = r.unitBlocks r.next ∧ nth unit 0 0 = ref.block ∧
    (s.dev.ring c.ring).saving = false ∧ placementOk unit.length bricks ∧ (∀ n ∈ bricks, n ∈ s.dev.partBricks c.part ∧
    s.dev.roomOn r.room n) ∧ s.dev.outranked c bricks = false ∧ s.dev.cleanPonds (bricks.filter (fun n => (s.dev.brick n).split
    ≠ r.split)) = (d1, true) :=
  ⟨runB devB, ⟨8, 1, 1⟩, [7], launchCmd, launched, _, _, by decide +kernel, by decide +kernel, rfl, by decide +kernel,
  by decide +kernel, rfl, by decide +kernel, by decide +kernel, by decide +kernel, by decide +kernel, by decide +kernel,
  truePair (by decide +kernel)⟩

theorem wit_dispatches_run_5 :
    ∃ s : State, ∃ ring serial c r d1, s.dev.serves ∧ s.dev.cmd? ring serial = some c ∧ c.run = .dispatch r ∧ r.exited = r.total
    ∧ s.dev.storesDone c = (d1, true) :=
  ⟨with0 devB { launchCmd with run := .dispatch { launched with next := 2, exited := 2 } }, 8, 1, _,
  { launched with next := 2, exited := 2 }, _, by decide +kernel, someOf (by decide +kernel), rfl, by decide +kernel,
  truePair (by decide +kernel)⟩

theorem wit_dispatches_run_6 :
    ∃ s n b, ∃ x : PathAccess, ∃ l : LaneAccess, ∃ v, Resident s x.ref n b ∧ x.lanes = [l] ∧ b.runs l.thread ∧ x.cls = .input ∧
    x.evict = none ∧ x.store = false ∧ l.image = none ∧ s.dev.inputOf b l.thread l.addr.toNat = some v :=
  ⟨runB devB, 0, blk0, ⟨ref0, .input, false, 4, [⟨31, 36, [], none⟩], none⟩, ⟨31, 36, [], none⟩, _,
  residentOf (by decide +kernel), by decide +kernel, by decide +kernel, by decide +kernel, by decide +kernel,
  by decide +kernel, by decide +kernel, someOf (by decide +kernel)⟩

theorem wit_dispatches_run_8 :
    ∃ d : Dev, ∃ b : Block, ∃ c r, d.cmd? b.ring b.serial = some c ∧ c.run = .dispatch r :=
  ⟨(runB devB).dev, blk0, launchCmd, launched, by decide +kernel, rfl⟩

theorem wit_dispatches_run_9 :
    ∃ s n b, ∃ x : PathAccess, ∃ l : LaneAccess, Resident s x.ref n b ∧ x.lanes = [l] ∧ b.runs l.thread ∧ x.cls = .output ∧
    x.evict = none ∧ x.store ∧ l.image = none ∧ l.data.length = x.size ∧ b.stage ≠ .compute :=
  ⟨runB (blkWith (fun b => { b with stage := .vertex })), 0, { blk0 with stage := .vertex },
  ⟨ref0, .output, true, 4, [⟨31, 3, [1, 2, 3, 4], none⟩], none⟩, ⟨31, 3, [1, 2, 3, 4], none⟩, residentOf (by decide +kernel),
  by decide +kernel, by decide +kernel, by decide +kernel, by decide +kernel, by decide +kernel, by decide +kernel,
  by decide +kernel, by decide +kernel⟩

theorem wit_drain_selection_1 :
    ∃ s : State, ∃ ref : BlockRef, ∃ c w bs n, s.dev.serves ∧ s.dev.cmd? ref.ring ref.serial = some c ∧ bs = s.dev.partBricks
    c.part ∧ minBy (fun (w : Work) => s.dev.grantRank w.cmd) ((s.dev.waitingWork c.part).filter (fun w => w.bricks.any (fun n =>
    s.dev.couldUse w n) = false)) = some w ∧ w.cmd.ring = c.ring ∧ w.cmd.serial = c.serial ∧
    ({ Brick.fresh with split := w.room.split }).fits w.room w.room.split ∧ bs.all (fun n => (s.dev.brick n).drain.isNone) ∧
    minBy (fun n => (s.dev.brick n).courses) (w.bricks.filter (fun n => bs.contains n && (s.dev.brick n).split ≠ w.room.split))
    = some n :=
  ⟨with0 { devB with bricks := (List.range 8).map (fun n => (n, { Brick.fresh with split := 2, blocks := [{ blk0 with ring := 9 }] })) } launchCmd,
  ref0, launchCmd, _, _, 0, by decide +kernel, by decide +kernel, rfl, someOf (by decide +kernel), by decide +kernel,
  by decide +kernel, by decide +kernel, by decide +kernel, by decide +kernel⟩

theorem wit_barriers_and_exits_1 :
    ∃ s r n b b1 scope site, ∃ threads : List Nat, ∃ d1, Resident s r n b ∧ scope ∈ [Scope.course, .block, .cluster] ∧ (∀ t ∈
    threads, b.runs t) ∧ threads.eraseDups = threads ∧ d1 = s.dev.modBlock n r (fun b => threads.foldl (Block.arrive scope site
    (s.dev.fld Fld.BRK_STALL_LIMIT_stall_limit n)) b) ∧ d1.findBlock r = some (n, b1) :=
  ⟨runB devB, ref0, 0, blk0, _, Scope.cluster, 3, [0, 31], _, residentOf (by decide +kernel), by decide +kernel,
  by decide +kernel, by decide +kernel, rfl, someBlock (by decide +kernel)⟩

theorem wit_barriers_and_exits_2 :
    ∃ s r n b b1, ∃ threads : List Nat, ∃ d1, Resident s r n b ∧ (∀ t ∈ threads, b.runs t) ∧
    d1 = s.dev.modBlock n r (fun b => { b with exited := b.exited ++ threads.eraseDups }) ∧ d1.findBlock r = some (n, b1) ∧
    b1.alive ≠ [] :=
  ⟨runB devB, ref0, 0, blk0, _, [31], _, residentOf (by decide +kernel), by decide +kernel, rfl, someBlock (by decide +kernel),
  by decide +kernel⟩

theorem wit_barriers_and_exits_3 :
    ∃ s r n b b1, ∃ threads : List Nat, ∃ d1, Resident s r n b ∧ (∀ t ∈ threads, b.runs t) ∧
    d1 = s.dev.modBlock n r (fun b => { b with exited := b.exited ++ threads.eraseDups }) ∧ d1.findBlock r = some (n, b1) ∧
    b1.alive = [] :=
  ⟨runB devB, ref0, 0, blk0, _, List.range 32, _, residentOf (by decide +kernel), by decide +kernel, rfl,
  someBlock (by decide +kernel), by decide +kernel⟩

theorem wit_barriers_and_exits_4 :
    ∃ d : Dev, ∃ r : BlockRef, ∃ c k, d.cmd? r.ring r.serial = some c ∧ c.run = .dispatch k :=
  ⟨(runB devB).dev, ref0, launchCmd, launched, by decide +kernel, rfl⟩

theorem wit_blocks_end_dispatches_1 :
    ∃ s r n b, Resident s r n b ∧ (∀ p ∈ s.dev.clusterBlocks b, p.2.done = false → ∀ x ∈ p.2.blocked, x.scope ≠ .cluster) ∧
    b.stuck ∧ b.alive ≠ [] ∧ s.dev.decides b :=
  ⟨runB (blkWith (fun _ => { blk0 with threads := 2, blocked := [⟨0, 1, 1, .block, 0, 4096⟩, ⟨1, 2, 1, .block, 4096000, 4096⟩] })),
  ref0, 0, { blk0 with threads := 2, blocked := [⟨0, 1, 1, .block, 0, 4096⟩, ⟨1, 2, 1, .block, 4096000, 4096⟩] },
  residentOf (by decide +kernel), by decide +kernel, by decide +kernel, by decide +kernel,
  (by unfold Dev.decides; decide +kernel)⟩

theorem wit_blocks_end_dispatches_2 :
    ∃ s r n b cl p, Resident s r n b ∧ cl = (s.dev.clusterBlocks b).filter (fun p => !p.2.done) ∧ (∃ p ∈ cl, ∃ x ∈ p.2.blocked,
    x.scope = .cluster) ∧ (∀ p ∈ cl, p.2.stuck) ∧ minBy (fun p => p.2.rank) cl = some p ∧ s.dev.decides p.2 :=
  ⟨runB (blkWith (fun _ => { blk0 with threads := 2, blocked := [⟨0, 1, 1, .cluster, 0, 4096⟩, ⟨1, 2, 1, .cluster, 4096000, 4096⟩] })),
  ref0, 0, { blk0 with threads := 2, blocked := [⟨0, 1, 1, .cluster, 0, 4096⟩, ⟨1, 2, 1, .cluster, 4096000, 4096⟩] }, _,
  (0, { blk0 with threads := 2, blocked := [⟨0, 1, 1, .cluster, 0, 4096⟩, ⟨1, 2, 1, .cluster, 4096000, 4096⟩] }),
  residentOf (by decide +kernel), rfl, by decide +kernel, by decide +kernel, by decide +kernel,
  (by unfold Dev.decides; decide +kernel)⟩

theorem wit_blocks_end_dispatches_3 :
    ∃ s r n b, Resident s r n b ∧ (∃ x ∈ b.blocked, x.stall ≥ 1000 * x.limit) ∧ s.dev.divergentAt n b = none ∧ s.dev.decides b
    :=
  ⟨runB (blkWith (fun _ => { blk0 with threads := 2, blocked := [⟨1, 2, 1, .block, 4096000, 4096⟩] })), ref0, 0,
  { blk0 with threads := 2, blocked := [⟨1, 2, 1, .block, 4096000, 4096⟩] }, residentOf (by decide +kernel), by decide +kernel,
  by decide +kernel, (by unfold Dev.decides; decide +kernel)⟩

theorem wit_blocks_end_dispatches_4 :
    ∃ s, ∃ r : BlockRef, ∃ n b q, Resident s r n b ∧ s.dev.watchdogDue n b ∧ minBy (fun p => p.2.index) ((s.dev.blocksOf b.ring
    b.serial).filter (fun p => p.2.index < b.index && s.dev.watchdogDue p.1 p.2)) = some q :=
  ⟨runB (blkWith2 [{ blk0 with threads := 2, blocked := [⟨1, 2, 1, .block, 4096000, 4096⟩] }, { { blk0 with threads := 2, blocked := [⟨1, 2, 1, .block, 4096000, 4096⟩] } with index := 1, lsBase := 1024 }]),
  ⟨8, 1, 1⟩, 0, { { blk0 with threads := 2, blocked := [⟨1, 2, 1, .block, 4096000, 4096⟩] } with index := 1, lsBase := 1024 },
  (0, { blk0 with threads := 2, blocked := [⟨1, 2, 1, .block, 4096000, 4096⟩] }), residentOf (by decide +kernel),
  by decide +kernel, by decide +kernel⟩

theorem wit_lanes_load_and_store_1 :
    ∃ s n b, ∃ x : PathAccess, Resident s x.ref n b ∧ b.together (x.lanes.map (·.thread)) ∧ x.cls = .workgroup ∧ x.evict = none
    ∧ (∀ l ∈ x.lanes, l.image = none ∧ l.addr.toNat + x.size ≤ b.lsBytes ∧ (x.store → l.data.length = x.size)) :=
  ⟨runB devB, 0, blk0, ⟨ref0, .workgroup, true, 4, [⟨31, 1020, [1, 2, 3, 4], none⟩], none⟩, residentOf (by decide +kernel),
  (by decide +kernel), by decide +kernel, by decide +kernel, by decide +kernel⟩

theorem wit_lanes_load_and_store_2 :
    ∃ s n b, ∃ x : PathAccess, ∃ l : LaneAccess, ∃ d, ∃ y : LaneAt, ∃ d1 leaf a d2 bs, Resident s x.ref n b ∧ b.numbered ∧
    x.lanes = [l] ∧ b.runs l.thread ∧ x.cls ∈ [StorageClass.buffer, .physical] ∧ x.evict = none ∧ x.store = false ∧ x.size ≠ 0 ∧
    l.image = none ∧ s.dev.fresh.2.oneLane n b x.cls .load x.size (accessLane l false x.size s.dev.freeCtr) = (d, y) ∧ d.Holds n
    y.block ∧ PartHere d y accRead l.addr x.size d1 leaf a ∧ d1.hereLoad y leaf a x.size = (d2, .ok, bs) ∧ d2.Holds n y.block :=
  ⟨runB devB, 0, blk0, ⟨ref0, .buffer, false, 4, [⟨31, 8188, [], none⟩], none⟩, ⟨31, 8188, [], none⟩, _, _, _, leaf0, 8188, _,
  _, residentOf (by decide +kernel), (fun _ h => nomatch h), by decide +kernel, by decide +kernel, by decide +kernel,
  by decide +kernel, by decide +kernel, by decide +kernel, by decide +kernel, pairEta _,
  ⟨by decide +kernel, by decide +kernel⟩, ⟨1, okPair (by decide +kernel), by decide +kernel, by decide +kernel⟩,
  okTriple (by decide +kernel), ⟨by decide +kernel, by decide +kernel⟩⟩

theorem wit_lanes_load_and_store_3 :
    ∃ s n b, ∃ x : PathAccess, ∃ l : LaneAccess, ∃ d, ∃ y : LaneAt, ∃ d1 leaf a d2, Resident s x.ref n b ∧ b.numbered ∧ x.lanes
    = [l] ∧ b.runs l.thread ∧ b.acting l.thread ∧ x.cls ∈ [StorageClass.buffer, .physical] ∧ x.evict = none ∧ x.store ∧ x.size ≠
    0 ∧ l.data.length = x.size ∧ l.image = none ∧ s.dev.fresh.2.oneLane n b x.cls .store x.size (accessLane l true x.size
    s.dev.freeCtr) = (d, y) ∧ d.Holds n y.block ∧ PartHere d y accWrite l.addr x.size d1 leaf a ∧ d1.hereStore y leaf a l.data =
    (d2, .ok) ∧ d2.Holds n y.block :=
  ⟨runB devB, 0, blk0, ⟨ref0, .buffer, true, 4, [⟨31, 8188, [1, 2, 3, 4], none⟩], none⟩, ⟨31, 8188, [1, 2, 3, 4], none⟩, _, _,
  _, leaf0, 8188, _, residentOf (by decide +kernel), (fun _ h => nomatch h), by decide +kernel, by decide +kernel,
  by decide +kernel, by decide +kernel, by decide +kernel, by decide +kernel, by decide +kernel, by decide +kernel,
  by decide +kernel, pairEta _, ⟨by decide +kernel, by decide +kernel⟩,
  ⟨1, okPair (by decide +kernel), by decide +kernel, by decide +kernel⟩, okPair (by decide +kernel),
  ⟨by decide +kernel, by decide +kernel⟩⟩

theorem wit_lanes_load_and_store_4 :
    ∃ s n b, ∃ x : PathAccess, ∃ d f op p, Resident s x.ref n b ∧ b.together (x.lanes.map (·.thread)) ∧ accessFormed x ∧ x.cls ∈
    [StorageClass.buffer, .physical, .image] ∧ x.evict = none ∧ op = (if x.store then PathOp.store else .load) ∧ s.dev.freshen
    (x.lanes.filter (fun l => !x.store || b.acting l.thread)) (fun l k => accessLane l x.store x.size k) = (d, f) ∧ p =
    ⟨b.pathNo, x.cls, op, x.size, none, f⟩ ∧ (d.modBlock n b.bref (fun b => b.withPath p)).Holds n (b.withPath p) ∧ b.numbered
    :=
  ⟨runB devB, 0, blk0, ⟨ref0, .buffer, false, 4, [⟨31, 65534, [], none⟩], none⟩, _, _, _, _, residentOf (by decide +kernel),
  (by decide +kernel), (by decide +kernel), by decide +kernel, by decide +kernel, rfl, pairEta _, rfl,
  ⟨by decide +kernel, by decide +kernel⟩, (fun _ h => nomatch h)⟩

theorem wit_lanes_load_and_store_5 :
    ∃ s n b, ∃ x : PathAccess, ∃ l : LaneAccess, ∃ op d, ∃ y : LaneAt, ∃ d2, ∃ l2 : LaneRun, Resident s x.ref n b ∧ b.numbered ∧
    x.lanes = [l] ∧ b.runs l.thread ∧ b.acting l.thread ∧ accessFormed x ∧ x.cls = .image ∧ x.evict = none ∧ op = (if x.store
    then PathOp.store else .load) ∧ s.dev.fresh.2.oneLane n b .image op x.size (accessLane l x.store x.size s.dev.freeCtr) = (d,
    y) ∧ d.Holds n y.block ∧ Dev.laneOn y op (((d.cmd? b.ring b.serial).map Cmd.ownRanges).getD []) 64 d (accessLane l x.store
    x.size s.dev.freeCtr) = (d2, l2) ∧ d2.Holds n y.block ∧ l2.image = none ∧ (∀ p ∈ l2.parts, p.state = .done) ∧ l2.thread =
    l.thread :=
  ⟨runB { devB with mem := { devB.mem with dram := devB.mem.dram.write 32768 imageBytes } }, 0, blk0,
  ⟨ref0, .image, false, 16, [⟨31, 0, [], (some ⟨32768, none, 0, 0, 0, 0, 0, 0, 0, 0, 0⟩)⟩], none⟩,
  ⟨31, 0, [], (some ⟨32768, none, 0, 0, 0, 0, 0, 0, 0, 0, 0⟩)⟩, .load, _, _, _, _, residentOf (by decide +kernel),
  (fun _ h => nomatch h), by decide +kernel, by decide +kernel, by decide +kernel, (by decide +kernel), by decide +kernel,
  by decide +kernel, rfl, pairEta _, ⟨by decide +kernel, by decide +kernel⟩, pairEta _, ⟨by decide +kernel, by decide +kernel⟩,
  by decide +kernel, by decide +kernel, by decide +kernel⟩

theorem wit_lanes_load_and_store_6 :
    ∃ e : TexEnv, ∃ g : ImageArgs, ∃ ib, e.bytes g.desc 32 = .ok ib ∧ (imageD ib).ok = false :=
  ⟨⟨[(32768, List.replicate 32 0)], [], 0⟩, ⟨32768, none, 0, 0, 0, 0, 0, 0, 0, 0, 0⟩, List.replicate 32 0, by decide +kernel,
  by decide +kernel⟩

theorem wit_lanes_load_and_store_8 :
    ∃ e : TexEnv, ∃ g : ImageArgs, ∃ ib t, e.bytes g.desc 32 = .ok ib ∧ (imageD ib).ok ∧ g.sampler = none ∧ (imageD ib).has g.x
    g.y g.layer g.level g.sample ∧ e.texel (imageD ib) g.x g.y g.layer g.level g.sample = .ok t :=
  ⟨⟨[(32768, imageBytes), (65536, List.replicate 64 0)], [], 0⟩, ⟨32768, none, 0, 0, 0, 0, 0, 0, 0, 0, 0⟩, imageBytes,
  ([0], []), by decide +kernel, by decide +kernel, by decide +kernel, by decide +kernel, by decide +kernel⟩

theorem wit_lanes_load_and_store_9 :
    ∃ e : TexEnv, ∃ g : ImageArgs, ∃ ib, e.bytes g.desc 32 = .ok ib ∧ (imageD ib).ok ∧ (imageD ib).has g.x g.y g.layer g.level
    g.sample = false :=
  ⟨⟨[(32768, imageBytes), (65536, List.replicate 64 0)], [], 0⟩, ⟨32768, none, 1, 0, 0, 0, 0, 0, 0, 0, 0⟩, imageBytes,
  by decide +kernel, by decide +kernel, by decide +kernel⟩

theorem wit_shared_brick_memory_1 :
    ∃ s n b, ∃ x : PathAccess, Resident s x.ref n b ∧ b.together (x.lanes.map (·.thread)) ∧ (x.store → ∀ l ∈ x.lanes,
    l.data.length = x.size) :=
  ⟨runB devB, 0, blk0, ⟨ref0, .clusterLocal, false, 4, [⟨31, 1020, [], none⟩], none⟩, residentOf (by decide +kernel),
  (by decide +kernel), by decide +kernel⟩

theorem wit_shared_brick_memory_2 :
    ∃ d : Dev, ∃ b size, ∃ l : LaneAccess, ∃ m p o, d.clusterPlace b l.addr.toNat size = some (m, p, o) :=
  ⟨(runB devB).dev, blk0, 4, ⟨31, 1020, [1, 2, 3, 4], none⟩, 0, blk0, 1020, by decide +kernel⟩

theorem wit_shared_brick_memory_3 :
    ∃ d : Dev, ∃ b size, ∃ l : LaneAccess, d.clusterPlace b l.addr.toNat size = none :=
  ⟨(runB devB).dev, blk0, 4, ⟨31, 1021, [], none⟩, by decide +kernel⟩

theorem wit_shared_brick_memory_4 :
    ∃ s r n b, ∃ ts : List Nat, ∃ scope : Scope, ∃ cs : List StorageClass, ∃ d1 d2, Resident s r n b ∧ coversMemory cs ∧ scope ∈
    [Scope.cluster, .device, .fabric] ∧ (∀ t ∈ ts, b.runs t) ∧
    d1 = s.dev.modBlock n r (fun b => { b with releases := b.releases ++ [⟨ts, scope⟩] }) ∧
    d1.findBlock r = some (n, { b with releases := b.releases ++ [⟨ts, scope⟩] }) ∧ d2 = d1.cleanPond n :=
  ⟨runB devB, ref0, 0, blk0, [0], .fabric, [.buffer], _, _, residentOf (by decide +kernel), by decide +kernel,
  by decide +kernel, by decide +kernel, rfl, by decide +kernel, rfl⟩

theorem wit_shared_brick_memory_5 :
    ∃ b : Block, ∃ h t, h ∈ b.releases ∧ t ∈ h.threads :=
  ⟨{ blk0 with releases := [⟨[0], .device⟩] }, ⟨[0], .device⟩, 0, by decide +kernel, by decide +kernel⟩

theorem wit_shared_brick_memory_6 :
    ∃ s r n b, ∃ scope : Scope, ∃ cs : List StorageClass, Resident s r n b ∧ (coversMemory cs = false ∨ scope ∉ [Scope.cluster,
    .device, .fabric]) :=
  ⟨runB devB, ref0, 0, blk0, .block, [.buffer], residentOf (by decide +kernel), by decide +kernel⟩

theorem wit_shared_brick_memory_7 :
    ∃ s r n b, ∃ scope : Scope, ∃ cs : List StorageClass, Resident s r n b ∧ coversMemory cs ∧ scope ∈ [Scope.cluster, .device,
    .fabric] :=
  ⟨runB devB, ref0, 0, blk0, .fabric, [.buffer], residentOf (by decide +kernel), by decide +kernel, by decide +kernel⟩

theorem wit_atomics_complete_1 :
    ∃ s i op x l n b m p o old d1, atomicOf i = some (op, x) ∧ Resident s x.ref n b ∧ x.lanes = [l] ∧ b.runs l.thread ∧ b.acting
    l.thread ∧ op.sizeOk x.size ∧ l.addr.toNat % x.size = 0 ∧ l.image = none ∧ ((x.cls = .workgroup ∧ l.addr.toNat + x.size ≤
    b.lsBytes ∧ m = n ∧ p = b ∧ o = l.addr.toNat) ∨ (x.cls = .clusterLocal ∧ s.dev.clusterPlace b l.addr.toNat x.size = some (m,
    p, o))) ∧ old = leNat ((s.dev.brick m).ls.read (p.lsBase + o) x.size) ∧ d1 = (match op.result x.size old l with
      | some v => s.dev.modBrick m (fun y => { y with ls := y.ls.write (p.lsBase + o) (leBytes x.size v) })
      | none => s.dev) :=
  ⟨runB devB, .atomicCompareExchange ⟨ref0, .workgroup, 4, [⟨31, 1020, 1, 0, none⟩]⟩, .cas,
  ⟨ref0, .workgroup, 4, [⟨31, 1020, 1, 0, none⟩]⟩, ⟨31, 1020, 1, 0, none⟩, 0, blk0, 0, blk0, 1020, _, _, by decide +kernel,
  residentOf (by decide +kernel), by decide +kernel, by decide +kernel, by decide +kernel, by decide +kernel,
  by decide +kernel, by decide +kernel, by decide +kernel, rfl, rfl⟩

theorem wit_atomics_complete_1_float :
    ∃ s i op x l n b m p o old d1, atomicOf i = some (op, x) ∧ Resident s x.ref n b ∧ x.lanes = [l] ∧ b.runs l.thread ∧ b.acting
    l.thread ∧ op.sizeOk x.size ∧ l.addr.toNat % x.size = 0 ∧ l.image = none ∧ ((x.cls = .workgroup ∧ l.addr.toNat + x.size ≤
    b.lsBytes ∧ m = n ∧ p = b ∧ o = l.addr.toNat) ∨ (x.cls = .clusterLocal ∧ s.dev.clusterPlace b l.addr.toNat x.size = some (m,
    p, o))) ∧ old = leNat ((s.dev.brick m).ls.read (p.lsBase + o) x.size) ∧ d1 = (match op.result x.size old l with
      | some v => s.dev.modBrick m (fun y => { y with ls := y.ls.write (p.lsBase + o) (leBytes x.size v) })
      | none => s.dev) :=
  ⟨runB devB, .atomicFloatAdd ⟨ref0, .clusterLocal, 4, [⟨31, 0, 1, 0, none⟩]⟩, .fadd,
  ⟨ref0, .clusterLocal, 4, [⟨31, 0, 1, 0, none⟩]⟩, ⟨31, 0, 1, 0, none⟩, 0, blk0, 0, blk0, 0, _, _, by decide +kernel,
  residentOf (by decide +kernel), by decide +kernel, by decide +kernel, by decide +kernel, by decide +kernel,
  by decide +kernel, by decide +kernel, by decide +kernel, rfl, rfl⟩

theorem wit_atomics_complete_2 :
    ∃ s i op, ∃ x : AtomicArgs, ∃ l n b d y d1 leaf a m d2 old, atomicOf i = some (op, x) ∧ Resident s x.ref n b ∧ b.numbered ∧
    x.lanes = [l] ∧ b.runs l.thread ∧ b.acting l.thread ∧ op.sizeOk x.size ∧ l.addr.toNat % x.size = 0 ∧ l.image = none ∧ x.cls
    ∈ [StorageClass.buffer, .physical] ∧ s.dev.fresh.2.oneLane n b x.cls (.atomic op) x.size (atomicLane l x.size s.dev.freeCtr)
    = (d, y) ∧ d.Holds n y.block ∧ PartHere d y accAtomic l.addr x.size d1 leaf a ∧ regionOf a = .dram m ∧ (d1.evictLine n (a /
    64)).atomicHome y.req.asker (bitsN leaf 7 6 ≠ 2) (some (bitsN leaf 53 52)) a x.size (fun old => op.result x.size old l) =
    (d2, .ok, old) ∧ (d2.afterMax op x.size a .ok old).Holds n y.block :=
  ⟨runB devB, .atomicIntegerAdd .increment ⟨ref0, .buffer, 8, [⟨31, 65528, 1, 0, none⟩]⟩, .add .increment,
  ⟨ref0, .buffer, 8, [⟨31, 65528, 1, 0, none⟩]⟩, ⟨31, 65528, 1, 0, none⟩, 0, blk0, _, _, _, leaf0, 65528, 65528, _, _,
  by decide +kernel, residentOf (by decide +kernel), (fun _ h => nomatch h), by decide +kernel, by decide +kernel,
  by decide +kernel, by decide +kernel, by decide +kernel, by decide +kernel, by decide +kernel, pairEta _,
  ⟨by decide +kernel, by decide +kernel⟩, ⟨1, okPair (by decide +kernel), by decide +kernel, by decide +kernel⟩,
  by decide +kernel, okTriple (by decide +kernel), ⟨by decide +kernel, by decide +kernel⟩⟩

theorem wit_atomics_complete_3 :
    ∃ s i op x l n b d y d2 l2, atomicOf i = some (op, x) ∧ Resident s x.ref n b ∧ b.numbered ∧ x.lanes = [l] ∧ b.runs l.thread
    ∧ b.acting l.thread ∧ x.cls = .image ∧ x.size = 4 ∧ op ≠ .fadd ∧ op.sizeOk x.size ∧ l.image.isSome ∧ s.dev.fresh.2.oneLane n
    b .image (.atomic op) 4 (atomicLane l 4 s.dev.freeCtr) = (d, y) ∧ d.Holds n y.block ∧ Dev.laneOn y (.atomic op) (((d.cmd?
    b.ring b.serial).map Cmd.ownRanges).getD []) 64 d (atomicLane l 4 s.dev.freeCtr) = (d2, l2) ∧ d2.Holds n y.block ∧ l2.image
    = none ∧ (∀ p ∈ l2.parts, p.state = .done) ∧ l2.thread = l.thread :=
  ⟨runB { devB with mem := { devB.mem with dram := devB.mem.dram.write 32768 imageBytes } },
  .atomicExchange ⟨ref0, .image, 4, [⟨31, 0, 1, 0, some ⟨32768, none, 0, 0, 0, 0, 0, 0, 0, 0, 0⟩⟩]⟩, .exchange,
  ⟨ref0, .image, 4, [⟨31, 0, 1, 0, some ⟨32768, none, 0, 0, 0, 0, 0, 0, 0, 0, 0⟩⟩]⟩,
  ⟨31, 0, 1, 0, some ⟨32768, none, 0, 0, 0, 0, 0, 0, 0, 0, 0⟩⟩, 0, blk0, _, _, _, _, by decide +kernel,
  residentOf (by decide +kernel), (fun _ h => nomatch h), by decide +kernel, by decide +kernel, by decide +kernel,
  by decide +kernel, by decide +kernel, by decide +kernel, by decide +kernel, by decide +kernel, pairEta _,
  ⟨by decide +kernel, by decide +kernel⟩, pairEta _, ⟨by decide +kernel, by decide +kernel⟩, by decide +kernel,
  by decide +kernel, by decide +kernel⟩

theorem wit_atomics_complete_4 :
    ∃ s i op x n b, atomicOf i = some (op, x) ∧ Resident s x.ref n b ∧ b.together (x.lanes.map (·.thread)) ∧ op.sizeOk x.size ∧
    x.cls ≠ .image ∧ (∀ l ∈ x.lanes, l.image = none) ∧ (∃ l ∈ x.lanes, l.addr.toNat % x.size ≠ 0) :=
  ⟨runB devB, .atomicExchange ⟨ref0, .buffer, 4, [⟨31, 2, 1, 0, none⟩]⟩, .exchange, ⟨ref0, .buffer, 4, [⟨31, 2, 1, 0, none⟩]⟩,
  0, blk0, by decide +kernel, residentOf (by decide +kernel), (by decide +kernel), by decide +kernel, by decide +kernel,
  by decide +kernel, by decide +kernel⟩

theorem wit_atomics_wrap_1 :
    ∃ op : AtomOp, ∃ size old l v, op ≠ .fadd ∧ old < 2 ^ (8 * size) ∧ op.result size old l = some v :=
  ⟨.add .increment, 4, 0xFFFFFFFF, ⟨0, 0, 0, 0, none⟩, 0, by decide +kernel, by decide +kernel, by decide +kernel⟩

theorem wit_one_exchange_wins_1 :
    ∃ size old, ∃ l m : LaneAtomic, ∃ v, m.compare = l.compare ∧ AtomOp.result .cas size old l = some v ∧ v ≠ l.compare.toNat %
    2 ^ (8 * size) :=
  ⟨4, 5, ⟨0, 0, 6, 5, none⟩, ⟨1, 0, 7, 5, none⟩, 6, by decide +kernel, by decide +kernel, by decide +kernel⟩

theorem wit_courses_compute_1 :
    ∃ s n b, ∃ m : MatArgs, ∃ fa fb, Resident s m.ref n b ∧ NumFmt.ofCode m.formatA = some fa ∧ NumFmt.ofCode m.formatB = some
    fb ∧ matrixOk m.formatA m.formatB m.blockLength ∧ b.pathRuns m.course m.active ∧ b.wholeCourse m.course m.active ∧ 3 ≤
    matrixClass m.formatA :=
  ⟨runB devB, 0, blk0, ⟨ref0, 0, (List.range 32), 7, 7, none, [], [], [], [], []⟩, _, _, residentOf (by decide +kernel),
  someOf (by decide +kernel), someOf (by decide +kernel), by decide +kernel, by decide +kernel, by decide +kernel,
  by decide +kernel⟩

theorem wit_courses_compute_2 :
    ∃ s n b, ∃ m : MatArgs, ∃ fa fb d, Resident s m.ref n b ∧ NumFmt.ofCode m.formatA = some fa ∧ NumFmt.ofCode m.formatB = some
    fb ∧ matrixOk m.formatA m.formatB m.blockLength ∧ b.pathRuns m.course m.active ∧ b.wholeCourse m.course m.active ∧
    matrixClass m.formatA < 3 ∧ d = s.dev.count 0x0003 1 (s.dev.blockAttr n b) :=
  ⟨runB devB, 0, blk0, ⟨ref0, 0, (List.range 32), 0, 0, none, [], [], [], [], []⟩, _, _, _, residentOf (by decide +kernel),
  someOf (by decide +kernel), someOf (by decide +kernel), by decide +kernel, by decide +kernel, by decide +kernel,
  by decide +kernel, rfl⟩

theorem wit_courses_compute_3 :
    ∃ s n b, ∃ m : MatArgs, ∃ fa fb, Resident s m.ref n b ∧ NumFmt.ofCode m.formatA = some fa ∧ NumFmt.ofCode m.formatB = some
    fb ∧ matrixOk m.formatA m.formatB m.blockLength ∧ b.pathRuns m.course m.active ∧ b.wholeCourse m.course m.active = false :=
  ⟨runB devB, 0, blk0, ⟨ref0, 0, [31], 10, 10, none, [], [], [], [], []⟩, _, _, residentOf (by decide +kernel),
  someOf (by decide +kernel), someOf (by decide +kernel), by decide +kernel, by decide +kernel, by decide +kernel⟩

theorem wit_courses_compute_4 :
    ∃ s n b, ∃ x : ConvArgs, ∃ src tgt mode c sr, Resident s x.ref n b ∧ NumFmt.ofCode x.source = some src ∧ NumFmt.ofCode
    x.target = some tgt ∧ Rounding.ofCode x.rounding = some mode ∧ convOk src tgt mode x.overflow x.count ∧ b.pathRuns x.course
    (x.lanes.map (·.1)) ∧ s.dev.cmd? b.ring b.serial = some c ∧ sr = ((s.dev.launchOf b).map (·.sr)).getD [] :=
  ⟨runB devB, 0, blk0, ⟨ref0, 0, [(31, [0x3F800000])], 11, 2, 1, 2, 1, 1⟩, _, _, _, launchCmd, _,
  residentOf (by decide +kernel), someOf (by decide +kernel), someOf (by decide +kernel), someOf (by decide +kernel),
  by decide +kernel, by decide +kernel, by decide +kernel, rfl⟩

theorem wit_courses_compute_5 :
    ∃ s n b, ∃ x : QuantArgs, ∃ f mode c sr vals z, Resident s x.ref n b ∧ NumFmt.ofCode x.target = some (.flt f) ∧ 2 ≤ x.target
    ∧ x.target ≤ 6 ∧ Rounding.ofCode x.rounding = some mode ∧ b.pathRuns x.course x.active ∧ b.wholeCourse x.course x.active ∧
    s.dev.cmd? b.ring b.serial = some c ∧ sr = ((s.dev.launchOf b).map (·.sr)).getD [] ∧ x.blockLength ∈ [16, 32] ∧ vals =
    (List.range 32).map (fun l => (f32Val (nth x.values l 0).toNat, draw (dispatchD c.desc).seed n (b.quadOf x.course) (srCount
    sr n (b.quadOf x.course)) l)) ∧ z = (fun v => (quantizeBlock x.target f mode v).2.map (fun e => [BitVec.ofNat 32 e,
    BitVec.ofNat 32 (quantizeBlock x.target f mode v).1])) :=
  ⟨runB devB, 0, blk0, ⟨ref0, 0, (List.range 32), 6, 32, 2, []⟩, .e2m1, _, launchCmd, _, _, _, residentOf (by decide +kernel),
  by decide +kernel, by decide +kernel, by decide +kernel, someOf (by decide +kernel), by decide +kernel, by decide +kernel,
  by decide +kernel, rfl, by decide +kernel, rfl, rfl⟩

theorem wit_courses_compute_6 :
    ∃ s n b, ∃ x : QuantArgs, ∃ f mode, Resident s x.ref n b ∧ NumFmt.ofCode x.target = some (.flt f) ∧ 2 ≤ x.target ∧ x.target
    ≤ 6 ∧ Rounding.ofCode x.rounding = some mode ∧ b.pathRuns x.course x.active ∧ b.wholeCourse x.course x.active = false ∧
    x.blockLength ∈ [16, 32] :=
  ⟨runB devB, 0, blk0, ⟨ref0, 0, [0], 6, 32, 2, []⟩, .e2m1, _, residentOf (by decide +kernel), by decide +kernel,
  by decide +kernel, by decide +kernel, someOf (by decide +kernel), by decide +kernel, by decide +kernel, by decide +kernel⟩

/-- A spring descriptor: four tiles of one row of 64 bytes from 65536 on, in two slots of the block's local store. -/
def tiles : Bytes :=
  leBytes 8 65536 ++ leBytes 4 64 ++ leBytes 2 64 ++ leBytes 2 1 ++ leBytes 8 64 ++ leBytes 8 256 ++ leBytes 4 4 ++ leBytes 4 4
    ++ leBytes 4 0 ++ leBytes 4 64 ++ leBytes 2 64 ++ leBytes 1 2 ++ List.replicate 13 0

/-- The run of that spring: tile 0 is ready, tile 1 is being fetched. -/
def tileRun : SpringRun := ⟨8, 1, 0, tiles, 0, [], [1], [0], []⟩

/-- The device with the spring 3 of the brick idle or running. -/
def devS (r : Option SpringRun) : Dev := devB.setSpring 0 3 ⟨tiles, r, false, 0⟩

theorem wit_spring_port_1 :
    ∃ s r n b k o, ∃ data : Bytes, Resident s r n b ∧ k < 4 ∧ o + data.length ≤ 64 ∧ data.length ∈ [4, 8] ∧ o % 4 = 0 :=
  ⟨runB devB, ref0, 0, blk0, 3, 56, List.replicate 8 0, residentOf (by decide +kernel), by decide +kernel, by decide +kernel,
  by decide +kernel, by decide +kernel⟩

theorem wit_spring_port_2 :
    ∃ s r n b k x, Resident s r n b ∧ k < 4 ∧ x = s.dev.spring n k ∧ x.run = none ∧ (springD x.desc).ok b.lsBytes :=
  ⟨runB (devS none), ref0, 0, blk0, 3, _, residentOf (by decide +kernel), by decide +kernel, rfl, by decide +kernel,
  by decide +kernel⟩

theorem wit_spring_port_3 :
    ∃ s r n b k x, Resident s r n b ∧ k < 4 ∧ x = s.dev.spring n k ∧ x.run = none ∧ (springD x.desc).ok b.lsBytes = false :=
  ⟨runB devB, ref0, 0, blk0, 3, _, residentOf (by decide +kernel), by decide +kernel, rfl, by decide +kernel, by decide +kernel⟩

theorem wit_spring_port_4 :
    ∃ s r n b k x y, Resident s r n b ∧ k < 4 ∧ x = s.dev.spring n k ∧ x.run = some y ∧ y.ownedBy b.bref :=
  ⟨runB (devS (some tileRun)), ref0, 0, blk0, 3, _, tileRun, residentOf (by decide +kernel), by decide +kernel, rfl,
  by decide +kernel, by decide +kernel⟩

theorem wit_spring_port_5 :
    ∃ s r n b k, ∃ mask : Word, ∃ x y go z, Resident s r n b ∧ k < 4 ∧ x = s.dev.spring n k ∧ x.run = some y ∧ y.ownedBy b.bref
    ∧ go = y.ready.filter (fun i => mask.toNat.testBit (i % (springD y.desc).slots)) ∧
    z = SpringRun.advance (y.released ++ go).length { y with ready := y.ready.filter (fun i => !go.contains i), released := y.released ++ go }
    :=
  ⟨runB (devS (some tileRun)), ref0, 0, blk0, 3, (1 : Word), _, tileRun, _, _, residentOf (by decide +kernel),
  by decide +kernel, rfl, by decide +kernel, by decide +kernel, rfl, rfl⟩

theorem wit_spring_port_6 :
    ∃ s r n b, Resident s r n b :=
  ⟨runB devB, ref0, 0, blk0, residentOf (by decide +kernel)⟩

theorem wit_spring_tiles_1 :
    ∃ s : State, ∃ n k y, s.dev.serves ∧ (s.dev.spring n k).run = some y ∧ y.next < (springD y.desc).count ∧ (y.next < (springD
    y.desc).slots ∨ y.next - (springD y.desc).slots < y.head ∨ y.released.contains (y.next - (springD y.desc).slots)) ∧
    (s.dev.ring y.ring).saving = false :=
  ⟨runB (devS (some { tileRun with released := [0], ready := [1], fetching := [] })), 0, 3, _, by decide +kernel,
  someOf (by decide +kernel), by decide +kernel, by decide +kernel, by decide +kernel⟩

theorem wit_spring_tiles_2 :
    ∃ d d1 : Dev, ∃ q : Req, ∃ x : TilePart, ∃ leaf level a bs, d.physical leaf level x.part.va.toNat = .here a ∧ d.refused
    q.part false leaf a = false ∧ d.readAt q.asker (bitsN leaf 7 6 ≠ 2) a x.part.len = (d1, .ok, bs) :=
  ⟨(runB devB).dev, _, (runB devB).dev.blockReq 0 blk0 engBrick .none, ⟨0, 0, ⟨65536, 64, [], 0, 0, .todo⟩⟩, leaf0, 1, 65536, _,
  by decide +kernel, by decide +kernel, okTriple (by decide +kernel)⟩

theorem wit_spring_tiles_3 :
    ∃ s : State, ∃ n k slot y i, s.dev.serves ∧ (s.dev.spring n k).run = some y ∧ y.fetching.find? (fun i => i % (springD
    y.desc).slots = slot) = some i ∧ (∀ x ∈ y.parts, x.tile = i → x.part.state = .done) :=
  ⟨runB (devS (some tileRun)), 0, 3, 1, tileRun, 1, by decide +kernel, by decide +kernel, by decide +kernel,
  (fun _ h => nomatch h)⟩

end Sys2Proof.Tests
end

