-- ==== Sys2Proof/Tests/Wit4.lean ====
section
/-! SUPPORT. Witnesses for the statements about rendering and composition. -/

namespace Sys2Proof.Tests

open Sys2Proof Sys2Proof.Machine

set_option maxRecDepth 4000
set_option Elab.async false

/-- A pass record: one pixel, one colour attachment that is cleared, LS1, GROW with a limit of one chunk. -/
def passRecord : Bytes :=
  leBytes 2 1 ++ leBytes 2 1 ++ [0x10, 1, 0, 0] ++ leBytes 4 1 ++ leBytes 4 5 ++ List.replicate 48 0 ++ leBytes 8 131072
    ++ List.replicate 17 0 ++ [1] ++ List.replicate 214 0

/-- A draw of no vertices, with its state block at 16384. -/
def drawRecord : Bytes := leBytes 8 (handle typKernel 1) ++ List.replicate 16 0 ++ leBytes 8 16384 ++ List.replicate 32 0

/-- A device with the pass record at 8192, the draw at 12288, a READY vertex kernel as entry 1 and a heap as entry 2. -/
def devP : Dev :=
  committed (fields { dev0 with
    mem := { dev0.mem with dram := (dev0.mem.dram.write 8192 passRecord).write 12288 drawRecord }
    sub := { dev0.sub with
      entries := [(1, ⟨0, typKernel, .live, 1, none, .kernel .ready (KRecord.mk 1 0 0 0 8 0 0 (0, 0, 0) 32 (0, 0, 0) 0 0).bytes 2 [] [] 0 [] 0⟩),
        (2, ⟨0, typMemory, .live, 2, none, .memory 1 1048576 1048576⟩)] } } [(Fld.RAS_GROW_RESERVE_reserve_chunks, 0, 8)])
    [(Fld.PAR_P_MASKS_wall_mask, 0, 1), (Fld.PAR_P_CTRL_enable, 0, 1)]

/-- A RENDER_PASS of them. -/
def renderLine : Line := desc [(0, 0x30), (16, 8192), (24, 12288), (32, 1), (40, handle typMemory 2)]

/-- A pass of that record as it begins. -/
def pass0 : PassRun := PassRun.start passRecord [drawRecord] [0] 0

/-- It stopped on its first front-end. -/
def stopped (asked : Bool) : PassRun := { pass0 with stalled := some (0, 0), asked := asked }

/-- The machine that runs a pass. -/
def passOn (p : PassRun) : State := with0 devP { cmd0 renderLine with run := .pass p }

/-- A course of the pass with one lane, and the block that runs it. -/
def course0 : Course := ⟨0, .fragment, 0, 8, [0], false, [⟨[], false⟩], [], none⟩
def fragBlk : Block := { blk0 with stage := .fragment, threads := 1 }

/-- The pass with that course, and the brick that may hold it. -/
def shading : PassRun := { pass0 with courses := [course0] }
def passB (p : PassRun) (bs : List Block) : State :=
  with0 { devP with bricks := [(0, { Brick.fresh with split := 1, ls := Store.zero, blocks := bs })] } { cmd0 renderLine with run := .pass p }

/-- The course with its fragment on pixel (0, 0), in the open unit 0. -/
def shadingFrag : PassRun :=
  { shading with
    courses := [{ course0 with frags := [⟨0, true, 0, 0, none, [(0, 0)]⟩] }]
    opened := [⟨0, 0, some [⟨0, 0, [[5]], []⟩], [], 0, 0, [], some 0, none⟩] }

theorem fstSnd {α β : Type} {o : Option (α × β)} (h : o.isSome = true) : o = some ((o.get h).1, (o.get h).2) := by simp

theorem noneIs {α β : Type} [DecidableEq β] {l : List α} {f : α → Option (β × KRecord)} {y : β}
    (h : l.all (fun k => (f k).all (fun x => decide (x.1 ≠ y))) = true) : ∀ k ∈ l, ∀ x, f k = some x → x.1 ≠ y := by
  intro k hk x hx
  have := List.all_eq_true.mp h k hk
  simpa [hx] using this

theorem wit_passes_render_1_begins :
    ∃ s src d d1 d2 c rb db raw ks, Starts s src (isOp 0x30) d c ∧ (c.run = .none ∨ c.run = .kernelWait) ∧ (∀ fe ∈ frontEnds
    (d.partWalls c.part), d.pwr.on.testBit (28 + fe)) ∧ d.cmdRead c engRaster (passD c.desc).record 320 = (d1, .ok, rb) ∧
    d1.cmdRead c engRaster (passD c.desc).drawList (64 * min (passD c.desc).count 65536) = (d2, .ok, db) ∧ raw = (List.range
    (min (passD c.desc).count 65536)).map (fun i => slice db (64 * i) 64) ∧ ks = kernelUses (raw.map drawOf) ∧ (∀ k ∈ ks, ∀ x,
    d2.kernelRec k.1 = some x → x.1 ≠ .translating) ∧ d2.passFails c.desc (passRec rb) (raw.map drawOf) = none :=
  ⟨run0 devP renderLine, src0, _, _, _, _, _, _, _, _, starts0 (by decide +kernel) (by decide +kernel), .inl rfl,
  by decide +kernel, okTriple (by decide +kernel), okTriple (by decide +kernel), rfl, rfl, noneIs (by decide +kernel),
  by decide +kernel⟩

theorem wit_passes_render_1_fails :
    ∃ s src d d1 d2 c rb db raw ks, ∃ st : Half, ∃ n : Nat, Starts s src (isOp 0x30) d c ∧ (c.run = .none ∨ c.run = .kernelWait)
    ∧ (∀ fe ∈ frontEnds (d.partWalls c.part), d.pwr.on.testBit (28 + fe)) ∧ d.cmdRead c engRaster (passD c.desc).record 320 =
    (d1, .ok, rb) ∧ d1.cmdRead c engRaster (passD c.desc).drawList (64 * min (passD c.desc).count 65536) = (d2, .ok, db) ∧ raw =
    (List.range (min (passD c.desc).count 65536)).map (fun i => slice db (64 * i) 64) ∧ ks = kernelUses (raw.map drawOf) ∧ (∀ k
    ∈ ks, ∀ x, d2.kernelRec k.1 = some x → x.1 ≠ .translating) ∧ d2.passFails c.desc (passRec rb) (raw.map drawOf) = some (st,
    n) :=
  ⟨run0 devP (desc [(0, 0x30), (16, 8192), (24, 12288), (32, 1)]), src0, _, _, _, _, _, _, _, _, _, _,
  starts0 (by decide +kernel) (by decide +kernel), .inl rfl, by decide +kernel, okTriple (by decide +kernel),
  okTriple (by decide +kernel), rfl, rfl, noneIs (by decide +kernel), fstSnd (by decide +kernel)⟩

theorem wit_passes_render_2 :
    ∃ s src d c, ∃ p : PassRun, Starts s src (isOp 0x30) d c ∧ c.run = .pass p :=
  ⟨passOn pass0, src0, (passOn pass0).dev, { cmd0 renderLine with run := .pass pass0 }, pass0, ⟨by decide +kernel, rfl⟩, rfl⟩

theorem wit_passes_render_3 :
    ∃ p : PassRun, ∃ st, p.heapWrites = [] ∧ p.writes = [] ∧ p.phase = .finish st :=
  ⟨{ pass0 with phase := .finish 0 }, 0, by decide +kernel, by decide +kernel, by decide +kernel⟩

theorem wit_passes_render_4 :
    ∃ s : State, ∃ ring serial c, ∃ p : PassRun, ∃ fe t, s.dev.serves ∧ s.dev.passOf ring serial = some (c, p) ∧ p.stalled =
    some (fe, t) ∧ p.asked = false :=
  ⟨passOn (stopped false), 8, 1, { cmd0 renderLine with run := .pass (stopped false) }, stopped false, 0, 0, by decide +kernel,
  by rfl, by decide +kernel, by decide +kernel⟩

theorem wit_passes_render_5 :
    ∃ s : State, ∃ ring serial c, ∃ p : PassRun, ∃ n fe t, ∃ y : Nat, s.dev.serves ∧ s.dev.passOf ring serial = some (c, p) ∧
    p.stalled = some (fe, t) ∧ p.asked = true ∧ s.dev.now < t + 20000 ∧ (passRec p.record).policy = 0 ∧ n = min y (min
    (s.dev.growFree c.part) ((passRec p.record).growLimit - p.granted)) ∧ n ≠ 0 :=
  ⟨passOn (stopped true), 8, 1, { cmd0 renderLine with run := .pass (stopped true) }, stopped true, _, 0, 0, 1,
  by decide +kernel, by rfl, by decide +kernel, by decide +kernel, by decide +kernel, by decide +kernel, rfl, by decide +kernel⟩

theorem wit_passes_render_6 :
    ∃ s : State, ∃ ring serial c, ∃ p : PassRun, ∃ n fe t, ∃ y : Nat, s.dev.serves ∧ s.dev.passOf ring serial = some (c, p) ∧
    p.stalled = some (fe, t) ∧ t + 20000 ≤ s.dev.now ∧ (passRec p.record).policy = 0 ∧ n = min y (min (s.dev.growFree c.part)
    ((passRec p.record).growLimit - p.granted)) ∧ n ≠ 0 :=
  ⟨on { (passOn (stopped true)).dev with now := 20000 }, 8, 1, { cmd0 renderLine with run := .pass (stopped true) },
  stopped true, _, 0, 0, 1, by decide +kernel, by rfl, by decide +kernel, by decide +kernel, by decide +kernel, rfl,
  by decide +kernel⟩

theorem wit_passes_render_7 :
    ∃ s : State, ∃ ring serial c, ∃ p : PassRun, ∃ fe t d, s.dev.serves ∧ s.dev.passOf ring serial = some (c, p) ∧ p.stalled =
    some (fe, t) ∧ p.asked = true ∧ d = s.dev.advanceTo (t + 20000) :=
  ⟨passOn (stopped true), 8, 1, { cmd0 renderLine with run := .pass (stopped true) }, stopped true, 0, 0, _, by decide +kernel,
  by rfl, by decide +kernel, by decide +kernel, rfl⟩

theorem wit_dispatches_run_4 :
    ∃ s : State, ∃ ref : BlockRef, ∃ n c p x d1, s.dev.serves ∧ s.dev.cmd? ref.ring ref.serial = some c ∧ c.run = .pass p ∧
    c.phase = .started ∧ p.courses.find? (fun x => x.no = ref.block && !x.placed) = some x ∧ n ∈ x.bricks ∧ s.dev.roomOn
    ⟨x.lanes.length, x.regs, 0, p.split⟩ n ∧ s.dev.outranked c [n] = false ∧ s.dev.cleanPonds (if (s.dev.brick n).split ≠
    p.split then [n] else []) = (d1, true) :=
  ⟨passB shading [], ref0, 0, { cmd0 renderLine with run := .pass shading }, shading, course0, _, by decide +kernel,
  by decide +kernel, rfl, by decide +kernel, by decide +kernel, by decide +kernel, by decide +kernel, by decide +kernel,
  truePair (by decide +kernel)⟩

theorem wit_dispatches_run_10 :
    ∃ s n b, ∃ x : PathAccess, ∃ l : LaneAccess, ∃ v, Resident s x.ref n b ∧ x.lanes = [l] ∧ b.runs l.thread ∧ x.cls =
    .inputAttachment ∧ x.evict = none ∧ x.store = false ∧ s.dev.attachmentOf b l.thread l.addr.toNat ((l.image.map
    (·.sample)).getD 0) = some v :=
  ⟨passB shadingFrag [fragBlk], 0, fragBlk, ⟨ref0, .inputAttachment, false, 4, [⟨0, 0, [], none⟩], none⟩, ⟨0, 0, [], none⟩, _,
  residentOf (by decide +kernel), by decide +kernel, by decide +kernel, by decide +kernel, by decide +kernel,
  by decide +kernel, someOf (by decide +kernel)⟩

theorem wit_barriers_and_exits_5 :
    ∃ c : Cmd, ∃ p : PassRun, ∃ b : Block, ∃ x, c.run = .pass p ∧ x ∈ p.courses ∧ x.no = b.index :=
  ⟨{ cmd0 renderLine with run := .pass shading }, shading, fragBlk, course0, rfl, by decide +kernel, by decide +kernel⟩

/-- A pose packet of slot 63 at a time: the identity orientation at the origin. -/
def posePacket0 (time : Nat) : Bytes :=
  let b := [0x50, 0x53, 1, 63, 0, 0, 0, 0] ++ leBytes 8 time ++ List.replicate 12 0 ++ leBytes 4 0x3F800000 ++ List.replicate 28 0
  b ++ leBytes 4 (crc32 b)

/-- A layer of 1 × 1 pixel over the whole of its image at 32768. -/
def layer0 : Bytes :=
  leBytes 8 32768 ++ List.replicate 44 0 ++ leBytes 4 0x3F800000 ++ List.replicate 4 0 ++ leBytes 4 0x3F800000 ++ List.replicate 4 0
    ++ [1, 0, 1, 0] ++ leBytes 4 0x3F800000 ++ List.replicate 52 0

/-- A linear image of one pixel at 65536. -/
def image0 : Bytes := [0, 0, 1, 0] ++ List.replicate 16 0 ++ [2, 3, 0, 0, 0, 1, 0, 0, 0, 0, 0, 0]

/-- A device with an output stream 63 of 16 × 16 pixels in one slice every tick, staged commits of it, a pose packet at 8192, and
the layer at 12288. -/
def devC : Dev :=
  ((committed (fields { dev0 with
      mem := { dev0.mem with dram := ((dev0.mem.dram.write 8192 (posePacket0 5)).write 12288 layer0).write 32768 image0 }
      fab := { dev0.fab with ports := [(7, { link0 with modeActive := 0 })] } }
    [(Fld.CMP_POSE_UDP_udp_port, 0, 9000)])
    [(Fld.CMP_S_CTRL_enable, 63, 1), (Fld.CMP_S_CTRL_asid, 63, 1), (Fld.CMP_S_CTRL_layer_count, 63, 1), (Fld.CMP_S_SIZE_width, 63, 16),
      (Fld.CMP_S_SIZE_height, 63, 16), (Fld.CMP_S_SLICE_slice_rows, 63, 16), (Fld.CMP_S_SLICE_slice_ticks, 63, 1),
      (Fld.CMP_S_FRAME_frame_period, 63, 1), (Fld.CMP_S_LEAD_lead_ns, 63, 5000)]).stage (.outgeom 63)).stage (.cmatrix 63)

/-- The slice of that stream whose due edge has come. -/
def slice0 : SliceRun := ⟨0, 0, 1, none, true, false, 0, none, none, none, some (1000000, 1), [], []⟩

theorem wit_poses_and_layers_1 :
    ∃ s src d d1 c p, Starts s src (isOp 0x38) d c ∧ reservedZero c.desc [(16, 63, 0)] ∧ (posePacketVa c.desc).toNat % 64 = 0 ∧
    d.cmdRead c engOther (posePacketVa c.desc) 64 = (d1, .ok, p) ∧ poseRejected p = false ∧ NMap.get? d1.cmp.poses (poseOf p).1
    = none :=
  ⟨run0 devC (desc [(0, 0x38), (16, 8192)]), src0, _, _, _, _, starts0 (by decide +kernel) (by decide +kernel),
  by decide +kernel, by decide +kernel, okTriple (by decide +kernel), by decide +kernel, by decide +kernel⟩

theorem wit_poses_and_layers_2 :
    ∃ s : State, ∃ port, ∃ p : Bytes, ∃ o, s.dev.serves ∧ port < 8 ∧ (s.dev.port port).powered ∧ (s.dev.port port).modeActive =
    0 ∧ s.dev.fld Fld.CMP_POSE_UDP_udp_port 0 ≠ 0 ∧ poseRejected p = false ∧ NMap.get? s.dev.leaveIdle.cmp.poses (poseOf p).1 =
    some o ∧ o.acceptedAt ≠ s.dev.leaveIdle.now :=
  ⟨on { devC with now := 9, cmp := { devC.cmp with poses := [(63, ⟨⟨5, [0, 0, 0, 0x3F800000], [0, 0, 0]⟩, 8, none⟩)] } }, 7,
  posePacket0 6, ⟨⟨5, [0, 0, 0, 0x3F800000], [0, 0, 0]⟩, 8, none⟩, by decide +kernel, by decide +kernel, by decide +kernel,
  by decide +kernel, by decide +kernel, by decide +kernel, by decide +kernel, by decide +kernel⟩

theorem wit_poses_and_layers_3 :
    ∃ s src d c, Starts s src (isOp 0x39) d c ∧ d.pubOk c ∧ pubClear c.desc :=
  ⟨run0 devC (desc [(0, 0x39), (24, 63), (25, 16), (26, 1)]), src0, _, _, starts0 (by decide +kernel) (by decide +kernel),
  by decide +kernel, by decide +kernel⟩

theorem wit_poses_and_layers_4 :
    ∃ s src d d1 d2 c b ci, Starts s src (isOp 0x39) d c ∧ d.pubOk c ∧ pubClear c.desc = false ∧ d.cmdRead c engOther (pubLayer
    c.desc) 128 = (d1, .ok, b) ∧ layerOk b (d1.geo (pubStream c.desc)).w (d1.geo (pubStream c.desc)).h ∧ d1.cmdRead c engOther
    (layerD b).color 32 = (d2, .ok, ci) ∧ colorOk ci ∧ (layerD b).warp ≠ 2 :=
  ⟨run0 devC (desc [(0, 0x39), (16, 12288), (24, 63)]), src0, _, _, _, _, _, _, starts0 (by decide +kernel) (by decide +kernel),
  by decide +kernel, by decide +kernel, okTriple (by decide +kernel), by decide +kernel, okTriple (by decide +kernel),
  by decide +kernel, by decide +kernel⟩

theorem wit_slices_and_commits_1 :
    ∃ s : State, ∃ n d1 t due, s.dev.serves ∧ n < 64 ∧ d1 = (s.dev.outgeomEffect n).cmatrixEffect n ∧ d1.latchAt n (d1.geo n) =
    some (t, due) :=
  ⟨on devC, 63, _, 995000, 1, by decide +kernel, by decide +kernel, rfl, by decide +kernel⟩

theorem wit_slices_and_commits_2 :
    ∃ s : State, ∃ n r rest t tick d, s.dev.serves ∧ (s.dev.stream n).due = r :: rest ∧ r.edge = some (t, tick) ∧
    d = s.dev.modStream n (fun x => { x with due := rest }) :=
  ⟨on (devC.setStream 63 { CmpStream.idle with due := [slice0] }), 63, slice0, [], 1000000, 1, _, by decide +kernel,
  by decide +kernel, by decide +kernel, rfl⟩

theorem wit_slices_and_commits_3 :
    ∃ s : State, ∃ src : RegSource, ∃ n d, s.dev.serves ∧ n < 64 ∧ d = s.dev.touch src Reg.CMP_S_COMMIT.off ∧ d.mayWrite src :=
  ⟨on devC, .mgmt, 63, _, by decide +kernel, by decide +kernel, rfl, by decide +kernel⟩

theorem wit_slices_and_commits_4 :
    ∃ s : State, ∃ src : RegSource, ∃ n d, s.dev.serves ∧ n < 64 ∧ d = s.dev.touch src Reg.CMP_S_COMMIT.off ∧ d.mayWrite src :=
  ⟨on devC, .mgmt, 63, _, by decide +kernel, by decide +kernel, rfl, by decide +kernel⟩

theorem wit_slices_and_commits_5 :
    ∃ s : State, ∃ n t due, s.dev.serves ∧ n < 64 ∧ (s.dev.staged? (.outgeom n)).isSome ∧ (s.dev.stream n).next = 0 ∧
    s.dev.latchAt n (s.dev.awaitGeo n) = some (t, due) ∧ (s.dev.stream n).outgeomAt < t :=
  ⟨on devC, 63, 995000, 1, by decide +kernel, by decide +kernel, by decide +kernel, by decide +kernel, by decide +kernel,
  by decide +kernel⟩

theorem wit_slices_and_commits_6 :
    ∃ s : State, ∃ n t due, s.dev.serves ∧ n < 64 ∧ (s.dev.staged? (.cmatrix n)).isSome ∧ s.dev.latchAt n (s.dev.geo n) = some
    (t, due) ∧ (s.dev.stream n).cmatrixAt < t :=
  ⟨on devC, 63, 995000, 1, by decide +kernel, by decide +kernel, by decide +kernel, by decide +kernel, by decide +kernel⟩

end Sys2Proof.Tests
end

