-- ==== Sys2Proof/Tests/Wit5.lean ====
section
/-! SUPPORT. Witnesses for the statements about memory, translation, compression and sequences. -/

namespace Sys2Proof.Tests

open Sys2Proof Sys2Proof.Machine

set_option maxRecDepth 4000
set_option Elab.async false

/-- A fault record that no stream waits on. -/
def fault0 : FaultRec := ⟨0x80000000, 1, 1, 1, 0, 0, engOther, 0, 0xFFFF, 0, false, .none⟩

/-- A fabric operation that used a translation of page 0. -/
def farOp : FabOp := ⟨0, 0, 8, 1, 0, 1, 0, 0, 2, 0, 64, some 1, 4096, .cmd, [], 0, false, false⟩

/-- A device with tables at 131072 and 196608 that map the second GiB, a compressible window of the second GiB with one held
block, the line of 12288 in the lake, an open and a closed fault batch, memory for streams and a step list, and a pool of four pages for partition 0. -/
def devM : Dev :=
  committed (fields { dev0 with
    mem := { dev0.mem with
      dram := ((dev0.mem.dram.write 131072 (leBytes 8 0x30001)).write 196616 (leBytes 8 leaf0.toNat)).write 8192
        ([0, 0, 0, 0] ++ leBytes 4 1 ++ List.replicate 8 0)
      lake := (192, ⟨[1, 0, 0, 0xFF, 0xFF] ++ List.replicate 59 0, true, 0, 0⟩) ::
        (List.range 4).map (fun i => (0x1000000 + i, ⟨List.replicate 64 0, true, 0, 0⟩)) }
    sub := { dev0.sub with entries := [(1, ⟨0, typMemory, .live, 2, none, .memory 1 0x100000 65536⟩)], fresh := 2 }
    xlt := { dev0.xlt with spaces := [(1, { AsSt.initial with
      batch := 2, prod := 2, batches := [⟨1, [fault0], true, false, 0⟩, ⟨2, [fault0], false, false, 0⟩] })] } }
    [(Fld.XLT_AS_ROOT_root, 1, 2), (Fld.XLT_AS_CTRL_fring_log2, 1, 3), (Fld.CPR_CWIN_size_gib, 0, 1), (Fld.CPR_CWIN_base_gib, 0, 1),
      (Fld.SEQ_P_GUEST_MAX_guest_max, 0, 1), (Fld.FAB_STATE_side, 0, 1), (Fld.CPR_SIDE_BASE_side_base, 0, 0x4000)])
    [(Fld.SEQ_P_CTRL_enable, 0, 1), (Fld.SEQ_P_CTRL_max_rows, 0, 1), (Fld.SEQ_P_TOKENS_row_tokens, 0, 16), (Fld.SEQ_P_SEQS_seq_count, 0, 1),
      (Fld.SEQ_P_PAGES_pages, 0, 4), (Fld.SEQ_P_BASE_base, 0, 0x2000), (Fld.SEQ_P_LIST_base, 0, 0x3000)]

/-- A maintenance command and an invalidation of page 0 of space 1. -/
def maintLine (op length : Nat) : Line := desc [(0, 0x40), (16, 4096), (24, length), (32, op)]

/-- An invalidation of page 0 of space 1. -/
def inval0 : Inval := ⟨8, 1, 1, 0, 4096, 0, [(0, 0)]⟩

/-- The device with that invalidation running and a transfer that it waits for. -/
def devI : Dev := { devM with xlt := { devM.xlt with running := some inval0 }, fab := { devM.fab with ops := [farOp] } }

/-- A decompression of the five bytes of an empty stored block at 12288. -/
def streamLine : Line :=
  desc [(0, 0x50), (16, 12288), (24, 16384), (32, 5), (36, 64), (40, handle typMemory 1), (48, 20480), (56, 1)]

/-- A STREAM_CODEC command of a ring, waiting or running. -/
def job (serial : Wide) (running : Bool) : Cmd := { cmd0 streamLine with serial := serial, run := .stream running }

/-- A device whose eight job slots are taken. -/
def devJ : Dev := devM.withCmds (cmd0 streamLine :: (List.range 8).map (fun n => job (BitVec.ofNat 64 (n + 2)) true))

theorem wit_maintenance_runs_1_empty :
    ∃ s src d c i, i ∈ [Instr.maintainClean src, .maintainInvalidate src, .maintainCleanInvalidate src] ∧ Starts s src (fun l =>
    isOp 0x40 l && (match i with
      | .maintainClean _ => mntOp l = 0 || mntOp l = 3
      | .maintainInvalidate _ => mntOp l = 1
      | _ => mntOp l = 2)) d c ∧ c.run = .none ∧ mntOp c.desc ≠ 3 ∧ reservedZero c.desc mntFields ∧ rangeFits c.desc ∧ mntLength
    c.desc = 0 :=
  ⟨run0 devM (maintLine 2 0), src0, _, _, .maintainCleanInvalidate src0, by decide +kernel,
  starts0 (by decide +kernel) (by decide +kernel), by decide +kernel, by decide +kernel, by decide +kernel, by decide +kernel,
  by decide +kernel⟩

theorem wit_maintenance_runs_1 :
    ∃ s src d c i, i ∈ [Instr.maintainClean src, .maintainInvalidate src, .maintainCleanInvalidate src] ∧ Starts s src (fun l =>
    isOp 0x40 l && (match i with
      | .maintainClean _ => mntOp l = 0 || mntOp l = 3
      | .maintainInvalidate _ => mntOp l = 1
      | _ => mntOp l = 2)) d c ∧ c.run = .none ∧ mntOp c.desc ≠ 3 ∧ reservedZero c.desc mntFields ∧ rangeFits c.desc ∧ mntLength
    c.desc ≠ 0 ∧ (d.maintQueue 0).length < 17 ∧ (d.maintQueue 1).length < 17 :=
  ⟨run0 devM (maintLine 1 1), src0, _, _, .maintainInvalidate src0, by decide +kernel,
  starts0 (by decide +kernel) (by decide +kernel), by decide +kernel, by decide +kernel, by decide +kernel, by decide +kernel,
  by decide +kernel, by decide +kernel, by decide +kernel⟩

theorem wit_maintenance_runs_2 :
    ∃ s : State, ∃ die o rest c left ps d1 d, s.dev.serves ∧ s.dev.maintQueue die = o :: rest ∧ s.dev.cmd? o.ring o.serial =
    some c ∧ c.run = .maintain left ∧ s.dev.dramGate = .ok ∧ ps = (s.dev.mappedPages c.asid (mntBase c.desc).toNat ((mntBase
    c.desc).toNat + (mntLength c.desc).toNat)).map MapPage.widen ∧ d1 = s.dev.maintainDie c die (mntOp c.desc) (mntPondOnly
    c.desc) ps ∧ d = d1.setMaint die rest :=
  ⟨with0 { devM with eng := { devM.eng with maintQueue := [(1, [⟨8, 1⟩])] } } { cmd0 (maintLine 0 64) with run := .maintain [1] },
  1, ⟨8, 1⟩, [], { cmd0 (maintLine 0 64) with run := .maintain [1] }, [1], _, _, _, by decide +kernel, by decide +kernel,
  by decide +kernel, by decide +kernel, by decide +kernel, rfl, rfl, rfl⟩

theorem wit_invalidations_run_1 :
    ∃ s src d c, Starts s src (isOp 0x49) d c ∧ c.run = .none ∧ reservedZero c.desc invFields ∧ d.xlt.queue.length < 32 ∧
    (invAll c.desc ∨ ((invBase c.desc).toNat + (invLength c.desc).toNat ≤ 2 ^ 52 ∧ (invLength c.desc).toNat ≠ 0)) :=
  ⟨run0 devM (desc [(0, 0x49), (16, 1), (24, 2 ^ 52 - 65536), (32, 65536)]), src0, _, _,
  starts0 (by decide +kernel) (by decide +kernel), by decide +kernel, by decide +kernel, by decide +kernel, by decide +kernel⟩

theorem wit_invalidations_run_2 :
    ∃ s : State, ∃ v rest w, s.dev.serves ∧ s.dev.xlt.running = none ∧ s.dev.xlt.queue = v :: rest ∧ w = s.dev.widenRange v :=
  ⟨on { devM with xlt := { devM.xlt with queue := [inval0] } }, inval0, [], _, by decide +kernel, by decide +kernel,
  by decide +kernel, rfl⟩

theorem wit_invalidations_run_3 :
    ∃ s : State, ∃ v d ops, s.dev.serves ∧ s.dev.xlt.running = some v ∧ d = s.dev.advanceTo (v.start + s.dev.fld
    Fld.XLT_INV_TIMEOUT_timeout_ns 0) ∧ ops = d.oldOps v :=
  ⟨on devI, inval0, _, _, by decide +kernel, by decide +kernel, rfl, rfl⟩

theorem wit_invalidations_run_4 :
    ∃ s : State, ∃ v, s.dev.serves ∧ s.dev.xlt.running = some v ∧ s.dev.oldOps v = [] :=
  ⟨on { devI with fab := devM.fab }, inval0, by decide +kernel, by decide +kernel, by decide +kernel⟩

theorem wit_faults_are_served_1 :
    ∃ s : State, ∃ asid part, ∃ va : Wide, ∃ w a e : Bool, ∃ d1 lf l, s.dev.serves ∧ bitsN va 63 52 = 0 ∧ s.dev.fld
    Fld.XLT_AS_CTRL_enable asid ≠ 0 ∧ s.dev.cached? asid va.toNat = none ∧ s.dev.walk ⟨some part, none, none⟩ asid va.toNat =
    (d1, .leaf lf l) ∧ leafAllows (some part) (accessOf w a e) lf :=
  ⟨on devM, 1, 0, 0x40000000, true, true, false, _, leaf0, 1, by decide +kernel, by decide +kernel, by decide +kernel,
  by decide +kernel, okPair (by decide +kernel), by decide +kernel⟩

theorem wit_faults_are_served_2 :
    ∃ s : State, ∃ asid part, ∃ va : Wide, ∃ d1 k l, s.dev.serves ∧ bitsN va 63 52 = 0 ∧ s.dev.fld Fld.XLT_AS_CTRL_enable asid ≠
    0 ∧ s.dev.cached? asid va.toNat = none ∧ s.dev.walk ⟨some part, none, none⟩ asid va.toNat = (d1, .fault k l) :=
  ⟨on devM, 1, 0, 0x80000000, _, kindNotMapped, 1, by decide +kernel, by decide +kernel, by decide +kernel, by decide +kernel,
  okPair (by decide +kernel)⟩

theorem wit_faults_are_served_3 :
    ∃ s : State, ∃ asid b, s.dev.serves ∧ (s.dev.space asid).open? = some b :=
  ⟨on devM, 1, ⟨2, [fault0], false, false, 0⟩, by decide +kernel, by decide +kernel⟩

theorem wit_faults_are_served_4 :
    ∃ s : State, ∃ asid r, s.dev.serves ∧ (s.dev.space asid).waiting = [r] ∧ s.dev.streamWaits r ∧ s.dev.batchRoom asid :=
  ⟨on (devM.setSpace 1 { devM.space 1 with waiting := [fault0] }), 1, fault0, by decide +kernel, by decide +kernel,
  by decide +kernel, by decide +kernel⟩

theorem wit_faults_are_served_5 :
    ∃ s src d c asid no b failed again d0 d1 r d2, Starts s src (isOp 0x48) d c ∧ asid = frsAsid c.desc ∧ no = frsBatch c.desc ∧
    (d.space asid).batches.find? (fun b => b.no = no && b.closed && !b.resumed) = some b ∧ reservedZero c.desc frsFields ∧
    failed = (b.recs.zipIdx.filter (fun e => frsFails c.desc e.2)).map (·.1) ∧ again = (b.recs.zipIdx.filter (fun e => !frsFails
    c.desc e.2)).map (·.1) ∧ d0 = d.dropRecordPages asid b.recs ∧ r = Dev.replayAll asid no failed (d0, s.nv) again ∧ d1 =
    r.1.countRefaults d0 asid no again ∧
    d2 = failed.foldl (fun d f => d.failRecord f) (d1.setSpace asid { d1.space asid with batches := (d1.space asid).batches.map (fun x => if x.no = no then { x with recs := b.recs, resumed := true } else x) })
    :=
  ⟨run0 devM (desc [(0, 0x48), (16, 1), (20, 1), (32, 1)]), src0, _, _, _, _, ⟨1, [fault0], true, false, 0⟩, _, _, _, _, _, _,
  starts0 (by decide +kernel) (by decide +kernel), rfl, rfl, by decide +kernel, by decide +kernel, rfl, rfl, rfl, rfl, rfl, rfl⟩

theorem wit_stream_jobs_run_1 :
    ∃ s src d d1 d2 d3 d4 d5 d6 d7 c x i sd o y bs w w1 w2 w3, i ∈ [Instr.streamCodecCompress src, .streamCodecDecompress src] ∧
    Starts s src (fun l => isOp 0x50 l && (match i with
      | .streamCodecCompress _ => !(streamD l).decompress
      | _ => (streamD l).decompress)) d c ∧ c.run = .none ∧ x = streamD c.desc ∧ streamEncodings c.desc ∧ x.stateBytes ≤
    d.memLength x.entry ∧ x.resume = false ∧ d.jobsRunning < 8 ∧ d.jobsWaiting = 0 ∧ d.pwr.on.testBit 31 ∧
    sd = { StreamSt.start (d.streamPlace c) x.kind with resumable := false } ∧ Dev.cmdWrites (d.stateCmd c).1 engCompression
    (d.stateWrites c sd true).1 (d.stateWrites c sd true).2 = (d1, .ok, w) ∧ d2 = ((d1.setStreamSt sd).freshInput c.ring
    c.serial).setRun c.ring c.serial (.stream true) ∧ d2.cmd? c.ring c.serial = some y ∧ y.desc = c.desc ∧ d2.cmdRead y
    engCompression x.src x.srcLen = (d3, .ok, bs) ∧ o = (if x.decompress then decompressJob x (d3.streamSt (d3.streamPlace y)
    x.kind []) bs else compressJob x (d3.streamSt (d3.streamPlace y) x.kind []) bs) ∧ d4 = ((((d3.setStreamSt o.st).bump
    Fld.CPR_STREAM_IN_count 0 o.consumed).bump Fld.CPR_STREAM_OUT_count 0 o.out.length).count 0x0070 o.consumed (y.attr
    none)).count 0x0071 o.out.length (y.attr none) ∧ Dev.cmdWrites y engCompression (d4.stateWrites y o.st false).1 (if
    o.out.isEmpty then [] else [⟨x.dst, o.out, false⟩]) = (d5, .ok, w1) ∧ Dev.cmdWrites (d5.stateCmd y).1 engCompression d5
    (d4.stateWrites y o.st false).2 = (d6, .ok, w2) ∧ Dev.cmdWrites y engCompression d6 [⟨x.result, resultRecord o, false⟩] =
    (d7, .ok, w3) :=
  ⟨run0 devM streamLine, src0, _, _, _, _, _, _, _, _, _, _, .streamCodecDecompress src0, _, _,
  { cmd0 streamLine with run := .stream true }, _, _, _, _, _, by decide +kernel,
  starts0 (by decide +kernel) (by decide +kernel), by decide +kernel, rfl, by decide +kernel, by decide +kernel,
  by decide +kernel, by decide +kernel, by decide +kernel, by decide +kernel, rfl, okTriple (by decide +kernel), rfl,
  by decide +kernel, by decide +kernel, okTriple (by decide +kernel), rfl, rfl, okTriple (by decide +kernel),
  okTriple (by decide +kernel), okTriple (by decide +kernel)⟩

/-- Jobs that resume a stream, with the header of a whole stream in the lake's line of their state object. -/
def resumeLine : Line := desc [(0, 0x50), (16, 12288), (24, 16384), (32, 5), (36, 64), (40, handle typMemory 1), (48, 20480), (56, 9)]

def devSt : Dev :=
  { devM with mem := { devM.mem with
      lake := (192, ⟨[1, 0, 0, 0xFF, 0xFF] ++ List.replicate 59 0, true, 0, 0⟩) :: (0x4000, ⟨stateHeader 1 1 0 0 0, true, 0, 0⟩) :: devM.mem.lake.drop 1 } }

theorem wit_stream_jobs_run_2_encodings :
    ∃ s src d c i, i ∈ [Instr.streamCodecCompress src, .streamCodecDecompress src] ∧ Starts s src (fun l => isOp 0x50 l &&
    (match i with
      | .streamCodecCompress _ => !(streamD l).decompress
      | _ => (streamD l).decompress)) d c ∧ c.run = .none ∧ streamEncodings c.desc = false :=
  ⟨run0 devM (desc [(0, 0x50), (56, 1), (57, 255)]), src0, _, _, .streamCodecDecompress src0, by decide +kernel,
  starts0 (by decide +kernel) (by decide +kernel), by decide +kernel, by decide +kernel⟩

theorem wit_stream_jobs_run_2_state :
    ∃ s src d c i, i ∈ [Instr.streamCodecCompress src, .streamCodecDecompress src] ∧ Starts s src (fun l => isOp 0x50 l &&
    (match i with
      | .streamCodecCompress _ => !(streamD l).decompress
      | _ => (streamD l).decompress)) d c ∧ c.run = .none ∧ streamEncodings c.desc ∧ d.memLength (streamD c.desc).entry <
    (streamD c.desc).stateBytes :=
  ⟨run0 devM (desc [(0, 0x50), (16, 12288), (24, 16384), (32, 5), (36, 64), (40, handle typMemory 9), (48, 20480), (56, 1)]),
  src0, _, _, .streamCodecDecompress src0, by decide +kernel, starts0 (by decide +kernel) (by decide +kernel),
  by decide +kernel, by decide +kernel, by decide +kernel⟩

theorem wit_stream_jobs_run_2_not_resumable :
    ∃ s src d c i, ∃ d1 : Dev, ∃ h : Bytes, i ∈ [Instr.streamCodecCompress src, .streamCodecDecompress src] ∧ Starts s src (fun
    l => isOp 0x50 l && (match i with
      | .streamCodecCompress _ => !(streamD l).decompress
      | _ => (streamD l).decompress)) d c ∧ c.run = .none ∧ streamEncodings c.desc ∧ (streamD c.desc).stateBytes ≤ d.memLength
    (streamD c.desc).entry ∧ (streamD c.desc).resume ∧ d.cmdRead (d.stateCmd c).1 engCompression (d.stateCmd c).2 64 = (d1, .ok,
    h) ∧ d1.resumeOk (streamD c.desc) (d1.streamPlace c) h = false :=
  ⟨run0 devM resumeLine, src0, _, _, .streamCodecDecompress src0, _, _, by decide +kernel,
  starts0 (by decide +kernel) (by decide +kernel), by decide +kernel, by decide +kernel, by decide +kernel, by decide +kernel,
  okTriple (by decide +kernel), by decide +kernel⟩

theorem wit_stream_jobs_run_2_resumed :
    ∃ s src d c i, ∃ d1 : Dev, ∃ h : Bytes, i ∈ [Instr.streamCodecCompress src, .streamCodecDecompress src] ∧ Starts s src (fun
    l => isOp 0x50 l && (match i with
      | .streamCodecCompress _ => !(streamD l).decompress
      | _ => (streamD l).decompress)) d c ∧ c.run = .none ∧ streamEncodings c.desc ∧ (streamD c.desc).stateBytes ≤ d.memLength
    (streamD c.desc).entry ∧ (streamD c.desc).resume ∧ d.cmdRead (d.stateCmd c).1 engCompression (d.stateCmd c).2 64 = (d1, .ok,
    h) ∧ d1.resumeOk (streamD c.desc) (d1.streamPlace c) h ∧ d1.jobsRunning < 8 ∧ d1.jobsWaiting = 0 ∧ d1.pwr.on.testBit 31 :=
  ⟨run0 devSt resumeLine, src0, _, _, .streamCodecDecompress src0, _, _, by decide +kernel,
  starts0 (by decide +kernel) (by decide +kernel), by decide +kernel, by decide +kernel, by decide +kernel, by decide +kernel,
  okTriple (by decide +kernel), by decide +kernel, by decide +kernel, by decide +kernel, by decide +kernel⟩

theorem wit_stream_jobs_run_2_waits :
    ∃ s src d c i, i ∈ [Instr.streamCodecCompress src, .streamCodecDecompress src] ∧ Starts s src (fun l => isOp 0x50 l &&
    (match i with
      | .streamCodecCompress _ => !(streamD l).decompress
      | _ => (streamD l).decompress)) d c ∧ c.run = .none ∧ streamEncodings c.desc ∧ (streamD c.desc).stateBytes ≤ d.memLength
    (streamD c.desc).entry ∧ (streamD c.desc).resume = false ∧ 8 ≤ d.jobsRunning ∧ d.jobsWaiting < 64 :=
  ⟨on devJ, src0, devJ, cmd0 streamLine, .streamCodecDecompress src0, by decide +kernel, ⟨by decide +kernel, by decide +kernel⟩,
  by decide +kernel, by decide +kernel, by decide +kernel, by decide +kernel, by decide +kernel, by decide +kernel⟩

theorem wit_stream_jobs_run_3 :
    ∃ s : State, ∃ c, s.dev.serves ∧ s.dev.sub.cmds.find? Cmd.jobWaits = some c ∧ s.dev.jobsRunning < 8 ∧ c.faulted = false ∧
    s.dev.pwr.on.testBit 31 :=
  ⟨on (devM.withCmds [job 1 true, job 2 false]), job 2 false, by decide +kernel, by decide +kernel, by decide +kernel,
  by decide +kernel, by decide +kernel⟩

theorem wit_compressed_blocks_1 :
    ∃ s : State, ∃ a, s.dev.serves ∧ s.dev.dramGate = .ok ∧ s.dev.inCwin a ∧ (NMap.get? s.dev.mem.lake (a / 256 * 4)).isSome :=
  ⟨on devM, 0x400000FF, by decide +kernel, by decide +kernel, by decide +kernel, by decide +kernel⟩

theorem wit_compressed_blocks_2 :
    ∃ s : State, ∃ a, ∃ bs : Bytes, ∃ target : Option Nat, s.dev.serves ∧ s.dev.dramGate = .ok ∧ s.dev.inCwin a ∧ a % 256 +
    bs.length ≤ 256 ∧ NMap.get? s.dev.mem.lake (a / 256 * 4) = none ∧ (∀ t, target = some t → t ≤ 2) :=
  ⟨on devM, 0x400001FF, [1], some 2, by decide +kernel, by decide +kernel, by decide +kernel, by decide +kernel,
  by decide +kernel, (by intro t h; cases h; decide)⟩

theorem wit_compressed_blocks_3 :
    ∃ s src d c, Starts s src (isOp 0x51) d c ∧ mntOp c.desc ≠ 3 ∧ reservedZero c.desc recodeFields ∧ rangeFits c.desc ∧
    mntLength c.desc ≠ 0 ∧ d.dramGate = .ok :=
  ⟨run0 devM (desc [(0, 0x51), (16, 0x40000000), (24, 256), (32, 2)]), src0, _, _,
  starts0 (by decide +kernel) (by decide +kernel), by decide +kernel, by decide +kernel, by decide +kernel, by decide +kernel,
  by decide +kernel⟩

theorem wit_steps_commit_1 :
    ∃ s src d d1 d2 d3 c bs list r r2 r3, Starts s src (isOp 0x58) d c ∧ c.run = .none ∧ d.stepOk c ∧ (d.sub.cmds.takeWhile (fun
    x => !(x.ring = c.ring && x.serial = c.serial))).any (fun x => x.part = c.part && x.opcode = 0x58 && x.phase ≠ .ended) =
    false ∧ d.sub.cmds.any (fun x => x.steps c.part) = false ∧ (if stepCount c.desc = 0 then (d, Res.ok, []) else d.cmdRead c
    engSequence (stepList c.desc) (16 * stepCount c.desc)) = (d1, .ok, bs) ∧ list = (List.range (stepCount c.desc)).map (fun i
    => slice bs (16 * i) 16) ∧
    r = StepRun.depart1 { list := list, statuses := entStatuses (d1.poolCfg c.part) (d1.seq.ents.filter (fun e => e.2.pool = c.part)) [] list, events := [], ents := d1.seq.ents.filter (fun e => e.2.pool = c.part), pool := d1.pool c.part, grow := [], suspended := [], joined := [], cands := [], moving := none, sent := 0, newPages := [], failed := false, formingSince := none, phase := .growth } (d1.poolCfg c.part)
    ∧ d1.dramGate = .ok ∧ (if r.phase = .growth then Dev.stepGrow c (d1.poolCfg c.part) (r.ents.length + r.list.length +
    r.cands.length + 2) d1 r else (d1, r, true)) = (d2, r2, true) ∧ Dev.stepAdmit c (d1.poolCfg c.part) (r2.cands.length + 1) d2
    r2 = (d3, r3, true) :=
  ⟨run0 devM (desc [(0, 0x58), (16, 8192), (24, 1)]), src0, _, _, _, _, _, _, _, _, _, _,
  starts0 (by decide +kernel) (by decide +kernel), by decide +kernel, by decide +kernel, by decide +kernel, by decide +kernel,
  okTriple (by decide +kernel), rfl, rfl, by decide +kernel, trueTriple (by decide +kernel), trueTriple (by decide +kernel)⟩

/-- A STEP that moves sequence 0 and has just heard of an error, with another transfer outstanding. -/
def step0 : StepRun := ⟨[], [], [], [], Pool.empty, [], [], [], [], some 0, 0, [], true, none, .growth⟩

theorem lastOf {α β γ : Type} {x : α × β × γ} {y : γ} (h : x.2.2 = y) : x = (x.1, x.2.1, y) := by rw [← h]

theorem wit_steps_commit_2 :
    ∃ s src d c r, Starts s src (isOp 0x58) d c ∧ c.run = .step r :=
  ⟨with0 devM { cmd0 (desc [(0, 0x58)]) with run := .step step0 }, src0,
  devM.withCmds [{ cmd0 (desc [(0, 0x58)]) with run := .step step0 }], { cmd0 (desc [(0, 0x58)]) with run := .step step0 },
  step0, ⟨by decide +kernel, rfl⟩, rfl⟩

theorem wit_steps_commit_3 :
    ∃ d d2 : Dev, ∃ c r r2, d.dramGate = .ok ∧ r.phase = .growth ∧ Dev.stepGrow c (d.poolCfg c.part) (r.ents.length +
    r.list.length + r.cands.length + 2) d r = (d2, r2, false) :=
  ⟨devI, _, cmd0 (desc [(0, 0x58)]), step0, _, by decide +kernel, by decide +kernel, lastOf (by decide +kernel)⟩

theorem wit_pools_are_configured_1 :
    ∃ s : State, ∃ p dev n c r d, s.dev.serves ∧ p < 8 ∧ c = s.dev.poolCfg p ∧ c.enable ∧ (s.dev.poolTaken p).length + n ≤
    c.pages ∧ (s.dev.pool p).guestCount + n ≤ s.dev.fld Fld.SEQ_P_GUEST_MAX_guest_max p ∧ s.dev.sharedGate = .ok ∧ r = takePages
    c.pages n s.dev.freeCtr (s.dev.poolTaken p) ∧
    d = ({ s.dev with freeCtr := r.2.2 } : Dev).modPool p (fun x => { x with used := r.1 ++ x.used, guests := x.guests ++ [(dev, r.1)] })
    :=
  ⟨on devM, 0, 2, 1, _, _, _, by decide +kernel, by decide +kernel, rfl, by decide +kernel, by decide +kernel,
  by decide +kernel, by decide +kernel, rfl, rfl⟩

theorem wit_pools_are_configured_2 :
    ∃ s : State, ∃ src : RegSource, ∃ p d, s.dev.serves ∧ p < 8 ∧ d = s.dev.touch src Reg.SEQ_P_COMMIT.off ∧ d.mayWrite src :=
  ⟨on devM, .mgmt, 7, _, by decide +kernel, by decide +kernel, rfl, by decide +kernel⟩

theorem wit_pools_are_configured_3 :
    ∃ s : State, ∃ p, s.dev.serves ∧ p < 8 ∧ (s.dev.staged? (.pool p)).isSome ∧ s.dev.sub.cmds.any (fun c => c.steps p) = false
    :=
  ⟨on (devM.stage (.pool 7)), 7, by decide +kernel, by decide +kernel, by decide +kernel, by decide +kernel⟩

end Sys2Proof.Tests
end

