-- ==== Sys2Proof/Tests/Wit6.lean ====
section
/-! SUPPORT. Witnesses for the statements about partitions, saved blocks, doorbells, submission and the tick generator. -/

namespace Sys2Proof.Tests

open Sys2Proof Sys2Proof.Machine

set_option maxRecDepth 4000
set_option Elab.async false

/-- The bricks of wall 0 each hold a block of BEST work with another split than a waiting launch of HARD work on ring 9. -/
def devAuto : Dev :=
  committed { devK with
    bricks := (List.range 8).map (fun n => (n, { Brick.fresh with
      split := 2, ls := Store.zero, blocks := [{ blk0 with index := n, clusterBase := n }] }))
    sub := { devK.sub with
      rings := devK.sub.rings ++ [(9, { ring0 with cls := 0, budget := 1 })]
      cmds := [{ launchCmd with ring := 9, cls := 0 }] } }
    [(Fld.PAR_P_MASKS_wall_mask, 0, 1), (Fld.PAR_P_CTRL_enable, 0, 1), (Fld.PAR_P_GROUPS_group_mask, 0, 1),
      (Fld.PAR_P_CTRL_auto_preempt, 0, 1)]

/-- A device with wall 0 for partition 0 whose launch has one saved block. -/
def devV : Dev :=
  { devB with
    bricks := []
    par := { devB.par with saved := [⟨0, some 0, blk0, [], []⟩] }
    sub := { devB.sub with cmds := [launchCmd] } }

/-- A PREEMPT of ring 9 into the MiB at 0, and a device on which ring 9 may be saved. -/
def preLine : Line := desc [(0, 0x61), (16, 9), (24, 65536), (32, 262144)]

/-- The header that a save of ring 9 with no command and no brick writes. -/
def psav : Bytes := headerBytes false false 0 0 9 0 0 0 0

/-- The device with ring 9 running, that header at 65536, and its save. -/
def devW : Dev :=
  { dev0 with
    mem := { dev0.mem with dram := dev0.mem.dram.write 65536 psav }
    par := { dev0.par with saves := [⟨psav, ring0, [], [], []⟩] }
    sub := { dev0.sub with rings := dev0.sub.rings ++ [(9, ring0)] } }

/-- The device while a PREEMPT of ring 9 runs on ring 8. -/
def devY : Dev :=
  { devW with
    par := { devW.par with preempting := [⟨8, 1, 9⟩] }
    sub := { devW.sub with cmds := [{ cmd0 preLine with run := .preempt }] } }

theorem wit_aborts_and_commits_1 :
    ∃ s, ∃ src : CmdSource, ∃ d c, Starts s src (fun l => isOp 0x60 l && !abtPartition l) d c ∧ reservedZero c.desc abtFields ∧
    (d.ring (abtRing c.desc)).state ≠ .disabled ∧ (d.ring (abtRing c.desc)).part = c.part ∧ (8 ≤ abtRing c.desc ∨ c.gotik) :=
  ⟨run0 dev0 (desc [(0, 0x60), (16, 8)]), src0, _, _, starts0 (by decide +kernel) (by decide +kernel), by decide +kernel,
  by decide +kernel, by decide +kernel, by decide +kernel⟩

theorem wit_aborts_and_commits_2 :
    ∃ s, ∃ src : CmdSource, ∃ d c, Starts s src (fun l => isOp 0x60 l && abtPartition l) d c ∧ reservedZero c.desc abtFields :=
  ⟨run0 dev0 (desc [(0, 0x60), (18, 1)]), src0, _, _, starts0 (by decide +kernel) (by decide +kernel), by decide +kernel⟩

theorem wit_aborts_and_commits_3 :
    ∃ s : State, ∃ src : RegSource, ∃ p : Nat, ∃ d, s.dev.serves ∧ p < 8 ∧ d = s.dev.touch src Reg.PAR_P_COMMIT.off ∧ d.mayWrite
    src :=
  ⟨on dev0, .mgmt, 1, _, by decide +kernel, by decide +kernel, rfl, by decide +kernel⟩

theorem wit_preempt_and_restore_1 :
    ∃ s, ∃ src : CmdSource, ∃ d c, ∃ i : Nat, ∃ r d1 d2 d3, Starts s src (isOp 0x61) d c ∧ c.run = .none ∧ i = preRing c.desc ∧
    r = d.ring i ∧ reservedZero c.desc preFields ∧ r.part = c.part ∧ r.state ∈ [.running, .stopped] ∧ r.saving = false ∧ (8 ≤ i
    ∨ c.gotik) ∧ (preSave c.desc).toNat % 65536 = 0 ∧ d.saveBytes c.part ≤ preBytes c.desc ∧ d.rangeWritable c (preSave
    c.desc).toNat (preBytes c.desc) = some true ∧
    d1 = (d.stopRing i 5).modRing i (fun r => { r with epoch := d.nextEpoch i, saving := true }) ∧
    d2 = d1.withOps (d1.fab.ops.map (fun o => if o.ring = i ∧ o.kind = 1 ∧ o.block?.any (fun r => (d1.cmd? r.ring r.serial).any (fun x => x.opcode = 0x21)) then { o with dead := true } else o))
    ∧ d3 = d2.withPar { d2.par with preempting := d2.par.preempting ++ [⟨c.ring, c.serial, i⟩] } :=
  ⟨run0 devW preLine, src0, _, _, _, _, _, _, _, starts0 (by decide +kernel) (by decide +kernel), by decide +kernel, rfl, rfl,
  by decide +kernel, by decide +kernel, by decide +kernel, by decide +kernel, by decide +kernel, by decide +kernel,
  by decide +kernel, by decide +kernel, rfl, rfl, rfl⟩

theorem wit_preempt_and_restore_2 :
    ∃ s : State, ∃ i : Nat, ∃ p c r bricks cmds head d1 d2 d3 x, s.dev.serves ∧ s.dev.par.preempting.find? (fun p => p.target =
    i) = some p ∧ s.dev.cmd? p.ring p.serial = some c ∧ s.dev.atSavePoint i ∧ c.active ∧ r = s.dev.ring i ∧ bricks =
    s.dev.bricksWith (fun b => b.ring = i) ∧ preRemote c.desc = false ∧ cmds = s.dev.sub.cmds.filter (fun c => c.ring = i) ∧
    head = headerBytes false false s.dev.addr r.epoch i bricks.length (cmds.flatMap (·.refs)).eraseDups.length r.fetch
    r.doorbell ∧ s.dev.cleanPonds bricks = (d1, true) ∧ d1.atSavePoint i ∧ Dev.cmdWrites c engOther d1 (saveWrites (preSave
    c.desc) s.dev.freeCtr bricks.length (bricks.isEmpty && cmds.isEmpty) head) = (d2, .ok, []) ∧
    x = bricks.foldl (fun acc n => ((acc.1.brick n).blocks.filter (fun b => b.ring = i)).foldl (fun acc b => ((acc.1.saveBlock c.part none n b).1, acc.2 ++ [(acc.1.saveBlock c.part none n b).2])) acc) (({ d2 with freeCtr := d2.freeCtr + bricks.length + 1 } : Dev), ([] : List SavedBlock))
    ∧ d3 = x.1.withCmds (x.1.sub.cmds.filter (fun x => x.ring ≠ i)) :=
  ⟨on devY, 9, _, _, _, _, _, _, _, _, _, _, by decide +kernel, someOf (by decide +kernel), someOf (by decide +kernel),
  by decide +kernel, by decide +kernel, rfl, rfl, by decide +kernel, rfl, rfl, truePair (by decide +kernel), by decide +kernel,
  okTripleWith (by decide +kernel), rfl, rfl⟩

theorem wit_preempt_and_restore_3 :
    ∃ s, ∃ src : CmdSource, ∃ d d1 d2 d3 d4 c, ∃ i : Nat, ∃ h n f rs sv mb w x, Starts s src (isOp 0x62) d c ∧ i = resRing
    c.desc ∧ reservedZero c.desc resFields ∧ 8 ≤ i ∧ (d.ring i).state = .disabled ∧ d.fld Fld.XLT_AS_CTRL_enable (resAsid
    c.desc) ≠ 0 ∧ resCount c.desc ≤ 1024 ∧ (resSave c.desc).toNat % 65536 = 0 ∧ (resMap c.desc).toNat % 16 = 0 ∧ d.cmdRead c
    engOther (resSave c.desc) 64 = (d1, .ok, h) ∧ n = leAt h 12 2 ∧ f = leAt h 5 1 ∧ slice h 0 4 = ascii "PSAV" ∧ leAt h 4 1 = 1
    ∧ leAt h 60 4 = crc32 (slice h 0 60) ∧ f % 2 = 1 ∧ f / 2 % 2 = 0 ∧ (f / 4 % 2 = 1 ∨ leAt h 6 2 % 4096 = d1.addr) ∧ n ≤
    (d1.partBricks c.part).length ∧ Dev.readRanges c engOther d1 ((List.range n).map (fun k => (recordAt (resSave c.desc) k,
    brickRecord))) = (d2, .ok, rs) ∧ d2.saveOf h rs = some sv ∧ d2.admits c.part i sv.ring.cls sv.ring.budget ∧ d2.cmdRead c
    engOther (resMap c.desc) (16 * resCount c.desc) = (d3, .ok, mb) ∧ Dev.cmdWrites c engOther d3 [⟨resSave c.desc, headerBytes
    true (f / 4 % 2 = 1) (leAt h 6 2 % 4096) sv.ring.epoch (leAt h 10 2 % 1024) n (leAt h 14 2) sv.ring.fetch sv.ring.doorbell,
    false⟩] = (d4, .ok, w) ∧
    x = sv.cmds.foldl (fun (acc : Dev × List Cmd) y => ((acc.1.restoreCmd (handleMap mb) (f / 4 % 2 = 1) i c.part (resAsid c.desc) y).1, acc.2 ++ [(acc.1.restoreCmd (handleMap mb) (f / 4 % 2 = 1) i c.part (resAsid c.desc) y).2])) (d4.setRing i { sv.ring with asid := resAsid c.desc, part := c.part, state := .running, stopReason := 0, used := 0, fetchFault := false, fetched := [], saving := false }, [])
    ∧ sv.blocks = [] :=
  ⟨run0 devW (desc [(0, 0x62), (16, 12), (18, 1), (24, 65536)]), src0, _, _, _, _, _, _, _, _, _, _, _, _, _, _, _,
  starts0 (by decide +kernel) (by decide +kernel), rfl, by decide +kernel, by decide +kernel, by decide +kernel,
  by decide +kernel, by decide +kernel, by decide +kernel, by decide +kernel, okTriple (by decide +kernel), rfl, rfl,
  by decide +kernel, by decide +kernel, by decide +kernel, by decide +kernel, by decide +kernel, by decide +kernel,
  by decide +kernel, okTriple (by decide +kernel), someOf (by decide +kernel), by decide +kernel, okTriple (by decide +kernel),
  okTriple (by decide +kernel), rfl, by decide +kernel⟩

theorem wit_saved_blocks_1 :
    ∃ s : State, ∃ p : Nat, ∃ c n bs, s.dev.serves ∧ s.dev.pressing p = some c ∧ minBy (fun n => (s.dev.brick n).courses)
    ((s.dev.partBricks p).filter s.dev.preemptable) = some n ∧ bs = (s.dev.brick n).blocks ∧ (∀ m ∈ s.dev.bricksWith (fun b =>
    b.inClusters bs), ∀ b ∈ (s.dev.brick m).blocks, b.inClusters bs → s.dev.blockBusy m b = false) ∧ s.dev.cfld
    Fld.PAR_P_GROUPS_group_mask p ≠ 0 ∧ ((s.dev.usedRecords p).eraseDups).length + (s.dev.bricksWith (fun b => b.inClusters
    bs)).length ≤ (s.dev.partBricks p).length ∧ s.dev.cfld Fld.PAR_P_CTRL_auto_preempt p = 1 :=
  ⟨on devAuto, 0, _, _, _, by decide +kernel, someOf (by decide +kernel), someOf (by decide +kernel), rfl, by decide +kernel,
  by decide +kernel, by decide +kernel, by decide +kernel⟩

theorem wit_saved_blocks_2 :
    ∃ s : State, ∃ p : Nat, ∃ bricks : List Nat, ∃ w unit d1, s.dev.serves ∧ minBy (fun (w : Work) => s.dev.grantRank w.cmd)
    ((s.dev.waitingWork p).filter (·.saved)) = some w ∧ (s.dev.savedUnits p w.cmd).find? (fun u => u.map (·.block.index) =
    w.blocks) = some unit ∧ placementOk unit.length bricks ∧ (∀ n ∈ bricks, n ∈ w.bricks ∧ s.dev.roomOn w.room n) ∧ (∀ e ∈
    unit.zip bricks, ∀ x ∈ e.1.springs, (s.dev.spring e.2 x.1).run = none) ∧ s.dev.outranked w.cmd bricks = false ∧
    s.dev.cleanPonds (bricks.filter (fun n => (s.dev.brick n).split ≠ w.room.split)) = (d1, true) :=
  ⟨on devV, 0, [3], _, _, _, by decide +kernel, someOf (by decide +kernel), someOf (by decide +kernel), by decide +kernel,
  by decide +kernel, by decide +kernel, by decide +kernel, truePair (by decide +kernel)⟩

/-- Rings 8 and 9 with the doorbell at 5, ring 9 of 64 entries in another state. -/
def devD : Dev := { dev0 with sub := { dev0.sub with rings := [(8, { ring0 with doorbell := 5 })] } }

theorem wit_doorbell_rule_1_rejected :
    ∃ s : State, ∃ src : DbFrom, ∃ i : Nat, ∃ d d1 : Dev, ∃ r : Ring, ∃ taken : Prop, s.dev = d ∧ d.serves ∧ i < 1024 ∧ r =
    d.ring i ∧ d.boot.phase ≠ 6 ∧ d.pwr.state = .run ∧ d.pwr.entering = none ∧ d1 = d.count 0x0042 1 ⟨some r.part, none, none⟩ ∧
    (taken ↔ r.state ≠ .disabled ∧ (match src with
      | .local => True
      | .device a => r.dbSource = 0 ∨ (r.dbSource = 1 ∧ r.dbId = a)
      | .queuePair q => r.dbSource = 2 ∧ r.dbId = q)) ∧ ¬taken :=
  ⟨on devD, .device 3, 12, _, _, _, False, rfl, by decide +kernel, by decide +kernel, rfl, by decide +kernel, by decide +kernel,
  by decide +kernel, rfl, ⟨False.elim, fun h => h.1 (by decide +kernel)⟩, by decide +kernel⟩

theorem wit_doorbell_rule_1_stale :
    ∃ s : State, ∃ src : DbFrom, ∃ i : Nat, ∃ t : Wide, ∃ d d1 : Dev, ∃ r : Ring, ∃ taken : Prop, s.dev = d ∧ d.serves ∧ i <
    1024 ∧ r = d.ring i ∧ d.boot.phase ≠ 6 ∧ d.pwr.state = .run ∧ d.pwr.entering = none ∧ d1 = d.count 0x0042 1 ⟨some r.part,
    none, none⟩ ∧ (taken ↔ r.state ≠ .disabled ∧ (match src with
      | .local => True
      | .device a => r.dbSource = 0 ∨ (r.dbSource = 1 ∧ r.dbId = a)
      | .queuePair q => r.dbSource = 2 ∧ r.dbId = q)) ∧ taken ∧ t.toNat < r.doorbell.toNat :=
  ⟨on devD, .local, 8, 4, _, _, _, True, rfl, by decide +kernel, by decide +kernel, rfl, by decide +kernel, by decide +kernel,
  by decide +kernel, rfl, ⟨fun _ => ⟨by decide +kernel, trivial⟩, fun _ => trivial⟩, trivial, by decide +kernel⟩

theorem wit_doorbell_rule_1_same :
    ∃ s : State, ∃ src : DbFrom, ∃ i : Nat, ∃ t : Wide, ∃ d d1 : Dev, ∃ r : Ring, ∃ taken : Prop, s.dev = d ∧ d.serves ∧ i <
    1024 ∧ r = d.ring i ∧ d.boot.phase ≠ 6 ∧ d.pwr.state = .run ∧ d.pwr.entering = none ∧ d1 = d.count 0x0042 1 ⟨some r.part,
    none, none⟩ ∧ (taken ↔ r.state ≠ .disabled ∧ (match src with
      | .local => True
      | .device a => r.dbSource = 0 ∨ (r.dbSource = 1 ∧ r.dbId = a)
      | .queuePair q => r.dbSource = 2 ∧ r.dbId = q)) ∧ taken ∧ t.toNat = r.doorbell.toNat :=
  ⟨on devD, .local, 8, 5, _, _, _, True, rfl, by decide +kernel, by decide +kernel, rfl, by decide +kernel, by decide +kernel,
  by decide +kernel, rfl, ⟨fun _ => ⟨by decide +kernel, trivial⟩, fun _ => trivial⟩, trivial, by decide +kernel⟩

theorem wit_doorbell_rule_1_overrun :
    ∃ s : State, ∃ src : DbFrom, ∃ i : Nat, ∃ t : Wide, ∃ d d1 : Dev, ∃ r : Ring, ∃ taken : Prop, s.dev = d ∧ d.serves ∧ i <
    1024 ∧ r = d.ring i ∧ d.boot.phase ≠ 6 ∧ d.pwr.state = .run ∧ d.pwr.entering = none ∧ d1 = d.count 0x0042 1 ⟨some r.part,
    none, none⟩ ∧ (taken ↔ r.state ≠ .disabled ∧ (match src with
      | .local => True
      | .device a => r.dbSource = 0 ∨ (r.dbSource = 1 ∧ r.dbId = a)
      | .queuePair q => r.dbSource = 2 ∧ r.dbId = q)) ∧ taken ∧ r.doorbell.toNat < t.toNat ∧ 2 ^ r.sizeLog2 < t.toNat -
    r.fetch.toNat ∧ r.state = .running :=
  ⟨on devD, .local, 8, 70, _, _, _, True, rfl, by decide +kernel, by decide +kernel, rfl, by decide +kernel, by decide +kernel,
  by decide +kernel, rfl, ⟨fun _ => ⟨by decide +kernel, trivial⟩, fun _ => trivial⟩, trivial, by decide +kernel,
  by decide +kernel, by decide +kernel⟩

theorem wit_doorbell_rule_1_taken :
    ∃ s : State, ∃ src : DbFrom, ∃ i : Nat, ∃ t : Wide, ∃ d d1 : Dev, ∃ r : Ring, ∃ taken : Prop, s.dev = d ∧ d.serves ∧ i <
    1024 ∧ r = d.ring i ∧ d.boot.phase ≠ 6 ∧ d.pwr.state = .run ∧ d.pwr.entering = none ∧ d1 = d.count 0x0042 1 ⟨some r.part,
    none, none⟩ ∧ (taken ↔ r.state ≠ .disabled ∧ (match src with
      | .local => True
      | .device a => r.dbSource = 0 ∨ (r.dbSource = 1 ∧ r.dbId = a)
      | .queuePair q => r.dbSource = 2 ∧ r.dbId = q)) ∧ taken ∧ r.doorbell.toNat < t.toNat ∧ (t.toNat - r.fetch.toNat ≤ 2 ^
    r.sizeLog2 ∨ r.state ≠ .running) :=
  ⟨on devD, .local, 8, 64, _, _, _, True, rfl, by decide +kernel, by decide +kernel, rfl, by decide +kernel, by decide +kernel,
  by decide +kernel, rfl, ⟨fun _ => ⟨by decide +kernel, trivial⟩, fun _ => trivial⟩, trivial, by decide +kernel,
  by decide +kernel⟩

/-- A device whose ring 8 has the doorbell at 1 and a completion ring of four records, with one command. -/
def devQ (c : Cmd) (stalled : Bool) : Dev :=
  { dev0 with sub := { dev0.sub with
      rings := [(8, { ring0 with doorbell := 1, cqMode := 2, cqLog2 := 2, cqBase := 4096, cqStalled := stalled })], cmds := [c] } }

theorem okQuad {α β γ δ : Type} {x : α × β × γ × δ} {y : β} (h : x.2.1 = y) : x = (x.1, y, x.2.2.1, x.2.2.2) := by rw [← h]

/-- The command ended. -/
def cmdE : Cmd := { cmd0 (desc [(0, 0x01)]) with phase := .ended }

theorem wit_submission_runs_1 :
    ∃ s : State, ∃ i : Nat, ∃ r d1 bs got, s.dev.serves ∧ s.dev.mayFetch i ∧ r = s.dev.ring i ∧ s.dev.transferRead (r.fetchReq
    i) r.fetched [] (r.base + BitVec.ofNat 64 (64 * (r.fetch.toNat % 2 ^ r.sizeLog2))) 64 = (d1, .ok, bs, got) :=
  ⟨on { devQ cmdE false with sub := { (devQ cmdE false).sub with cmds := [] } }, 8, _, _, _, _, by decide +kernel,
  by decide +kernel, rfl, okQuad (by decide +kernel)⟩

theorem wit_submission_runs_2 :
    ∃ d : Dev, ∃ i asid : Nat, ∃ l : Line, ∃ st step, i < 1024 ∧ d.headerFails false i asid l = some (st, step) :=
  ⟨dev0, 8, 1, desc [(0, 0x7F)], Sts.badDescriptor, 0xF3, by decide +kernel, by decide +kernel⟩

theorem wit_submission_runs_3 :
    ∃ s : State, ∃ d, ∃ i : Nat, ∃ n : Wide, ∃ c, s.dev = d ∧ d.serves ∧ d.cmd? i n = some c ∧ c.phase = .accepted ∧ d.mayStart
    c ∧ (d.ring i).saving = false :=
  ⟨on (devQ { cmdE with phase := .accepted } false), _, 8, 1, _, rfl, by decide +kernel, someOf (by decide +kernel),
  by decide +kernel, by decide +kernel, by decide +kernel⟩

theorem wit_submission_runs_4 :
    ∃ s : State, ∃ d d1 d2, ∃ i : Nat, ∃ n : Wide, ∃ c, s.dev = d ∧ d.serves ∧ d.cmd? i n = some c ∧ c.phase = .ended ∧
    d.mayStart c ∧ c.faulted = false ∧ d.edgeDecides c = false ∧ d.storesDone c = (d1, true) ∧ (c.recordDone ∨ d1.wantsRecord c
    = false) ∧ hdrFence c.desc = 0 ∧ (c.cls = 0 ∨ c.edges = 0) ∧ d2 = d1.drop c.refs :=
  ⟨with0 dev0 cmdE, _, _, _, 8, 1, _, rfl, by decide +kernel, someOf (by decide +kernel), by decide +kernel, by decide +kernel,
  by decide +kernel, by decide +kernel, truePair (by decide +kernel), by decide +kernel, by decide +kernel, by decide +kernel,
  rfl⟩

theorem wit_submission_runs_5 :
    ∃ s : State, ∃ d d1 d2 d3 d4, ∃ i : Nat, ∃ n : Wide, ∃ c r w y, s.dev = d ∧ d.serves ∧ d.cmd? i n = some c ∧ c.phase =
    .ended ∧ d.mayStart c ∧ c.faulted = false ∧ d.edgeDecides c = false ∧ d.storesDone c = (d1, true) ∧ c.recordDone = false ∧
    d1.wantsRecord c ∧ d1.cqRoom c = (d2, .ok, true) ∧ r = d2.ring c.ring ∧ d2.transferWrite c.cqReq ⟨r.cqBase + BitVec.ofNat 64
    (32 * (r.cqProd.toNat % 2 ^ r.cqLog2)), recordBytes c.desc c.serial c.status c.detail c.unit c.ring d2.tickCount, false⟩ =
    (d3, .ok, w) ∧
    d4 = (d3.modRing c.ring (fun r => { r with cqProd := r.cqProd + 1, cqStalled := false })).modCmd c.ring c.serial (fun c => { c with recordDone := true })
    ∧ d4.cmd? i n = some y ∧ y.recordDone ∧ d4.cmdOps i n = false :=
  ⟨on (devQ cmdE false), _, _, _, _, _, 8, 1, _, _, _, _, rfl, by decide +kernel, someOf (by decide +kernel), by decide +kernel,
  by decide +kernel, by decide +kernel, by decide +kernel, truePair (by decide +kernel), by decide +kernel, by decide +kernel,
  okTripleWith (by decide +kernel), rfl, okTriple (by decide +kernel), rfl, someOf (by decide +kernel), by decide +kernel,
  by decide +kernel⟩

theorem wit_submission_runs_6 :
    ∃ s : State, ∃ d, ∃ i : Nat, ∃ c, s.dev = d ∧ d.serves ∧ d.sub.cmds.find? (fun c => c.ring = i && c.phase = .ended &&
    !c.recordDone) = some c ∧ (d.ring i).cqStalled :=
  ⟨on (devQ cmdE true), _, 8, _, rfl, by decide +kernel, someOf (by decide +kernel), by decide +kernel⟩

/-- A running generator of source `src` in a lock state. -/
def tickOf (src : Nat) (lock : LockState) : Dev :=
  { fields dev0 [(Fld.TICK_SOURCE_source, 0, src)] with tick := { dev0.tick with running := true, nextEdge := 1000000, lock := lock } }

theorem wit_tick_generator_1 :
    ∃ s : State, ∃ d d1, s.dev = d ∧ d.serves ∧ d.tick.running ∧
    d1 = ((d.advanceTo d.tick.nextEdge).withTick { (d.advanceTo d.tick.nextEdge).tick with lastEdge := (d.advanceTo d.tick.nextEdge).tick.nextEdge })
    ∧ d1.tick.stepping = false :=
  ⟨on (tickOf 0 .free), _, _, rfl, by decide +kernel, by decide +kernel, rfl, by decide +kernel⟩

theorem wit_tick_generator_2_slew :
    ∃ d : Dev, ∃ g : TickGen, ∃ p : Nat, ∃ e m : Int, g = d.tick ∧ p = d.period ∧ e = g.err ∧ m = max 1 ((p : Int) / 4096) ∧
    (g.lock = .acquiring ∨ g.lock = .locked) ∧ e.natAbs ≤ d.fld Fld.TICK_STEP_LIMIT_step_limit_ns 0 :=
  ⟨{ tickOf 1 .locked with tick := { (tickOf 1 .locked).tick with err := 7 } }, _, _, _, _, rfl, rfl, rfl, rfl,
  by decide +kernel, by decide +kernel⟩

theorem wit_tick_generator_2_step :
    ∃ d : Dev, ∃ g : TickGen, ∃ p : Nat, ∃ e m : Int, g = d.tick ∧ p = d.period ∧ e = g.err ∧ m = max 1 ((p : Int) / 4096) ∧
    (g.lock = .acquiring ∨ g.lock = .locked) ∧ d.fld Fld.TICK_STEP_LIMIT_step_limit_ns 0 < e.natAbs :=
  ⟨{ tickOf 1 .locked with tick := { (tickOf 1 .locked).tick with err := -2000000 } }, _, _, _, _, rfl, rfl, rfl, rfl,
  by decide +kernel, by decide +kernel⟩

theorem wit_tick_generator_3 :
    ∃ d : Dev, (d.tick.lock = .free ∨ d.tick.lock = .holdover) :=
  ⟨tickOf 0 .free, by decide +kernel⟩

theorem wit_tick_generator_4 :
    ∃ s : State, ∃ src : RegSource, ∃ d x, s.dev.serves ∧ d = s.dev.touch src Reg.TICK_COMMIT.off ∧ d.mayWrite src ∧ x =
    d.leaveIdle.stage .tick :=
  ⟨on dev0, .mgmt, _, _, by decide +kernel, rfl, by decide +kernel, rfl⟩

theorem wit_tick_generator_5 :
    ∃ s : State, ∃ src : RegSource, ∃ v : Word, ∃ d x, s.dev.serves ∧ d = s.dev.touch src Reg.TICK_SOURCE.off ∧ d.mayWrite src ∧
    x = d.regStore (Reg.TICK_SOURCE.at 0) 4 (v.setWidth 64) ∧ x.tickSource ≠ d.tickSource :=
  ⟨on (tickOf 0 .free), .mgmt, 1, _, _, by decide +kernel, rfl, by decide +kernel, rfl, by decide +kernel⟩

theorem wit_tick_generator_6 :
    ∃ s : State, ∃ d, s.dev = d ∧ d.serves ∧ d.tickSource = 1 ∧ d.tick.running ∧ d.tick.lock ≠ .locked ∧ d.tick.anchored = false
    ∧ d.tick.tenMHz :=
  ⟨on (tickOf 1 .acquiring), _, rfl, by decide +kernel, by decide +kernel, by decide +kernel, by decide +kernel,
  by decide +kernel, by decide +kernel⟩

/-- A locked generator of PPS whose last edge was 5 µs before. -/
def tickL : Dev := { tickOf 1 .locked with now := 5000, tick := { (tickOf 1 .locked).tick with lastPps := some 0 } }

/-- A device synchronised over Ethernet port 0. -/
def tickP : Dev :=
  { fields (tickOf 2 .acquiring) [(Fld.FAB_P_CTRL_ptp_master, 0, 1)] with
    fab := { (tickOf 2 .acquiring).fab with ports := [(0, { link0 with modeActive := 0 })] }
    tick := { (tickOf 2 .acquiring).tick with syncRx := some 1000, syncOrigin := some 900, delayTx := some 1100 } }

theorem wit_tick_generator_7 :
    ∃ s : State, ∃ d t, s.dev = d ∧ d.serves ∧ d.tickSource = 1 ∧ d.tick.lock = .locked ∧ d.tick.lastPps = some t ∧ 1000 <
    (centred ((d.now : Int) - t) 1000000000).natAbs ∧ d.tick.tenMHz :=
  ⟨on tickL, _, _, rfl, by decide +kernel, by decide +kernel, by decide +kernel, someOf (by decide +kernel), by decide +kernel,
  by decide +kernel⟩

theorem wit_tick_generator_8 :
    ∃ s : State, ∃ d, s.dev = d ∧ d.serves ∧ d.tickSource = 1 ∧ d.tick.running ∧ d.tick.tenMHz = false :=
  ⟨on { tickOf 1 .acquiring with tick := { (tickOf 1 .acquiring).tick with tenMHz := false } }, _, rfl, by decide +kernel,
  by decide +kernel, by decide +kernel, by decide +kernel⟩

theorem wit_tick_generator_12 :
    ∃ s : State, ∃ d, s.dev = d ∧ d.serves ∧ d.tick.lock ≠ .locked :=
  ⟨on (tickOf 1 .acquiring), _, rfl, by decide +kernel, by decide +kernel⟩

theorem wit_tick_generator_9 :
    ∃ d : Dev, d.tick.lock = .acquiring ∧ (d.phaseError d.tick.lastEdge).natAbs ≤ 100 ∧ 3 ≤ d.tick.good ∧ d.tickSource = 1 :=
  ⟨{ tickOf 1 .acquiring with tick := { (tickOf 1 .acquiring).tick with good := 3 } }, by decide +kernel, by decide +kernel,
  by decide +kernel, by decide +kernel⟩

theorem wit_tick_generator_10_pps :
    ∃ s : State, ∃ cause : LossCause, ∃ d x, s.dev = d ∧ d.serves ∧ d.tick.lock = .locked ∧ ((cause = .pps ∧ d.tickSource = 1 ∧
    x = d.advanceTo (d.tick.lastPps.getD d.now + 2000001000)) ∨ (cause = .sync ∧ d.tickSource = 2 ∧ x = d.advanceTo
    (d.tick.lastSync + 4 * (1000000000 * 2 ^ d.fld Fld.FAB_PTP_log_sync 0 / 65536)))) :=
  ⟨on tickL, .pps, _, _, rfl, by decide +kernel, by decide +kernel, Or.inl ⟨rfl, by decide +kernel, rfl⟩⟩

theorem wit_tick_generator_10_sync :
    ∃ s : State, ∃ cause : LossCause, ∃ d x, s.dev = d ∧ d.serves ∧ d.tick.lock = .locked ∧ ((cause = .pps ∧ d.tickSource = 1 ∧
    x = d.advanceTo (d.tick.lastPps.getD d.now + 2000001000)) ∨ (cause = .sync ∧ d.tickSource = 2 ∧ x = d.advanceTo
    (d.tick.lastSync + 4 * (1000000000 * 2 ^ d.fld Fld.FAB_PTP_log_sync 0 / 65536)))) :=
  ⟨on (tickOf 2 .locked), .sync, _, _, rfl, by decide +kernel, by decide +kernel, Or.inr ⟨rfl, by decide +kernel, rfl⟩⟩

theorem wit_tick_generator_11 :
    ∃ s : State, ∃ d x, s.dev = d ∧ d.serves ∧ d.tick.lock = .locked ∧ d.tickSource = 1 ∧ x = d.advanceTo (d.now + 10000) :=
  ⟨on tickL, _, _, rfl, by decide +kernel, by decide +kernel, by decide +kernel, rfl⟩

theorem wit_tick_generator_13_sync :
    ∃ s : State, ∃ k : Nat, ∃ m : PtpMsg, ∃ d p, s.dev = d ∧ d.serves ∧ p = d.port k ∧ p.modeActive = 0 ∧ p.linkUp ∧ m.domain =
    d.fld Fld.FAB_PTP_domain 0 ∧ d.tickSource = 2 ∧ d.fld Fld.TICK_SOURCE_ptp_port 0 = k ∧ d.tick.running ∧ m.kind = .sync true
    5 :=
  ⟨on tickP, 0, ⟨0, .sync true 5⟩, _, _, rfl, by decide +kernel, rfl, by decide +kernel, by decide +kernel, by decide +kernel,
  by decide +kernel, by decide +kernel, by decide +kernel, by decide +kernel⟩

theorem wit_tick_generator_13_follow_up :
    ∃ s : State, ∃ k : Nat, ∃ m : PtpMsg, ∃ d p, ∃ t2 : Nat, s.dev = d ∧ d.serves ∧ p = d.port k ∧ p.modeActive = 0 ∧ p.linkUp ∧
    m.domain = d.fld Fld.FAB_PTP_domain 0 ∧ d.tickSource = 2 ∧ d.fld Fld.TICK_SOURCE_ptp_port 0 = k ∧ d.tick.running ∧ m.kind =
    .followUp 5 ∧ d.tick.syncRx = some t2 :=
  ⟨on tickP, 0, ⟨0, .followUp 5⟩, _, _, 1000, rfl, by decide +kernel, rfl, by decide +kernel, by decide +kernel,
  by decide +kernel, by decide +kernel, by decide +kernel, by decide +kernel, by decide +kernel, by decide +kernel⟩

theorem wit_tick_generator_13_delay :
    ∃ s : State, ∃ k : Nat, ∃ m : PtpMsg, ∃ d p, ∃ t1 t2 t3 t4 : Nat, s.dev = d ∧ d.serves ∧ p = d.port k ∧ p.modeActive = 0 ∧
    p.linkUp ∧ m.domain = d.fld Fld.FAB_PTP_domain 0 ∧ d.tickSource = 2 ∧ d.fld Fld.TICK_SOURCE_ptp_port 0 = k ∧ d.tick.running
    ∧ m.kind = .delayResp t4 ∧ d.tick.syncRx = some t2 ∧ d.tick.syncOrigin = some t1 ∧ d.tick.delayTx = some t3 :=
  ⟨on tickP, 0, ⟨0, .delayResp 1300⟩, _, _, 900, 1000, 1100, 1300, rfl, by decide +kernel, rfl, by decide +kernel,
  by decide +kernel, by decide +kernel, by decide +kernel, by decide +kernel, by decide +kernel, by decide +kernel,
  by decide +kernel, by decide +kernel, by decide +kernel⟩

theorem wit_tick_generator_14 :
    ∃ s : State, ∃ k : Nat, ∃ m : PtpMsg, ∃ d p, s.dev = d ∧ d.serves ∧ p = d.port k ∧ p.modeActive = 0 ∧ p.linkUp ∧ m.domain =
    d.fld Fld.FAB_PTP_domain 0 ∧ d.fld Fld.FAB_P_CTRL_ptp_master k = 1 ∧ m.kind = .delayReq :=
  ⟨on tickP, 0, ⟨0, .delayReq⟩, _, _, rfl, by decide +kernel, rfl, by decide +kernel, by decide +kernel, by decide +kernel,
  by decide +kernel, by decide +kernel⟩

theorem wit_tick_generator_15 :
    ∃ s : State, ∃ k : Nat, ∃ d p x, s.dev = d ∧ d.serves ∧ p = d.port k ∧ p.modeActive = 0 ∧ p.linkUp ∧ d.fld
    Fld.FAB_P_CTRL_ptp_master k = 1 ∧ x = d.advanceTo (p.lastSync + 1000000000 * 2 ^ d.fld Fld.FAB_PTP_log_sync 0 / 65536) :=
  ⟨on tickP, 0, _, _, _, rfl, by decide +kernel, rfl, by decide +kernel, by decide +kernel, by decide +kernel, rfl⟩

end Sys2Proof.Tests
end

