-- ==== Sys2Proof/Tests/Wit8.lean ====
section
/-! SUPPORT. Witnesses for the statements about Ethernet frames and queue pairs. -/

namespace Sys2Proof.Tests

open Sys2Proof Sys2Proof.Machine

set_option maxRecDepth 4000
set_option Elab.async false

/-- A device of address 1 with an Ethernet port 0 of addresses 0x0A000001 and 9, pose and tunnel datagrams on UDP ports 7000
and 7001, a queue pair 5 in RTS whose receive slots lie at 8192, and the memory object 3 over the first MiB. -/
def devE : Dev :=
  fields { dev0 with
    fab := { dev0.fab with ports := [(0, { link0 with modeActive := 0 }), (1, { link0 with modeActive := 2 })] }
    sub := { dev0.sub with entries := [(3, ⟨0, typMemory, .live, 2, none, .memory 1 0 0x100000⟩)], fresh := 4 } }
    [(Fld.FAB_ADDR_addr, 0, 1), (Fld.FAB_P_IPV4_ipv4, 0, 0x0A000001), (Fld.FAB_P_IPV6_LO_ipv6, 0, 9), (Fld.CMP_POSE_UDP_udp_port, 0, 7000),
      (Fld.FAB_TUNNEL_udp_port, 0, 7001), (Fld.FAB_QP_CTRL_state, 5, 3), (Fld.FAB_QP_CTRL_asid, 5, 1), (Fld.FAB_QP_RECV_recv_base, 5, 8192),
      (Fld.FAB_QP_CTRL_recv_log2, 5, 1)]

/-- The device in SLEEP, with wake frames enabled on port 0. -/
def devEs (waking : Option Nat) : Dev :=
  { fields devE [(Fld.PWR_WAKE_EN_inbound, 0, 1), (Fld.PWR_WAKE_EN_keep_ports, 0, 1)] with
    pwr := { devE.pwr with state := .sleep, waking := waking } }

/-- A frame with its FCS: to the MAC `dst`, of an EtherType, its payload padded to 50 bytes. -/
def frame (dst typ : Nat) (b : Bytes) : Bytes :=
  beBytes 6 dst ++ beBytes 6 2 ++ beBytes 2 typ ++ b ++ List.replicate (50 - b.length) 0

/-- An IPv4 UDP datagram from 10.0.0.2 to port `dst` of the device, without a UDP checksum. -/
def udp4 (dst : Nat) (b : Bytes) : Bytes :=
  let n := b.length + 8
  let head := fun (sum : Nat) => beBytes 4 (0x45000000 + n + 20) ++ beBytes 4 0 ++ beBytes 4 (0x40110000 + sum) ++ beBytes 4 0x0A000002 ++ beBytes 4 0x0A000001
  head (65535 - wordSum (head 0) % 65535) ++ beBytes 4 (9000 * 65536 + dst) ++ beBytes 2 n ++ beBytes 2 0 ++ b

/-- Their payloads without the FCS. -/
def pad46 (b : Bytes) : Bytes := b ++ List.replicate (46 - b.length) 0

/-- A Mortar frame in a tunnel datagram. -/
def tunnelled (kind dst : Nat) (pay : Bytes) : Bytes :=
  let h := leBytes 4 (kind + 256 * (pay.length / 4)) ++ leBytes 4 (dst + 2 * 4096) ++ List.replicate 16 0 ++ pay
  h ++ leBytes 4 (crc32 h)

theorem wit_ethernet_frames_act_1 :
    ∃ s : State, ∃ p : Nat, ∃ d x, s.dev = d ∧ d.serves ∧ p < 8 ∧ x = d.port p ∧ x.powered ∧ x.modeActive = 2 :=
  ⟨on devE, 1, _, _, rfl, by decide +kernel, by decide +kernel, rfl, by decide +kernel, by decide +kernel⟩

theorem wit_ethernet_frames_act_2_bad :
    ∃ s : State, ∃ p : Nat, ∃ f : Bytes, ∃ ok : Bool, ∃ d d1 x, s.dev = d ∧ d.serves ∧ p < 8 ∧ x = d.port p ∧ x.powered ∧
    x.modeActive = 0 ∧ x.linkUp ∧ d1 = d.rxBytes p f.length ∧ (ok = false ∨ f.length < 64 ∨ 9216 < f.length) :=
  ⟨on devE, 0, [], false, _, _, _, rfl, by decide +kernel, by decide +kernel, rfl, by decide +kernel, by decide +kernel,
  by decide +kernel, rfl, by decide +kernel⟩

theorem wit_ethernet_frames_act_2_other_type :
    ∃ s : State, ∃ p : Nat, ∃ f : Bytes, ∃ ok : Bool, ∃ d d1 x, s.dev = d ∧ d.serves ∧ p < 8 ∧ x = d.port p ∧ x.powered ∧
    x.modeActive = 0 ∧ x.linkUp ∧ d1 = d.rxBytes p f.length ∧ ok = true ∧ 64 ≤ f.length ∧ f.length ≤ 9216 ∧ d1.frameIn s.nv p
    (f.take (f.length - 4)) = .drop :=
  ⟨on devE, 0, frame 0 0x9000 [], true, _, _, _, rfl, by decide +kernel, by decide +kernel, rfl, by decide +kernel,
  by decide +kernel, by decide +kernel, rfl, rfl, by decide +kernel, by decide +kernel, by decide +kernel⟩

theorem wit_ethernet_frames_act_2_arp :
    ∃ s : State, ∃ p : Nat, ∃ f : Bytes, ∃ ok : Bool, ∃ d d1 x, ∃ b : Bytes, s.dev = d ∧ d.serves ∧ p < 8 ∧ x = d.port p ∧
    x.powered ∧ x.modeActive = 0 ∧ x.linkUp ∧ d1 = d.rxBytes p f.length ∧ ok = true ∧ 64 ≤ f.length ∧ f.length ≤ 9216 ∧
    d1.frameIn s.nv p (f.take (f.length - 4)) = .unit b :=
  ⟨on devE, 0, frame macBroadcast 0x0806 [1], true, _, _, _, pad46 [1], rfl, by decide +kernel, by decide +kernel, rfl,
  by decide +kernel, by decide +kernel, by decide +kernel, rfl, rfl, by decide +kernel, by decide +kernel, by decide +kernel⟩

theorem wit_ethernet_frames_act_2_pfc :
    ∃ s : State, ∃ p : Nat, ∃ f : Bytes, ∃ ok : Bool, ∃ d d1 x, ∃ b : Bytes, s.dev = d ∧ d.serves ∧ p < 8 ∧ x = d.port p ∧
    x.powered ∧ x.modeActive = 0 ∧ x.linkUp ∧ d1 = d.rxBytes p f.length ∧ ok = true ∧ 64 ≤ f.length ∧ f.length ≤ 9216 ∧
    d1.frameIn s.nv p (f.take (f.length - 4)) = .pfc b :=
  ⟨on devE, 0, frame macControl 0x8808 [1, 1], true, _, _, _, pad46 [1, 1], rfl, by decide +kernel, by decide +kernel, rfl,
  by decide +kernel, by decide +kernel, by decide +kernel, rfl, rfl, by decide +kernel, by decide +kernel, by decide +kernel⟩

theorem wit_ethernet_frames_act_2_wake :
    ∃ s : State, ∃ p : Nat, ∃ f : Bytes, ∃ ok : Bool, ∃ d d1 x, ∃ b : Bytes, s.dev = d ∧ d.serves ∧ p < 8 ∧ x = d.port p ∧
    x.powered ∧ x.modeActive = 0 ∧ x.linkUp ∧ d1 = d.rxBytes p f.length ∧ ok = true ∧ 64 ≤ f.length ∧ f.length ≤ 9216 ∧
    d1.frameIn s.nv p (f.take (f.length - 4)) = .wake b :=
  ⟨on devE, 0, frame 0 0x88B5 [1], true, _, _, _, pad46 [1], rfl, by decide +kernel, by decide +kernel, rfl, by decide +kernel,
  by decide +kernel, by decide +kernel, rfl, rfl, by decide +kernel, by decide +kernel, by decide +kernel⟩

theorem wit_ethernet_frames_act_2_roce :
    ∃ s : State, ∃ p : Nat, ∃ f : Bytes, ∃ ok : Bool, ∃ d d1 x, ∃ src dst : Nat, ∃ b : Bytes, s.dev = d ∧ d.serves ∧ p < 8 ∧ x =
    d.port p ∧ x.powered ∧ x.modeActive = 0 ∧ x.linkUp ∧ d1 = d.rxBytes p f.length ∧ ok = true ∧ 64 ≤ f.length ∧ f.length ≤ 9216
    ∧ d1.frameIn s.nv p (f.take (f.length - 4)) = .udp src dst b ∧ (dst = 4791 ∨ dst = 319 ∨ dst = 320) :=
  ⟨on devE, 0, frame 0 0x0800 (udp4 4791 (List.replicate 18 1)), true, _, _, _, 0xFFFF0A000002, 4791, List.replicate 18 1, rfl,
  by decide +kernel, by decide +kernel, rfl, by decide +kernel, by decide +kernel, by decide +kernel, rfl, rfl,
  by decide +kernel, by decide +kernel, by decide +kernel, by decide +kernel⟩

theorem wit_ethernet_frames_act_2_pose :
    ∃ s : State, ∃ p : Nat, ∃ f : Bytes, ∃ ok : Bool, ∃ d d1 x, ∃ src dst : Nat, ∃ b : Bytes, s.dev = d ∧ d.serves ∧ p < 8 ∧ x =
    d.port p ∧ x.powered ∧ x.modeActive = 0 ∧ x.linkUp ∧ d1 = d.rxBytes p f.length ∧ ok = true ∧ 64 ≤ f.length ∧ f.length ≤ 9216
    ∧ d1.frameIn s.nv p (f.take (f.length - 4)) = .udp src dst b ∧ dst ≠ 4791 ∧ dst ≠ 319 ∧ dst ≠ 320 ∧ dst ≠ 0 ∧ dst = d1.fld
    Fld.CMP_POSE_UDP_udp_port 0 :=
  ⟨on devE, 0, frame 0 0x0800 (udp4 7000 (List.replicate 18 1)), true, _, _, _, 0xFFFF0A000002, 7000, List.replicate 18 1, rfl,
  by decide +kernel, by decide +kernel, rfl, by decide +kernel, by decide +kernel, by decide +kernel, rfl, rfl,
  by decide +kernel, by decide +kernel, by decide +kernel, by decide +kernel, by decide +kernel, by decide +kernel,
  by decide +kernel, rfl⟩

theorem wit_ethernet_frames_act_2_tunnel :
    ∃ s : State, ∃ p : Nat, ∃ f : Bytes, ∃ ok : Bool, ∃ d d1 x, ∃ src dst : Nat, ∃ b : Bytes, s.dev = d ∧ d.serves ∧ p < 8 ∧ x =
    d.port p ∧ x.powered ∧ x.modeActive = 0 ∧ x.linkUp ∧ d1 = d.rxBytes p f.length ∧ ok = true ∧ 64 ≤ f.length ∧ f.length ≤ 9216
    ∧ d1.frameIn s.nv p (f.take (f.length - 4)) = .udp src dst b ∧ dst ≠ 4791 ∧ dst ≠ 319 ∧ dst ≠ 320 ∧ dst ≠ 0 ∧ dst ≠ d1.fld
    Fld.CMP_POSE_UDP_udp_port 0 ∧ dst = d1.fld Fld.FAB_TUNNEL_udp_port 0 :=
  ⟨on devE, 0, frame 0 0x0800 (udp4 7001 (List.replicate 18 1)), true, _, _, _, 0xFFFF0A000002, 7001, List.replicate 18 1, rfl,
  by decide +kernel, by decide +kernel, rfl, by decide +kernel, by decide +kernel, by decide +kernel, rfl, rfl,
  by decide +kernel, by decide +kernel, by decide +kernel, by decide +kernel, by decide +kernel, by decide +kernel,
  by decide +kernel, by decide +kernel, rfl⟩

theorem wit_ethernet_frames_act_3 :
    ∃ nv : Nv, ∃ p : Nat, ∃ f : Bytes, beAt f 0 6 ≠ nth nv.macs p 0 ∧ beAt f 0 6 ≠ macBroadcast ∧ ptpMacs.contains (beAt f 0 6)
    = false ∧ beAt f 0 6 ≠ macControl :=
  ⟨Nv.blank, 0, frame 5 0x0800 [], by decide +kernel, by decide +kernel, by decide +kernel, by decide +kernel⟩

theorem wit_ethernet_frames_act_4 :
    ∃ f : Bytes, beAt f 12 2 = 0x8100 ∧ (beAt f 14 2 % 4096 = 0 ∨ beAt f 14 2 % 4096 = 4095) :=
  ⟨frame 0 0x8100 [0x0F, 0xFF], by decide +kernel, by decide +kernel⟩

theorem wit_ethernet_frames_act_5 :
    ∃ s : State, ∃ p : Nat, ∃ ip : Word, ∃ d x, s.dev = d ∧ d.serves ∧ p < 8 ∧ x = d.port p ∧ x.modeActive = 0 ∧ x.linkUp ∧ ip ≠
    0 ∧ ip.toNat = d.ipv4 p :=
  ⟨on devE, 0, 0x0A000001, _, _, rfl, by decide +kernel, by decide +kernel, rfl, by decide +kernel, by decide +kernel,
  by decide +kernel, by decide +kernel⟩

theorem wit_ethernet_frames_act_6 :
    ∃ s : State, ∃ p : Nat, ∃ ip : BitVec 128, ∃ d x, s.dev = d ∧ d.serves ∧ p < 8 ∧ x = d.port p ∧ x.modeActive = 0 ∧ x.linkUp
    ∧ ip ≠ 0 ∧ ip.toNat = d.ipv6 p :=
  ⟨on devE, 0, 9, _, _, rfl, by decide +kernel, by decide +kernel, rfl, by decide +kernel, by decide +kernel, by decide +kernel,
  by decide +kernel⟩

theorem wit_ethernet_frames_act_7 :
    ∃ s : State, ∃ p : Nat, ∃ ip : Word, ∃ d x, s.dev = d ∧ d.serves ∧ p < 8 ∧ x = d.port p ∧ x.modeActive = 0 ∧ x.linkUp ∧ ip ≠
    0 ∧ ip.toNat = d.ipv4 p :=
  ⟨on devE, 0, 0x0A000001, _, _, rfl, by decide +kernel, by decide +kernel, rfl, by decide +kernel, by decide +kernel,
  by decide +kernel, by decide +kernel⟩

theorem wit_ethernet_frames_act_8 :
    ∃ s : State, ∃ p : Nat, ∃ ip : BitVec 128, ∃ d x, s.dev = d ∧ d.serves ∧ p < 8 ∧ x = d.port p ∧ x.modeActive = 0 ∧ x.linkUp
    ∧ ip ≠ 0 ∧ ip.toNat = d.ipv6 p :=
  ⟨on devE, 0, 9, _, _, rfl, by decide +kernel, by decide +kernel, rfl, by decide +kernel, by decide +kernel, by decide +kernel,
  by decide +kernel⟩

theorem wit_ethernet_frames_act_9_discovery :
    ∃ s : State, ∃ p : Nat, ∃ b : Bytes, ∃ d x, ∃ f : MortarFrame, s.dev = d ∧ d.serves ∧ p < 8 ∧ x = d.port p ∧ x.powered ∧
    x.modeActive = 0 ∧ x.linkUp ∧ d.fld Fld.FAB_TUNNEL_udp_port 0 ≠ 0 ∧ tunnelFrame b = some f ∧ f.hdr.kind = 7 :=
  ⟨on devE, 0, tunnelled 7 0 [], _, _, _, rfl, by decide +kernel, by decide +kernel, rfl, by decide +kernel, by decide +kernel,
  by decide +kernel, by decide +kernel, someOf (by decide +kernel), by decide +kernel⟩

theorem wit_ethernet_frames_act_9_forwarded :
    ∃ s : State, ∃ p : Nat, ∃ b : Bytes, ∃ d x, ∃ f : MortarFrame, s.dev = d ∧ d.serves ∧ p < 8 ∧ x = d.port p ∧ x.powered ∧
    x.modeActive = 0 ∧ x.linkUp ∧ d.fld Fld.FAB_TUNNEL_udp_port 0 ≠ 0 ∧ tunnelFrame b = some f ∧ f.hdr.kind ≤ 6 ∧ d.forMe f =
    false :=
  ⟨on devE, 0, tunnelled 2 3 [], _, _, _, rfl, by decide +kernel, by decide +kernel, rfl, by decide +kernel, by decide +kernel,
  by decide +kernel, by decide +kernel, someOf (by decide +kernel), by decide +kernel, by decide +kernel⟩

theorem wit_ethernet_frames_act_9_response :
    ∃ s : State, ∃ p : Nat, ∃ b : Bytes, ∃ d x, ∃ f : MortarFrame, s.dev = d ∧ d.serves ∧ p < 8 ∧ x = d.port p ∧ x.powered ∧
    x.modeActive = 0 ∧ x.linkUp ∧ d.fld Fld.FAB_TUNNEL_udp_port 0 ≠ 0 ∧ tunnelFrame b = some f ∧ f.hdr.kind = 4 ∧ d.forMe f ∧
    frameSourced f :=
  ⟨on devE, 0, tunnelled 4 1 [], _, _, _, rfl, by decide +kernel, by decide +kernel, rfl, by decide +kernel, by decide +kernel,
  by decide +kernel, by decide +kernel, someOf (by decide +kernel), by decide +kernel, by decide +kernel, by decide +kernel⟩

theorem wit_ethernet_frames_act_9_request :
    ∃ s : State, ∃ p : Nat, ∃ b : Bytes, ∃ d x, ∃ f : MortarFrame, s.dev = d ∧ d.serves ∧ p < 8 ∧ x = d.port p ∧ x.powered ∧
    x.modeActive = 0 ∧ x.linkUp ∧ d.fld Fld.FAB_TUNNEL_udp_port 0 ≠ 0 ∧ tunnelFrame b = some f ∧ f.hdr.kind ≠ 4 ∧ f.hdr.kind ≠ 7
    ∧ d.forMe f :=
  ⟨on devE, 0, tunnelled 2 1 [], _, _, _, rfl, by decide +kernel, by decide +kernel, rfl, by decide +kernel, by decide +kernel,
  by decide +kernel, by decide +kernel, someOf (by decide +kernel), by decide +kernel, by decide +kernel, by decide +kernel⟩

theorem wit_ethernet_frames_act_10 :
    ∃ s : State, ∃ p : Nat, ∃ b : Bytes, ∃ d x, s.dev = d ∧ d.serves ∧ p < 8 ∧ x = d.port p ∧ x.powered ∧ x.modeActive = 0 ∧ 16
    ≤ b.length ∧ slice b 0 4 = ascii "PSWK" ∧ leAt b 4 1 = 1 ∧ leAt b 5 1 % 2 = 0 ∧ slice b 8 8 = slice s.nv.identityDigest 0 8
    ∧ d.pwr.state = .sleep ∧ d.pwr.entering = none ∧ d.fld Fld.PWR_WAKE_EN_inbound 0 = 1 ∧ (d.fld Fld.PWR_WAKE_EN_keep_ports
    0).testBit p :=
  ⟨on (devEs none), 0, ascii "PSWK" ++ [1, 0, 0, 0, 0, 0, 0, 0, 0, 0, 0, 0], _, _, rfl, by decide +kernel, by decide +kernel,
  rfl, by decide +kernel, by decide +kernel, by decide +kernel, by decide +kernel, by decide +kernel, by decide +kernel,
  by decide +kernel, by decide +kernel, by decide +kernel, by decide +kernel, by decide +kernel⟩

/-- A request of queue pair 5 for memory at 4096 of the object 3, with `n` bytes. -/
def req5 (va n : Nat) : RoceReq := ⟨5, 3, BitVec.ofNat 64 va, n, List.replicate n 1, 0, 7⟩

/-- The queue pair with a receive count. -/
def devEc (n : Nat) : Dev := devE.setQp 5 { QpSt.idle with count := BitVec.ofNat 64 n }

theorem wit_roce_runs_1_long_send :
    ∃ s : State, ∃ d, ∃ r : RoceReq, s.dev = d ∧ d.serves ∧ d.roceFree r ∧ d.pwr.state = .run ∧ 4096 < r.data.length :=
  ⟨on devE, _, req5 4096 4097, rfl, by decide +kernel, by decide +kernel, by decide +kernel, by decide +kernel⟩

theorem wit_roce_runs_1_send_full :
    ∃ s : State, ∃ d, ∃ r : RoceReq, ∃ d1 : Dev, s.dev = d ∧ d.serves ∧ d.roceFree r ∧ d.pwr.state = .run ∧ r.data.length ≤ 4096
    ∧ d.receiveFull r.qp = (d1, .ok, true) :=
  ⟨on (devEc 2), _, req5 4096 8, _, rfl, by decide +kernel, by decide +kernel, by decide +kernel, by decide +kernel,
  okTripleWith (by decide +kernel)⟩

theorem wit_roce_runs_1_send :
    ∃ s : State, ∃ d, ∃ r : RoceReq, ∃ d1 : Dev, s.dev = d ∧ d.serves ∧ d.roceFree r ∧ d.pwr.state = .run ∧ r.data.length ≤ 4096
    ∧ d.receiveFull r.qp = (d1, .ok, false) :=
  ⟨on devE, _, req5 4096 8, _, rfl, by decide +kernel, by decide +kernel, by decide +kernel, by decide +kernel,
  okTripleWith (by decide +kernel)⟩

theorem wit_roce_runs_1_key :
    ∃ s : State, ∃ d, ∃ r : RoceReq, s.dev = d ∧ d.serves ∧ d.roceFree r ∧ d.pwr.state = .run ∧ d.rkeyOk r.qp r.rkey r.va
    r.data.length = false :=
  ⟨on devE, _, req5 0x100000 8, rfl, by decide +kernel, by decide +kernel, by decide +kernel, by decide +kernel⟩

theorem wit_roce_runs_1_write :
    ∃ s : State, ∃ d, ∃ r : RoceReq, ∃ d1 : Dev, ∃ ps : List RocePart, s.dev = d ∧ d.serves ∧ d.roceFree r ∧ d.pwr.state = .run
    ∧ d.rkeyOk r.qp r.rkey r.va r.data.length ∧ d.rocePlace r.qp r.va r.data.length accWrite = (d1, .ok, ps) ∧ remotePieces
    r.va.toNat ps = [] :=
  ⟨on devE, _, req5 4096 8, _, _, rfl, by decide +kernel, by decide +kernel, by decide +kernel, by decide +kernel,
  okTriple (by decide +kernel), by decide +kernel⟩

theorem wit_roce_runs_1_write_imm :
    ∃ s : State, ∃ d, ∃ r : RoceReq, ∃ d1 d2 : Dev, ∃ ps : List RocePart, s.dev = d ∧ d.serves ∧ d.roceFree r ∧ d.pwr.state =
    .run ∧ d.receiveFull r.qp = (d1, .ok, false) ∧ d1.rkeyOk r.qp r.rkey r.va r.data.length ∧ d1.rocePlace r.qp r.va
    r.data.length accWrite = (d2, .ok, ps) ∧ remotePieces r.va.toNat ps = [] :=
  ⟨on devE, _, req5 4096 8, _, _, _, rfl, by decide +kernel, by decide +kernel, by decide +kernel,
  okTripleWith (by decide +kernel), by decide +kernel, okTriple (by decide +kernel), by decide +kernel⟩

theorem wit_roce_runs_1_read :
    ∃ s : State, ∃ d, ∃ r : RoceReq, ∃ d1 : Dev, ∃ ps : List RocePart, s.dev = d ∧ d.serves ∧ d.roceFree r ∧ d.pwr.state = .run
    ∧ d.rkeyOk r.qp r.rkey r.va r.length ∧ d.rocePlace r.qp r.va r.length accRead = (d1, .ok, ps) ∧ remotePieces r.va.toNat ps =
    [] :=
  ⟨on devE, _, req5 4096 8, _, _, rfl, by decide +kernel, by decide +kernel, by decide +kernel, by decide +kernel,
  okTriple (by decide +kernel), by decide +kernel⟩

theorem wit_roce_runs_1_atomic_misaligned :
    ∃ s : State, ∃ d, ∃ r : RoceReq, s.dev = d ∧ d.serves ∧ d.roceFree r ∧ d.pwr.state = .run ∧ r.va.toNat % 8 ≠ 0 :=
  ⟨on devE, _, req5 4100 8, rfl, by decide +kernel, by decide +kernel, by decide +kernel, by decide +kernel⟩

theorem wit_roce_runs_1_atomic :
    ∃ s : State, ∃ d, ∃ r : RoceReq, ∃ op : RoceAtomicOp, ∃ d1 d2 : Dev, ∃ p : RocePart, ∃ a old : Nat, s.dev = d ∧ d.serves ∧
    d.roceFree r ∧ d.pwr.state = .run ∧ r.va.toNat % 8 = 0 ∧ d.rkeyOk r.qp r.rkey r.va 8 ∧ d.rocePlace r.qp r.va 8 accAtomic =
    (d1, .ok, [p]) ∧ p.at0 = .here a ∧ d1.atomicHome (d1.qpAsker r.qp) (bitsN p.leaf 7 6 ≠ 2) (some (bitsN p.leaf 53 52)) a 8
    (fun old => match op with | .fetchAdd v => some ((old + v.toNat) % 2 ^ 64) | .compareSwap c x => if old = c.toNat then some x.toNat else none)
    = (d2, .ok, old) :=
  ⟨on devE, _, req5 4096 8, .fetchAdd 1, _, _, ⟨4096, 8, .here 4096, leaf0⟩, 4096, 0, rfl, by decide +kernel, by decide +kernel,
  by decide +kernel, by decide +kernel, by decide +kernel, okTripleWith (by decide +kernel), by decide +kernel,
  okTripleWith (by decide +kernel)⟩

theorem wit_roce_runs_2 :
    ∃ s : State, ∃ d, ∃ r : RoceReq, ∃ i : Instr, ∃ op : RoceAtomicOp, s.dev = d ∧ d.serves ∧ d.roceFree r ∧ d.pwr.state =
    .sleep ∧ d.pwr.waking.isSome ∧ i ∈ [Instr.roceSend r, .roceRdmaWrite r, .roceRdmaWriteImm r, .roceRdmaRead r, .roceAtomic r
    op] ∧ d.pwr.entering = none :=
  ⟨on (devEs (some 1)), _, req5 4096 8, .roceSend (req5 4096 8), .fetchAdd 1, rfl, by decide +kernel, by decide +kernel,
  by decide +kernel, by decide +kernel, by simp, by decide +kernel⟩

theorem wit_roce_runs_3_cnp :
    ∃ s : State, ∃ d, ∃ q : Nat, ∃ x, ∃ t : Nat, s.dev = d ∧ d.serves ∧ d.qpReady q ∧ d.pwr.state = .run ∧ d.pwr.entering = none
    ∧ x = d.qp q ∧ (∀ t, x.cnpAt = some t → t + 50000 ≤ d.now) :=
  ⟨on devE, _, 5, _, 0, rfl, by decide +kernel, by decide +kernel, by decide +kernel, by decide +kernel, rfl,
  (fun _ h => nomatch (show (none : Option Nat) = some _ from h))⟩

theorem wit_roce_runs_3_soon :
    ∃ s : State, ∃ d, ∃ q : Nat, ∃ x, ∃ t : Nat, s.dev = d ∧ d.serves ∧ d.qpReady q ∧ d.pwr.state = .run ∧ d.pwr.entering = none
    ∧ x = d.qp q ∧ x.cnpAt = some t ∧ d.now < t + 50000 :=
  ⟨on (devE.setQp 5 { QpSt.idle with cnpAt := some 0 }), _, 5, _, 0, rfl, by decide +kernel, by decide +kernel,
  by decide +kernel, by decide +kernel, rfl, by decide +kernel, by decide +kernel⟩

theorem wit_roce_runs_3_recovery :
    ∃ s : State, ∃ d, ∃ q : Nat, ∃ x, s.dev = d ∧ d.serves ∧ d.qpReady q ∧ d.pwr.state = .run ∧ d.pwr.entering = none ∧ x = d.qp
    q ∧ x.quietAt + 55000 ≤ d.now :=
  ⟨on { devE with now := 55000 }, _, 5, _, rfl, by decide +kernel, by decide +kernel, by decide +kernel, by decide +kernel, rfl,
  by decide +kernel⟩

end Sys2Proof.Tests
end

