-- ==== Sys2Proof/Tests/Wit9.lean ====
section
/-! SUPPORT. Witnesses for the statements about Mortar requests, outstanding operations and links. -/

namespace Sys2Proof.Tests

open Sys2Proof Sys2Proof.Machine

set_option maxRecDepth 4000
set_option Elab.async false

/-- A frame of device 2 for device `dst` with slot 1. -/
def frameTo (dst kind op size addr lenDw : Nat) (pay : Bytes) (st : Nat) : MortarFrame :=
  ⟨⟨kind, 0, lenDw, 0, dst, 2, op, size, 1, 0, 0, BitVec.ofNat 16 st, BitVec.ofNat 64 addr⟩, pay, true⟩

/-- The address of the register window. -/
def regsAt : Nat := 0xFFFC000000

/-- A FENCE payload: a handle and a value. -/
def fenceFor (h v : Nat) : Bytes := leBytes 8 h ++ leBytes 8 v

theorem wit_mortar_requests_served_2_read :
    ∃ s : State, ∃ d d1, ∃ k : Nat, ∃ f : MortarFrame, ∃ a : Nat, ∃ d2 : Dev, ∃ bs : Bytes, s.dev = d ∧ d.serves ∧ d.pwr.state =
    .run ∧ d.pwr.entering = none ∧ d.frameGood k f ∧ d.forMe f ∧ frameSourced f ∧ frameWhole f ∧ d1 = d.frameTaken k f ∧ a =
    f.hdr.address.toNat % 2 ^ 40 ∧ f.hdr.kind = 1 ∧ (∀ o, regionOf a ≠ .regs o) ∧ d1.readAt Asker.none true a (4 * f.hdr.lenDw)
    = (d2, .ok, bs) :=
  ⟨on devO, _, _, 0, frameTo 1 1 0 0 4096 2 [] 0, 4096, _, _, rfl, by decide +kernel, by decide +kernel, by decide +kernel,
  by decide +kernel, by decide +kernel, by decide +kernel, by decide +kernel, rfl, rfl, by decide +kernel,
  (fun _ h => nomatch (show Region.dram 4096 = _ from h)), okTriple (by decide +kernel)⟩

theorem wit_mortar_requests_served_2_window_read :
    ∃ s : State, ∃ d d1, ∃ k : Nat, ∃ f : MortarFrame, ∃ a o : Nat, s.dev = d ∧ d.serves ∧ d.pwr.state = .run ∧ d.pwr.entering =
    none ∧ d.frameGood k f ∧ d.forMe f ∧ frameSourced f ∧ frameWhole f ∧ d1 = d.frameTaken k f ∧ a = f.hdr.address.toNat % 2 ^
    40 ∧ f.hdr.kind = 1 ∧ regionOf a = .regs o ∧ d1.mayReadWindow f.hdr.src o :=
  ⟨on devO, _, _, 0, frameTo 1 1 0 0 regsAt 1 [] 0, _, 0, rfl, by decide +kernel, by decide +kernel, by decide +kernel,
  by decide +kernel, by decide +kernel, by decide +kernel, by decide +kernel, rfl, rfl, by decide +kernel, by decide +kernel,
  by decide +kernel⟩

theorem wit_mortar_requests_served_2_window_denied :
    ∃ s : State, ∃ d d1, ∃ k : Nat, ∃ f : MortarFrame, ∃ a o : Nat, s.dev = d ∧ d.serves ∧ d.pwr.state = .run ∧ d.pwr.entering =
    none ∧ d.frameGood k f ∧ d.forMe f ∧ frameSourced f ∧ frameWhole f ∧ d1 = d.frameTaken k f ∧ a = f.hdr.address.toNat % 2 ^
    40 ∧ f.hdr.kind = 1 ∧ regionOf a = .regs o ∧ d1.mayReadWindow f.hdr.src o = false :=
  ⟨on devO, _, _, 0, frameTo 1 1 0 0 (regsAt + 0x200000) 1 [] 0, _, 0x200000, rfl, by decide +kernel, by decide +kernel,
  by decide +kernel, by decide +kernel, by decide +kernel, by decide +kernel, by decide +kernel, rfl, rfl, by decide +kernel,
  by decide +kernel, by decide +kernel⟩

theorem wit_mortar_requests_served_2_write :
    ∃ s : State, ∃ d d1, ∃ k : Nat, ∃ f : MortarFrame, ∃ a : Nat, ∃ d2 : Dev, s.dev = d ∧ d.serves ∧ d.pwr.state = .run ∧
    d.pwr.entering = none ∧ d.frameGood k f ∧ d.forMe f ∧ frameSourced f ∧ frameWhole f ∧ d1 = d.frameTaken k f ∧ a =
    f.hdr.address.toNat % 2 ^ 40 ∧ f.hdr.kind = 2 ∧ (∀ o, regionOf a ≠ .regs o) ∧ d1.localWrite Asker.none true none (.device
    f.hdr.src) a f.payload = (d2, .ok) :=
  ⟨on devO, _, _, 0, frameTo 1 2 0 0 4096 2 (leBytes 8 5) 0, 4096, _, rfl, by decide +kernel, by decide +kernel,
  by decide +kernel, by decide +kernel, by decide +kernel, by decide +kernel, by decide +kernel, rfl, rfl, by decide +kernel,
  (fun _ h => nomatch (show Region.dram 4096 = _ from h)), okPair (by decide +kernel)⟩

theorem wit_mortar_requests_served_2_window_write :
    ∃ s : State, ∃ d d1, ∃ k : Nat, ∃ f : MortarFrame, ∃ a : Nat, ∃ st : Half, ∃ o : Nat, ∃ d2 : Dev, s.dev = d ∧ d.serves ∧
    d.pwr.state = .run ∧ d.pwr.entering = none ∧ d.frameGood k f ∧ d.forMe f ∧ frameSourced f ∧ frameWhole f ∧ d1 = d.frameTaken
    k f ∧ a = f.hdr.address.toNat % 2 ^ 40 ∧ f.hdr.kind = 2 ∧ regionOf a = .regs o ∧ d1.windowWrite s.nv (.mortar f.hdr.src) o
    f.payload.length (BitVec.ofNat 64 (leNat f.payload)) = (d2, st) :=
  ⟨on devO, _, _, 0, frameTo 1 2 0 0 regsAt 1 (leBytes 4 5) 0, _, _, 0, _, rfl, by decide +kernel, by decide +kernel,
  by decide +kernel, by decide +kernel, by decide +kernel, by decide +kernel, by decide +kernel, rfl, rfl, by decide +kernel,
  by decide +kernel, pairEta _⟩

theorem wit_mortar_requests_served_2_atomic :
    ∃ s : State, ∃ d d1, ∃ k : Nat, ∃ f : MortarFrame, ∃ a : Nat, ∃ op : AtomOp, ∃ n : Nat, ∃ d2 : Dev, ∃ old : Nat, s.dev = d ∧
    d.serves ∧ d.pwr.state = .run ∧ d.pwr.entering = none ∧ d.frameGood k f ∧ d.forMe f ∧ frameSourced f ∧ frameWhole f ∧ d1 =
    d.frameTaken k f ∧ a = f.hdr.address.toNat % 2 ^ 40 ∧ f.hdr.kind = 3 ∧ atomOfCode f.hdr.op f.hdr.size = some (op, n) ∧ (∀ o,
    regionOf a ≠ .regs o) ∧ (∀ i o, regionOf a ≠ .doorbell i o) ∧ d1.atomicHome Asker.none true none a n (fun old => op.result n
    old (atomPayload op f.payload)) = (d2, .ok, old) :=
  ⟨on devO, _, _, 0, frameTo 1 3 4 2 4096 0 (leBytes 8 5) 0, 4096, .add .add, 8, _, 7, rfl, by decide +kernel,
  by decide +kernel, by decide +kernel, by decide +kernel, by decide +kernel, by decide +kernel, by decide +kernel, rfl, rfl,
  by decide +kernel, by decide +kernel, (fun _ h => nomatch (show Region.dram 4096 = _ from h)),
  (fun _ _ h => nomatch (show Region.dram 4096 = _ from h)), okTripleWith (by decide +kernel)⟩

theorem wit_mortar_requests_served_2_doorbell :
    ∃ s : State, ∃ d d1, ∃ k : Nat, ∃ f : MortarFrame, ∃ a : Nat, s.dev = d ∧ d.serves ∧ d.pwr.state = .run ∧ d.pwr.entering =
    none ∧ d.frameGood k f ∧ d.forMe f ∧ frameSourced f ∧ frameWhole f ∧ d1 = d.frameTaken k f ∧ a = f.hdr.address.toNat % 2 ^
    40 ∧ f.hdr.kind = 5 ∧ f.hdr.address.toNat < 1024 :=
  ⟨on devO, _, _, 0, frameTo 1 5 0 0 8 0 (leBytes 8 1) 0, _, rfl, by decide +kernel, by decide +kernel, by decide +kernel,
  by decide +kernel, by decide +kernel, by decide +kernel, by decide +kernel, rfl, rfl, by decide +kernel, by decide +kernel⟩

theorem wit_mortar_requests_served_2_signal :
    ∃ s : State, ∃ d d1, ∃ k : Nat, ∃ f : MortarFrame, ∃ a : Nat, ∃ d2 : Dev, ∃ i : Instr, s.dev = d ∧ d.serves ∧ d.pwr.state =
    .run ∧ d.pwr.entering = none ∧ d.frameGood k f ∧ d.forMe f ∧ frameSourced f ∧ frameWhole f ∧ d1 = d.frameTaken k f ∧ a =
    f.hdr.address.toNat % 2 ^ 40 ∧ f.hdr.kind = 6 ∧ d1.homeFence (wideAt f.payload 0) = Sts.ok ∧ ((i = .mortarFenceSignal k f ∧
    f.hdr.op = 0 ∧ d1.signalEntry gotikRing 0 (handleIndex (wideAt f.payload 0)) (some (wideAt f.payload 8)) = (d2, .ok)) ∨ (i =
    .mortarFenceIncrement k f ∧ f.hdr.op = 1 ∧ d1.signalEntry gotikRing 0 (handleIndex (wideAt f.payload 0)) none = (d2, .ok)))
    :=
  ⟨on devO, _, _, 0, frameTo 1 6 0 0 0 0 (fenceFor (handle typFence 1) 9) 0, _, _,
  .mortarFenceSignal 0 (frameTo 1 6 0 0 0 0 (fenceFor (handle typFence 1) 9) 0), rfl, by decide +kernel, by decide +kernel,
  by decide +kernel, by decide +kernel, by decide +kernel, by decide +kernel, by decide +kernel, rfl, rfl, by decide +kernel,
  by decide +kernel, Or.inl ⟨rfl, by decide +kernel, okPair (by decide +kernel)⟩⟩

theorem wit_mortar_requests_served_2_increment :
    ∃ s : State, ∃ d d1, ∃ k : Nat, ∃ f : MortarFrame, ∃ a : Nat, ∃ d2 : Dev, ∃ i : Instr, s.dev = d ∧ d.serves ∧ d.pwr.state =
    .run ∧ d.pwr.entering = none ∧ d.frameGood k f ∧ d.forMe f ∧ frameSourced f ∧ frameWhole f ∧ d1 = d.frameTaken k f ∧ a =
    f.hdr.address.toNat % 2 ^ 40 ∧ f.hdr.kind = 6 ∧ d1.homeFence (wideAt f.payload 0) = Sts.ok ∧ ((i = .mortarFenceSignal k f ∧
    f.hdr.op = 0 ∧ d1.signalEntry gotikRing 0 (handleIndex (wideAt f.payload 0)) (some (wideAt f.payload 8)) = (d2, .ok)) ∨ (i =
    .mortarFenceIncrement k f ∧ f.hdr.op = 1 ∧ d1.signalEntry gotikRing 0 (handleIndex (wideAt f.payload 0)) none = (d2, .ok)))
    :=
  ⟨on devO, _, _, 0, frameTo 1 6 1 0 0 0 (fenceFor (handle typFence 1) 9) 0, _, _,
  .mortarFenceIncrement 0 (frameTo 1 6 1 0 0 0 (fenceFor (handle typFence 1) 9) 0), rfl, by decide +kernel, by decide +kernel,
  by decide +kernel, by decide +kernel, by decide +kernel, by decide +kernel, by decide +kernel, rfl, rfl, by decide +kernel,
  by decide +kernel, Or.inr ⟨rfl, by decide +kernel, okPair (by decide +kernel)⟩⟩

theorem wit_mortar_requests_served_2_update :
    ∃ s : State, ∃ d d1, ∃ k : Nat, ∃ f : MortarFrame, ∃ a : Nat, s.dev = d ∧ d.serves ∧ d.pwr.state = .run ∧ d.pwr.entering =
    none ∧ d.frameGood k f ∧ d.forMe f ∧ frameSourced f ∧ frameWhole f ∧ d1 = d.frameTaken k f ∧ a = f.hdr.address.toNat % 2 ^
    40 ∧ f.hdr.kind = 6 ∧ f.hdr.op = 2 ∧ d1.mirrorsOf f.hdr.src (wideAt f.payload 0) ≠ [] :=
  ⟨on devO, _, _, 0, frameTo 1 6 2 0 0 0 (fenceFor 0x300000000000005 9) 0, _, rfl, by decide +kernel, by decide +kernel,
  by decide +kernel, by decide +kernel, by decide +kernel, by decide +kernel, by decide +kernel, rfl, rfl, by decide +kernel,
  by decide +kernel, by decide +kernel⟩

theorem wit_mortar_requests_served_2_subscribe :
    ∃ s : State, ∃ d d1, ∃ k : Nat, ∃ f : MortarFrame, ∃ a i : Nat, ∃ subs : List Nat, ∃ off : Nat, ∃ d2 : Dev, ∃ v : Bytes,
    s.dev = d ∧ d.serves ∧ d.pwr.state = .run ∧ d.pwr.entering = none ∧ d.frameGood k f ∧ d.forMe f ∧ frameSourced f ∧
    frameWhole f ∧ d1 = d.frameTaken k f ∧ a = f.hdr.address.toNat % 2 ^ 40 ∧ f.hdr.kind = 6 ∧ f.hdr.op = 3 ∧ d1.homeFence
    (wideAt f.payload 0) = Sts.ok ∧ d1.sharedGate = .ok ∧ i = handleIndex (wideAt f.payload 0) ∧ subs = NMap.getD d1.sub.exports
    i [] ∧ (subs ≠ [] ∨ d1.fabricSlots < 256) ∧ (f.hdr.src ∈ subs ∨ subs.eraseDups.length < 64) ∧ (d1.entry i).payload.word =
    some off ∧ d1.localRead off 8 = (d2, .ok, v) :=
  ⟨on devO, _, _, 0, frameTo 1 6 3 0 0 0 (fenceFor (handle typFence 1) 0) 0, _, _, _, 4096, _, _, rfl, by decide +kernel,
  by decide +kernel, by decide +kernel, by decide +kernel, by decide +kernel, by decide +kernel, by decide +kernel, rfl, rfl,
  by decide +kernel, by decide +kernel, by decide +kernel, by decide +kernel, rfl, rfl, by decide +kernel, by decide +kernel,
  by decide +kernel, okTriple (by decide +kernel)⟩

theorem wit_mortar_requests_served_2_unsubscribe :
    ∃ s : State, ∃ d d1, ∃ k : Nat, ∃ f : MortarFrame, ∃ a i : Nat, ∃ subs : List Nat, s.dev = d ∧ d.serves ∧ d.pwr.state = .run
    ∧ d.pwr.entering = none ∧ d.frameGood k f ∧ d.forMe f ∧ frameSourced f ∧ frameWhole f ∧ d1 = d.frameTaken k f ∧ a =
    f.hdr.address.toNat % 2 ^ 40 ∧ f.hdr.kind = 6 ∧ f.hdr.op = 4 ∧ d1.current (wideAt f.payload 0) ∧ i = handleIndex (wideAt
    f.payload 0) ∧ subs = (NMap.getD d1.sub.exports i []).erase f.hdr.src :=
  ⟨on devO, _, _, 0, frameTo 1 6 4 0 0 0 (fenceFor (handle typFence 1) 0) 0, _, _, _, rfl, by decide +kernel, by decide +kernel,
  by decide +kernel, by decide +kernel, by decide +kernel, by decide +kernel, by decide +kernel, rfl, rfl, by decide +kernel,
  by decide +kernel, by decide +kernel, rfl, rfl⟩

theorem wit_mortar_requests_served_2_end :
    ∃ s : State, ∃ d d1, ∃ k : Nat, ∃ f : MortarFrame, ∃ a : Nat, s.dev = d ∧ d.serves ∧ d.pwr.state = .run ∧ d.pwr.entering =
    none ∧ d.frameGood k f ∧ d.forMe f ∧ frameSourced f ∧ frameWhole f ∧ d1 = d.frameTaken k f ∧ a = f.hdr.address.toNat % 2 ^
    40 ∧ f.hdr.kind = 6 ∧ f.hdr.op = 5 :=
  ⟨on devO, _, _, 0, frameTo 1 6 5 0 0 0 (fenceFor 0x300000000000005 0) 0, _, rfl, by decide +kernel, by decide +kernel,
  by decide +kernel, by decide +kernel, by decide +kernel, by decide +kernel, by decide +kernel, rfl, rfl, by decide +kernel,
  by decide +kernel⟩

theorem wit_mortar_requests_served_3 :
    ∃ s : State, ∃ d d1, ∃ k : Nat, ∃ f : MortarFrame, s.dev = d ∧ d.serves ∧ d.frameGood k f ∧ d1 = d.frameTaken k f ∧ d.forMe
    f = false ∧ frameSourced f ∧ 1 ≤ f.hdr.kind ∧ f.hdr.kind ≤ 6 ∧ f.hdr.dst ≠ 0xFFF :=
  ⟨on devO, _, _, 0, frameTo 3 1 0 0 4096 2 [] 0, rfl, by decide +kernel, by decide +kernel, rfl, by decide +kernel,
  by decide +kernel, by decide +kernel, by decide +kernel, by decide +kernel⟩

/-- An operation in slot 1 of the command of ring 8, and the device that waits for it. -/
def op1 : FabOp := ⟨1, 0, 8, 1, 0, 1, 0, 0, 2, 0, 64, some 1, 4096, .cmd, [], 0, false, false⟩

def devOp : Dev := (devO.withCmds [cmd0 0]).withOps [op1]

/-- A read of 64 bytes of device 2 for Gotik, and the device that holds it. -/
def access1 : RemoteAccess := ⟨none, 0, none, 0, 1, 0, 0, 2, 0, 64, []⟩

def devHeld : Dev := { devO with fab := { devO.fab with held := [(access1, 0)] } }

theorem wit_mortar_operations_1_stale :
    ∃ s : State, ∃ d d1, ∃ k : Nat, ∃ f : MortarFrame, s.dev = d ∧ d.serves ∧ d.frameGood k f ∧ d.forMe f ∧ frameSourced f ∧
    f.hdr.kind = 4 ∧ d1 = d.frameTaken k f ∧ d1.fab.ops.find? (fun o => o.slot = f.hdr.slot && o.gen = f.hdr.slotGen) = none :=
  ⟨on devO, _, _, 0, frameTo 1 4 0 0 0 0 [] 0, rfl, by decide +kernel, by decide +kernel, by decide +kernel, by decide +kernel,
  by decide +kernel, rfl, by decide +kernel⟩

theorem wit_mortar_operations_1_other_epoch :
    ∃ s : State, ∃ d d1, ∃ k : Nat, ∃ f : MortarFrame, ∃ o : FabOp, ∃ d2 : Dev, s.dev = d ∧ d.serves ∧ d.frameGood k f ∧ d.forMe
    f ∧ frameSourced f ∧ f.hdr.kind = 4 ∧ d1 = d.frameTaken k f ∧ d1.fab.ops.find? (fun o => o.slot = f.hdr.slot && o.gen =
    f.hdr.slotGen) = some o ∧ d2 = (d1.withOps (d1.fab.ops.filter (fun x => x.slot ≠ o.slot))).dropHolds ∧ (f.hdr.epoch ≠
    o.epoch ∨ d2.deliverable o = false) :=
  ⟨on (devOp.modRing 8 (fun r => { r with epoch := 1 })), _, _, 0, frameTo 1 4 0 0 0 0 [] 0, op1, _, rfl, by decide +kernel,
  by decide +kernel, by decide +kernel, by decide +kernel, by decide +kernel, rfl, by decide +kernel, rfl, by decide +kernel⟩

theorem wit_mortar_operations_1_ok :
    ∃ s : State, ∃ d d1, ∃ k : Nat, ∃ f : MortarFrame, ∃ o : FabOp, ∃ d2 : Dev, s.dev = d ∧ d.serves ∧ d.frameGood k f ∧ d.forMe
    f ∧ frameSourced f ∧ f.hdr.kind = 4 ∧ d1 = d.frameTaken k f ∧ d1.fab.ops.find? (fun o => o.slot = f.hdr.slot && o.gen =
    f.hdr.slotGen) = some o ∧ d2 = (d1.withOps (d1.fab.ops.filter (fun x => x.slot ≠ o.slot))).dropHolds ∧ f.hdr.epoch = o.epoch
    ∧ d2.deliverable o ∧ f.hdr.status = Sts.ok :=
  ⟨on devOp, _, _, 0, frameTo 1 4 0 0 0 16 (List.replicate 64 1) 0, op1, _, rfl, by decide +kernel, by decide +kernel,
  by decide +kernel, by decide +kernel, by decide +kernel, rfl, by decide +kernel, rfl, by decide +kernel, by decide +kernel,
  by decide +kernel⟩

theorem wit_mortar_operations_1_failed :
    ∃ s : State, ∃ d d1, ∃ k : Nat, ∃ f : MortarFrame, ∃ o : FabOp, ∃ d2 : Dev, s.dev = d ∧ d.serves ∧ d.frameGood k f ∧ d.forMe
    f ∧ frameSourced f ∧ f.hdr.kind = 4 ∧ d1 = d.frameTaken k f ∧ d1.fab.ops.find? (fun o => o.slot = f.hdr.slot && o.gen =
    f.hdr.slotGen) = some o ∧ d2 = (d1.withOps (d1.fab.ops.filter (fun x => x.slot ≠ o.slot))).dropHolds ∧ f.hdr.epoch = o.epoch
    ∧ d2.deliverable o ∧ f.hdr.status ≠ Sts.ok :=
  ⟨on devOp, _, _, 0, frameTo 1 4 0 0 0 0 [] 5, op1, _, rfl, by decide +kernel, by decide +kernel, by decide +kernel,
  by decide +kernel, by decide +kernel, rfl, by decide +kernel, rfl, by decide +kernel, by decide +kernel, by decide +kernel⟩

theorem wit_mortar_operations_2 :
    ∃ s : State, ∃ d d1 d2, ∃ n : Nat, ∃ o, s.dev = d ∧ d.serves ∧ d.fab.ops.find? (fun o => o.slot = n) = some o ∧ d1 =
    (d.advanceTo (o.issued + (if o.tunnel then 1000000 * d.fld Fld.FAB_OP_TIMEOUT_tunnel_ms 0 else 1000 * d.fld
    Fld.FAB_OP_TIMEOUT_native_us 0))) ∧ d2 = (d1.withOps (d1.fab.ops.filter (fun x => x.slot ≠ o.slot))).dropHolds ∧
    d2.deliverable o :=
  ⟨on devOp, _, _, _, 1, op1, rfl, by decide +kernel, by decide +kernel, rfl, rfl, by decide +kernel⟩

/-- A read for lane 31 of the block of ring 8, and a device with that block. -/
def accessB : RemoteAccess := ⟨some 8, 1, some 0, 31, 1, 0, 0, 2, 0, 64, []⟩

def devOB : Dev := { devO with bricks := [(0, { Brick.fresh with split := 1, ls := Store.zero, blocks := [blk0] })] }

theorem wit_mortar_operations_3 :
    ∃ s : State, ∃ d g b, ∃ r : RemoteAccess, ∃ n : Nat, ∃ x, s.dev = d ∧ d.serves ∧ r.ring = some g ∧ r.block = some b ∧
    r.device ≠ d.addr ∧ 1 ≤ r.kind ∧ r.kind ≤ 3 ∧ d.findBlock ⟨g, r.serial, b⟩ = some (n, x) ∧ x.runs r.thread ∧ ((d.ring
    g).saving && x.stage = .compute) = false :=
  ⟨on devOB, _, 8, 0, accessB, 0, blk0, rfl, by decide +kernel, by decide +kernel, by decide +kernel, by decide +kernel,
  by decide +kernel, by decide +kernel, by decide +kernel, by decide +kernel, by decide +kernel⟩

theorem wit_mortar_operations_4 :
    ∃ s : State, ∃ d d1, ∃ r : RemoteAccess, ∃ p, s.dev = d ∧ d.serves ∧ d.issuer r ∧ r.block = none ∧ r.device ≠ d.addr ∧ 1 ≤
    r.kind ∧ r.kind ≤ 3 ∧ d.fab.held.any (fun x => x.1.device = r.device) = false ∧ accessPieces r = [p] ∧ d.issue (accessPiece
    r p.1 p.2.1 p.2.2) = (d1, .ok) :=
  ⟨on devO, _, _, access1, (0, 64, 0), rfl, by decide +kernel, by decide +kernel, by decide +kernel, by decide +kernel,
  by decide +kernel, by decide +kernel, by decide +kernel, by decide +kernel, okPair (by decide +kernel)⟩

theorem wit_mortar_operations_5 :
    ∃ s : State, ∃ d, ∃ r : RemoteAccess, s.dev = d ∧ d.serves ∧ d.issuer r ∧ r.block = none ∧ r.device ≠ d.addr ∧ 1 ≤ r.kind ∧
    r.kind ≤ 3 ∧ d.fab.held.any (fun x => x.1.device = r.device) ∧ d.route r.device ≠ .none :=
  ⟨on devHeld, _, access1, rfl, by decide +kernel, by decide +kernel, by decide +kernel, by decide +kernel, by decide +kernel,
  by decide +kernel, by decide +kernel, by decide +kernel⟩

theorem wit_mortar_operations_6 :
    ∃ s : State, ∃ d d1, ∃ i : Nat, ∃ r : RemoteAccess, ∃ since : Nat, ∃ p, s.dev = d ∧ d.serves ∧ d.fab.held[i]? = some (r,
    since) ∧ (d.fab.held.take i).any (fun x => x.1.device = r.device) = false ∧ d.route r.device ≠ .pending ∧
    ({ d with fab := { d.fab with held := d.fab.held.eraseIdx i } } : Dev).issuer r ∧ accessPieces r = [p] ∧
    ({ d with fab := { d.fab with held := d.fab.held.eraseIdx i } } : Dev).issue (accessPiece r p.1 p.2.1 p.2.2) = (d1, .ok) :=
  ⟨on devHeld, _, _, 0, access1, 0, (0, 64, 0), rfl, by decide +kernel, by decide +kernel, by decide +kernel, by decide +kernel,
  by decide +kernel, by decide +kernel, okPair (by decide +kernel)⟩

/-- A port with two frames that are not acknowledged, and a device whose port 0 is that port. -/
def linkU (replays : Nat) : Port :=
  { link0 with unacked := [frameTo 2 1 0 0 0 2 [] 0, { frameTo 2 1 0 0 0 2 [] 0 with hdr := { (frameTo 2 1 0 0 0 2 [] 0).hdr with linkSeq := 1 } }], txSeq := 2, replays := replays }

def devLk (x : Port) : Dev := { devO with fab := { devO.fab with ports := [(0, x)] } }

/-- A LINK frame: ACK or NAK of frame 0. -/
def linkFrame (op : Nat) : MortarFrame := frameTo 0xFFF 8 op 0 0 0 (List.replicate 16 0) 0

theorem wit_links_run_1_ack :
    ∃ s : State, ∃ d, ∃ k : Nat, ∃ f : MortarFrame, ∃ x d1, s.dev = d ∧ d.serves ∧ x = d.port k ∧ x.modeActive = 1 ∧ x.linkUp ∧
    f.crcOk ∧ f.hdr.kind = 8 ∧ f.payload.length = 16 ∧ d1 = (d.setPort k (x.acknowledge d.now (bitsN f.hdr.address 11 0)
    f.payload)).rxBytes k 44 ∧ f.hdr.op = 0 :=
  ⟨on (devLk (linkU 0)), _, 0, linkFrame 0, _, _, rfl, by decide +kernel, rfl, by decide +kernel, by decide +kernel,
  by decide +kernel, by decide +kernel, by decide +kernel, rfl, by decide +kernel⟩

theorem wit_links_run_1_nak :
    ∃ s : State, ∃ d, ∃ k : Nat, ∃ f : MortarFrame, ∃ x d1, s.dev = d ∧ d.serves ∧ x = d.port k ∧ x.modeActive = 1 ∧ x.linkUp ∧
    f.crcOk ∧ f.hdr.kind = 8 ∧ f.payload.length = 16 ∧ d1 = (d.setPort k (x.acknowledge d.now (bitsN f.hdr.address 11 0)
    f.payload)).rxBytes k 44 ∧ f.hdr.op = 1 :=
  ⟨on (devLk (linkU 0)), _, 0, linkFrame 1, _, _, rfl, by decide +kernel, rfl, by decide +kernel, by decide +kernel,
  by decide +kernel, by decide +kernel, by decide +kernel, rfl, by decide +kernel⟩

theorem wit_links_run_2 :
    ∃ x : Port, ∃ seq i : Nat, x.unacked.findIdx? (fun g => g.hdr.linkSeq = seq) = some i :=
  ⟨linkU 0, 1, 1, by decide +kernel⟩

theorem wit_links_run_3_count :
    ∃ s : State, ∃ d, ∃ k : Nat, ∃ x d1, s.dev = d ∧ d.serves ∧ x = d.port k ∧ x.modeActive = 1 ∧ x.linkUp ∧ d1 = (if 64 ≤
    x.framesIn then d else d.advanceTo (x.lastLink + 1000)) :=
  ⟨on (devLk { linkU 0 with framesIn := 64 }), _, 0, _, _, rfl, by decide +kernel, rfl, by decide +kernel, by decide +kernel,
  rfl⟩

theorem wit_links_run_3_time :
    ∃ s : State, ∃ d, ∃ k : Nat, ∃ x d1, s.dev = d ∧ d.serves ∧ x = d.port k ∧ x.modeActive = 1 ∧ x.linkUp ∧ d1 = (if 64 ≤
    x.framesIn then d else d.advanceTo (x.lastLink + 1000)) :=
  ⟨on devO, _, 0, _, _, rfl, by decide +kernel, rfl, by decide +kernel, by decide +kernel, rfl⟩

theorem wit_links_run_4 :
    ∃ d : Dev, ∃ k : Nat, ∃ x, x = d.port k :=
  ⟨devO, 0, _, rfl⟩

theorem wit_links_run_5_crc :
    ∃ s : State, ∃ d, ∃ k : Nat, ∃ f : MortarFrame, ∃ x, s.dev = d ∧ d.serves ∧ x = d.port k ∧ x.modeActive = 1 ∧ x.linkUp ∧
    (f.crcOk = false ∨ (f.hdr.kind ≠ 8 ∧ f.hdr.linkSeq ≠ x.rxSeq)) :=
  ⟨on devO, _, 0, { frameTo 1 1 0 0 0 2 [] 0 with crcOk := false }, _, rfl, by decide +kernel, rfl, by decide +kernel,
  by decide +kernel, by decide +kernel⟩

theorem wit_links_run_5_order :
    ∃ s : State, ∃ d, ∃ k : Nat, ∃ f : MortarFrame, ∃ x, s.dev = d ∧ d.serves ∧ x = d.port k ∧ x.modeActive = 1 ∧ x.linkUp ∧
    (f.crcOk = false ∨ (f.hdr.kind ≠ 8 ∧ f.hdr.linkSeq ≠ x.rxSeq)) :=
  ⟨on (devLk { link0 with rxSeq := 5 }), _, 0, frameTo 1 1 0 0 0 2 [] 0, _, rfl, by decide +kernel, rfl, by decide +kernel,
  by decide +kernel, by decide +kernel⟩

theorem wit_links_run_6 :
    ∃ s : State, ∃ d d1, ∃ k : Nat, ∃ x, s.dev = d ∧ d.serves ∧ x = d.port k ∧ x.modeActive = 1 ∧ x.linkUp ∧ x.unacked ≠ [] ∧
    x.replays < 16 ∧ d1 = d.advanceTo (x.lastProgress + 10000) :=
  ⟨on (devLk (linkU 15)), _, _, 0, _, rfl, by decide +kernel, rfl, by decide +kernel, by decide +kernel, by decide +kernel,
  by decide +kernel, rfl⟩

theorem wit_links_run_7 :
    ∃ s : State, ∃ d d1, ∃ k : Nat, ∃ x, s.dev = d ∧ d.serves ∧ x = d.port k ∧ x.modeActive = 1 ∧ x.linkUp ∧ x.unacked ≠ [] ∧ 16
    ≤ x.replays ∧ d1 = d.advanceTo (x.lastProgress + 10000) :=
  ⟨on (devLk (linkU 16)), _, _, 0, _, rfl, by decide +kernel, rfl, by decide +kernel, by decide +kernel, by decide +kernel,
  by decide +kernel, rfl⟩

theorem wit_links_run_8 :
    ∃ s : State, ∃ d, ∃ k : Nat, ∃ x, s.dev = d ∧ d.serves ∧ x = d.port k ∧ x.linkUp ∧ x.queued = [] :=
  ⟨on devO, _, 0, _, rfl, by decide +kernel, rfl, by decide +kernel, by decide +kernel⟩

theorem wit_links_run_9 :
    ∃ s : State, ∃ d, ∃ k : Nat, ∃ x, s.dev = d ∧ d.serves ∧ x = d.port k ∧ x.powered ∧ x.modeActive < 2 ∧ x.linkUp = false :=
  ⟨on (devLk { link0 with linkUp := false }), _, 0, _, rfl, by decide +kernel, rfl, by decide +kernel, by decide +kernel,
  by decide +kernel⟩

end Sys2Proof.Tests
end

section
/-! PROOF. Signals of a fence word: its new value by the kind of signal, and the terminal value (R309, R310). -/

namespace Sys2Proof.Machine

theorem signalValue_terminal (v : Option Wide) : signalValue (BitVec.allOnes 64) v = none := if_pos rfl

theorem signalValue_increment {w : Wide} (h : w ≠ BitVec.allOnes 64) : signalValue w none = some (w + 1) := if_neg h

theorem signalValue_max {w : Wide} (v : Wide) (h : w ≠ BitVec.allOnes 64) :
    signalValue w (some v) = if w < v then some v else none := if_neg h

theorem getD_signalValue_increment (w : Wide) :
    (signalValue w none).getD w = if w = BitVec.allOnes 64 then w else w + 1 := by
  split
  case isTrue h => rw [h, signalValue_terminal, Option.getD_none]
  case isFalse h => rw [signalValue_increment h, Option.getD_some]

theorem getD_signalValue_max (w v : Wide) :
    (signalValue w (some v)).getD w = if w = BitVec.allOnes 64 ∨ v ≤ w then w else v := by
  by_cases h : w = BitVec.allOnes 64
  · rw [if_pos (.inl h), h, signalValue_terminal, Option.getD_none]
  · rw [signalValue_max v h]
    by_cases hv : v ≤ w
    · rw [if_neg (BitVec.not_lt.mpr hv), if_pos (.inr hv), Option.getD_none]
    · rw [if_pos (BitVec.not_le.mp hv), if_neg (not_or.mpr ⟨h, hv⟩), Option.getD_some]

/-- No signal wraps a word (R310): the value it leaves is no lower. -/
theorem le_getD_signalValue (w : Wide) (v : Option Wide) : w ≤ (signalValue w v).getD w := by
  cases v with
  | none =>
    rw [getD_signalValue_increment]
    split
    case isTrue => exact BitVec.le_refl w
    case isFalse h => exact BitVec.le_of_lt (BitVec.lt_add_one h)
  | some v =>
    rw [getD_signalValue_max]
    split
    case isTrue => exact BitVec.le_refl w
    case isFalse h => exact BitVec.le_of_lt (BitVec.not_le.mp (not_or.mp h).2)

/-- A signal of a word that reads all ones adds 1 to SUB_FENCE_TERMINAL and writes nothing (R310). -/
theorem Dev.signalWord_terminal {d d1 : Dev} {off : Nat} {bs : Bytes} (v : Option Wide)
    (hread : d.localRead off 8 = (d1, .ok, bs)) (hw : BitVec.ofNat 64 (leNat bs) = BitVec.allOnes 64) :
    d.signalWord off v = (false, d1.bump Fld.SUB_FENCE_TERMINAL_count 0 1) := by
  simp only [Dev.signalWord, hread, hw, if_true]

/-- Settles O15: the terminal word by the read that a signal makes of it, the others by the new value for each kind of signal. -/
theorem signalRule : Obligations.SignalRule := by
  refine ⟨fun d d1 off v bs hread hw => Dev.signalWord_terminal v hread hw, ?_, le_getD_signalValue, getD_signalValue_max,
    getD_signalValue_increment⟩
  rw [signalValue_increment (by decide), BitVec.sub_add_cancel]

end Sys2Proof.Machine
end

section
/-! PROOF. What a doorbell write does on a device in RUN (R298, R453). -/

namespace Sys2Proof.Machine

/-! ## The sources that a ring accepts -/

@[simp] theorem Ring.accepts_local (r : Ring) : r.accepts .local = true := rfl

@[simp] theorem Ring.accepts_device_iff (r : Ring) (a : Nat) :
    r.accepts (.device a) = true ↔ r.dbSource = 0 ∨ (r.dbSource = 1 ∧ r.dbId = a) := by
  simp [Ring.accepts]

@[simp] theorem Ring.accepts_queuePair_iff (r : Ring) (q : Nat) :
    r.accepts (.queuePair q) = true ↔ r.dbSource = 2 ∧ r.dbId = q := by
  simp [Ring.accepts]

theorem Dev.takesDoorbell_iff {d : Dev} {src : DbFrom} {i : Nat} (hphase : d.boot.phase ≠ 6) :
    d.takesDoorbell src i = true ↔ (d.ring i).state ≠ .disabled ∧ (d.ring i).accepts src = true := by
  simp [Dev.takesDoorbell, hphase]

/-- The guard of `Dev.offer` is the negation of `Dev.takesDoorbell`. -/
theorem Dev.takesDoorbell_eq_false_iff {d : Dev} {src : DbFrom} {i : Nat} : d.takesDoorbell src i = false ↔
    (d.ring i).state = .disabled ∨ !(d.ring i).accepts src ∨ d.boot.phase = 6 := by
  rw [Dev.takesDoorbell]
  cases (d.ring i).accepts src <;> simp [or_iff_not_imp_left]

/-! ## The stop of a ring that runs -/

theorem Dev.setRing_setRing (d : Dev) (i : Nat) (r r' : Ring) : (d.setRing i r).setRing i r' = d.setRing i r' := by
  simp [Dev.setRing, Dev.withRings]

theorem Dev.stopRing_running {d : Dev} {i : Nat} (n : Nat) (h : (d.ring i).state = .running) :
    d.stopRing i n = d.setRing i { d.ring i with state := .stopped, stopReason := n } := by
  simp [Dev.stopRing, h]

/-! ## A doorbell write -/

/-- The device once it has counted an accepted doorbell write of ring `i` as event 0x42 (R453). -/
def Dev.doorbellCounted (d : Dev) (i : Nat) : Dev := d.count 0x0042 1 ⟨some (d.ring i).part, none, none⟩

@[simp] theorem Dev.doorbellCounted_pwr (d : Dev) (i : Nat) : (d.doorbellCounted i).pwr = d.pwr := Dev.count_pwr ..

theorem Dev.offer_rejected {d : Dev} {src : DbFrom} {i : Nat} (t : Wide) (h : d.takesDoorbell src i = false) :
    d.offer src i t = d.bump Fld.SUB_DB_REJECT_count 0 1 := by
  simp only [Dev.offer, if_pos (Dev.takesDoorbell_eq_false_iff.mp h)]

section Taken

variable {d : Dev} {src : DbFrom} {i : Nat} {t : Wide} (htaken : d.takesDoorbell src i = true) (hrun : d.pwr.state = .run)
include htaken hrun

/-- An accepted write on a device in RUN: it is counted, and then acts by its value. -/
theorem Dev.offer_taken : d.offer src i t =
    if t.toNat < (d.ring i).doorbell.toNat then (d.doorbellCounted i).bump Fld.SUB_DB_STALE_count 0 1
    else if t.toNat = (d.ring i).doorbell.toNat then d.doorbellCounted i
    else
      let e := (d.doorbellCounted i).setRing i
        { d.ring i with doorbell := t, bells := (d.ring i).bells ++ [(t, (d.doorbellCounted i).now)] }
      if t.toNat - (d.ring i).fetch.toNat > 2 ^ (d.ring i).sizeLog2 ∧ (d.ring i).state = .running then e.stopRing i 3 else e := by
  have hnot : ¬ d.takesDoorbell src i = false := by simp [htaken]
  have hguard := mt Dev.takesDoorbell_eq_false_iff.mpr hnot
  have hidle : (d.doorbellCounted i).leaveIdle = d.doorbellCounted i := leaveIdle_run (by simpa using hrun)
  simp only [Dev.doorbellCounted] at hidle ⊢
  simp only [Dev.offer, if_neg hguard, hidle, ite_and]

theorem Dev.offer_below (h : t.toNat < (d.ring i).doorbell.toNat) :
    d.offer src i t = (d.doorbellCounted i).bump Fld.SUB_DB_STALE_count 0 1 := by
  rw [Dev.offer_taken htaken hrun, if_pos h]

theorem Dev.offer_same (h : t.toNat = (d.ring i).doorbell.toNat) : d.offer src i t = d.doorbellCounted i := by
  rw [Dev.offer_taken htaken hrun, if_neg h.not_lt, if_pos h]

/-- A count above the doorbell count within the ring's size, or of a ring that is not RUNNING. -/
theorem Dev.offer_above (h : (d.ring i).doorbell.toNat < t.toNat)
    (hroom : t.toNat - (d.ring i).fetch.toNat ≤ 2 ^ (d.ring i).sizeLog2 ∨ (d.ring i).state ≠ .running) :
    d.offer src i t = (d.doorbellCounted i).setRing i
      { d.ring i with doorbell := t, bells := (d.ring i).bells ++ [(t, (d.doorbellCounted i).now)] } := by
  rw [Dev.offer_taken htaken hrun, if_neg h.not_gt, if_neg h.ne']
  exact if_neg fun ⟨hover, hrunning⟩ => hroom.elim hover.not_ge fun hstate => hstate hrunning

/-- A count past the size of a RUNNING ring stops it with DOORBELL_OVERRUN. -/
theorem Dev.offer_overrun (h : (d.ring i).doorbell.toNat < t.toNat)
    (hover : 2 ^ (d.ring i).sizeLog2 < t.toNat - (d.ring i).fetch.toNat) (hrunning : (d.ring i).state = .running) :
    d.offer src i t = (d.doorbellCounted i).setRing i
      { d.ring i with doorbell := t, bells := (d.ring i).bells ++ [(t, (d.doorbellCounted i).now)],
                      state := .stopped, stopReason := 3 } := by
  rw [Dev.offer_taken htaken hrun, if_neg h.not_gt, if_neg h.ne']
  dsimp only
  rw [if_pos ⟨hover, hrunning⟩, Dev.stopRing_running 3 (by simpa using hrunning), Dev.setRing_setRing, Dev.setRing_ring]

theorem Dev.offer_pwr : (d.offer src i t).pwr = d.pwr := by
  rcases Nat.lt_trichotomy t.toNat (d.ring i).doorbell.toNat with hlt | heq | hgt
  · simp [Dev.offer_below htaken hrun hlt]
  · simp [Dev.offer_same htaken hrun heq]
  · by_cases hroom : t.toNat - (d.ring i).fetch.toNat ≤ 2 ^ (d.ring i).sizeLog2 ∨ (d.ring i).state ≠ .running
    · simp [Dev.offer_above htaken hrun hgt hroom]
    · obtain ⟨hover, hrunning⟩ := not_or.mp hroom
      simp [Dev.offer_overrun htaken hrun hgt (not_le.mp hover) (not_not.mp hrunning)]

end Taken

/-- In RUN no doorbell write wakes the device, whatever port it comes in by (R421). -/
theorem Dev.doorbellRow_run {d : Dev} {i : Nat} (src : DbFrom) (t : Wide) (hi : i < 1024) (hrun : d.pwr.state = .run)
    (hentering : d.pwr.entering = none) : d.doorbellRow src i t = d.offer src i t := by
  rw [Dev.doorbellRow, if_pos hi]
  split
  · split
    case isTrue htaken =>
      have hpwr := Dev.offer_pwr (t := t) htaken hrun
      exact wakeBy_run _ (by rw [hpwr, hrun]) (by rw [hpwr, hentering])
    case isFalse => rfl
  · rfl

/-- DOORBELL on a device that serves in RUN is the offer of its count (R298). -/
theorem exec_doorbell_run {s : State} {i : Nat} (src : DbFrom) (t : Wide) (hserves : s.dev.serves = true) (hi : i < 1024)
    (hrun : s.dev.pwr.state = .run) (hentering : s.dev.pwr.entering = none) :
    exec (.doorbell src i t) s = .next (s.withDev (s.dev.offer src i t)) := by
  have hact : exec (.doorbell src i t) s = s.act (fun d => d.doorbellRow src i t) := rfl
  rw [hact, act_serves hserves, Dev.doorbellRow_run src t hi hrun hentering]

/-- Settles O43: a source that the ring accepts makes `takesDoorbell` hold, and the offer then acts by the value it offers. -/
theorem doorbellRule : Obligations.DoorbellRule := by
  rintro s src i t d d1 r taken rfl hserves hi rfl hphase hrun hentering hd1 htaken
  have htakes : taken ↔ s.dev.takesDoorbell src i = true := by
    rw [htaken, Dev.takesDoorbell_iff hphase]
    cases src <;> simp
  have hd1 : d1 = s.dev.doorbellCounted i := hd1
  rw [exec_doorbell_run src t hserves hi hrun hentering, htakes, hd1]
  refine ⟨fun h => ?_, fun h hbelow => ?_, fun h hsame => ?_, fun h habove hover hrunning => ?_, fun h habove hroom => ?_⟩
  · rw [Dev.offer_rejected t (Bool.eq_false_iff.mpr h)]
  · rw [Dev.offer_below h hrun hbelow]
  · rw [Dev.offer_same h hrun hsame]
  · rw [Dev.offer_overrun h hrun habove hover hrunning]
  · rw [Dev.offer_above h hrun habove hroom]

end Sys2Proof.Machine
end

section
/-! PROOF. What a command can do to the machine as a whole: the queue, the device that does not serve, fuses and flash. -/

namespace Sys2Proof.Machine

/-! ## What keeps fuses -/

theorem Nv.keeps.refl (a : Nv) : a.keeps a := ⟨rfl, rfl, rfl, rfl, Nat.le_refl _, fun _ => ⟨rfl, rfl⟩⟩

theorem Nv.keeps.trans {a b c : Nv} (h : a.keeps b) (k : b.keeps c) : a.keeps c := by
  obtain ⟨hcert, hdigest, hvendor, hmod, hroll, hown⟩ := h
  obtain ⟨kcert, kdigest, kvendor, kmod, kroll, kown⟩ := k
  refine ⟨kcert.trans hcert, kdigest.trans hdigest, kvendor.trans hvendor, kmod.trans hmod, hroll.trans kroll, fun hbound => ?_⟩
  obtain ⟨hhash, hocert⟩ := hown hbound
  obtain ⟨khash, kocert⟩ := kown (hhash ▸ hbound)
  exact ⟨khash.trans hhash, kocert.trans hocert⟩

/-- Another list is no fuse. -/
theorem Nv.keeps_withList (nv : Nv) (l : Bytes) : nv.keeps { nv with list := l } := Nv.keeps.refl nv

theorem Nv.keeps_ite {nv : Nv} {p : Prop} [Decidable p] {a b : Dev × Nv} (ha : nv.keeps a.2) (hb : nv.keeps b.2) :
    nv.keeps (if p then a else b).2 := by
  split
  · exact ha
  · exact hb

theorem firstReason_eq_none {l : List (Bool × Nat)} (h : firstReason l = none) {p : Bool × Nat} (hp : p ∈ l) : p.1 = false := by
  have hfind : l.find? (fun e => e.1) = none := Option.map_eq_none_iff.mp h
  simpa using List.find?_eq_none.mp hfind p hp

/-- A block that passes its checks binds an owner only where none is bound (R443, R444). -/
theorem Dev.unbound_of_signedFails {d : Dev} {nv : Nv} {x : SignedBlock} (h : d.signedFails nv x = none) (hop : x.op = 6) :
    nv.ownerKeyHash = none := by
  have hstate := firstReason_eq_none h
    (p := ((x.op = 6 && nv.ownerKeyHash.isSome) || (x.op = 5 && leAt x.payload 0 2 ≠ 0 && !(d.grants.contains 0)), 6)) (by simp)
  simpa [hop] using hstate

theorem Dev.signedAct_keeps (d : Dev) (nv : Nv) (c : Cmd) (x : SignedBlock) (img : Bytes)
    (hbind : x.op = 6 → nv.ownerKeyHash = none) : nv.keeps (d.signedAct nv c x img).2 := by
  unfold Dev.signedAct
  split
  · exact Nv.keeps.refl nv
  · split <;> exact Nv.keeps.refl nv
  · refine ⟨rfl, rfl, rfl, rfl, ?_, fun _ => ⟨rfl, rfl⟩⟩
    dsimp only
    split
    · exact Nat.le_max_left ..
    · exact Nat.le_refl _
  · exact Nv.keeps.refl nv
  · exact Nv.keeps.refl nv
  · rename_i hop
    exact ⟨rfl, rfl, rfl, rfl, Nat.le_refl _, fun hbound => by simp [hbind hop] at hbound⟩
  · exact Nv.keeps.refl nv

/-- A signed command leaves fuses and flash as they are, or its block has passed and acts. -/
theorem Dev.runSigned_keeps (d : Dev) (nv : Nv) (op : Nat) (c : Cmd) : nv.keeps (d.runSigned nv op c).2 := by
  have hact := fun (e d1 : Dev) (x : SignedBlock) img (h : d1.signedFails nv x = none) =>
    e.signedAct_keeps nv c x img (Dev.unbound_of_signedFails h)
  have hsame := Nv.keeps.refl nv
  unfold Dev.runSigned
  dsimp only
  split
  · exact hsame
  split
  · exact hsame
  split
  · exact hsame
  · exact hsame
  split
  · exact hsame
  split
  · exact hsame
  split
  · exact hsame
  rename_i hpass
  split
  · exact hsame
  split
  · split
    · exact hsame
    · exact hsame
    · split
      · exact hact _ _ _ _ hpass
      · exact hsame
  · exact hact _ _ _ _ hpass

theorem Dev.signedRow_keeps (d : Dev) (nv : Nv) (src : CmdSource) (op : Nat) : nv.keeps (d.signedRow nv src op).2 := by
  have hsame := Nv.keeps.refl nv
  cases src with
  | ring i n =>
    simp only [Dev.signedRow]
    split
    · split
      · exact Dev.runSigned_keeps ..
      · exact hsame
    · exact hsame
  | gotik p a l =>
    simp only [Dev.signedRow]
    split
    · split
      · dsimp only
        split
        · exact Dev.runSigned_keeps ..
        · exact hsame
      · exact hsame
    · exact hsame

/-! ## FAULT_RESUME: the commands that it replays may be signed ones -/

theorem foldl_keeps {α : Type} (f : Dev × Nv → α → Dev × Nv) (hf : ∀ (acc : Dev × Nv) a, acc.2.keeps (f acc a).2) (l : List α) (acc : Dev × Nv) :
    acc.2.keeps (l.foldl f acc).2 := by
  induction l generalizing acc with
  | nil => exact Nv.keeps.refl _
  | cons a t ih => exact (hf acc a).trans (ih (f acc a))

theorem Dev.signedAgain_keeps (d : Dev) (nv : Nv) (ring : Nat) (serial : Wide) : nv.keeps (d.signedAgain nv ring serial).2 := by
  refine foldl_keeps _ (fun (acc : Dev × Nv) k => ?_) (List.range 6) (d, nv)
  split
  · split
    · exact Dev.runSigned_keeps ..
    · exact Nv.keeps.refl _
  · exact Nv.keeps.refl _

theorem Dev.replayCmd_keeps (d : Dev) (nv : Nv) (ring : Nat) (serial : Wide) : nv.keeps (d.replayCmd nv ring serial).2 := by
  unfold Dev.replayCmd
  dsimp only
  split
  · exact Nv.keeps.refl nv
  exact Nv.keeps_ite (Nv.keeps.refl nv) (Nv.keeps_ite (Dev.signedAgain_keeps ..) (Nv.keeps.refl nv))

theorem Dev.replayRecord_keeps (asid : Nat) (acc : Dev × Nv) (r : FaultRec) : acc.2.keeps (Dev.replayRecord asid acc r).2 := by
  have hsame := Nv.keeps.refl acc.2
  unfold Dev.replayRecord
  dsimp only
  split
  · exact hsame
  split
  · exact hsame
  · exact hsame
  · exact Dev.replayCmd_keeps ..
  · exact hsame
  · exact hsame

theorem Dev.replayAll_keeps (asid no : Nat) (failed : List FaultRec) (acc : Dev × Nv) (rs : List FaultRec) :
    acc.2.keeps (Dev.replayAll asid no failed acc rs).2 := by
  induction rs generalizing acc with
  | nil => exact Nv.keeps.refl _
  | cons r rest ih =>
    exact (Dev.replayRecord_keeps asid (acc.1.setRecords asid no (rest ++ failed), acc.2) r).trans (ih _)

theorem Dev.runResume_keeps (d : Dev) (nv : Nv) (c : Cmd) : nv.keeps (d.runResume nv c).2 := by
  unfold Dev.runResume
  dsimp only
  split
  · exact Nv.keeps.refl nv
  split
  · exact Nv.keeps.refl nv
  · exact Dev.replayAll_keeps ..

theorem Dev.resumeRow_keeps (d : Dev) (nv : Nv) (src : CmdSource) : nv.keeps (d.resumeRow nv src).2 := by
  have hsame := Nv.keeps.refl nv
  cases src with
  | ring i n =>
    simp only [Dev.resumeRow]
    split
    · split
      · exact Dev.runResume_keeps ..
      · exact hsame
    · exact hsame
  | gotik p a l =>
    simp only [Dev.resumeRow]
    split
    · split
      · dsimp only
        split
        · exact Dev.runResume_keeps ..
        · exact hsame
      · exact hsame
    · exact hsame

/-! ## Membership lists and the frames that bring them -/

theorem Dev.listArrived_keeps (d : Dev) (nv : Nv) (version : Nat) (bytes : Bytes) : nv.keeps (d.listArrived nv version bytes).2 := by
  unfold Dev.listArrived
  dsimp only
  split
  · split
    · exact Nv.keeps_withList nv bytes
    · exact Nv.keeps.refl nv
  · exact Nv.keeps.refl nv

theorem Dev.listData_keeps (d : Dev) (nv : Nv) (hop : Nat) (payload : Bytes) : nv.keeps (d.listData nv hop payload).2 := by
  unfold Dev.listData
  dsimp only
  split
  · exact Nv.keeps.refl nv
  · exact Nv.keeps_ite (Nv.keeps.refl nv) (Nv.keeps_ite (Nv.keeps.refl nv) (Dev.listArrived_keeps ..))

theorem Dev.discovery_keeps (d : Dev) (nv : Nv) (hop : Nat) (p : Bytes) : nv.keeps (d.discovery nv hop p).2 := by
  unfold Dev.discovery
  split
  case h_5 => exact Dev.listData_keeps ..
  all_goals exact Nv.keeps.refl nv

theorem Dev.tunnelIn_keeps (d : Dev) (nv : Nv) (port : Nat) (source : Option Nat) (b : Bytes) :
    nv.keeps (d.tunnelIn nv port source b).2 := by
  have hsame := Nv.keeps.refl nv
  unfold Dev.tunnelIn
  dsimp only
  split
  · split
    · exact hsame
    split
    · split
      · exact Dev.discovery_keeps ..
      · exact hsame
    split
    · split <;> exact hsame
    split
    · split <;> exact hsame
    · exact hsame
  · exact hsame

theorem Dev.udpIn_keeps (d : Dev) (nv : Nv) (p src dst : Nat) (b : Bytes) : nv.keeps (d.udpIn nv p src dst b).2 := by
  have hsame := Nv.keeps.refl nv
  unfold Dev.udpIn
  split
  · exact hsame
  split
  · exact hsame
  split
  · exact Dev.tunnelIn_keeps ..
  · exact hsame

theorem Dev.ethernetIn_keeps (d : Dev) (nv : Nv) (p : Nat) (f : Bytes) (fcsOk : Bool) : nv.keeps (d.ethernetIn nv p f fcsOk).2 := by
  have hsame := Nv.keeps.refl nv
  unfold Dev.ethernetIn
  dsimp only
  split
  · exact hsame
  split
  · exact hsame
  split
  · exact hsame
  split
  · exact hsame
  split
  case h_5 => exact Dev.udpIn_keeps ..
  all_goals exact hsame

/-! ## What a command answers -/

/-- What a command answers: another device where it serves, another device with other fuses and flash where it serves, another
device whatever its state, or a fault. -/
inductive Shape (c : Instr) (s : State) : Prop
  | act (d : Dev) (h : exec c s = .next (if s.dev.serves then { s with dev := d } else s)) (hn : needsService c = true)
  | actNv (d : Dev) (n : Nv) (h : exec c s = .next (if s.dev.serves then { s with dev := d, nv := n } else s))
      (hn : needsService c = true) (hv : changesNv c = true) (hk : s.nv.keeps n)
  | always (d : Dev) (h : exec c s = .next { s with dev := d }) (hn : needsService c = false)
  | fault (x : Fault) (h : exec c s = .fault x) (hn : needsService c = false)

theorem signed_shape {c : Instr} {s : State} {src : CmdSource} {op : Nat} (h : exec c s = s.signedRow src op)
    (hn : needsService c = true) (hv : changesNv c = true) : Shape c s :=
  .actNv _ _ (h.trans rfl) hn hv (Nv.keeps_ite (Dev.signedRow_keeps ..) (Nv.keeps.refl _))

theorem exec_shape (c : Instr) (s : State) : Shape c s := by
  cases c
  case overvoltage mv us =>
    by_cases hmax : beyondMaximum mv us = true
    · exact .fault .absoluteMaximum (if_pos hmax) rfl
    · exact .always _ (if_neg hmax) rfl
  case signedCommandRecorderClear | signedCommandMembership | signedCommandFirmwareUpdate | signedCommandDebugUnlock
      | signedCommandMgmtGrant | signedCommandOwnerBind =>
    all_goals exact signed_shape rfl rfl rfl
  case faultResume src => exact .actNv _ _ rfl rfl rfl (Nv.keeps_ite (Dev.resumeRow_keeps ..) (Nv.keeps.refl _))
  case listData hop payload => exact .actNv _ _ rfl rfl rfl (Dev.listData_keeps ..)
  case tunnelDatagram port source payload => exact .actNv _ _ rfl rfl rfl (Dev.tunnelIn_keeps ..)
  case ethernetFrameReceive port frame ok => exact .actNv _ _ rfl rfl rfl (Dev.ethernetIn_keeps ..)
  case powerOn | brownOut | resetN | bootPhase0 | bootPhase1 | bootPhase2 | bootPhase3 | dramTrainingEnd | powerStateReached
      | wakeEvent | sleepExit | deepExit | deepTimer | thermalTrip | standbyRailLoss | boundaryScan =>
    all_goals exact .always _ rfl rfl
  all_goals exact .act _ rfl rfl

/-! ## The invariants -/

/-- Settles O4: whatever a command answers, it puts another device, or other fuses and flash, into the machine it was given. -/
theorem queueIsFirstInFirstOut : Obligations.QueueIsFirstInFirstOut := by
  intro c s t hstep
  obtain ⟨d, h⟩ | ⟨d, n, h⟩ | ⟨d, h⟩ | ⟨x, h⟩ := exec_shape c s
  · rw [h] at hstep
    injection hstep with ht
    rw [← ht]
    split <;> rfl
  · rw [h] at hstep
    injection hstep with ht
    rw [← ht]
    split <;> rfl
  · rw [h] at hstep
    injection hstep with ht
    rw [← ht]
  · rw [h] at hstep
    cases hstep

/-- Settles O5: a command that needs service answers with the machine as it is where the device does not serve. -/
theorem nothingServedWhileDown : Obligations.NothingServedWhileDown := by
  intro c s hneeds hdown
  obtain ⟨d, h⟩ | ⟨d, n, h⟩ | ⟨d, h, hn⟩ | ⟨x, h, hn⟩ := exec_shape c s
  · rw [h, hdown, if_neg Bool.false_ne_true]
  · rw [h, hdown, if_neg Bool.false_ne_true]
  · exact absurd (hneeds.symm.trans hn) (by decide)
  · exact absurd (hneeds.symm.trans hn) (by decide)

/-- What a command leaves of fuses and flash: all of them, or, for the commands that may change them, what `Nv.keeps` says. -/
theorem exec_nv {c : Instr} {s t : State} (hstep : exec c s = .next t) :
    t.nv = s.nv ∨ (changesNv c = true ∧ s.nv.keeps t.nv) := by
  obtain ⟨d, h⟩ | ⟨d, n, h, _, hv, hk⟩ | ⟨d, h⟩ | ⟨x, h⟩ := exec_shape c s
  · rw [h] at hstep
    injection hstep with ht
    rw [← ht]
    split <;> exact .inl rfl
  · rw [h] at hstep
    injection hstep with ht
    rw [← ht]
    split
    · exact .inr ⟨hv, hk⟩
    · exact .inl rfl
  · rw [h] at hstep
    injection hstep with ht
    rw [← ht]
    exact .inl rfl
  · rw [h] at hstep
    cases hstep

/-- Settles O6: only the commands that `changesNv` lists answer with other fuses or flash. -/
theorem fewCommandsWriteFlash : Obligations.FewCommandsWriteFlash := by
  intro c s t hleaves hstep
  obtain h | ⟨hchanges, _⟩ := exec_nv hstep
  · exact h
  · exact absurd (hleaves.symm.trans hchanges) (by decide)

/-- Settles O7: time alone changes no fuse, and a command leaves the fuses or advances them. -/
theorem fusesOnlyAdvance : Obligations.FusesOnlyAdvance := by
  intro a s t hkeeps hstep
  unfold step at hstep
  split at hstep
  · injection hstep with ht
    rw [← ht]
    exact hkeeps
  · obtain h | ⟨_, hadvance⟩ := exec_nv hstep
    · rw [h]
      exact hkeeps
    · exact hkeeps.trans hadvance

/-- Settles O1: a step is by definition the run of the front command. -/
theorem stepRunsFrontCommand : Obligations.StepRunsFrontCommand := fun _ _ _ => rfl

/-- Settles O2: without a command a step is `State.idle`. -/
theorem emptyQueuePassesTime : Obligations.EmptyQueuePassesTime := by
  intro s hempty
  unfold step
  rw [hempty]
  rfl

/-- Settles O8: the fuses at reset are the blank ones. -/
theorem fusesAtReset : Obligations.FusesAtReset := Nv.keeps.refl Nv.blank

end Sys2Proof.Machine
end

section
/-! PROOF. Atomic operations on one word (R84, R88), and the machine at reset. -/

namespace Sys2Proof.Machine

/-! ## Atomics -/

/-- The value of an operand at the width of an atomic. -/
theorem operand_lt (v : Wide) (size : Nat) : v.toNat % 2 ^ (8 * size) < 2 ^ (8 * size) := Nat.mod_lt _ (by positivity)

/-- Settles O25: sums are taken modulo the width, and every other operation gives one of two values that fit, or joins their bits. -/
theorem atomicsWrap : Obligations.AtomicsWrap := by
  intro op size old l v hint hold hres
  have hm : 0 < 2 ^ (8 * size) := by positivity
  have hv := operand_lt l.value size
  cases op with
  | load => cases hres
  | store | exchange =>
    cases hres
    exact hv
  | cas =>
    simp only [AtomOp.result] at hres
    split at hres
    · cases hres
      exact hv
    · cases hres
  | add k => cases k <;> (cases hres; exact Nat.mod_lt _ hm)
  | minMax k =>
    cases k with
    | umin =>
      cases hres
      exact Nat.lt_of_le_of_lt (Nat.min_le_left ..) hold
    | umax =>
      cases hres
      exact Nat.max_lt.mpr ⟨hold, hv⟩
    | smin | smax =>
      cases hres
      split <;> assumption
  | bitwise k =>
    cases k with
    | band =>
      cases hres
      exact Nat.and_lt_two_pow _ hv
    | bor =>
      cases hres
      exact Nat.or_lt_two_pow hold hv
    | bxor =>
      cases hres
      exact Nat.xor_lt_two_pow hold hv
  | fadd => exact absurd rfl hint

theorem cas_result {size old : Nat} {l : LaneAtomic} : AtomOp.result .cas size old l =
    if old = l.compare.toNat % 2 ^ (8 * size) then some (l.value.toNat % 2 ^ (8 * size)) else none := rfl

/-- Settles O26: the second compare-exchange finds what the first has stored, which is not their comparator. -/
theorem oneExchangeWins : Obligations.OneExchangeWins := by
  intro size old l m v hcompare _ hother
  rw [cas_result, hcompare, if_neg hother]

/-! ## Reset -/

/-- Settles O60: by evaluation of the state at reset. -/
theorem stateAtReset : Obligations.StateAtReset := by
  refine ⟨rfl, rfl, rfl, rfl, rfl, rfl, rfl, rfl, ?_, fun _ => rfl, rfl, rfl, fun _ _ => rfl, rfl⟩
  decide

end Sys2Proof.Machine
end

section
/-! PROOF. Rows: what a command answers once its row is known to act. -/

namespace Sys2Proof.Machine

theorem ringRow_to {s : State} {src : CmdSource} {row : Line → Bool} {d d' : Dev} {c : Cmd} (act : Dev → Cmd → Dev)
    (h : Starts s src row d c) (hact : act d c = d') : s.ringRow src row act = .next (s.withDev (settled src d')) := by
  rw [ringRow_starts act h, hact]

theorem act_to {s : State} {d' : Dev} (f : Dev → Dev) (h : s.dev.serves = true) (hf : f s.dev = d') :
    s.act f = .next (s.withDev d') := by
  rw [act_serves h, hf]

end Sys2Proof.Machine
end

section
/-! PROOF. The ring commands (R293 to R295, R324). -/

namespace Sys2Proof.Machine

/-! ## RING_CONTROL -/

section RingControl

variable {d : Dev} {c : Cmd}

theorem Dev.runRingDestroy_failed {n : Nat} (h : d.controlFails c = some n) : d.runRingDestroy c = d.fail c Sts.badDescriptor n := by
  simp only [Dev.runRingDestroy, h]

theorem Dev.runRingRestart_failed {n : Nat} (h : d.controlFails c = some n) : d.runRingRestart c = d.fail c Sts.badDescriptor n := by
  simp only [Dev.runRingRestart, h]

theorem Dev.runRingBudget_failed {n : Nat} (h : d.controlFails c = some n) : d.runRingBudget c = d.fail c Sts.badDescriptor n := by
  simp only [Dev.runRingBudget, h]

variable (hpass : d.controlFails c = none) (hfree : d.preempted (rctlRing c.desc) = false)
include hpass hfree

theorem Dev.runRingDestroy_plain (hstate : (d.ring (rctlRing c.desc)).state ∈ [.running, .stopped, .aborted])
    (hrelease : rctlRelease c.desc = 0) : d.runRingDestroy c =
      (d.setRing (rctlRing c.desc) { d.ring (rctlRing c.desc) with state := .destroying }).done c 0 := by
  simp only [Dev.runRingDestroy, hpass]
  rw [if_neg (by simpa [hfree, or_iff_not_imp_left] using hstate)]
  simp [hrelease]

theorem Dev.runRingDestroy_release (hstate : (d.ring (rctlRing c.desc)).state ∈ [.running, .stopped, .aborted])
    (hrelease : rctlRelease c.desc ≠ 0) : d.runRingDestroy c =
      ((d.takeRef (handleIndex (rctlRelease c.desc))).setRing (rctlRing c.desc) { d.ring (rctlRing c.desc) with
        state := .destroying
        release := (d.ring (rctlRing c.desc)).release ++ [⟨handleIndex (rctlRelease c.desc), rctlValue c.desc⟩] }).done c 0 := by
  simp only [Dev.runRingDestroy, hpass]
  rw [if_neg (by simpa [hfree, or_iff_not_imp_left] using hstate)]
  rw [if_neg hrelease, if_neg hrelease]

end RingControl

/-- Settles O9: each command passes its checks, and its row then does what the last branch of its run says. -/
theorem ringCommandsComplete : Obligations.RingCommandsComplete := by
  refine ⟨?_, ?_, ?_, ?_, ?_, ?_⟩
  · intro s src d c hstarts hzero
    exact ringRow_to Dev.runNop hstarts (if_pos hzero)
  · rintro s src d c r hstarts rfl hzero hok howner hdisabled hadmits
    refine ringRow_to Dev.runRingCreate hstarts ?_
    have hgotik : ¬ ((ringCreateD c.desc).ring < 8 ∧ (!c.gotik) = true) := by
      rintro ⟨hlow, hnot⟩
      rcases howner with h | h
      · exact absurd hlow h.not_gt
      · simp [h] at hnot
    simp only [Dev.runRingCreate, hzero, hok, hgotik, hdisabled, hadmits]
    rfl
  · intro s src d c hstarts hpass hstate hfree hrelease
    exact ringRow_to Dev.runRingDestroy hstarts (Dev.runRingDestroy_plain hpass hfree hstate hrelease)
  · intro s src d c hstarts hpass hstate hfree hrelease
    exact ringRow_to Dev.runRingDestroy hstarts (Dev.runRingDestroy_release hpass hfree hstate hrelease)
  · intro s src d c hstarts hpass hstopped hfree
    exact ringRow_to Dev.runRingRestart hstarts (by simp [Dev.runRingRestart, hpass, hstopped, hfree])
  · rintro s src d c r hstarts hpass rfl hstate hfree hadmits
    refine ringRow_to Dev.runRingBudget hstarts ?_
    simp only [Dev.runRingBudget, hpass]
    rw [if_neg (by simpa [hfree, or_iff_not_imp_left] using hstate), if_neg (by simpa using hadmits)]

/-- Settles O11: each of the three rows makes the checks of R295 first. -/
theorem ringControlChecks : Obligations.RingControlChecks := by
  intro s src d c n i hi hstarts hfails
  simp only [List.mem_cons, List.not_mem_nil, or_false] at hi
  rcases hi with rfl | rfl | rfl
  · exact ringRow_to Dev.runRingDestroy hstarts (Dev.runRingDestroy_failed hfails)
  · exact ringRow_to Dev.runRingRestart hstarts (Dev.runRingRestart_failed hfails)
  · exact ringRow_to Dev.runRingBudget hstarts (Dev.runRingBudget_failed hfails)

/-! ## A destroyed ring -/

/-- The signal of a FENCE that is not exported acts on its word, and never waits. -/
theorem Dev.signalEntry_fence {d : Dev} {i off : Nat} (ring : Nat) (serial : Wide) (v : Option Wide)
    (hfence : (d.entry i).payload = .fence off) (hlocal : NMap.get? d.sub.exports i = none) :
    d.signalEntry ring serial i v = ((d.signalWord off v).2, .ok) := by
  simp [Dev.signalEntry, hfence, hlocal]

/-- A DESTROYING ring whose release signals can all be made becomes DISABLED. -/
theorem Dev.ringReleased_disables {d d1 : Dev} {i : Nat} (hstate : (d.ring i).state = .destroying) (hempty : d.inFlight i = 0)
    (hmade : d.makeReleases (d.ring i).release = (d1, [])) : d.ringReleased i = d1.setRing i Ring.absent := by
  simp only [Dev.ringReleased, hstate, hempty, and_self, if_true, hmade]

/-- Settles O10: without a release fence no signal is made, and one to a local FENCE acts on its word at once. -/
theorem destroyedRingDisables : Obligations.DestroyedRingDisables := by
  refine ⟨?_, ?_⟩
  · intro s i hserves hstate hempty hnone
    exact act_to (fun d => d.ringReleased i) hserves (Dev.ringReleased_disables hstate hempty (by rw [hnone]; rfl))
  · intro s i f off hserves hstate hempty hone hfence hlocal
    refine act_to (fun d => d.ringReleased i) hserves (Dev.ringReleased_disables hstate hempty ?_)
    simp only [hone, Dev.makeReleases, List.foldl_cons, List.foldl_nil, Dev.signalEntry_fence _ _ _ hfence hlocal]

end Sys2Proof.Machine
end

section
/-! PROOF. Reads and writes of local memory change memory, counters and the index of the next free value only; a write may also
offer a doorbell count. -/

namespace Sys2Proof.Machine

/-- Device `e` is `d` with other memory, registers and index of the next free value. -/
def Dev.MemOnly (d e : Dev) : Prop := ∃ g r m, e = { d with freeCtr := g, regs := r, mem := m }

theorem Dev.MemOnly.refl (d : Dev) : d.MemOnly d := ⟨d.freeCtr, d.regs, d.mem, rfl⟩

theorem Dev.MemOnly.trans {a b c : Dev} (h : a.MemOnly b) (k : b.MemOnly c) : a.MemOnly c := by
  obtain ⟨_, _, _, rfl⟩ := h
  obtain ⟨g, r, m, rfl⟩ := k
  exact ⟨g, r, m, rfl⟩

theorem Dev.MemOnly.sub {d e : Dev} (h : d.MemOnly e) : e.sub = d.sub := by
  obtain ⟨_, _, _, rfl⟩ := h
  rfl

theorem Dev.Counted.memOnly {d e : Dev} (h : d.Counted e) : d.MemOnly e := by
  obtain ⟨g, r, rfl⟩ := h
  exact ⟨g, r, d.mem, rfl⟩

theorem Dev.memOnly_ite {d a b : Dev} {p : Prop} [Decidable p] (ha : d.MemOnly a) (hb : d.MemOnly b) :
    d.MemOnly (if p then a else b) := by
  split
  · exact ha
  · exact hb

theorem foldl_memOnly {α : Type} (f : Dev → α → Dev) (hf : ∀ (d : Dev) a, d.MemOnly (f d a)) (l : List α) (d : Dev) :
    d.MemOnly (l.foldl f d) := by
  induction l generalizing d with
  | nil => exact .refl d
  | cons a t ih => exact (hf d a).trans (ih _)

/-! ## Lines and blocks -/

theorem Dev.memOnly_fresh (d : Dev) : d.MemOnly d.fresh.2 := ⟨_, _, _, rfl⟩
theorem Dev.memOnly_withLake (d : Dev) (x : NMap LakeLine) : d.MemOnly (d.withLake x) := ⟨_, _, _, rfl⟩
theorem Dev.memOnly_withSide (d : Dev) (x) : d.MemOnly (d.withSide x) := ⟨_, _, _, rfl⟩
theorem Dev.memOnly_withDram (d : Dev) (x : Store) : d.MemOnly (d.withDram x) := ⟨_, _, _, rfl⟩
theorem Dev.memOnly_withWindow (d : Dev) (x) : d.MemOnly (d.withWindow x) := ⟨_, _, _, rfl⟩
theorem Dev.memOnly_bump (d : Dev) (f : Fld) (i n : Nat) : d.MemOnly (d.bump f i n) := ⟨_, _, _, rfl⟩
theorem Dev.memOnly_count (d : Dev) (e n : Nat) (a : Attr) : d.MemOnly (d.count e n a) := (d.count_counted e n a).memOnly
theorem Dev.memOnly_moved (d : Dev) (q : Asker) (w : Bool) (a n : Nat) : d.MemOnly (d.moved q w a n) := d.memOnly_count ..
theorem Dev.memOnly_looked (d : Dev) (q : Asker) (line : Nat) : d.MemOnly (d.looked q line) := d.memOnly_count ..

theorem Dev.memOnly_bridged (d : Dev) (q : Asker) (die n : Nat) : d.MemOnly (d.bridged q die n) := by
  unfold Dev.bridged
  split
  · exact Dev.memOnly_ite (.refl d) (d.memOnly_count ..)
  · exact .refl d

theorem Dev.memOnly_lineTouched (d : Dev) (q : Asker) (line : Nat) : d.MemOnly (d.lineTouched q line) :=
  (d.memOnly_withSide _).trans (Dev.memOnly_looked ..)

theorem Dev.memOnly_lineStore (d : Dev) (line off : Nat) (bs : Bytes) : d.MemOnly (d.lineStore line off bs) := by
  unfold Dev.lineStore
  split
  · exact d.memOnly_withLake _
  · exact d.memOnly_withDram _

theorem Dev.memOnly_storeBlock (d : Dev) (q : Asker) (b mode : Nat) (x : Bytes) : d.MemOnly (d.storeBlock q b mode x) := by
  have hmoved : ∀ n, d.MemOnly (((if mode = 1 ∨ mode = 2 then d.fresh.2 else d) : Dev).moved q true b n) := fun n =>
    (Dev.memOnly_ite d.memOnly_fresh (.refl d)).trans (Dev.memOnly_moved ..)
  have hwritten := fun n r => (hmoved n).trans (Dev.memOnly_withDram _ r)
  unfold Dev.storeBlock
  simp only []
  split
  · split
    · exact (hwritten _ _).trans (Dev.memOnly_bump ..)
    · exact (hwritten _ _).trans ((Dev.memOnly_lineStore ..).trans (Dev.memOnly_bump ..))
  · split
    · exact hwritten _ _
    · exact (hwritten _ _).trans (Dev.memOnly_lineStore ..)

theorem Dev.memOnly_cleanLine (d : Dev) (q : Asker) (line : Nat) : d.MemOnly (d.cleanLine q line) := by
  unfold Dev.cleanLine
  split
  · exact .refl d
  · split
    · exact Dev.memOnly_ite ((Dev.memOnly_storeBlock ..).trans (Dev.memOnly_withLake ..)) (.refl d)
    · exact Dev.memOnly_ite (((Dev.memOnly_moved ..).trans (Dev.memOnly_withDram ..)).trans (Dev.memOnly_withLake ..)) (.refl d)

theorem Dev.memOnly_wayFor (d : Dev) (q : Asker) (cached : Bool) (ls : List Nat) (a : Nat) : d.MemOnly (d.wayFor q cached ls a).1 := by
  unfold Dev.wayFor Dev.makeRoom
  split
  · dsimp only
    split
    · exact .refl d
    · split
      · exact .refl d
      · exact d.memOnly_fresh.trans
          (foldl_memOnly _ (fun e l => (e.memOnly_cleanLine q l).trans (Dev.memOnly_withLake ..)) _ _)
  · exact .refl d

/-- What the way of an access brings with it, in the form in which writes take it apart. -/
theorem Dev.memOnly_of_wayFor {d e : Dev} {q : Asker} {cached : Bool} {ls : List Nat} {a : Nat} {w : Option Nat}
    (h : d.wayFor q cached ls a = (e, w)) : d.MemOnly e := by
  have hway := d.memOnly_wayFor q cached ls a
  rwa [h] at hway

theorem Dev.memOnly_lineWrite (d : Dev) (q : Asker) (cached : Bool) (a : Nat) (bs : Bytes) : d.MemOnly (d.lineWrite q cached a bs) := by
  have htouched := d.memOnly_lineTouched q (a / 64)
  unfold Dev.lineWrite
  dsimp only
  split
  · exact htouched.trans (Dev.memOnly_withLake ..)
  · split
    · rename_i hway
      exact (htouched.trans (Dev.memOnly_of_wayFor hway)).trans
        ((Dev.memOnly_ite (Dev.memOnly_moved ..) (.refl _)).trans (Dev.memOnly_withLake ..))
    · rename_i hway
      exact (htouched.trans (Dev.memOnly_of_wayFor hway)).trans ((Dev.memOnly_moved ..).trans (Dev.memOnly_withDram ..))

theorem Dev.memOnly_blockWrite (d : Dev) (q : Asker) (cached : Bool) (mode : Option Nat) (a : Nat) (bs : Bytes) :
    d.MemOnly (d.blockWrite q cached mode a bs) := by
  have htouched := foldl_memOnly (fun (d : Dev) (p : Nat × Nat) => d.lineTouched q (p.1 / 64))
    (fun d p => d.memOnly_lineTouched q _) (pieces 64 a bs.length) d
  have hbad : ∀ (b : Bool) (e : Dev), d.MemOnly e → d.MemOnly (if b = true then e.bump Fld.CPR_CODEC_BAD_count 0 1 else e) :=
    fun b e he => Dev.memOnly_ite (he.trans (Dev.memOnly_bump ..)) he
  have hfetched : ∀ (b : Bool) (e : Dev) x n, d.MemOnly e → d.MemOnly (if b = true then e else e.moved q false x n) :=
    fun b e x n he => Dev.memOnly_ite he (he.trans (Dev.memOnly_moved ..))
  have hplaced : ∀ (o : Option LakeLine) (e f : Dev) (w : Option Nat), d.MemOnly e → (match o with
      | some l => (e, some l.way)
      | none => e.wayFor q cached (blockLines (a / 256 * 256)) a) = (f, w) → d.MemOnly f := by
    intro o e f w he hplace
    cases o with
    | none => exact he.trans (Dev.memOnly_of_wayFor hplace)
    | some l =>
      cases hplace
      exact he
  unfold Dev.blockWrite
  simp only []
  split
  · rename_i hplace
    exact (hplaced _ _ _ _ (hfetched _ _ _ _ (hbad _ _ htouched)) hplace).trans (Dev.memOnly_withLake ..)
  · rename_i hplace
    exact (hplaced _ _ _ _ (hfetched _ _ _ _ (hbad _ _ htouched)) hplace).trans (Dev.memOnly_storeBlock ..)

theorem Dev.memOnly_dramWrite (d : Dev) (q : Asker) (cached : Bool) (mode : Option Nat) (a : Nat) (bs : Bytes) :
    d.MemOnly (d.dramWrite q cached mode a bs) := by
  unfold Dev.dramWrite
  refine foldl_memOnly _ (fun d p => ?_) _ _
  exact (d.memOnly_bridged ..).trans (Dev.memOnly_ite (Dev.memOnly_blockWrite ..)
    (foldl_memOnly _ (fun d r => d.memOnly_lineWrite ..) _ _))

theorem Dev.memOnly_lineRead (d : Dev) (a n : Nat) : d.MemOnly (d.lineRead a n).1 := by
  unfold Dev.lineRead
  split
  · exact Dev.memOnly_ite (d.memOnly_bump ..) (.refl d)
  · exact .refl d

theorem Dev.memOnly_dramRead (d : Dev) (a n : Nat) : d.MemOnly (d.dramRead a n).1 := by
  suffices H : ∀ (l : List (Nat × Nat)) (acc : Dev × Bytes), acc.1.MemOnly (l.foldl (fun (acc : Dev × Bytes) p =>
      ((acc.1.lineRead p.1 p.2).1, acc.2 ++ (acc.1.lineRead p.1 p.2).2)) acc).1 from H _ _
  intro l
  induction l with
  | nil => exact fun acc => .refl acc.1
  | cons p t ih =>
    intro acc
    exact (acc.1.memOnly_lineRead p.1 p.2).trans (ih _)

theorem Dev.memOnly_windowWriteAt (d : Dev) (o : Nat) (bs : Bytes) : d.MemOnly (d.windowWriteAt o bs) :=
  foldl_memOnly _ (fun d _ => d.memOnly_withWindow _) _ _

theorem Dev.memOnly_localRead (d : Dev) (a n : Nat) : d.MemOnly (d.localRead a n).1 := by
  unfold Dev.localRead
  split
  · split
    · exact d.memOnly_dramRead ..
    · exact .refl d
  · split <;> exact .refl d
  · exact .refl d
  · exact .refl d

/-! ## The handle table under a write -/

theorem Dev.leaveIdle_sub (d : Dev) : d.leaveIdle.sub = d.sub := by
  unfold Dev.leaveIdle
  split <;> rfl

theorem Dev.stopRing_entries (d : Dev) (i n : Nat) : (d.stopRing i n).sub.entries = d.sub.entries := by
  unfold Dev.stopRing
  dsimp only
  split
  · rfl
  · split <;> rfl

theorem Dev.offer_entries (d : Dev) (src : DbFrom) (i : Nat) (t : Wide) : (d.offer src i t).sub.entries = d.sub.entries := by
  have hcounted : ∀ a, (d.count 0x0042 1 a).leaveIdle.sub.entries = d.sub.entries := fun a => by
    rw [Dev.leaveIdle_sub, Dev.count_sub]
  unfold Dev.offer
  dsimp only
  split
  · rfl
  split
  · exact hcounted _
  split
  · exact hcounted _
  split
  · split
    · rw [Dev.stopRing_entries]
      exact hcounted _
    · exact hcounted _
  · exact hcounted _

/-- A write of local memory leaves the handle table alone. -/
theorem Dev.localWrite_entries (d : Dev) (q : Asker) (cached : Bool) (mode : Option Nat) (src : DbFrom) (a : Nat) (bs : Bytes) :
    (d.localWrite q cached mode src a bs).1.sub.entries = d.sub.entries := by
  unfold Dev.localWrite
  split
  · split
    · rw [(d.memOnly_dramWrite ..).sub]
    · rfl
  · split
    · rw [((d.memOnly_windowWriteAt ..).trans (Dev.memOnly_bridged ..)).sub]
    · rfl
  · unfold Dev.doorbellWrite
    split
    · exact d.offer_entries ..
    · rfl
  · rfl

end Sys2Proof.Machine
end

section
/-! PROOF. Objects and fences as ring commands (R305 to R317). -/

namespace Sys2Proof.Machine

/-! ## Creation and freeing -/

theorem Dev.exhausted_memory {d : Dev} {i : Nat} (h : d.nextEntry = some i) : d.exhausted typMemory = none := by
  simp [Dev.exhausted, h, typMemory, typFence, typFabricFence]

/-- A creation takes the next entry never allocated, while there is one. -/
theorem Dev.alloc_fresh {d : Dev} {i : Nat} (typ : Nat) (p : Payload) (hnext : d.nextEntry = some i) (hfresh : d.sub.fresh = i)
    (hroom : i < handleEntries) : d.alloc typ p = some (i,
      ({ d with sub := { d.sub with fresh := i + 1 } } : Dev).setEntry i ⟨(d.entry i).gen, typ, .live, 1, none, p⟩) := by
  subst hfresh
  simp only [Dev.alloc, hnext, if_pos hroom]

theorem Dev.endFabric_plain {d : Dev} {i : Nat} (h : (d.entry i).payload.word = none) : d.endFabric i = d := by
  unfold Dev.endFabric
  cases hp : (d.entry i).payload <;> simp_all [Payload.word]

/-- Settles O12: each object type takes its own branch of the creation, which allocates the next entry and writes the handle. -/
theorem objectsAreCreated : Obligations.ObjectsAreCreated := by
  refine ⟨?_, ?_, ?_, ?_⟩
  · intro s src d c i hstarts hrun hok htype hnext hfresh hroom
    refine ringRow_to Dev.runObjCreate hstarts ?_
    have halloc := Dev.alloc_fresh typMemory (.memory c.asid (objVa c.desc) (objArg c.desc)) hnext hfresh hroom
    simp only [Dev.runObjCreate, hrun, hok, htype, Dev.exhausted_memory hnext, Dev.makeObject, halloc]
    simp [Dev.handleWrite, Dev.handleOf]
  · intro s src d d1 d2 c a hstarts hrun hok htype hword hroom hwrite
    refine ringRow_to Dev.runObjCreate hstarts ?_
    simp [Dev.runObjCreate, hrun, hok, htype, hword, hroom, hwrite, (by decide : typFence ≠ typMemory)]
  · intro s src d d1 d2 d3 c a i hstarts hrun hok htype hword hroom hside hissue halloc
    refine ringRow_to Dev.runObjCreate hstarts ?_
    simp [Dev.runObjCreate, hrun, hok, htype, hword, hroom, hside, hissue, halloc,
      (by decide : typFabricFence ≠ typMemory), (by decide : typFabricFence ≠ typFence)]
  · intro s src d c hstarts hrun hbad
    refine ringRow_to Dev.runObjCreate hstarts ?_
    simp [Dev.runObjCreate, hrun, hbad]

/-- Settles O13: one clause per way in which the entry's references and generation decide what becomes of it. -/
theorem objectsAreFreed : Obligations.ObjectsAreFreed := by
  refine ⟨?_, ?_, ?_, ?_⟩
  · rintro s src d c i e hstarts hcurrent hzero rfl rfl hword hnone
    refine ringRow_to Dev.runObjFree hstarts ?_
    simp [Dev.runObjFree, hcurrent, hzero, hnone, Dev.endFabric_plain hword]
  · intro s src d c hstarts hstale
    refine ringRow_to Dev.runObjFree hstarts ?_
    simp [Dev.runObjFree, hstale]
  · rintro s i e hserves rfl hdying hrefs hnone hgen hholds
    refine act_to (fun d => d.freeEntry i) hserves ?_
    simp only [Dev.freeEntry, hdying, hrefs, hnone, hholds, Dev.release, if_neg hgen]
    rfl
  · rintro s i e hserves rfl hdying hrefs hnone hgen hholds
    refine act_to (fun d => d.freeEntry i) hserves ?_
    simp only [Dev.freeEntry, hdying, hrefs, hnone, hholds, Dev.release, hgen]
    rfl

/-! ## Waits -/

/-- Settles O14: a wait is decided by the fence's word, then by its gate, and last by the room that the watch slots leave. -/
theorem fenceWaits : Obligations.FenceWaits := by
  refine ⟨?_, ?_, ?_, ?_, ?_, ?_⟩
  · rintro s src d c i hstarts hrun rfl hzero hhere hsat
    refine ringRow_to Dev.runFenceWait hstarts ?_
    simp [Dev.runFenceWait, hrun, hzero, hhere, hsat]
  · rintro s src d c i hstarts hrun rfl hzero hhere hsat hlocal hroom hticks
    refine ringRow_to Dev.runFenceWait hstarts ?_
    simp only [Dev.runFenceWait, hrun, hzero, hhere, hsat, Dev.waitGate, hlocal, Dev.watch, if_pos hroom, if_neg hticks]
    rfl
  · rintro s src d c i hstarts hrun rfl hzero hhere hsat hlocal hfull hticks
    refine ringRow_to Dev.runFenceWait hstarts ?_
    simp only [Dev.runFenceWait, hrun, hzero, hhere, hsat, Dev.waitGate, hlocal, Dev.watch, if_neg hfull.not_gt, if_pos hticks]
    rfl
  · intro s r n c t hserves hcmd hrun hhere hsat
    refine act_to (fun d => d.waitDone r n) hserves ?_
    simp [Dev.waitDone, hcmd, hrun, hhere, hsat]
  · intro s r n c p t off w hserves hcmd hrun hdue hhere hsat hword hread
    refine act_to (fun d => d.waitTimedOut r n) hserves ?_
    simp [Dev.waitTimedOut, hcmd, hrun, hhere, hsat, hdue.not_gt, hword, hread]
  · intro s k rest c t hserves hroom hparked hcmd hrun
    refine act_to Dev.unpark hserves ?_
    simp only [Dev.unpark, if_pos hroom, hparked, hcmd, hrun]

/-! ## Signals -/

/-- A signal whose word can be read and takes a new value writes it. -/
theorem Dev.signalWord_writes {d d1 : Dev} {off : Nat} {bs : Bytes} {v : Option Wide} {x : Wide}
    (hread : d.localRead off 8 = (d1, .ok, bs)) (hvalue : signalValue (BitVec.ofNat 64 (leNat bs)) v = some x) :
    d.signalWord off v = (true, (d1.localWrite Asker.none true none .local off (leBytes 8 x.toNat)).1) := by
  have hword : BitVec.ofNat 64 (leNat bs) ≠ BitVec.allOnes 64 := fun h => by
    rw [h, signalValue_terminal] at hvalue
    cases hvalue
  simp only [Dev.signalWord, hread, if_neg hword, hvalue]

theorem Dev.localRead_entry {d d1 : Dev} {a n : Nat} {r : Acc × Bytes} (h : d.localRead a n = (d1, r)) (i : Nat) :
    d1.entry i = d.entry i := by
  have hsub := (d.memOnly_localRead a n).sub
  rw [h] at hsub
  exact congrArg (fun sub => NMap.getD sub.entries i Entry.unused) hsub

theorem Dev.localWrite_entry (d : Dev) (q : Asker) (cached : Bool) (mode : Option Nat) (src : DbFrom) (a : Nat) (bs : Bytes)
    (i : Nat) : (d.localWrite q cached mode src a bs).1.entry i = d.entry i := by
  simp only [Dev.entry, Dev.localWrite_entries]

/-- Settles O16: a signal of a local FENCE writes its word and leaves the entry a FENCE, so that the command is done; one through a
mirror is sent; and a word whose read waits holds the signal. -/
theorem fencesAreSignalled : Obligations.FencesAreSignalled := by
  refine ⟨?_, ?_, ?_⟩
  · rintro s src d d1 c i off bs v x hstarts hrun rfl hzero hfence hlocal hread rfl hvalue
    refine ringRow_to Dev.runFenceSignal hstarts ?_
    have hstays := (Dev.localWrite_entry d1 Asker.none true none .local off (leBytes 8 x.toNat) _).trans
      (Dev.localRead_entry hread (handleIndex (waitFence c.desc)))
    simp [Dev.runFenceSignal, hrun, hzero, Dev.signalEntry_fence _ _ _ hfence hlocal, Dev.signalWord_writes hread hvalue, hstays,
      hfence]
  · rintro s src d d1 c i off h home hstarts hrun rfl hzero hmirror hside hissue hstays
    refine ringRow_to Dev.runFenceSignal hstarts ?_
    have hsent : d.signalEntry c.ring c.serial (handleIndex (waitFence c.desc))
        (if signalIncrement c.desc then none else some (waitValue c.desc)) = (d1, .ok) := by
      rw [← hissue]
      cases hincr : signalIncrement c.desc <;> simp [Dev.signalEntry, hmirror, hside]
    simp [Dev.runFenceSignal, hrun, hzero, hsent, hstays]
  · intro d d1 off v bs hread
    simp [Dev.signalWord, hread]

/-! ## Kernels -/

/-- Settles O17: a load runs through creation, handle and reads, and the end of its translation through code and record, each as
given. -/
theorem kernelsLoad : Obligations.KernelsLoad := by
  refine ⟨?_, ?_⟩
  · rintro s src d d1 d2 d3 d4 c i m name e st x code u pu ms ns w hstarts hrun hpass hroom halloc hhandle hmodule hname rfl hkernel
    refine ringRow_to Dev.runKernelLoad hstarts ?_
    simp only [Dev.runKernelLoad, hrun, hpass, hroom, halloc, Dev.kernelHandle, hhandle, Dev.kernelRead, hmodule, hname, hkernel]
  · rintro s i t c code b m n x u p k d1 d2 d3 e e3 l r is hserves rfl hcmd hkernel rfl hcode rfl rfl hrecord rfl hkept rfl
    refine act_to (fun d => d.translationEnd i t) hserves ?_
    cases hchosen : spvChosen (spvIntake (b :: m) t.malformedAt).ins (entryName n) x with
    | nil =>
      simp only [hchosen] at hrecord
      simp only [Dev.translationEnd, hcmd, hkernel, hcode, hchosen, Dev.kernelRecord, hrecord, hkept]
    | cons f rest =>
      simp only [hchosen] at hrecord
      simp only [Dev.translationEnd, hcmd, hkernel, hcode, hchosen, Dev.kernelRecord, hrecord, hkept]

end Sys2Proof.Machine
end

section
/-! PROOF. Dispatches, barriers and the end of blocks (R44 to R76). -/

namespace Sys2Proof.Machine

/-! ## A dispatch that completes after an access of it has failed

`Dev.completeDispatch` ends a launch with the status of a failed access to another device before it looks at its blocks (R83). -/

/-- A launch of one block, which has exited, and of which an access to another device has ended with PARTITIONED. -/
def failedLaunch : DispatchRun :=
  { kernel := 1, total := 1, next := 1, exited := 1, regsPerLane := 8, lsBytes := 0, threads := 32, grid := (1, 1, 1)
    cluster := (0, 0, 0), split := 0, seed := 0, args := [], sr := [], remoteFault := some (Sts.partitioned, 0) }

/-- The started DISPATCH of that launch on ring 8. -/
def failedDispatch : Cmd :=
  { ring := 8, serial := 1, desc := 0x21, part := 0, asid := 1, cls := 2, refs := [], phase := .started
    status := 0, detail := 0, unit := noUnit, tick := 0, run := .dispatch failedLaunch, faulted := false, remote := [], input := []
    bellAt := 0, startAt := 0, endAt := 0, edges := 0, recordDone := false, fenceless := false }

/-- The device at reset with that command in flight. -/
def failedDispatchDev : Dev := State.reset.dev.withCmds [failedDispatch]

/-- The statuses of the commands in flight after a step. -/
def statusesAfter : Answer → List Half
  | .next s => s.dev.sub.cmds.map (·.status)
  | _ => []

theorem eq_mk_of_snd {α β : Type} {x : α × β} {y : β} (h : x.2 = y) : x = (x.1, y) := by rw [← h]

/-- Refutes O18: a launch all of whose blocks have exited, one of whose accesses has failed, ends with the access's status and not
with OK. -/
theorem not_dispatchesRun : ¬ Obligations.DispatchesRun := by
  rintro ⟨-, -, -, -, hcomplete, -⟩
  have hends := hcomplete (State.reset.withDev failedDispatchDev) 8 1 failedDispatch failedLaunch
    (failedDispatchDev.storesDone failedDispatch).1 (by decide +kernel) (by decide +kernel) rfl rfl (eq_mk_of_snd (by decide +kernel))
  have hstatus := congrArg statusesAfter hends
  exact absurd hstatus (by decide +kernel)

/-! ## Rows of resident blocks -/

theorem block_to {s : State} {r : BlockRef} {n : Nat} {b : Block} {d' : Dev} (f : Nat → Block → Dev) (h : Resident s r n b)
    (hf : f n b = d') : s.dev.withBlock r f = d' := by
  rw [withBlock_res h, hf]

/-- Settles O19: the first work that no brick has room for is the first stuck one, and the brick with the fewest courses is picked
for it. -/
theorem drainSelection : Obligations.DrainSelection := by
  rintro s ref c w bs n hserves hcmd rfl hfirst hring hserial hfits hidle hleast
  refine act_to (fun d => d.selectDrain ref) hserves ?_
  have hstuck : s.dev.firstStuck c.part = some w := by
    simpa only [Dev.firstStuck, Dev.cannotPlace, Bool.not_eq_true', Bool.not_eq_eq_eq_not, Bool.not_true, Bool.decide_eq_false]
      using hfirst
  simp only [Dev.selectDrain, hcmd, hstuck, hring, hserial, hfits, hidle, hleast, and_self, if_true]

theorem exitThreads_found {s : State} {r : BlockRef} {n : Nat} {b b1 : Block} {threads : List Nat} {d1 : Dev} (h : Resident s r n b)
    (hruns : ∀ t ∈ threads, b.runs t)
    (hd1 : d1 = s.dev.modBlock n r (fun b => { b with exited := b.exited ++ threads.eraseDups }))
    (hfound : d1.findBlock r = some (n, b1)) :
    s.dev.exitThreads r threads =
      if b1.alive.isEmpty then (d1.barrierComplete n b1).blockDone n b1 else d1.barrierComplete n b1 := by
  have hall : threads.all (fun t => b.runs t) = true := by simpa using hruns
  subst hd1
  rw [Dev.exitThreads, block_to _ h rfl]
  simp only [hall, if_true, hfound]

/-- Settles O20: threads that all run arrive or exit together, and what remains of the block decides whether it is done. -/
theorem barriersAndExits : Obligations.BarriersAndExits := by
  refine ⟨?_, ?_, ?_, ?_, ?_⟩
  · rintro s r n b b1 scope site threads d1 hres hscope hruns hdistinct rfl hfound
    refine act_to (fun d => d.controlBarrier r scope site threads) hres.1 (block_to _ hres ?_)
    have hall : threads.all (fun t => b.runs t) = true := by simpa using hruns
    simp only [List.mem_cons, List.not_mem_nil, or_false] at hscope
    simp only [hscope, hall, hdistinct, and_self, if_true, hfound]
  · intro s r n b b1 threads d1 hres hruns hd1 hfound hleft
    refine act_to (fun d => (d.exitThreads r threads).passAfter r) hres.1 ?_
    rw [exitThreads_found hres hruns hd1 hfound, if_neg (by simpa using hleft)]
  · intro s r n b b1 threads d1 hres hruns hd1 hfound hnone
    refine act_to (fun d => (d.exitThreads r threads).passAfter r) hres.1 ?_
    rw [exitThreads_found hres hruns hd1 hfound, if_pos (by simpa using hnone)]
  · intro d r c k hcmd hrun
    simp only [Dev.passAfter, hcmd, hrun]
  · intro c p b x hrun hmem hno
    refine ⟨_, by rw [Cmd.blockEnded, hrun], ?_⟩
    exact List.mem_map.2 ⟨x, hmem, by simp [hno]⟩

/-! ## Blocks that end their dispatch (R74 to R76) -/

theorem find_none_of_decides {d : Dev} {b : Block} (h : d.decides b) :
    (d.blocksOf b.ring b.serial).filter (fun p => p.2.index < b.index && d.watchdogDue p.1 p.2) = [] := by
  simpa [List.filter_eq_nil_iff] using fun p q hmem hlt => h (p, q) hmem hlt

theorem raise_of_decides {d : Dev} {b : Block} (n : Nat) (status : Half) (h : d.decides b) :
    d.raise n b status = d.endByBlock n b status := by
  simp [Dev.raise, find_none_of_decides h, minBy]

/-- Settles O21: the deciding block is the one that raises the status unless a block of lower index does so in the same clock. -/
theorem blocksEndDispatches : Obligations.BlocksEndDispatches := by
  refine ⟨?_, ?_, ?_, ?_⟩
  · intro s r n b hres hlocal hstuck halive hdecides
    refine act_to (fun d => d.divergentEnd r) hres.1 (block_to _ hres ?_)
    have hat : s.dev.divergentAt n b = some (n, b) := by
      have hwide : ((s.dev.clusterBlocks b).filter (fun p => !p.2.done)).any (fun p => p.2.blocked.any (fun x => x.scope = .cluster))
          = false := by
        simpa using fun p q hmem hdone => hlocal (p, q) hmem hdone
      simp [Dev.divergentAt, hwide, hstuck, halive]
    simp only [hat, raise_of_decides n _ hdecides, Dev.endByBlock]
  · rintro s r n b cl p hres rfl ⟨q, hq, hcluster⟩ hstuck hmin hdecides
    refine act_to (fun d => d.divergentEnd r) hres.1 (block_to _ hres ?_)
    have hat : s.dev.divergentAt n b = some p := by
      have hwide : ((s.dev.clusterBlocks b).filter (fun p => !p.2.done)).any (fun p => p.2.blocked.any (fun x => x.scope = .cluster))
          = true := List.any_eq_true.2 ⟨q, hq, by simpa using hcluster⟩
      have hall := List.all_eq_true.2 hstuck
      simp only [Dev.divergentAt, hwide, hall, Bool.and_self, if_true, hmin]
    simp only [hat, raise_of_decides p.1 _ hdecides, Dev.endByBlock]
  · rintro s r n b hres hstall hat hdecides
    refine act_to (fun d => d.watchdogEnd r) hres.1 (block_to _ hres ?_)
    have hdue : s.dev.watchdogDue n b = true := by
      simpa [Dev.watchdogDue, hat] using hstall
    simp only [hdue, if_true, raise_of_decides n _ hdecides, Dev.endByBlock]
  · rintro s r n b q hres hdue hmin
    refine act_to (fun d => d.watchdogEnd r) hres.1 (block_to _ hres ?_)
    simp only [hdue, if_true, Dev.raise, hmin, Dev.endByBlock]

end Sys2Proof.Machine
end

section
/-! PROOF. Course-wide instructions, springs and the orders of memory (R63, R64, R79, R92 to R133, R215 to R223). -/

namespace Sys2Proof.Machine

/-! ## Course-wide instructions -/

/-- Settles O27: each instruction's checks hold by hypothesis, so that its one branch remains. -/
theorem coursesCompute : Obligations.CoursesCompute := by
  refine ⟨?_, ?_, ?_, ?_, ?_, ?_⟩
  · intro s n b m fa fb hres ha hb hok hpath hwhole hint
    refine act_to (fun d => d.matMulAdd m) hres.1 (block_to _ hres ?_)
    simp only [ha, hb, hok, hpath, hwhole, Bool.and_self, if_true, Nat.not_lt.2 hint, if_false]
  · rintro s n b m fa fb d hres ha hb hok hpath hwhole hfloat rfl
    refine act_to (fun d => d.matMulAdd m) hres.1 (block_to _ hres ?_)
    simp only [ha, hb, hok, hpath, hwhole, Bool.and_self, if_true, hfloat]
  · intro s n b m fa fb hres ha hb hok hpath hpart
    refine act_to (fun d => d.matMulAdd m) hres.1 (block_to _ hres ?_)
    simp only [ha, hb, hok, hpath, hpart, Bool.and_self, if_true, Bool.false_eq_true, if_false, Dev.endByBlock]
  · rintro s n b x src tgt mode c sr hres hsrc htgt hmode hok hpath hcmd rfl
    refine act_to (fun d => d.convert x) hres.1 (block_to _ hres ?_)
    simp only [hsrc, htgt, hmode, hok, hpath, Bool.and_self, if_true, hcmd]
  · rintro s n b x f mode c sr vals z hres htgt hlow hhigh hmode hpath hwhole hcmd rfl hlen rfl rfl
    refine act_to (fun d => d.quantize x) hres.1 (block_to _ hres ?_)
    have hlen' : x.blockLength = 16 ∨ x.blockLength = 32 := by simpa using hlen
    rcases hlen' with hlen' | hlen' <;> simp [htgt, hlow, hhigh, hmode, hpath, hwhole, hcmd, hlen']
  · rintro s n b x f mode hres htgt hlow hhigh hmode hpath hpart hlen
    refine act_to (fun d => d.quantize x) hres.1 (block_to _ hres ?_)
    have hlen' : x.blockLength = 16 ∨ x.blockLength = 32 := by simpa using hlen
    simp [htgt, hlow, hhigh, hmode, hpath, hpart, hlen', Dev.endByBlock]

/-! ## The port of a spring -/

theorem leNat_leBytes (n v : Nat) : leNat (leBytes n v) = v % 2 ^ (8 * n) := by
  induction n generalizing v with
  | zero => simp [leBytes, leNat, Nat.mod_one]
  | succ n ih =>
    have hsplit : 2 ^ (8 * (n + 1)) = 256 * 2 ^ (8 * n) := by rw [Nat.mul_succ, Nat.pow_add, Nat.mul_comm]
    simp only [leBytes, leNat, ih, hsplit, Nat.mod_mul, BitVec.toNat_ofNat]

theorem leBytes_length (n v : Nat) : (leBytes n v).length = n := by
  induction n generalizing v with
  | zero => rfl
  | succ n ih => simp [leBytes, ih]

/-- An offset of the port of spring `k`: not beyond the fourth spring, and taken apart. -/
theorem port_offset {k o : Nat} (hk : k < 4) (ho : o < 256) :
    ¬ (256 * k + o ≥ 0x400) ∧ (256 * k + o) / 256 = k ∧ (256 * k + o) % 256 = o := by omega

/-- Settles O28: an offset of the port is taken apart, and then the row is one store to that part of the port. -/
theorem springPort : Obligations.SpringPort := by
  refine ⟨?_, ?_, ?_, ?_, ?_, ?_⟩
  · intro s r n b k o data hres hk hend hlen halign
    have hlen' : data.length = 4 ∨ data.length = 8 := by simpa using hlen
    have ho : o < 64 := by omega
    obtain ⟨hin, hspring, hoff⟩ := port_offset hk (show o < 256 by omega)
    refine act_to (fun d => if k < 4 ∧ o < 64 then d.withBlock r (fun n b => d.portStore n b (256 * k + o) data false) else d)
      hres.1 ?_
    rw [if_pos ⟨hk, ho⟩, withBlock_res hres]
    simp only [Dev.portStore, hin, hspring, hoff, ho, Dev.springStore, hk, hend, hlen', halign, if_false, Bool.not_false,
      and_self, if_true]
  · rintro s r n b k x hres hk rfl hidle hok
    refine act_to (fun d => if k < 4 then d.withBlock r (fun n b => (d.portCas n b (256 * k + 0x40) 8 0 1).1) else d) hres.1 ?_
    obtain ⟨hin, hspring, hoff⟩ := port_offset hk (show 0x40 < 256 by omega)
    rw [if_pos hk, withBlock_res hres]
    simp [Dev.portCas, hin, hspring, hoff, Spring.control, hidle, Dev.springStart, hok]
  · rintro s r n b k x hres hk rfl hidle hbad
    refine act_to (fun d => if k < 4 then d.withBlock r (fun n b => (d.portCas n b (256 * k + 0x40) 8 0 1).1) else d) hres.1 ?_
    obtain ⟨hin, hspring, hoff⟩ := port_offset hk (show 0x40 < 256 by omega)
    rw [if_pos hk, withBlock_res hres]
    simp [Dev.portCas, hin, hspring, hoff, Spring.control, hidle, Dev.springStart, hbad, Dev.endByBlock]
  · rintro s r n b k x y hres hk rfl hrun howned
    refine act_to (fun d => if k < 4 then d.withBlock r (fun n b => d.portStore n b (256 * k + 0x40) (leBytes 8 0) true) else d)
      hres.1 ?_
    obtain ⟨hin, hspring, hoff⟩ := port_offset hk (show 0x40 < 256 by omega)
    rw [if_pos hk, withBlock_res hres]
    simp [Dev.portStore, hin, hspring, hoff, leBytes_length, leNat_leBytes, Dev.springStop, hrun, howned]
  · rintro s r n b k mask x y go z hres hk rfl hrun howned rfl rfl
    refine act_to (fun d => if k < 4 then d.withBlock r (fun n b => d.portStore n b (256 * k + 0x50) (leBytes 8 mask.toNat) false)
      else d) hres.1 ?_
    obtain ⟨hin, hspring, hoff⟩ := port_offset hk (show 0x50 < 256 by omega)
    have hmask : leNat (leBytes 8 mask.toNat) = mask.toNat := by
      rw [leNat_leBytes]
      exact Nat.mod_eq_of_lt (lt_trans mask.isLt (by norm_num))
    rw [if_pos hk, withBlock_res hres]
    simp only [Dev.portStore, hin, hspring, hoff, leBytes_length, hmask, Dev.springRelease, hrun, howned, if_true, if_false]
    simp
  · intro s r n b o size store atomic hres
    exact act_to (fun d => d.withBlock r (fun _ _ => if portAllows o size store atomic then d else d.springErr)) hres.1
      (block_to _ hres rfl)

/-! ## Tiles -/

/-- Settles O29: a fetch, a part of a row and a ready bit each have one branch of their function. -/
theorem springTiles : Obligations.SpringTiles := by
  refine ⟨?_, ?_, ?_⟩
  · intro s n k y hserves hrun hmore hslot hsaving
    refine act_to (fun d => d.tileFetch n k) hserves ?_
    have hgo : y.next < (springD y.desc).count ∧ (y.next < (springD y.desc).slots ∨ y.next - (springD y.desc).slots < y.head
        ∨ y.released.contains (y.next - (springD y.desc).slots)) ∧ (!(s.dev.ring y.ring).saving) = true :=
      ⟨hmore, hslot, by simp [hsaving]⟩
    simp only [Dev.tileFetch, hrun, hgo, and_self, if_true]
  · intro d d1 n k b w q x leaf level a bs hhere hallowed hread
    simp only [Dev.rowTry, hhere, hallowed, Bool.false_eq_true, if_false, hread, Dev.lsWrite]
  · intro s n k slot y i hserves hrun hfind hdone
    refine act_to (fun d => d.tileReady n k slot) hserves ?_
    have hall : y.parts.all (fun x => x.tile ≠ i || x.part.state = .done) = true := by
      simpa [or_iff_not_imp_left] using hdone
    simp only [Dev.tileReady, hrun, hfind, hall, if_true]

/-! ## Releases and acquires -/

theorem orders_iff (scope : Scope) (cs : List StorageClass) :
    orders ⟨scope, cs⟩ = true ↔ coversMemory cs = true ∧ scope ∈ [Scope.cluster, .device, .fabric] := by
  simp [orders, or_assoc]

theorem modBlock_ring (d : Dev) (n : Nat) (r : BlockRef) (f : Block → Block) (i : Nat) : (d.modBlock n r f).ring i = d.ring i := rfl

/-- Settles O23: lane by lane the window is a local access; releases and acquires are the work of the pond alone. -/
theorem sharedBrickMemory : Obligations.SharedBrickMemory := by
  refine ⟨?_, ?_, ?_, ?_, ?_, ?_, ?_⟩
  · intro s n b x hres htogether hdata
    refine act_to (fun d => d.clusterLoadStore x) hres.1 (block_to _ hres ?_)
    have hall : x.lanes.all (fun l => !x.store || l.data.length = x.size) = true := by
      simpa [or_iff_not_imp_left] using fun l hl hs => hdata hs l hl
    simp only [htogether, hall, Bool.and_self, if_true]
  · intro d n b store size l m p o hplace
    simp only [Dev.clusterAccess, hplace, Dev.lsWrite, Dev.lsRead]
  · intro d n b store size l hplace
    simp only [Dev.clusterAccess, hplace]
  · rintro s r n b ts scope cs d1 d2 hres hcovers hscope hruns rfl hfound rfl
    have horders := (orders_iff scope cs).2 ⟨hcovers, hscope⟩
    have hall : ts.all (fun t => b.runs t) = true := by simpa using hruns
    refine act_to (fun d => d.memRelease r ts ⟨scope, cs⟩) hres.1 (block_to _ hres ?_)
    obtain ⟨-, -, hdone, hsaving⟩ := hres
    simp only [horders, hall, Bool.and_self, if_true, Dev.retryReleases, Dev.withBlock, hfound, hdone, modBlock_ring, hsaving,
      Bool.or_self, Bool.false_eq_true, if_false]
    simp [Dev.releaseDone]
  · intro b h t hmem hthread
    simp only [Block.runs, Bool.and_eq_false_iff]
    right
    simpa using ⟨h, hmem, by simpa using hthread⟩
  · intro s r n b ts scope cs hres hnone
    have horders : orders ⟨scope, cs⟩ = false := by
      rw [← Bool.not_eq_true, orders_iff]
      rintro ⟨hcovers, hscope⟩
      rcases hnone with h | h
      · simp [h] at hcovers
      · exact h hscope
    constructor
    · refine act_to (fun d => d.memRelease r ts ⟨scope, cs⟩) hres.1 (block_to _ hres ?_)
      simp only [horders, Bool.false_and, Bool.false_eq_true, if_false]
    · refine act_to (fun d => d.memAcquire r ⟨scope, cs⟩) hres.1 (block_to _ hres ?_)
      simp only [horders, Bool.false_eq_true, if_false]
  · intro s r n b scope cs hres hcovers hscope
    refine act_to (fun d => d.memAcquire r ⟨scope, cs⟩) hres.1 (block_to _ hres ?_)
    simp only [(orders_iff scope cs).2 ⟨hcovers, hscope⟩, if_true, Dev.invalidatePond]

end Sys2Proof.Machine
end

section
/-! PROOF. Rendering and composition (R140, R156, R157, R167, R175 to R197). -/

namespace Sys2Proof.Machine

/-! ## RENDER_PASS -/

theorem and_any_ne_true {α : Type} {l : List α} {f : α → Bool} (b : Bool) (h : ∀ x ∈ l, f x = false) : ¬ (b && l.any f) = true := by
  simpa using fun _ x hx => h x hx

theorem fresh_three (d : Dev) : d.fresh.2.fresh.2.fresh.2 = { d with freeCtr := d.freeCtr + 3 } := rfl

/-- The draw records that a RENDER_PASS has read. -/
def drawRecords (c : Cmd) (db : Bytes) : List Bytes :=
  (List.range (min (passD c.desc).count 65536)).map (fun i => slice db (64 * i) 64)

section Reads

variable {d d1 d2 : Dev} {c : Cmd} {rb db : Bytes}
  (hnew : c.run = .none ∨ c.run = .kernelWait)
  (hon : ∀ fe ∈ frontEnds (d.partWalls c.part), d.pwr.on.testBit (28 + fe) = true)
  (hrecord : d.cmdRead c engRaster (passD c.desc).record 320 = (d1, .ok, rb))
  (hdraws : d1.cmdRead c engRaster (passD c.desc).drawList (64 * min (passD c.desc).count 65536) = (d2, .ok, db))
  (hready : ∀ k ∈ kernelUses ((drawRecords c db).map drawOf), ∀ x, d2.kernelRec k.1 = some x → x.1 ≠ .translating)

include hnew hon hrecord hdraws hready

theorem runRenderPass_fails {st : Half} {n : Nat}
    (hfails : d2.passFails c.desc (passRec rb) ((drawRecords c db).map drawOf) = some (st, n)) :
    d.runRenderPass c = d2.fail c st n := by
  have hon' : (frontEnds (d.partWalls c.part)).any (fun fe => !d.pwr.on.testBit (28 + fe)) = false := by simpa using hon
  unfold drawRecords at hfails hready
  rcases hnew with hrun | hrun <;>
    · simp only [Dev.runRenderPass, hrun, hon', Bool.false_eq_true, if_false, hrecord, hdraws, hfails]
      refine if_neg (and_any_ne_true _ fun k hk => ?_)
      split
      · next hrec => exact decide_eq_false (hready k hk _ hrec)
      · rfl

theorem runRenderPass_begins {refs : List Nat} {d3 : Dev}
    (hholds : d2.passFails c.desc (passRec rb) ((drawRecords c db).map drawOf) = none)
    (hrefs : (kernelUses ((drawRecords c db).map drawOf)).map (fun k => handleIndex k.1) = refs)
    (hd3 : ((refs.foldl (fun d i => d.takeRef i) d2).freshInput c.ring c.serial).modCmd c.ring c.serial
      (fun c => { c with refs := c.refs ++ refs }) = d3) :
    d.runRenderPass c =
      let y := { d3 with freeCtr := d3.freeCtr + 3 }.heapLow c
        (PassRun.start rb (drawRecords c db) (d3.partBricks c.part) d3.freeCtr)
      (y.1.setPass c y.2).passOn c.ring c.serial := by
  have hon' : (frontEnds (d.partWalls c.part)).any (fun fe => !d.pwr.on.testBit (28 + fe)) = false := by simpa using hon
  unfold drawRecords at hholds hready hrefs ⊢
  rcases hnew with hrun | hrun <;>
    · simp only [Dev.runRenderPass, hrun, hon', Bool.false_eq_true, if_false, hrecord, hdraws, hholds, hrefs, hd3, fresh_three]
      refine if_neg (and_any_ne_true _ fun k hk => ?_)
      split
      · next hrec => exact decide_eq_false (hready k hk _ hrec)
      · rfl

end Reads

/-- Settles O30: what the records say decides a RENDER_PASS; every other clause is one branch of the heap's rules. -/
theorem passesRender : Obligations.PassesRender := by
  refine ⟨?_, ?_, ?_, ?_, ?_, ?_, ?_⟩
  · rintro s src d d1 d2 d3 c rb db raw ks hstarts hnew hon hrecord hdraws rfl rfl hready
    constructor
    · intro st n hfails
      exact ringRow_to Dev.runRenderPass hstarts (runRenderPass_fails hnew hon hrecord hdraws hready hfails)
    · intro hholds hd3
      exact ringRow_to Dev.runRenderPass hstarts
        (runRenderPass_begins hnew hon hrecord hdraws hready hholds rfl hd3.symm)
  · intro s src d c p hstarts hrun
    refine ringRow_to Dev.runRenderPass hstarts ?_
    simp only [Dev.runRenderPass, hrun]
  · intro d c p st hheap hwrites hphase
    simp [Dev.passStep, hheap, hwrites, hphase, Dev.endPass]
  · intro s ring serial c p fe t hserves hpass hstalled hasked
    refine act_to (fun d => d.growRequest ring serial fe) hserves ?_
    simp only [Dev.growRequest, hpass, hstalled, hasked, Dev.growFallback, ne_eq, not_true_eq_false, Bool.false_eq_true, or_self,
      if_false]
    match hpolicy : (passRec p.record).policy with
    | 0 => by_cases hroom : (passRec p.record).growLimit ≤ p.granted <;>
        by_cases hfall : (passRec p.record).fallback <;> simp [hroom, hfall, Nat.not_lt.2, Nat.lt_of_not_le]
    | 1 => simp
    | _ + 2 => simp
  · rintro s ring serial c p n fe t y hserves hpass hstalled hasked hbefore hpolicy rfl hsome
    refine act_to (fun d => d.growGrant ring serial y) hserves ?_
    simp only [Dev.growGrant, hpass, hpolicy, hsome, hstalled, hasked, hbefore, and_self, if_true, ne_eq, not_true_eq_false,
      or_self, if_false]
  · rintro s ring serial c p n fe t y hserves hpass hstalled hlate hpolicy rfl hsome
    refine act_to (fun d => d.growGrant ring serial y) hserves ?_
    simp only [Dev.growGrant, hpass, hpolicy, hsome, hstalled, Nat.not_lt.2 hlate, and_false, ne_eq, not_true_eq_false,
      or_self, if_false]
  · rintro s ring serial c p fe t d hserves hpass hstalled hasked rfl
    refine act_to (fun d => d.growTimeout ring serial) hserves ?_
    simp only [Dev.growTimeout, hpass, hstalled, hasked, if_true, Dev.growFallback]
    split <;> rfl

/-! ## Poses and layers -/

/-- Settles O31: a pose packet or a layer that passes its checks is offered to its slot or published. -/
theorem posesAndLayers : Obligations.PosesAndLayers := by
  refine ⟨?_, ?_, ?_, ?_⟩
  · intro s src d d1 c p hstarts hreserved haligned hread hformed hempty
    refine ringRow_to Dev.runPoseSubmit hstarts ?_
    simp only [Dev.runPoseSubmit, hreserved, haligned, hread, hformed, Dev.posePacket, Dev.offerPose, hempty, Bool.not_true,
      Bool.false_eq_true, ne_eq, not_true_eq_false, or_self, if_false]
  · intro s port p o hserves hport hpowered hmode hudp hformed hslot hearlier
    refine act_to (fun d => d.poseUdp port p) hserves ?_
    simp only [Dev.poseUdp, hport, hpowered, hmode, hudp, ne_eq, not_false_eq_true, and_self, if_true, Dev.posePacket, hformed,
      Bool.false_eq_true, if_false, Dev.offerPose, hslot, hearlier]
  · intro s src d c hstarts hok hclear
    refine ringRow_to Dev.runLayerPublish hstarts ?_
    simp only [Dev.runLayerPublish, hok, hclear, Dev.publish, Bool.not_true, Bool.false_eq_true, if_false, if_true]
  · intro s src d d1 d2 c b ci hstarts hok hclear hlayer hlok hcolor hcok hwarp
    refine ringRow_to Dev.runLayerPublish hstarts ?_
    simp only [Dev.runLayerPublish, hok, hclear, hlayer, hlok, hcolor, hcok, hwarp, Dev.publish, Bool.not_true,
      Bool.false_eq_true, if_false, ne_eq, not_false_eq_true, if_true]

/-! ## Slices and commits -/

/-- Settles O32: a latch that comes lets a slice begin or a set take effect; a write that may be made stages a set. -/
theorem slicesAndCommits : Obligations.SlicesAndCommits := by
  refine ⟨?_, ?_, ?_, ?_, ?_, ?_⟩
  · rintro s n d1 t due hserves hn rfl hlatch
    refine act_to (fun d => d.poseLatchRow n) hserves ?_
    simp only [Dev.poseLatchRow, hn, if_true, hlatch]
  · rintro s n r rest t tick d hserves hdue hedge rfl
    refine act_to (fun d => d.sliceDue n) hserves ?_
    simp only [Dev.sliceDue, hdue, hedge, Option.getD_some]
  · rintro s src n d hserves hn rfl hmay
    refine (regRow_serves (f := fun d => d.outgeomStage src n) hserves).trans ?_
    simp only [Dev.outgeomStage, hmay, hn, and_self, if_true]
  · rintro s src n d hserves hn rfl hmay
    refine (regRow_serves (f := fun d => d.cmatrixStage src n) hserves).trans ?_
    simp only [Dev.cmatrixStage, hmay, hn, and_self, if_true]
  · rintro s n t due hserves hn hstaged hfirst hlatch hlater
    refine act_to (fun d => d.outgeomEffect n) hserves ?_
    cases hrefused : (s.dev.advanceTo t).outgeomRefusal ((s.dev.advanceTo t).tryGroup (.outgeom n)) n <;>
    simp only [Dev.outgeomEffect, hn, hstaged, hfirst, and_self, if_true, hlatch, hlater, Dev.outgeomApply, hrefused]
  · rintro s n t due hserves hn hstaged hlatch hlater
    refine act_to (fun d => d.cmatrixEffect n) hserves ?_
    simp only [Dev.cmatrixEffect, hn, hstaged, and_self, if_true, hlatch, hlater]

end Sys2Proof.Machine
end

section
/-! PROOF. Maintenance, translation, faults and compression (R205 to R272). -/

namespace Sys2Proof.Machine

/-! ## Maintenance -/

section Maintain

variable {d : Dev} {c : Cmd} (hnew : c.run = .none) (hop : mntOp c.desc ≠ 3) (hreserved : reservedZero c.desc mntFields = true)
  (hfits : rangeFits c.desc = true)
include hnew hop hreserved hfits

theorem runMaintain_empty (hempty : mntLength c.desc = 0) : d.runMaintain c = d.done c 0 := by
  simp [Dev.runMaintain, hnew, hop, hreserved, hfits, hempty]

theorem runMaintain_queues (hlength : mntLength c.desc ≠ 0) (h0 : (d.maintQueue 0).length < 17)
    (h1 : (d.maintQueue 1).length < 17) : d.runMaintain c =
      ((d.setMaint 0 (d.maintQueue 0 ++ [⟨c.ring, c.serial⟩])).setMaint 1 (d.maintQueue 1 ++ [⟨c.ring, c.serial⟩])).setRun
        c.ring c.serial (.maintain [0, 1]) := by
  simp only [Dev.runMaintain, hnew, hop, hreserved, hfits, hlength, h0, h1, Bool.not_true, Bool.false_eq_true, or_self, if_false,
    and_self, if_true]

end Maintain

/-- Settles O33: the three commands share one run; an engine's operation is carried out, and then leaves its queue. -/
theorem maintenanceRuns : Obligations.MaintenanceRuns := by
  constructor
  · intro s src d c i hi hstarts hnew hop hreserved hfits
    have hrun : ∀ d', d.runMaintain c = d' → exec i s = .next (s.withDev (settled src d')) := by
      simp only [List.mem_cons, List.not_mem_nil, or_false] at hi
      rcases hi with rfl | rfl | rfl <;> exact fun d' h => ringRow_to Dev.runMaintain hstarts h
    exact ⟨fun hempty => hrun _ (runMaintain_empty hnew hop hreserved hfits hempty),
      fun hlength h0 h1 => hrun _ (runMaintain_queues hnew hop hreserved hfits hlength h0 h1)⟩
  · rintro s die o rest c left ps d1 d hserves hqueue hcmd hrun hgate rfl rfl rfl
    refine act_to (fun d => d.maintStart die) hserves ?_
    simp only [Dev.maintStart, hqueue, hcmd, hrun, hgate, Bool.not_eq_true']

/-! ## Invalidations -/

/-- Settles O34: each event has one branch in which the invalidation it needs is there. -/
theorem invalidationsRun : Obligations.InvalidationsRun := by
  refine ⟨?_, ?_, ?_, ?_⟩
  · intro s src d c hstarts hnew hreserved hroom hrange
    refine ringRow_to Dev.runInvalidate hstarts ?_
    have hok : ¬ ((!reservedZero c.desc invFields) = true ∨
        (!invAll c.desc) = true ∧ (invBase c.desc).toNat + (invLength c.desc).toNat > 2 ^ 52) := by
      rcases hrange with h | ⟨h, -⟩
      · simp [hreserved, h]
      · simp only [hreserved, Bool.not_true, Bool.false_eq_true, Nat.not_lt.2 h, and_false, or_self, not_false_eq_true]
    have hsome : ¬ ((!invAll c.desc) = true ∧ (invLength c.desc).toNat = 0) := by
      rcases hrange with h | h <;> simp [h]
    simp only [Dev.runInvalidate, hnew, if_neg hok, if_neg hsome, Nat.not_le.2 hroom, if_false]
  · rintro s v rest w hserves hrunning hqueue rfl
    refine act_to Dev.invalStart hserves ?_
    simp only [Dev.invalStart, hrunning, hqueue]
  · rintro s v d ops hserves hrunning rfl rfl
    refine act_to Dev.invalTimeout hserves ?_
    simp only [Dev.invalTimeout, hrunning]
    rfl
  · intro s v hserves hrunning hnone
    refine act_to Dev.invalDone hserves ?_
    simp only [Dev.invalDone, hrunning, hnone, List.isEmpty_nil, if_true]

/-! ## Faults -/

theorem faultResume_starts {s : State} {src : CmdSource} {d d' : Dev} {c : Cmd} {nv : Nv} (h : Starts s src (isOp 0x48) d c)
    (hrun : d.runResume s.nv c = (d', nv)) : exec (.faultResume src) s = .next { s with dev := settled src d', nv := nv } := by
  obtain ⟨hready, hrow⟩ := resumeRow_issued (nv := s.nv) h.2
  have hexec := actNv_serves (f := fun d nv => if d.ready src then d.resumeRow nv src else (d, nv)) h.1
  rw [hready, if_pos rfl, hrow, hrun] at hexec
  exact hexec

/-- Settles O35: a walk and a batch have one branch each; FAULT_RESUME is the run of its row. -/
theorem faultsAreServed : Obligations.FaultsAreServed := by
  refine ⟨?_, ?_, ?_, ?_, ?_⟩
  · intro s asid part va w a e n d1 lf l hserves hhigh henable hmiss hwalk hallows
    refine act_to (fun d => d.tableWalk asid part va (accessOf w a e) n) hserves ?_
    have hasker : Req.asker ⟨0xFFFF, 0, some part, asid, engOther, 0, 0, none, .none⟩ = ⟨some part, none, none⟩ := rfl
    simp only [Dev.tableWalk, Dev.translate, hhigh, henable, hmiss, hasker, hwalk, hallows, ne_eq, not_true_eq_false, if_false,
      if_true]
  · intro s asid part va w a e n d1 k l hserves hhigh henable hmiss hwalk
    refine act_to (fun d => d.tableWalk asid part va (accessOf w a e) n) hserves ?_
    have hasker : Req.asker ⟨0xFFFF, 0, some part, asid, engOther, 0, 0, none, .none⟩ = ⟨some part, none, none⟩ := rfl
    simp only [Dev.tableWalk, Dev.translate, hhigh, henable, hmiss, hasker, hwalk, ne_eq, not_true_eq_false, if_false,
      Req.record, Option.getD_some]
  · intro s asid b hserves hopen
    refine act_to (fun d => d.batchWindow asid) hserves ?_
    simp only [Dev.batchWindow, hopen]
  · intro s asid r hserves hwaiting hwaits hroom
    refine act_to (fun d => d.ringRoom asid) hserves ?_
    simp only [Dev.ringRoom, hwaiting, List.length_singleton, Dev.writeWaiting, hwaits, hroom, Bool.not_true, Bool.false_eq_true,
      if_false, if_true]
  · rintro s src d c asid no b failed again d0 d1 r d2 hstarts rfl rfl hfind hreserved rfl rfl rfl rfl rfl rfl
    refine faultResume_starts hstarts ?_
    simp only [Dev.runResume, hfind, hreserved, Bool.not_true, Bool.false_eq_true, if_false]
    rfl

/-! ## Stream jobs -/

section Streams

variable {d d1 : Dev} {c : Cmd} {h : Bytes} (hnew : c.run = .none)

include hnew in
theorem runStream_encodings (hbad : streamEncodings c.desc = false) : d.runStream c = d.fail c Sts.badDescriptor 3 := by
  simp [Dev.runStream, hnew, hbad]

variable (hok : streamEncodings c.desc = true)

include hnew hok in
theorem runStream_small (hsmall : d.memLength (streamD c.desc).entry < (streamD c.desc).stateBytes) :
    d.runStream c = d.fail c Sts.badDescriptor 4 := by
  simp [Dev.runStream, hnew, hok, hsmall]

variable (hlarge : (streamD c.desc).stateBytes ≤ d.memLength (streamD c.desc).entry)

include hnew hok hlarge in
theorem runStream_fresh (hfresh : (streamD c.desc).resume = false) : d.runStream c = d.jobEnter c := by
  simp [Dev.runStream, hnew, hok, Nat.not_lt.2 hlarge, hfresh]

include hnew hok hlarge in
theorem runStream_resume (hresume : (streamD c.desc).resume = true)
    (hread : d.cmdRead (d.stateCmd c).1 engCompression (d.stateCmd c).2 64 = (d1, .ok, h)) :
    d.runStream c = if d1.resumeOk (streamD c.desc) (d1.streamPlace c) h then d1.jobEnter c else d1.fail c Sts.badDescriptor 5 := by
  simp only [Dev.runStream, hnew, hok, Bool.not_true, Bool.false_eq_true, Nat.not_lt.2 hlarge, hresume, hread, if_false]

end Streams

theorem jobEnter_starts {d : Dev} {c : Cmd} (hslot : d.jobsRunning < 8) (hfirst : d.jobsWaiting = 0) (hon : d.pwr.on.testBit 31 = true) :
    d.jobEnter c = d.jobStart c := by
  simp [Dev.jobEnter, hslot, hfirst, hon]

theorem jobEnter_waits {d : Dev} {c : Cmd} (hfull : 8 ≤ d.jobsRunning) (hroom : d.jobsWaiting < 64) :
    d.jobEnter c = d.setRun c.ring c.serial (.stream false) := by
  simp only [Dev.jobEnter, Nat.not_lt.2 hfull, false_and, if_false, hroom, if_true]

theorem jobStart_runs {d d1 d2 : Dev} {c y : Cmd} {sd : StreamSt} {w : List VWrite} (hfresh : (streamD c.desc).resume = false)
    (hsd : sd = { StreamSt.start (d.streamPlace c) (streamD c.desc).kind with resumable := false })
    (hbusy : Dev.cmdWrites (d.stateCmd c).1 engCompression (d.stateWrites c sd true).1 (d.stateWrites c sd true).2 = (d1, .ok, w))
    (hd2 : d2 = ((d1.setStreamSt sd).freshInput c.ring c.serial).setRun c.ring c.serial (.stream true))
    (hcmd : d2.cmd? c.ring c.serial = some y) : d.jobStart c = d2.jobOn y := by
  subst hsd hd2
  simp only at hbusy hcmd
  simp only [Dev.jobStart, hfresh, Bool.false_eq_true, if_false, hbusy, hcmd]

theorem jobOn_ends {d d3 d4 d5 d6 d7 : Dev} {c : Cmd} {bs : Bytes} {o : JobOut} {w1 w2 w3 : List VWrite}
    (hread : d.cmdRead c engCompression (streamD c.desc).src (streamD c.desc).srcLen = (d3, .ok, bs))
    (ho : o = if (streamD c.desc).decompress then
        decompressJob (streamD c.desc) (d3.streamSt (d3.streamPlace c) (streamD c.desc).kind []) bs
      else compressJob (streamD c.desc) (d3.streamSt (d3.streamPlace c) (streamD c.desc).kind []) bs)
    (hd4 : d4 = ((((d3.setStreamSt o.st).bump Fld.CPR_STREAM_IN_count 0 o.consumed).bump Fld.CPR_STREAM_OUT_count 0
      o.out.length).count 0x0070 o.consumed (c.attr none)).count 0x0071 o.out.length (c.attr none))
    (hout : Dev.cmdWrites c engCompression (d4.stateWrites c o.st false).1
      (if o.out.isEmpty then [] else [⟨(streamD c.desc).dst, o.out, false⟩]) = (d5, .ok, w1))
    (hhead : Dev.cmdWrites (d5.stateCmd c).1 engCompression d5 (d4.stateWrites c o.st false).2 = (d6, .ok, w2))
    (hresult : Dev.cmdWrites c engCompression d6 [⟨(streamD c.desc).result, resultRecord o, false⟩] = (d7, .ok, w3)) :
    d.jobOn c = d7.endCmd c.ring c.serial o.status 0 noUnit := by
  simp only [Dev.jobOn, hread, ← ho, ← hd4, Dev.jobEnd, hout, hhead, hresult]

/-- Either direction of a stream job has the same run. -/
theorem stream_to {s : State} {src : CmdSource} {d d' : Dev} {c : Cmd} {i : Instr}
    (hstarts : Starts s src (fun l => isOp 0x50 l && (match i with
      | .streamCodecCompress _ => !(streamD l).decompress
      | _ => (streamD l).decompress)) d c)
    (hi : i ∈ [Instr.streamCodecCompress src, .streamCodecDecompress src]) (hrun : d.runStream c = d') : exec i s = .next (s.withDev (settled src d')) := by
  simp only [List.mem_cons, List.not_mem_nil, or_false] at hi
  rcases hi with rfl | rfl <;> exact ringRow_to Dev.runStream hstarts hrun

/-- Settles O36: the checks of a job in their order, its start, and the run of a job whose reads and writes all succeed. -/
theorem streamJobsRun : Obligations.StreamJobsRun := by
  refine ⟨?_, ?_, ?_⟩
  · rintro s src d d1 d2 d3 d4 d5 d6 d7 c x i sd o y bs w w1 w2 w3 hi hstarts hnew rfl hok hlarge hfresh hslot hfirst hon hsd
      hbusy hd2 hcmd hdesc hread ho hd4 hout hhead hresult
    refine stream_to hstarts hi ?_
    rw [runStream_fresh hnew hok hlarge hfresh, jobEnter_starts hslot hfirst hon, jobStart_runs hfresh hsd hbusy hd2 hcmd]
    rw [← hdesc] at hread ho hout hresult
    exact jobOn_ends hread ho hd4 hout hhead hresult
  · intro s src d c i hi hstarts hnew
    refine ⟨fun hbad => ?_, fun hok hsmall => ?_, fun d1 h hok hlarge hresume hread hbad => ?_,
      fun d1 h hok hlarge hresume hread hgood hslot hfirst hon => ?_, fun hok hlarge hfresh hfull hroom => ?_⟩ <;>
      refine stream_to hstarts hi ?_
    · exact runStream_encodings hnew hbad
    · exact runStream_small hnew hok hsmall
    · rw [runStream_resume hnew hok hlarge hresume hread, hbad]
      rfl
    · rw [runStream_resume hnew hok hlarge hresume hread, if_pos hgood, jobEnter_starts hslot hfirst hon]
    · rw [runStream_fresh hnew hok hlarge hfresh, jobEnter_waits hfull hroom]
  · intro s c hserves hfind hslot hfaulted hon
    refine act_to Dev.jobFromQueue hserves ?_
    simp only [Dev.jobFromQueue, hfind, hslot, hfaulted, hon, Bool.not_false, and_self, if_true]

/-! ## Blocks of the compressible window -/

/-- Settles O37: each row has one branch in which the block and the range it names are there. -/
theorem compressedBlocks : Obligations.CompressedBlocks := by
  refine ⟨?_, ?_, ?_⟩
  · intro s a hserves hgate hwindow hheld
    refine act_to (fun d => d.blockBack a) hserves ?_
    simp only [Dev.blockBack, hgate, hwindow, hheld, and_self, if_true]
  · intro s a bs target hserves hgate hwindow hin hnone htarget
    refine act_to (fun d => d.blockMerge a bs target) hserves ?_
    have htarget' : target.all (fun t => t ≤ 2) = true := by
      cases target with
      | none => rfl
      | some t => simpa using htarget t rfl
    simp only [Dev.blockMerge, hgate, hwindow, hin, hnone, Option.isNone_none, htarget', and_self, if_true]
  · intro s src d c hstarts hop hreserved hfits hlength hgate
    refine ringRow_to Dev.runRecode hstarts ?_
    simp only [Dev.runRecode, hop, hreserved, hfits, hlength, hgate, Bool.not_true, Bool.false_eq_true, or_self, if_false]

end Sys2Proof.Machine
end

section
/-! PROOF. The sequence engine and partitions (R273 to R289, R334 to R356). -/

namespace Sys2Proof.Machine

/-! ## STEP -/

section Steps

variable {d d2 d3 : Dev} {c : Cmd} {r r2 r3 : StepRun} (hgate : d.dramGate = .ok)
include hgate

theorem stepOn_grows (hphase : r.phase = .growth)
    (hgrow : Dev.stepGrow c (d.poolCfg c.part) (r.ents.length + r.list.length + r.cands.length + 2) d r = (d2, r2, false)) :
    d.stepOn c r = d2.setRun c.ring c.serial (.step r2) := by
  simp only [Dev.stepOn, hgate, hphase, if_true, hgrow, Bool.not_false]

theorem stepOn_commits
    (hgrow : (if r.phase = .growth then
        Dev.stepGrow c (d.poolCfg c.part) (r.ents.length + r.list.length + r.cands.length + 2) d r
      else (d, r, true)) = (d2, r2, true))
    (hadmit : Dev.stepAdmit c (d.poolCfg c.part) (r2.cands.length + 1) d2 r2 = (d3, r3, true)) :
    d.stepOn c r = d3.stepCommit c (d.poolCfg c.part) r3 := by
  simp only [Dev.stepOn, hgate, hgrow, hadmit, Bool.not_true, Bool.false_eq_true, if_false]

end Steps

/-- Settles O38: a STEP whose turn it is reads its list and goes on; what it then does is said by the growth and the admissions. -/
theorem stepsCommit : Obligations.StepsCommit := by
  refine ⟨?_, ?_, ?_⟩
  · rintro s src d d1 d2 d3 c bs list r r2 r3 hstarts hnew hok hahead hnone hread rfl rfl hgate hgrow hadmit
    refine ringRow_to Dev.runStep hstarts (Eq.trans ?_ (stepOn_commits hgate hgrow hadmit))
    simp only [Dev.runStep, hnew, hok, hahead, hnone, Bool.not_true, Bool.false_eq_true, or_self, if_false, hread]
  · intro s src d c r hstarts hrun
    refine ringRow_to Dev.runStep hstarts ?_
    simp only [Dev.runStep, hrun]
  · intro d d2 c r r2 hgate hphase hgrow
    exact stepOn_grows hgate hphase hgrow

/-! ## Pools -/

/-- Settles O39: a pool with room takes the pages; a commit is staged by a write that may be made, and taken when no STEP runs. -/
theorem poolsAreConfigured : Obligations.PoolsAreConfigured := by
  refine ⟨?_, ?_, ?_⟩
  · rintro s p dev n c r d hserves hp rfl henable hpages hguests hgate rfl rfl
    refine act_to (fun d => d.guestRequest p dev n) hserves ?_
    simp only [Dev.guestRequest, hp, if_true, Dev.acceptGuests, henable, hpages, hguests, hgate, and_self]
  · rintro s src p d hserves hp rfl hmay
    refine (regRow_serves (f := fun d => d.poolStage src p) hserves).trans ?_
    simp only [Dev.poolStage, hp, if_true, Dev.commitBy, hmay]
  · intro s p hserves hp hstaged hnone
    refine act_to (fun d => d.poolEffect p) hserves ?_
    cases hrefused : s.dev.poolRefusal (s.dev.tryGroup (.pool p)) p <;>
    simp only [Dev.poolEffect, hp, hstaged, hnone, Bool.not_false, and_self, if_true, hrefused]

/-! ## Partitions -/

/-- Settles O40: an ABORT that passes its check ends the work of its rings; a write that may be made stages a set. -/
theorem abortsAndCommits : Obligations.AbortsAndCommits := by
  refine ⟨?_, ?_, ?_⟩
  · intro s src d c hstarts hreserved hstate hpart hring
    refine ringRow_to Dev.runAbortRing hstarts ?_
    have hown : ¬ (abtRing c.desc < 8 ∧ (!c.gotik) = true) := by
      rintro ⟨hlow, hgotik⟩
      rcases hring with h | h
      · omega
      · simp [h] at hgotik
    simp only [Dev.runAbortRing, hreserved, hstate, hpart, hown, Bool.not_true, Bool.false_eq_true, ne_eq, not_true_eq_false,
      or_self, if_false]
  · intro s src d c hstarts hreserved
    refine ringRow_to Dev.runAbortPartition hstarts ?_
    simp only [Dev.runAbortPartition, hreserved, Bool.not_true, Bool.false_eq_true, if_false]
  · rintro s src p d hserves hp rfl hmay
    refine (regRow_serves (f := fun d => if p < 8 then d.commitBy src (.part p) else d) hserves).trans ?_
    simp only [hp, if_true, Dev.commitBy, hmay]

/-- Settles O41: the checks of PREEMPT and RESTORE hold by hypothesis; a save point is one run of its writes. -/
theorem preemptAndRestore : Obligations.PreemptAndRestore := by
  refine ⟨?_, ?_, ?_⟩
  · rintro s src d c i r d1 d2 d3 hstarts hnew rfl rfl hreserved hpart hstate hsaving hring haligned hsize hrange rfl rfl rfl
    refine ringRow_to Dev.runPreempt hstarts ?_
    have hown : ¬ (preRing c.desc < 8 ∧ (!c.gotik) = true) := by
      rintro ⟨hlow, hgotik⟩
      rcases hring with h | h
      · omega
      · simp [h] at hgotik
    have hstate' : ((d.ring (preRing c.desc)).state = .running || (d.ring (preRing c.desc)).state = .stopped) = true := by
      simpa using hstate
    simp only [Dev.runPreempt, hnew, hreserved, hpart, hstate', hsaving, hown, haligned, Nat.not_lt.2 hsize, hrange, Bool.not_true,
      Bool.false_eq_true, ne_eq, not_true_eq_false, or_self, if_false]
  · rintro s i p c r bricks cmds head d1 d2 d3 x hserves hfind hcmd hpoint hactive rfl rfl hlocal rfl rfl hclean hpoint1 hwrites rfl
      rfl
    refine act_to (fun d => d.savePoint i) hserves ?_
    simp only [Dev.savePoint, hfind, hcmd, hpoint, hactive, Bool.not_true, Bool.false_eq_true, or_self, if_false, hlocal, hclean,
      hpoint1, hwrites]
  · rintro s src d d1 d2 d3 d4 c i h n f rs sv mb w x hstarts rfl hreserved hring hstate henable hcount haligned hmap hread rfl rfl
      hmagic hversion hcrc hwhole hunused hhome hbricks hrecords hsave hadmits hhandles hmark rfl hblocks
    refine ringRow_to Dev.runRestore hstarts ?_
    have hhome' : ¬ ((!decide (leAt h 5 1 / 4 % 2 = 1)) = true ∧ leAt h 6 2 % 4096 ≠ d1.addr) := by
      rintro ⟨hlocal, hother⟩
      rcases hhome with h | h
      · simp [h] at hlocal
      · exact hother h
    simp only [Dev.runRestore, hreserved, Nat.not_lt.2 hring, hstate, henable, Nat.not_lt.2 hcount, haligned, hmap, gt_iff_lt,
      Bool.not_true, Bool.false_eq_true, ne_eq, not_true_eq_false, or_self, if_false, hread, hmagic, hversion, hcrc, hwhole, hunused,
      one_ne_zero, zero_ne_one, Nat.not_lt.2 hbricks, hrecords, hsave, hadmits, hhandles, hmark, hblocks, List.filter_nil, List.map_nil]
    exact if_neg (by simpa using hhome')

/-! ## Saved blocks -/

/-- Settles O42: what stands in the way of a save or of a restore is excluded by hypothesis. -/
theorem savedBlocks : Obligations.SavedBlocks := by
  refine ⟨?_, ?_⟩
  · rintro s p c n bs hserves hpressing hfewest rfl hidle hgroups hroom hauto
    refine act_to (fun d => d.autoPreempt p) hserves ?_
    have hbusy : ((s.dev.bricksWith (fun b => b.inClusters (s.dev.brick n).blocks)).flatMap (fun m =>
        ((s.dev.brick m).blocks.filter (fun b => b.inClusters (s.dev.brick n).blocks)).map (fun b => (m, b)))).any
          (fun e => s.dev.blockBusy e.1 e.2) = false := by
      simp only [List.any_eq_false, List.mem_flatMap, List.mem_map, List.mem_filter, Bool.not_eq_true]
      rintro e ⟨m, hm, b, ⟨hb, hin⟩, rfl⟩
      exact hidle m hm b hb hin
    simp only [Dev.autoPreempt, hpressing, hfewest, hbusy, hgroups, hroom, hauto, ne_eq, not_false_eq_true, decide_true,
      Bool.and_self, and_self, if_true]
  · rintro s p bricks w unit d1 hserves hfirst hunit hplace hbricks hsprings houtranked hclean
    refine act_to (fun d => d.restoreUnit p bricks) hserves ?_
    have hroom : bricks.all (fun n => w.bricks.contains n && s.dev.roomOn w.room n) = true := by simpa using hbricks
    have hidle : (unit.zip bricks).all (fun e => e.1.springs.all (fun x => (s.dev.spring e.2 x.1).run.isNone)) = true := by
      simpa only [List.all_eq_true, Option.isNone_iff_eq_none] using hsprings
    simp only [Dev.restoreUnit, hfirst, hunit, hplace, hroom, hidle, houtranked, Bool.not_false, and_self, if_true, hclean]

end Sys2Proof.Machine
end

section
/-! PROOF. Submission and retirement of commands (R299 to R303), and the site tick (R25 to R31, R366, R473). -/

namespace Sys2Proof.Machine

/-! ## Retirement -/

theorem finishCmd_fenceless {d : Dev} {c : Cmd} (hfence : hdrFence c.desc = 0) (hedges : c.cls = 0 ∨ c.edges = 0) :
    d.finishCmd c =
      (((d.drop c.refs).withCmds ((d.drop c.refs).sub.cmds.filter (fun x => !(x.ring = c.ring && x.serial = c.serial)))).withMeter
        { (d.drop c.refs).meter with retired := (d.drop c.refs).meter.retired + 1 }).count 0x0040 1 (c.attr none) := by
  have hnone : ¬ (c.cls ≠ 0 ∧ c.edges > 0 ∧ c.phase = .ended ∧ c.status ≠ Sts.tickOverrun) := by
    rintro ⟨hcls, hpos, -⟩
    rcases hedges with h | h <;> omega
  simp only [Dev.finishCmd, hfence, true_or, if_true, if_neg hnone]
  rfl

section Retires

variable {d d1 : Dev} {i : Nat} {n : Wide} {c : Cmd} (hcmd : d.cmd? i n = some c) (hended : c.phase = .ended)
  (hturn : d.mayStart c = true) (hfaulted : c.faulted = false) (hedge : d.edgeDecides c = false)
  (hstores : d.storesDone c = (d1, true))
include hcmd hended hturn hfaulted hedge hstores

theorem retireCmd_finishes (hrecord : c.recordDone = true ∨ d1.wantsRecord c = false) : d.retireCmd i n = d1.finishCmd c := by
  have hgo : c.recordDone = true ∨ (!d1.wantsRecord c) = true := by simpa using hrecord
  simp only [Dev.retireCmd, hcmd, hended, hturn, hfaulted, hedge, hstores, Bool.not_false, and_self, if_true, if_pos hgo]

theorem retireCmd_records {d4 : Dev} {y : Cmd} (hnot : c.recordDone = false) (hwants : d1.wantsRecord c = true)
    (hwrite : d1.writeRecord c = d4) (hagain : d4.cmd? i n = some y) (hdone : y.recordDone = true) (hquiet : d4.cmdOps i n = false) :
    d.retireCmd i n = d4.finishCmd y := by
  simp only [Dev.retireCmd, hcmd, hended, hturn, hfaulted, hedge, hstores, Bool.not_false, and_self, if_true, hnot, hwants,
    Bool.not_true, Bool.false_eq_true, or_self, if_false, hwrite, hagain, hdone, hquiet]

end Retires

/-- Settles O44: a fetch, a failing header and a start have one branch each; retirement is taken apart above. -/
theorem submissionRuns : Obligations.SubmissionRuns := by
  refine ⟨?_, ?_, ?_, ?_, ?_, ?_⟩
  · rintro s i r d1 bs got hserves hmay rfl hread
    refine act_to (fun d => d.fetchDescriptor i) hserves ?_
    simp only [Dev.fetchDescriptor, hmay, if_true, hread]
  · intro d i serial part asid cls bell l st step hi hfails
    have hring : decide (i = gotikRing) = false := decide_eq_false (by unfold gotikRing; omega)
    simp only [Dev.accept, hring, hfails]
  · rintro s d i n c rfl hserves hcmd hphase hturn hsaving
    refine act_to (fun d => d.startCmd i n) hserves ?_
    simp only [Dev.startCmd, hcmd, hphase, hturn, hsaving, Bool.not_false, and_self, if_true]
  · rintro s d d1 d2 i n c rfl hserves hcmd hended hturn hfaulted hedge hstores hrecord hfence hedges rfl
    refine act_to (fun d => d.retireCmd i n) hserves ?_
    rw [retireCmd_finishes hcmd hended hturn hfaulted hedge hstores hrecord, finishCmd_fenceless hfence hedges]
    rfl
  · rintro s d d1 d2 d3 d4 i n c r w y rfl hserves hcmd hended hturn hfaulted hedge hstores hnot hwants hroom rfl hwrite rfl hagain
      hdone hquiet
    refine act_to (fun d => d.retireCmd i n) hserves
      (retireCmd_records hcmd hended hturn hfaulted hedge hstores hnot hwants ?_ hagain hdone hquiet)
    simp only [Dev.writeRecord, hroom, hwrite]
  · rintro s d i c rfl hserves hfind hstalled
    refine act_to (fun d => d.cqResume i) hserves ?_
    simp only [Dev.cqResume, hfind, hstalled, if_true]

/-! ## The site tick -/

theorem measured_locks {d : Dev} (hlock : d.tick.lock = .acquiring) (hnear : (d.phaseError d.tick.lastEdge).natAbs ≤ 100)
    (hgood : 3 ≤ d.tick.good) : d.measured.tick.lock = .locked := by
  have hrenumber : ∀ d : Dev, d.renumber.tick = d.tick := by
    intro d
    unfold Dev.renumber
    split <;> rfl
  have hfour : d.tick.good + 1 ≥ 4 := by omega
  unfold Dev.measured
  simp only [hrenumber, Dev.setFld_tick, hlock, hnear, reduceCtorEq, if_false, if_true, hfour, decide_true, Bool.and_self]
  split <;> rfl

/-- Settles O45: one clause per edge, command or loss of the tick generator; the slew and the step are the two sides of the limit
on |e|. -/
theorem tickGenerator : Obligations.TickGenerator := by
  refine ⟨?_, ?_, ?_, ?_, ?_, ?_, ?_, ?_, ?_, ?_, ?_, ?_, ?_, ?_, ?_⟩
  · rintro s d d1 rfl hserves hrunning rfl hstepping
    refine act_to Dev.tickEdge hserves ?_
    have hstep : (s.dev.advanceTo s.dev.tick.nextEdge).tick.stepping = false := hstepping
    simp only [Dev.tickEdge, hrunning, Bool.not_true, Bool.false_eq_true, if_false, hstep]
    rfl
  · rintro d g p e m rfl rfl rfl rfl hlock
    constructor
    · intro hsmall
      simp only [Dev.nextTick, hlock, hsmall, if_true]
      exact ⟨rfl, rfl, rfl, rfl⟩
    · rintro k hlarge rfl
      simp only [Dev.nextTick, hlock, Nat.not_le.2 hlarge, if_true, if_false]
      exact ⟨rfl, rfl, rfl, rfl⟩
  · intro d hlock
    have hfree : ¬ (d.tick.lock = .acquiring ∨ d.tick.lock = .locked) := by
      rcases hlock with h | h <;> simp [h]
    simp only [Dev.nextTick, if_neg hfree]
    exact ⟨rfl, rfl⟩
  · rintro s src d x hserves rfl hmay rfl
    refine (regRow_serves (f := fun d => d.tickCommit src) hserves).trans ?_
    simp only [Dev.tickCommit, hmay, if_true]
  · rintro s src v d x hserves rfl hmay rfl hchange
    refine (regRow_serves (f := fun d => d.tickSelect src v) hserves).trans ?_
    unfold Dev.tickSource at hchange ⊢
    simp only [Dev.tickSelect, hmay, if_true, if_neg hchange]
  · rintro s d rfl hserves hsource hrunning hlock hanchored hten
    refine act_to (fun d => d.ppsEdge) hserves ?_
    simp only [Dev.ppsEdge, hsource, hrunning, hlock, hanchored, hten, Bool.not_true, Bool.false_eq_true, ne_eq, not_true_eq_false,
      or_self, false_and, if_false]
  · rintro s d t rfl hserves hsource hlock hlast hoff hten
    refine act_to (fun d => d.ppsEdge) hserves ?_
    simp only [Dev.ppsEdge, hsource, hlock, hlast, hten, hoff, and_self, if_true, ite_self, Bool.not_true,
      Bool.false_eq_true, if_false]
  · rintro s d rfl hserves hsource hrunning hten
    refine act_to (fun d => d.ppsEdge) hserves ?_
    simp only [Dev.ppsEdge, hsource, hrunning, hten, Bool.not_true, Bool.not_false, Bool.false_eq_true, ne_eq, not_true_eq_false,
      or_self, if_false, if_true]
  · intro d hlock hnear hgood _
    exact measured_locks hlock hnear hgood
  · rintro s cause d x rfl hserves hlock (⟨rfl, hsource, rfl⟩ | ⟨rfl, hsource, rfl⟩) <;>
    · refine act_to (fun d => d.lockLost _) hserves ?_
      simp only [Dev.lockLost, Dev.loseLock, hlock, hsource, and_self, if_true, Dev.holdOver]
  · rintro s d x rfl hserves hlock hsource rfl
    refine act_to (fun d => d.lockLost .tenMHz) hserves ?_
    simp only [Dev.lockLost, Dev.loseLock, hlock, hsource, and_self, if_true, Dev.holdOver]
    rfl
  · rintro s d rfl hserves hlock
    constructor
    · refine act_to (fun d => d.lockLost .tenMHz) hserves ?_
      simp only [Dev.lockLost, Dev.loseLock, hlock, false_and, if_false]
    · exact act_to (fun d => d.lockLost .tenMHzBack) hserves rfl
  · rintro s k m d p t1 t2 t3 t4 rfl hserves rfl hmode hup hdomain hsource hport hrunning
    have hslave : (s.dev.tickSource = 2 && s.dev.fld Fld.TICK_SOURCE_ptp_port 0 = k && s.dev.tick.running) = true := by
      simp [hsource, hport, hrunning]
    refine ⟨fun o hkind => ?_, fun o hkind hrx => ?_, fun hkind hrx horigin htx => ?_⟩ <;>
      refine act_to (fun d => d.ptpMessage k m) hserves ?_ <;>
      simp only [Dev.ptpMessage, hmode, hup, hdomain, hslave, hkind, Bool.not_true, Bool.false_eq_true, ne_eq,
        not_true_eq_false, or_self, if_false, if_true]
    · simp only [Dev.syncDone, hrx]
    · simp only [hrx, horigin, htx]
  · rintro s k m d p rfl hserves rfl hmode hup hdomain hmaster hkind
    refine act_to (fun d => d.ptpMessage k m) hserves ?_
    simp only [Dev.ptpMessage, hmode, hup, hdomain, hmaster, hkind, Bool.not_true, Bool.false_eq_true, ne_eq,
      not_true_eq_false, or_self, if_false, if_true]
  · rintro s k d p x rfl hserves rfl hmode hup hmaster rfl
    refine act_to (fun d => d.ptpSync k) hserves ?_
    simp only [Dev.ptpSync, hmode, hup, hmaster, and_self, if_true]

end Sys2Proof.Machine
end

section
/-! PROOF. Signed commands (R391, R441 to R444, R451) and Ethernet-mode ports (R359 to R361, R375, R376). -/

namespace Sys2Proof.Machine

/-! ## Signed commands -/

section Signed

variable {d d1 : Dev} {nv : Nv} {c : Cmd} {b : Bytes} {x : SignedBlock} (hreserved : reservedZero c.desc sgnFields = true)
  (haligned : (sgnBlock c.desc).toNat % 8 = 0) (hsome : sgnLength c.desc ≠ 0) (hshort : sgnLength c.desc ≤ 65536)
  (hturn : d.signedTurn c = true)
  (hread : d.cmdRead c engOther (sgnBlock c.desc) (sgnLength c.desc) = (d1, .ok, b)) (hblock : signedBlock b = some x)
include hreserved haligned hsome hshort hturn hread hblock

theorem runSigned_fails {n : Nat} (hfails : d1.signedFails nv x = some n) :
    d.runSigned nv x.op c = (d1.fail c Sts.authFailed n, nv) := by
  simp only [Dev.runSigned, hreserved, haligned, hsome, Nat.not_lt.2 hshort, hturn, hread, hblock, hfails, Dev.authFailed,
    Bool.not_true, Bool.false_eq_true, ne_eq, not_true_eq_false, or_self, if_false]

variable (hpasses : d1.signedFails nv x = none)
include hpasses

theorem runSigned_acts (hop : x.op ≠ 3) (hopen : x.op = 1 → d1.fld Fld.REC_CTRL_hold 0 = 0) :
    d.runSigned nv x.op c = d1.signedAct nv c x [] := by
  have hheld : ¬ (x.op = 1 ∧ d1.fld Fld.REC_CTRL_hold 0 = 1) := by
    rintro ⟨h1, h2⟩
    simp [hopen h1] at h2
  simp only [Dev.runSigned, hreserved, haligned, hsome, Nat.not_lt.2 hshort, hturn, hread, hblock, hpasses, if_neg hheld, hop,
    Bool.not_true, Bool.false_eq_true, ne_eq, not_true_eq_false, or_self, if_false]

theorem runSigned_image {d2 : Dev} {img : Bytes} (hop : x.op = 3)
    (himage : d1.cmdRead c engOther (wideAt x.payload 0) (leAt x.payload 8 4) = (d2, .ok, img))
    (hhash : sha256 img = slice x.payload 16 32) (hok : nv.imageOk img = true) :
    d.runSigned nv x.op c = d2.signedAct nv c x img := by
  have hheld : ¬ (x.op = 1 ∧ d1.fld Fld.REC_CTRL_hold 0 = 1) := by
    rintro ⟨h1, -⟩
    omega
  simp only [Dev.runSigned, hreserved, haligned, hsome, Nat.not_lt.2 hshort, hturn, hread, hblock, hpasses, if_neg hheld, if_pos hop,
    himage, hhash, hok, and_self, if_true, Bool.not_true, Bool.false_eq_true, ne_eq, not_true_eq_false, or_self, if_false]

end Signed

/-- The six rows of signed commands have one run; each row gives it the operation that its block names. -/
theorem signed_to {s : State} {src : CmdSource} {d d' : Dev} {c : Cmd} {i : Instr} {op : Nat} {nv : Nv}
    (hstarts : Starts s src (isOp 0x70) d c)
    (hop : match i with
      | .signedCommandRecorderClear _ => op = 1
      | .signedCommandMembership _ => op = 2
      | .signedCommandFirmwareUpdate _ => op = 3
      | .signedCommandDebugUnlock _ => op = 4
      | .signedCommandMgmtGrant _ => op = 5
      | _ => op = 6)
    (hi : i ∈ [Instr.signedCommandRecorderClear src, .signedCommandMembership src, .signedCommandFirmwareUpdate src,
      .signedCommandDebugUnlock src, .signedCommandMgmtGrant src, .signedCommandOwnerBind src])
    (hrun : d.runSigned s.nv op c = (d', nv)) : exec i s = .next { s with dev := settled src d', nv := nv } := by
  have hrow := signedRow_starts (op := op) hstarts
  rw [hrun] at hrow
  simp only [List.mem_cons, List.not_mem_nil, or_false] at hi
  rcases hi with rfl | rfl | rfl | rfl | rfl | rfl <;> subst hop <;> exact hrow

/-- Settles O46: the row runs its block's operation, and the operation is one branch of what a passing block does. -/
theorem signedCommandsRun : Obligations.SignedCommandsRun := by
  intro s src d d1 c b x i hi hstarts hreserved haligned hsome hshort hturn hread hblock hop
  have hto : ∀ {d' : Dev} {nv : Nv}, d.runSigned s.nv x.op c = (d', nv) →
      exec i s = .next { s with dev := settled src d', nv := nv } := fun h => signed_to hstarts hop hi h
  refine ⟨fun n hfails => hto (runSigned_fails hreserved haligned hsome hshort hturn hread hblock hfails), fun hpasses => ?_⟩
  have hact := runSigned_acts hreserved haligned hsome hshort hturn hread hblock hpasses
  refine ⟨fun h hopen => hto ?_, fun h hside => hto ?_, fun h hside => hto ?_, fun d2 img h himage hhash hok => hto ?_,
    fun h => hto ?_, fun h hrevoke => hto ?_, fun k h hgrant hnew hslot => hto ?_, fun h => hto ?_⟩
  · rw [hact (by omega) fun _ => hopen]
    simp only [Dev.signedAct, h]
  · rw [hact (by omega) fun h' => by omega]
    simp only [Dev.signedAct, h, hside, if_true]
  · rw [hact (by omega) fun h' => by omega]
    simp only [Dev.signedAct, h, if_neg hside]
  · rw [runSigned_image hreserved haligned hsome hshort hturn hread hblock hpasses h himage hhash hok]
    simp only [Dev.signedAct, h]
  · rw [hact (by omega) fun h' => by omega]
    simp only [Dev.signedAct, h]
  · rw [hact (by omega) fun h' => by omega]
    simp only [Dev.signedAct, h, hrevoke, if_true]
  · rw [hact (by omega) fun h' => by omega]
    simp only [Dev.signedAct, h, hgrant, if_false, hnew, Bool.false_eq_true, hslot, Option.getD_some]
  · rw [hact (by omega) fun h' => by omega]
    simp only [Dev.signedAct, h]

/-! ## Ethernet frames -/

theorem rxBytes_serves (d : Dev) (p n : Nat) : (d.rxBytes p n).serves = d.serves := by
  simp [Dev.serves, Dev.live]

/-- What a port does with a frame that it has taken apart. -/
def Dev.packetTaken (d : Dev) (nv : Nv) (p : Nat) : Packet → Dev × Nv
  | .drop => (d.dropIn p, nv)
  | .pfc b => (d.pfcIn p b, nv)
  | .unit b => (d.deliver p b, nv)
  | .wake b => (d.wakeFrameIn nv p b, nv)
  | .udp src dst b => d.udpIn nv p src dst b

section Datagrams

variable {d : Dev} {nv : Nv} {p src dst : Nat} {b : Bytes}

theorem udpIn_unit (h : dst = 4791 ∨ dst = 319 ∨ dst = 320) : d.udpIn nv p src dst b = (d.deliver p b, nv) := by
  simp only [Dev.udpIn, h, if_true]

variable (hunit : ¬ (dst = 4791 ∨ dst = 319 ∨ dst = 320)) (h0 : dst ≠ 0)
include hunit h0

theorem udpIn_pose (h : dst = d.fld Fld.CMP_POSE_UDP_udp_port 0) : d.udpIn nv p src dst b = (d.poseUdp p b, nv) := by
  rw [Dev.udpIn, if_neg hunit, if_pos ⟨h0, h⟩]

theorem udpIn_tunnel (hpose : dst ≠ d.fld Fld.CMP_POSE_UDP_udp_port 0) (h : dst = d.fld Fld.FAB_TUNNEL_udp_port 0) :
    d.udpIn nv p src dst b = d.tunnelIn nv p (d.tunnelSource src) b := by
  rw [Dev.udpIn, if_neg hunit, if_neg fun hboth => hpose hboth.2, if_pos ⟨h0, h⟩]

end Datagrams

section Frames

variable {s : State} {p : Nat} {f : Bytes} {ok : Bool} (hserves : s.dev.serves = true) (hp : p < 8)
  (hpowered : (s.dev.port p).powered = true) (hmode : (s.dev.port p).modeActive = 0) (hup : (s.dev.port p).linkUp = true)
include hserves hp hpowered hmode hup

theorem ethernet_bad (hbad : ok = false ∨ f.length < 64 ∨ 9216 < f.length) :
    exec (.ethernetFrameReceive p f ok) s = .next (s.withDev ((s.dev.rxBytes p f.length).bump Fld.FAB_P_DROPS_count p 1)) := by
  refine (actNv_serves (f := fun d nv => d.ethernetIn nv p f ok) hserves).trans ?_
  have hbad' : (!ok) = true ∨ f.length < 64 ∨ 9216 < f.length := by simpa using hbad
  simp only [Dev.ethernetIn, Nat.not_le.2 hp, hpowered, hmode, hup, Bool.not_true, Bool.false_eq_true, ne_eq, not_true_eq_false,
    or_self, if_false, OfNat.zero_ne_ofNat, if_pos hbad', Dev.dropIn]
  rfl

theorem ethernet_good {d' : Dev} {nv : Nv} (hok : ok = true) (hlong : 64 ≤ f.length) (hshort : f.length ≤ 9216)
    (hact : (s.dev.rxBytes p f.length).packetTaken s.nv p
      ((s.dev.rxBytes p f.length).frameIn s.nv p (f.take (f.length - 4))) = (d', nv)) :
    exec (.ethernetFrameReceive p f ok) s = .next { s with dev := d', nv := nv } := by
  have hrow : s.dev.ethernetIn s.nv p f ok = (d', nv) := by
    rw [← hact]
    simp only [Dev.ethernetIn, Nat.not_le.2 hp, hpowered, hmode, hup, hok, Nat.not_lt.2 hlong, Nat.not_lt.2 hshort, Bool.not_true,
      Bool.false_eq_true, ne_eq, not_true_eq_false, or_self, if_false, OfNat.zero_ne_ofNat]
    cases (s.dev.rxBytes p f.length).frameIn s.nv p (f.take (f.length - 4)) <;> rfl
  have hexec := actNv_serves (f := fun d nv => d.ethernetIn nv p f ok) hserves
  rw [hrow] at hexec
  exact hexec

end Frames

/-- Settles O47: a frame is dropped or taken by what it carries, and each answer of Gotik is one query that its checks let through.
-/
theorem ethernetFramesAct : Obligations.EthernetFramesAct := by
  refine ⟨?_, ?_, ?_, ?_, ?arp, ?neighbour, ?echo4, ?echo6, ?_, ?_⟩
  · rintro s p f ok d x rfl hserves hp rfl hpowered hmode
    refine (actNv_serves (f := fun d nv => d.ethernetIn nv p f ok) hserves).trans ?_
    simp only [Dev.ethernetIn, Nat.not_le.2 hp, hpowered, hmode, Bool.not_true, Bool.false_eq_true, or_self, if_false, if_true,
      Dev.dropIn]
    rfl
  · rintro s p f ok d d1 x rfl hserves hp rfl hpowered hmode hup rfl
    refine ⟨ethernet_bad hserves hp hpowered hmode hup, fun hok hlong hshort => ?_⟩
    have hto : ∀ {x : Packet} {d' : Dev} {nv : Nv}, (s.dev.rxBytes p f.length).frameIn s.nv p (f.take (f.length - 4)) = x →
        (s.dev.rxBytes p f.length).packetTaken s.nv p x = (d', nv) →
        exec (.ethernetFrameReceive p f ok) s = .next { s with dev := d', nv := nv } :=
      fun h hact => ethernet_good hserves hp hpowered hmode hup hok hlong hshort (h ▸ hact)
    have hserves' : (s.withDev (s.dev.rxBytes p f.length)).dev.serves = true := (rxBytes_serves _ _ _).trans hserves
    refine ⟨fun h => ?_, fun b h => ?_, fun b h => ?_, fun b h => ?_, fun src dst b h hdst => ?_, fun src dst b h h1 h2 h3 h0 hpose => ?_,
      fun src dst b h h1 h2 h3 h0 hpose htunnel => ?_⟩
    · exact hto h rfl
    · exact hto h rfl
    · exact hto h rfl
    · rw [hto h rfl]
      exact (act_serves (f := fun d => d.wakeFrameIn s.nv p b) hserves').symm
    · exact hto h (udpIn_unit hdst)
    · exact hto h (udpIn_pose (by simp [h1, h2, h3]) h0 hpose)
    · rw [hto h (udpIn_tunnel (by simp [h1, h2, h3]) h0 hpose htunnel)]
      exact (actNv_serves (f := fun d nv => d.tunnelIn nv p ((s.dev.rxBytes p f.length).tunnelSource src) b) hserves').symm
  · intro d nv p f hown hbroadcast hptp hcontrol
    simp only [Dev.frameIn, hown, hbroadcast, hptp, hcontrol]
    simp
  · intro d nv p f htag hvid
    simp only [Dev.frameIn, htag, hvid]
    simp
  case arp | neighbour =>
    rintro s p ip toIp toMac d x rfl hserves hp rfl hmode hup hip hmine
    refine act_to (fun d => d.netQuery s.nv p _) hserves ?_
    simp only [Dev.netQuery, Nat.not_le.2 hp, hmode, hup, ne_eq, not_true_eq_false, Bool.not_true, Bool.false_eq_true, or_self,
      if_false, hip, not_false_eq_true, hmine, and_self, if_true, Dev.modPort]
  case echo4 | echo6 =>
    rintro s p ip toIp n q b d x rfl hserves hp rfl hmode hup hip hmine
    refine act_to (fun d => d.netQuery s.nv p _) hserves ?_
    simp only [Dev.netQuery, Nat.not_le.2 hp, hmode, hup, ne_eq, not_true_eq_false, Bool.not_true, Bool.false_eq_true, or_self,
      if_false, hip, not_false_eq_true, hmine, and_self, if_true, Dev.modPort]
  · rintro s p k b d x f rfl hserves hp rfl hpowered hmode hup hudp hframe
    have hopen : p < 8 ∧ (s.dev.port p).powered = true ∧ (s.dev.port p).modeActive = 0 ∧ (s.dev.port p).linkUp = true ∧
        s.dev.fld Fld.FAB_TUNNEL_udp_port 0 ≠ 0 := ⟨hp, hpowered, hmode, hup, hudp⟩
    have hto : ∀ {d' : Dev} {nv : Nv}, s.dev.tunnelIn s.nv p (some k) b = (d', nv) →
        exec (.tunnelDatagram p (some k) b) s = .next { s with dev := d', nv := nv } := by
      intro d' nv h
      have hexec := actNv_serves (f := fun d nv => d.tunnelIn nv p (some k) b) hserves
      rw [h] at hexec
      exact hexec
    refine ⟨fun h7 => hto ?_, fun hlow hother => hto ?_, fun h4 hmine hsourced => hto ?_, fun h4 h7 hmine => hto ?_⟩
    · simp only [Dev.tunnelIn, if_pos hopen, hframe, h7, if_true]
    · simp only [Dev.tunnelIn, if_pos hopen, hframe, if_neg (show ¬ f.hdr.kind = 7 by omega), hother, Bool.not_false, hlow, if_true]
    · simp only [Dev.tunnelIn, if_pos hopen, hframe, h4, hmine, hsourced, Bool.not_true, Bool.false_eq_true, if_false, if_true,
        Nat.reduceEqDiff]
    · simp only [Dev.tunnelIn, if_pos hopen, hframe, h4, h7, hmine, Bool.not_true, Bool.false_eq_true, if_false]
  · rintro s p b d x rfl hserves hp rfl hpowered hmode hlen hmagic hversion hflag hmine hsleep hentering henable hkept
    refine act_to (fun d => d.wakeFrameIn s.nv p b) hserves ?_
    have hmine' : ¬ leAt b 5 1 % 2 = 1 := by omega
    have hwakes : s.dev.wakes .sleep (.wakeFrame p) = true := by
      simp [Dev.wakes, Dev.kept, henable, hp, hkept, hmode]
    simp only [Dev.wakeFrameIn, hpowered, hmode, hlen, hmagic, hversion, if_neg hmine', hmine, decide_true, and_self, if_true,
      Dev.wakeBy, hentering, hsleep, true_or, hwakes, wakeCode]

end Sys2Proof.Machine
end

section
/-! PROOF. RoCEv2 (R362 to R365). -/

namespace Sys2Proof.Machine

theorem roceIn_run {d : Dev} (c : Instr) (since : Nat) (r : RoceReq) (act : Dev → Dev) (hrun : d.pwr.state = .run) :
    d.roceIn c since r act = act d := by
  simp [Dev.roceIn, Dev.roceHolds, hrun]

theorem startWake_waking {d : Dev} (cause rewake : Nat) (h : d.pwr.waking.isSome = true) : d.startWake cause rewake = d := by
  simp [Dev.startWake, h]

theorem wakeBy_waking {d : Dev} (w : WakeSource) (h : d.pwr.waking.isSome = true) (hent : d.pwr.entering = none) : d.wakeBy w = d := by
  simp [Dev.wakeBy, hent, startWake_waking _ _ h]

theorem roceIn_asleep {d : Dev} (c : Instr) (since : Nat) (r : RoceReq) (act : Dev → Dev) (hfree : d.roceFree r = true)
    (hsleep : d.pwr.state = .sleep) (hwaking : d.pwr.waking.isSome = true) (hent : d.pwr.entering = none) :
    d.roceIn c since r act = d.holdInbound c since := by
  simp [Dev.roceIn, Dev.roceHolds, hsleep, hfree, wakeBy_waking _ hwaking hent]

theorem roceWakes_run {d : Dev} (q : Nat) (hrun : d.pwr.state = .run) (hent : d.pwr.entering = none) : d.roceWakes q = d := by
  simp [Dev.roceWakes, wakeBy_run _ hrun hent]

theorem advanceTo_past {d : Dev} {t : Nat} (h : t ≤ d.now) : d.advanceTo t = d := by simp [Dev.advanceTo, h]

section Requests

variable {d d1 d2 : Dev} {r : RoceReq} (hfree : d.roceFree r = true) (hrun : d.pwr.state = .run)
include hfree hrun

theorem roceSendRow_long (h : 4096 < r.data.length) : d.roceSendRow r = d.roceNak r.qp .nakInvalid := by
  simp only [Dev.roceSendRow, hfree, leaveIdle_run hrun, Bool.not_true, Bool.false_eq_true, if_false, gt_iff_lt, if_pos h]

theorem roceSendRow_fits (h : r.data.length ≤ 4096) {full : Bool} (hfull : d.receiveFull r.qp = (d1, .ok, full)) :
    d.roceSendRow r = if full = true then d1.roceSay r.qp .rnr else d1.roceConsume r.qp r false := by
  simp only [Dev.roceSendRow, hfree, leaveIdle_run hrun, Bool.not_true, Bool.false_eq_true, if_false, gt_iff_lt,
    if_neg (Nat.not_lt.2 h), hfull]
  cases full <;> rfl

theorem roceWriteImmRow_room (hfull : d.receiveFull r.qp = (d1, .ok, false)) : d.roceWriteImmRow r = d1.roceWriteGo r true := by
  simp only [Dev.roceWriteImmRow, hfree, leaveIdle_run hrun, Bool.not_true, Bool.false_eq_true, if_false, hfull]

theorem roceReadRow_here {ps : List RocePart} (hkey : d.rkeyOk r.qp r.rkey r.va r.length = true)
    (hplace : d.rocePlace r.qp r.va r.length accRead = (d1, .ok, ps)) (hlocal : remotePieces r.va.toNat ps = []) :
    d.roceReadRow r = (d1.roceLoad r.qp r.va.toNat ps []).1.roceSay r.qp (.data (d1.roceLoad r.qp r.va.toNat ps []).2) := by
  simp only [Dev.roceReadRow, hfree, leaveIdle_run hrun, hkey, hplace, hlocal, List.isEmpty_nil, Bool.not_true, Bool.false_eq_true,
    if_false, if_true]

theorem roceAtomicRow_misaligned (op : RoceAtomicOp) (h : r.va.toNat % 8 ≠ 0) : d.roceAtomicRow r op = d.roceNak r.qp .nakInvalid := by
  simp only [Dev.roceAtomicRow, hfree, leaveIdle_run hrun, Bool.not_true, Bool.false_eq_true, if_false, ne_eq, h,
    not_false_eq_true, if_true]

theorem roceAtomicRow_here {op : RoceAtomicOp} {p : RocePart} {a old : Nat} (haligned : r.va.toNat % 8 = 0)
    (hkey : d.rkeyOk r.qp r.rkey r.va 8 = true) (hplace : d.rocePlace r.qp r.va 8 accAtomic = (d1, .ok, [p])) (hhere : p.at0 = .here a)
    (hhome : d1.atomicHome (d1.qpAsker r.qp) (bitsN p.leaf 7 6 ≠ 2) (some (bitsN p.leaf 53 52)) a 8 (roceAtomicNew op) = (d2, .ok, old)) :
    d.roceAtomicRow r op = d2.roceSay r.qp (.data (leBytes 8 old)) := by
  simp only [Dev.roceAtomicRow, hfree, leaveIdle_run hrun, haligned, hkey, hplace, hhere, hhome, Bool.not_true, Bool.false_eq_true,
    ne_eq, not_true_eq_false, if_false]

end Requests

theorem roceWriteGo_denied {d : Dev} {r : RoceReq} (withImm : Bool) (h : d.rkeyOk r.qp r.rkey r.va r.data.length = false) :
    d.roceWriteGo r withImm = d.roceNak r.qp .nakAccess := by
  simp only [Dev.roceWriteGo, h, Bool.not_false, if_true]

theorem roceWriteGo_here {d d1 : Dev} {r : RoceReq} {withImm : Bool} {ps : List RocePart}
    (hkey : d.rkeyOk r.qp r.rkey r.va r.data.length = true)
    (hplace : d.rocePlace r.qp r.va r.data.length accWrite = (d1, .ok, ps)) (hlocal : remotePieces r.va.toNat ps = []) :
    d.roceWriteGo r withImm = if withImm = true then (d1.roceStore r.qp r.va.toNat ps r.data).roceConsume r.qp r true
      else (d1.roceStore r.qp r.va.toNat ps r.data).roceSay r.qp .ack := by
  simp only [Dev.roceWriteGo, hkey, hplace, hlocal, List.isEmpty_nil, Bool.not_true, Bool.false_eq_true, if_false, if_true]

/-- The row of every RoCEv2 request that is held runs `roceIn` with that request. -/
theorem roce_held {s : State} {r : RoceReq} {i : Instr} {op : RoceAtomicOp} (hserves : s.dev.serves = true)
    (hfree : s.dev.roceFree r = true) (hsleep : s.dev.pwr.state = .sleep) (hwaking : s.dev.pwr.waking.isSome = true)
    (hent : s.dev.pwr.entering = none)
    (hi : i ∈ [Instr.roceSend r, .roceRdmaWrite r, .roceRdmaWriteImm r, .roceRdmaRead r, .roceAtomic r op]) :
    exec i s = .next (s.withDev (s.dev.holdInbound i s.dev.now)) := by
  have hheld := fun act => roceIn_asleep i s.dev.now r act hfree hsleep hwaking hent
  simp only [List.mem_cons, List.not_mem_nil, or_false] at hi
  rcases hi with rfl | rfl | rfl | rfl | rfl
  · exact act_to (fun d => d.roceIn (.roceSend r) d.now r (fun d => d.roceSendRow r)) hserves (hheld _)
  · exact act_to (fun d => d.roceIn (.roceRdmaWrite r) d.now r (fun d => d.roceWriteRow r)) hserves (hheld _)
  · exact act_to (fun d => d.roceIn (.roceRdmaWriteImm r) d.now r (fun d => d.roceWriteImmRow r)) hserves (hheld _)
  · exact act_to (fun d => d.roceIn (.roceRdmaRead r) d.now r (fun d => d.roceReadRow r)) hserves (hheld _)
  · exact act_to (fun d => d.roceIn (.roceAtomic r op) d.now r (fun d => d.roceAtomicRow r op)) hserves (hheld _)

theorem ecnMark_quiet {d : Dev} {q t : Nat} (ht : (d.qp q).cnpAt = some t) (h : d.now < t + 50000) : d.ecnMark q = d := by
  simp [Dev.ecnMark, ht, h]

section Rates

variable {d : Dev} {q : Nat} (hready : d.qpReady q = true)
include hready

theorem ecnMark_answers (h : ∀ t, (d.qp q).cnpAt = some t → t + 50000 ≤ d.now) :
    d.ecnMark q = (d.setQp q { d.qp q with cnpAt := some d.now }).roceSay q .cnp := by
  have hall : (d.qp q).cnpAt.all (fun t => t + 50000 ≤ d.now) = true := by
    rw [Option.all_eq_true]
    exact fun t ht => decide_eq_true (h t ht)
  simp only [Dev.ecnMark, hready, hall, and_self, if_true]

theorem cnpReceived_halves :
    d.cnpReceived q = d.setQp q { d.qp q with rate := max 1000000000 ((d.qp q).rate / 2), quietAt := d.now } := by
  simp only [Dev.cnpReceived, hready, if_true]

theorem rateRise_due (h : (d.qp q).quietAt + 55000 ≤ d.now) : d.rateRise q = d.setQp q
    { d.qp q with rate := min lineRate ((d.qp q).rate + 20000000000), quietAt := (d.qp q).quietAt + 55000 } := by
  simp only [Dev.rateRise, hready, if_true, advanceTo_past h]

end Rates

/-- Settles O48: in RUN every request runs at once and each clause is one branch of its row; in SLEEP the row holds it. -/
theorem roceRuns : Obligations.RoceRuns := by
  refine ⟨?_, ?_, ?_⟩
  · rintro s _ r rfl hserves hfree hrun
    have hin := fun i act => roceIn_run (d := s.dev) i s.dev.now r act hrun
    have hsend : ∀ {d'}, s.dev.roceSendRow r = d' → exec (.roceSend r) s = .next (s.withDev d') := fun h =>
      act_to (fun d => d.roceIn (.roceSend r) d.now r (fun d => d.roceSendRow r)) hserves ((hin _ _).trans h)
    have hwrite : ∀ {d'}, s.dev.roceWriteGo r false = d' → exec (.roceRdmaWrite r) s = .next (s.withDev d') := fun h => by
      refine act_to (fun d => d.roceIn (.roceRdmaWrite r) d.now r (fun d => d.roceWriteRow r)) hserves ((hin _ _).trans ?_)
      simp only [Dev.roceWriteRow, hfree, if_true, leaveIdle_run hrun, h]
    have hwriteImm : ∀ {d'}, s.dev.roceWriteImmRow r = d' → exec (.roceRdmaWriteImm r) s = .next (s.withDev d') := fun h =>
      act_to (fun d => d.roceIn (.roceRdmaWriteImm r) d.now r (fun d => d.roceWriteImmRow r)) hserves ((hin _ _).trans h)
    have hread : ∀ {d'}, s.dev.roceReadRow r = d' → exec (.roceRdmaRead r) s = .next (s.withDev d') := fun h =>
      act_to (fun d => d.roceIn (.roceRdmaRead r) d.now r (fun d => d.roceReadRow r)) hserves ((hin _ _).trans h)
    have hatomic : ∀ {op d'}, s.dev.roceAtomicRow r op = d' → exec (.roceAtomic r op) s = .next (s.withDev d') := fun {op} _ h =>
      act_to (fun d => d.roceIn (.roceAtomic r op) d.now r (fun d => d.roceAtomicRow r op)) hserves ((hin _ _).trans h)
    refine ⟨fun h => hsend (roceSendRow_long hfree hrun h), fun d1 h hfull => hsend (roceSendRow_fits hfree hrun h hfull),
      fun d1 h hfull => hsend (roceSendRow_fits hfree hrun h hfull), fun h => hwrite (roceWriteGo_denied false h),
      fun d1 ps hkey hplace hlocal => hwrite (roceWriteGo_here hkey hplace hlocal),
      fun d1 d2 ps hfull hkey hplace hlocal =>
        hwriteImm ((roceWriteImmRow_room hfree hrun hfull).trans (roceWriteGo_here hkey hplace hlocal)),
      fun d1 ps hkey hplace hlocal => hread (roceReadRow_here hfree hrun hkey hplace hlocal),
      fun op h => hatomic (roceAtomicRow_misaligned hfree hrun op h),
      fun op d1 d2 p a old haligned hkey hplace hhere hhome => hatomic (roceAtomicRow_here hfree hrun haligned hkey hplace hhere ?_)⟩
    refine Eq.trans (congrArg _ (funext fun old => ?_)) hhome
    cases op <;> rfl
  · rintro s _ r i op rfl hserves hfree hsleep hwaking hi hent
    exact roce_held hserves hfree hsleep hwaking hent hi
  · rintro s _ q _ rfl hserves hready hrun hent rfl
    have hwakes := roceWakes_run (d := s.dev) q hrun hent
    have hecn : ∀ {d'}, s.dev.ecnMark q = d' → exec (.roceEcnCe q) s = .next (s.withDev d') := fun h =>
      act_to (fun d => (d.roceWakes q).ecnMark q) hserves (by rw [hwakes, h])
    refine ⟨fun h => hecn (ecnMark_answers hready h), fun t ht h => hecn (ecnMark_quiet ht h), ?_, fun h => ?_⟩
    · exact act_to (fun d => (d.roceWakes q).cnpReceived q) hserves (by rw [hwakes, cnpReceived_halves hready])
    · exact act_to (fun d => d.rateRise q) hserves (rateRise_due hready h)

end Sys2Proof.Machine
end

section
/-! PROOF. Requests of other devices, and frames that go on (R373, R388). -/

namespace Sys2Proof.Machine

theorem onFrame_good {d : Dev} {k : Nat} {f : MortarFrame} (act : Dev → Dev) (hgood : d.frameGood k f = true) :
    d.onFrame k f act = act (d.frameTaken k f) := if_pos hgood

@[simp] theorem Dev.frameTaken_pwr (d : Dev) (k : Nat) (f : MortarFrame) : (d.frameTaken k f).pwr = d.pwr := by
  simp [Dev.frameTaken]

theorem forwardRow_to {d : Dev} {k : Nat} {f : MortarFrame} (hgood : d.frameGood k f = true) (hother : d.forMe f = false)
    (hsourced : frameSourced f = true) (hlow : 1 ≤ f.hdr.kind) (hhigh : f.hdr.kind ≤ 6) (hdst : f.hdr.dst ≠ 0xFFF) :
    d.forwardRow k f = (d.frameTaken k f).sendFrame { f with crcOk := true } := by
  simp only [Dev.forwardRow, hlow, hhigh, hother, Bool.not_false, and_self, if_true, onFrame_good _ hgood, Dev.forward, hsourced,
    ne_eq, hdst, not_false_eq_true]

/-! ## What serving a request gives -/

section Services

variable {d d2 : Dev} {nv : Nv} {h : MortarHdr} {p bs : Bytes} {a since : Nat} (ha : a = h.address.toNat % 2 ^ 40)

section Window

variable {o : Nat} (hregs : regionOf a = .regs o)
include ha hregs

theorem serveRead_window (hmay : d.mayReadWindow h.src o = true) :
    d.serveRead nv h = (d, some (Sts.ok, d.setupRead nv o (4 * h.lenDw))) := by
  simp only [Dev.serveRead, ← ha, hregs, hmay, if_true]

theorem serveRead_denied (hmay : d.mayReadWindow h.src o = false) : d.serveRead nv h = (d, some (Sts.authFailed, [])) := by
  simp only [Dev.serveRead, ← ha, hregs, hmay, Bool.false_eq_true, if_false]

theorem serveWrite_window {st : Half}
    (hwrite : d.windowWrite nv (.mortar h.src) o p.length (BitVec.ofNat 64 (leNat p)) = (d2, st)) :
    d.serveWrite nv h p = (d2, some (st, [])) := by
  simp only [Dev.serveWrite, ← ha, hregs, hwrite]

end Window

section Memory

variable (hregs : ∀ o, regionOf a ≠ .regs o)
include ha hregs

theorem serveRead_memory (hread : d.readAt Asker.none true a (4 * h.lenDw) = (d2, .ok, bs)) :
    d.serveRead nv h = (d2, some (Sts.ok, bs)) := by
  rw [Dev.serveRead, ← ha]
  split
  · next o ho => exact absurd ho (hregs o)
  · rw [hread]
    rfl

theorem serveWrite_memory (hwrite : d.localWrite Asker.none true none (.device h.src) a p = (d2, .ok)) :
    d.serveWrite nv h p = (d2, some (Sts.ok, [])) := by
  rw [Dev.serveWrite, ← ha]
  split
  · next o ho => exact absurd ho (hregs o)
  · rw [hwrite]
    rfl

theorem serveAtomic_memory {op : AtomOp} {n old : Nat} (hbell : ∀ i o, regionOf a ≠ .doorbell i o)
    (hhome : d.atomicHome Asker.none true none a n (fun old => op.result n old (atomPayload op p)) = (d2, .ok, old)) :
    d.serveAtomic h op n p = (d2.afterMax op n a .ok old, some (Sts.ok, leBytes 8 old)) := by
  rw [Dev.serveAtomic, ← ha]
  split
  · next o ho => exact absurd ho (hregs o)
  · next i o ho => exact absurd ho (hbell i o)
  · rw [hhome]
    rfl

end Memory

theorem serveSignal_done {handle : Wide} {v : Option Wide} (hhome : d.homeFence handle = Sts.ok)
    (hsignal : d.signalEntry gotikRing 0 (handleIndex handle) v = (d2, .ok)) :
    d.serveSignal since handle v = (d2, some (Sts.ok, [])) := by
  simp only [Dev.serveSignal, hhome, ne_eq, not_true_eq_false, if_false, hsignal]

theorem serveUpdate_mirrors {home : Nat} {handle v : Wide} (hms : d.mirrorsOf home handle ≠ []) :
    d.serveUpdate home handle v =
      ((d.mirrorsOf home handle).foldl (fun (d : Dev) m => (d.signalWord m.2 (some v)).2) d, some (Sts.ok, [])) := by
  simp only [Dev.serveUpdate, List.isEmpty_iff, hms, if_false]

theorem serveSubscribe_takes {handle : Wide} {src i off : Nat} {subs : List Nat} (hhome : d.homeFence handle = Sts.ok)
    (hgate : d.sharedGate = .ok) (hi : i = handleIndex handle) (hsubs : subs = NMap.getD d.sub.exports i [])
    (hslot : subs ≠ [] ∨ d.fabricSlots < 256) (hroom : src ∈ subs ∨ subs.eraseDups.length < 64)
    (hword : (d.entry i).payload.word = some off) (hread : d.localRead off 8 = (d2, .ok, bs)) :
    d.serveSubscribe since src handle =
      ({ d2 with sub := { d2.sub with exports := NMap.set d2.sub.exports i (subs ++ [src]) } }, some (Sts.ok, bs)) := by
  subst hi hsubs
  have hno4 : ¬ ((NMap.getD d.sub.exports (handleIndex handle) []).isEmpty = true ∧ d.fabricSlots ≥ 256) := by
    rw [List.isEmpty_iff]
    exact fun ⟨hnil, hfull⟩ => hslot.elim (fun h => h hnil) (fun h => Nat.not_le.2 h hfull)
  have hno5 : ¬ ((!(NMap.getD d.sub.exports (handleIndex handle) []).contains src) = true ∧
      (NMap.getD d.sub.exports (handleIndex handle) []).eraseDups.length ≥ 64) := by
    rw [Bool.not_eq_true', List.contains_eq_mem, decide_eq_false_iff_not]
    exact fun ⟨hout, hfull⟩ => hroom.elim hout (fun h => Nat.not_le.2 h hfull)
  simp only [Dev.serveSubscribe, hhome, ne_eq, not_true_eq_false, if_false, hgate, reduceCtorEq, false_and, if_neg hno4, if_neg hno5,
    hword, hread, Dev.memAnswer, if_true]

theorem serveUnsubscribe_current {handle : Wide} {src i : Nat} {subs : List Nat} (hcurrent : d.current handle = true)
    (hi : i = handleIndex handle) (hsubs : subs = (NMap.getD d.sub.exports i []).erase src) :
    d.serveUnsubscribe src handle = ({ d with sub := { d.sub with exports := (if subs.isEmpty then NMap.erase d.sub.exports i
      else NMap.set d.sub.exports i subs) } }, some (Sts.ok, [])) := by
  subst hi hsubs
  simp only [Dev.serveUnsubscribe, hcurrent, Bool.not_true, Bool.false_eq_true, if_false]

end Services

/-! ## Rows of requests -/

/-- The commands that a frame may arrive as, each with the kind and op of its row. -/
def requestRows (k : Nat) (f : MortarFrame) : List (Instr × Nat × Option Nat) :=
  [(.mortarRead k f, 1, none), (.mortarWrite k f, 2, none), (.mortarAtomic k f, 3, none), (.mortarDoorbell k f, 5, none),
    (.mortarFenceSignal k f, 6, some 0), (.mortarFenceIncrement k f, 6, some 1), (.mortarFenceUpdate k f, 6, some 2),
    (.mortarFenceSubscribe k f, 6, some 3), (.mortarFenceUnsubscribe k f, 6, some 4), (.mortarFenceEnd k f, 6, some 5)]

section Requests

variable {s : State} {k : Nat} {f : MortarFrame} (hserves : s.dev.serves = true) (hrun : s.dev.pwr.state = .run)
  (hent : s.dev.pwr.entering = none) (hgood : s.dev.frameGood k f = true) (hforMe : s.dev.forMe f = true)
  (hsourced : frameSourced f = true) (hwhole : frameWhole f = true)

include hrun hent hgood hforMe hsourced hwhole

/-- A request that the link layer accepts and that serving answers is answered with one RESPONSE. -/
theorem requestRow_served {kind : Nat} {op : Option Nat} {d2 : Dev} {st : Half} {bs : Bytes} (hkind : f.hdr.kind = kind)
    (hop : op.all (fun o => f.hdr.op = o) = true) (hrequest : frameRequest f = true)
    (hserve : (s.dev.frameTaken k f).serve s.nv (s.dev.frameTaken k f).now f = (d2, some (st, bs))) :
    s.dev.requestRow s.nv kind op k f = d2.respond f.hdr st bs := by
  have hleave : (s.dev.frameTaken k f).leaveIdle = s.dev.frameTaken k f := leaveIdle_run (by rw [Dev.frameTaken_pwr, hrun])
  have hwake := wakeBy_run (d := s.dev.frameTaken k f) (.inbound k) (by rw [Dev.frameTaken_pwr, hrun])
    (by rw [Dev.frameTaken_pwr, hent])
  simp only [Dev.requestRow, hkind, hop, hforMe, and_self, if_true, onFrame_good _ hgood, Dev.requestIn, hsourced, hwhole, hrequest,
    Bool.and_self, hleave, hwake, Dev.answer, hserve]

include hserves

/-- The command of a request runs its row. -/
theorem request_to {i : Instr} {kind : Nat} {op : Option Nat} {d2 : Dev} {st : Half} {bs : Bytes}
    (hi : (i, kind, op) ∈ requestRows k f) (hkind : f.hdr.kind = kind) (hop : op.all (fun o => f.hdr.op = o) = true)
    (hrequest : frameRequest f = true)
    (hserve : (s.dev.frameTaken k f).serve s.nv (s.dev.frameTaken k f).now f = (d2, some (st, bs))) :
    exec i s = .next (s.withDev (d2.respond f.hdr st bs)) := by
  have hrow := requestRow_served hrun hent hgood hforMe hsourced hwhole hkind hop hrequest hserve
  simp only [requestRows, List.mem_cons, List.not_mem_nil, or_false, Prod.mk.injEq] at hi
  rcases hi with ⟨rfl, rfl, rfl⟩ | ⟨rfl, rfl, rfl⟩ | ⟨rfl, rfl, rfl⟩ | ⟨rfl, rfl, rfl⟩ | ⟨rfl, rfl, rfl⟩ | ⟨rfl, rfl, rfl⟩ |
      ⟨rfl, rfl, rfl⟩ | ⟨rfl, rfl, rfl⟩ | ⟨rfl, rfl, rfl⟩ | ⟨rfl, rfl, rfl⟩ <;>
    exact act_to (fun d => d.requestRow s.nv _ _ k f) hserves hrow

/-- The command of a request on a fence. -/
theorem fenceRequest_to {i : Instr} {n : Nat} {d2 : Dev} {st : Half} {bs : Bytes} (hkind : f.hdr.kind = 6) (hop : f.hdr.op = n)
    (hi : (i, 6, some n) ∈ requestRows k f) (hn : n ≤ 5)
    (hserve : (s.dev.frameTaken k f).serveFence (s.dev.frameTaken k f).now f.hdr f.payload = (d2, some (st, bs))) :
    exec i s = .next (s.withDev (d2.respond f.hdr st bs)) :=
  request_to hserves hrun hent hgood hforMe hsourced hwhole hi hkind (by simp [hop]) (by simp [frameRequest, hkind, hop, hn])
    (by simp only [Dev.serve, hkind, hserve])

end Requests

/-- Settles O49: each request command runs the row of its kind and op, whose service is one function of the request. -/
theorem mortarRequestsServed : Obligations.MortarRequestsServed := by
  refine ⟨fun _ _ _ _ => rfl, ?_, ?_⟩
  · rintro s _ _ k f _ rfl hserves hrun hent hgood hforMe hsourced hwhole rfl rfl
    have hto := fun {i kind d2 st bs} op => request_to (i := i) (kind := kind) (op := op) (d2 := d2) (st := st) (bs := bs)
      hserves hrun hent hgood hforMe hsourced hwhole
    have hfence := fun {i d2 st bs} n => fenceRequest_to (i := i) (n := n) (d2 := d2) (st := st) (bs := bs)
      hserves hrun hent hgood hforMe hsourced hwhole
    refine ⟨fun d2 bs hkind hregs hread => ?_, fun o hkind hregs hmay => ?_, fun o hkind hregs hmay => ?_,
      fun d2 hkind hregs hwrite => ?_, fun o d2 st hkind hregs hwrite => ?_, fun op n d2 old hkind hatom hregs hbell hhome => ?_,
      fun hkind hslot => ?_, fun d2 i hkind hhome hi => ?_, fun hkind hop hms => ?_,
      fun i subs off d2 v hkind hop hhome hgate hi hsubs hslot hroom hword hread => ?_,
      fun i subs hkind hop hcurrent hi hsubs => ?_, fun hkind hop => ?_⟩
    · exact hto none (by simp [requestRows]) hkind rfl (by simp [frameRequest, hkind])
        (by simp only [Dev.serve, hkind, serveRead_memory rfl hregs hread])
    · exact hto none (by simp [requestRows]) hkind rfl (by simp [frameRequest, hkind])
        (by simp only [Dev.serve, hkind, serveRead_window rfl hregs hmay])
    · exact hto none (by simp [requestRows]) hkind rfl (by simp [frameRequest, hkind])
        (by simp only [Dev.serve, hkind, serveRead_denied rfl hregs hmay])
    · exact hto none (by simp [requestRows]) hkind rfl (by simp [frameRequest, hkind])
        (by simp only [Dev.serve, hkind, serveWrite_memory rfl hregs hwrite])
    · exact hto none (by simp [requestRows]) hkind rfl (by simp [frameRequest, hkind])
        (by simp only [Dev.serve, hkind, serveWrite_window rfl hregs hwrite])
    · exact hto none (by simp [requestRows]) hkind rfl (by simp [frameRequest, hkind, hatom])
        (by simp only [Dev.serve, hkind, hatom, serveAtomic_memory rfl hregs hbell hhome])
    · exact hto none (by simp [requestRows]) hkind rfl (by simp [frameRequest, hkind])
        (by simp only [Dev.serve, hkind, Dev.serveDoorbell, hslot, if_true])
    · obtain ⟨rfl, hop, hsignal⟩ | ⟨rfl, hop, hsignal⟩ := hi
      · exact hfence 0 hkind hop (by simp [requestRows]) (by decide)
          (by simp only [Dev.serveFence, hop, serveSignal_done hhome hsignal])
      · exact hfence 1 hkind hop (by simp [requestRows]) (by decide)
          (by simp only [Dev.serveFence, hop, serveSignal_done hhome hsignal])
    · exact hfence 2 hkind hop (by simp [requestRows]) (by decide)
        (by simp only [Dev.serveFence, hop, serveUpdate_mirrors hms])
    · exact hfence 3 hkind hop (by simp [requestRows]) (by decide)
        (by simp only [Dev.serveFence, hop, serveSubscribe_takes hhome hgate hi hsubs hslot hroom hword hread])
    · exact hfence 4 hkind hop (by simp [requestRows]) (by decide)
        (by simp only [Dev.serveFence, hop, serveUnsubscribe_current hcurrent hi hsubs])
    · exact hfence 5 hkind hop (by simp [requestRows]) (by decide)
        (by simp only [Dev.serveFence, hop, Dev.serveEnd])
  · rintro s _ _ k f rfl hserves hgood rfl hother hsourced hlow hhigh hdst
    exact act_to (fun d => d.forwardRow k f) hserves (forwardRow_to hgood hother hsourced hlow hhigh hdst)

end Sys2Proof.Machine
end

section
/-! PROOF. Responses, timeouts and translated accesses to other devices (R350, R374, R389). -/

namespace Sys2Proof.Machine

/-! ## Responses -/

section Responses

variable {d : Dev} {h : MortarHdr} {p : Bytes}

theorem response_unknown (hop : d.fab.ops.find? (fun o => o.slot = h.slot && o.gen = h.slotGen) = none) :
    d.response h p = d.staleDrop := by
  simp only [Dev.response, hop]

variable {o : FabOp} (hop : d.fab.ops.find? (fun o => o.slot = h.slot && o.gen = h.slotGen) = some o)
include hop

theorem response_stale (hstale : h.epoch ≠ o.epoch ∨ (d.freeOp o).deliverable o = false) :
    d.response h p = (d.freeOp o).staleDrop.retryBlocks := by
  have hdrop : h.epoch ≠ o.epoch ∨ (!(d.freeOp o).deliverable o) = true := by simpa using hstale
  simp only [Dev.response, hop, if_pos hdrop]

variable (hepoch : h.epoch = o.epoch) (hdeliver : (d.freeOp o).deliverable o = true)
include hepoch hdeliver

theorem response_ok (hok : h.status = Sts.ok) : d.response h p = ((d.freeOp o).opDone o p).retryBlocks := by
  simp only [Dev.response, hop, hepoch, hdeliver, ne_eq, not_true_eq_false, Bool.not_true, Bool.false_eq_true, or_self, if_false, hok,
    if_true]

theorem response_fails (hfails : h.status ≠ Sts.ok) : d.response h p = ((d.freeOp o).opFail o h.status p).retryBlocks := by
  simp only [Dev.response, hop, hepoch, hdeliver, ne_eq, not_true_eq_false, Bool.not_true, Bool.false_eq_true, or_self, if_false, hfails]

end Responses

theorem response_to {s : State} {k : Nat} {f : MortarFrame} {d' : Dev} (hserves : s.dev.serves = true)
    (hgood : s.dev.frameGood k f = true) (hforMe : s.dev.forMe f = true) (hsourced : frameSourced f = true) (hkind : f.hdr.kind = 4)
    (hresponse : (s.dev.frameTaken k f).response f.hdr f.payload = d') : exec (.mortarResponse k f) s = .next (s.withDev d') := by
  refine act_to (fun d => d.responseRow k f) hserves ?_
  simp only [Dev.responseRow, hkind, hforMe, and_self, if_true, onFrame_good _ hgood, hsourced, hresponse]

theorem opTimedOut_delivered {d : Dev} {n : Nat} {o : FabOp} (hop : d.fab.ops.find? (fun o => o.slot = n) = some o)
    (hdeliver : ((d.advanceTo (d.opDeadline o)).freeOp o).deliverable o = true) :
    d.opTimedOut n = (((d.advanceTo (d.opDeadline o)).freeOp o).opFail o Sts.partitioned []).retryBlocks := by
  simp only [Dev.opTimedOut, hop, hdeliver, if_true]

/-! ## Translated accesses to other devices -/

theorem sendPieces_one {d d1 : Dev} {r : RemoteAccess} {since : Nat} {hold : Dev → RemoteAccess × Nat → Dev} {p : Nat × Nat × Nat}
    (hissue : d.issue (accessPiece r p.1 p.2.1 p.2.2) = (d1, .ok)) : d.sendPieces r since hold [p] = d1 := by
  simp only [Dev.sendPieces, hissue]

section Issue

variable {d : Dev} {r : RemoteAccess} (hdevice : r.device ≠ d.addr) (hlow : 1 ≤ r.kind) (hhigh : r.kind ≤ 3)
include hdevice hlow hhigh

theorem remoteIssue_block {g b n : Nat} {x : Block} (hring : r.ring = some g) (hblock : r.block = some b)
    (hfind : d.findBlock ⟨g, r.serial, b⟩ = some (n, x)) (hruns : x.runs r.thread = true)
    (hfree : ((d.ring g).saving && x.stage = .compute) = false) : d.remoteIssue r = d.startRemote n x r := by
  have hissuer : d.issuer r = true := by simp only [Dev.issuer, hring, hblock, hfind, hruns]
  have hdone : x.done = false := by
    simp only [Block.runs, Bool.and_eq_true, Bool.not_eq_true'] at hruns
    tauto
  simp only [Dev.remoteIssue, hissuer, hdevice, Nat.not_lt.2 hlow, Nat.not_lt.2 hhigh, hring, hblock, Dev.withBlock, hfind, hfree,
    hdone, Bool.or_self, Bool.not_true, Bool.false_eq_true, or_self, if_false]

variable (hissuer : d.issuer r = true) (hblock : r.block = none)
include hissuer hblock

theorem remoteIssue_sends (hfirst : d.fab.held.any (fun x => x.1.device = r.device) = false) :
    d.remoteIssue r = d.sendPieces r d.now Dev.holdLast (accessPieces r) := by
  simp only [Dev.remoteIssue, hissuer, hdevice, Nat.not_lt.2 hlow, Nat.not_lt.2 hhigh, hblock, hfirst, Bool.not_true,
    Bool.false_eq_true, or_self, if_false, false_and]
  cases r.ring <;> rfl

theorem remoteIssue_behind (hheld : d.fab.held.any (fun x => x.1.device = r.device) = true) (hroute : d.route r.device ≠ .none) :
    d.remoteIssue r = d.holdLast (r, d.now) := by
  simp only [Dev.remoteIssue, hissuer, hdevice, Nat.not_lt.2 hlow, Nat.not_lt.2 hhigh, hblock, hheld, Bool.not_true,
    Bool.false_eq_true, or_self, if_false, ne_eq, hroute, not_false_eq_true, and_self, if_true]
  cases r.ring <;> rfl

end Issue

theorem remoteRelease_sends {d : Dev} {i since : Nat} {r : RemoteAccess} (hheld : d.fab.held[i]? = some (r, since))
    (hfirst : (d.fab.held.take i).any (fun x => x.1.device = r.device) = false) (hroute : d.route r.device ≠ .pending)
    (hissuer : ({ d with fab := { d.fab with held := d.fab.held.eraseIdx i } } : Dev).issuer r = true) :
    d.remoteRelease i = ({ d with fab := { d.fab with held := d.fab.held.eraseIdx i } } : Dev).sendPieces r since (Dev.holdAt i)
      (accessPieces r) := by
  simp only [Dev.remoteRelease, hheld, hfirst, Bool.false_eq_true, if_false, hroute, hissuer, if_true]

/-- Settles O50: each clause is one branch of the response, of the timeout, or of the issue or release of an access. -/
theorem mortarOperations : Obligations.MortarOperations := by
  refine ⟨?_, ?_, ?_, ?_, ?_, ?_⟩
  · rintro s _ _ k f rfl hserves hgood hforMe hsourced hkind rfl
    have hto := fun {d'} => response_to (d' := d') hserves hgood hforMe hsourced hkind
    refine ⟨fun hop => hto (response_unknown hop), ?_⟩
    rintro o _ hop rfl
    exact ⟨fun hstale => hto (response_stale hop hstale), fun hepoch hdeliver hok => hto (response_ok hop hepoch hdeliver hok),
      fun hepoch hdeliver hfails => hto (response_fails hop hepoch hdeliver hfails)⟩
  · rintro s _ _ _ n o rfl hserves hop rfl rfl hdeliver
    exact act_to (fun d => d.opTimedOut n) hserves (opTimedOut_delivered hop hdeliver)
  · rintro s _ g b r n x rfl hserves hring hblock hdevice hlow hhigh hfind hruns hfree
    exact act_to (fun d => d.remoteIssue r) hserves (remoteIssue_block hdevice hlow hhigh hring hblock hfind hruns hfree)
  · rintro s _ d1 r p rfl hserves hissuer hblock hdevice hlow hhigh hfirst hpieces hissue
    refine act_to (fun d => d.remoteIssue r) hserves ?_
    rw [remoteIssue_sends hdevice hlow hhigh hissuer hblock hfirst, hpieces, sendPieces_one hissue]
  · rintro s _ r rfl hserves hissuer hblock hdevice hlow hhigh hheld hroute
    exact act_to (fun d => d.remoteIssue r) hserves (remoteIssue_behind hdevice hlow hhigh hissuer hblock hheld hroute)
  · rintro s _ d1 i r since p rfl hserves hheld hfirst hroute hissuer hpieces hissue
    refine act_to (fun d => d.remoteRelease i) hserves ?_
    rw [remoteRelease_sends hheld hfirst hroute hissuer, hpieces, sendPieces_one hissue]

end Sys2Proof.Machine
end

section
/-! PROOF. The link layer (R359, R370 to R372). -/

namespace Sys2Proof.Machine

theorem linkGood_op {d : Dev} {k n : Nat} {f : MortarFrame} (hmode : (d.port k).modeActive = 1) (hup : (d.port k).linkUp = true)
    (hcrc : f.crcOk = true) (hkind : f.hdr.kind = 8) (hlen : f.payload.length = 16) (hop : f.hdr.op = n) : d.linkGood k f n = true := by
  simp [Dev.linkGood, hmode, hup, hcrc, hkind, hlen, hop]

/-- The frame that a LINK frame names leaves the replay buffer with all before it, and the replays begin anew. -/
theorem acknowledge_found {x : Port} {seq i : Nat} (now : Nat) (p : Bytes)
    (h : x.unacked.findIdx? (fun g => g.hdr.linkSeq = seq) = some i) :
    (x.acknowledge now seq p).unacked = x.unacked.drop (i + 1) ∧ (x.acknowledge now seq p).replays = 0 := by
  simp only [Port.acknowledge, h, Nat.add_one_ne_zero, if_false, and_self]

theorem frameDiscard_naks {d : Dev} {k : Nat} {f : MortarFrame} (hmode : (d.port k).modeActive = 1) (hup : (d.port k).linkUp = true)
    (hbad : f.crcOk = false ∨ (f.hdr.kind ≠ 8 ∧ f.hdr.linkSeq ≠ (d.port k).rxSeq)) : d.frameDiscard k f = d.sendLink k true := by
  have hbad' : (!f.crcOk) = true ∨ (f.hdr.kind ≠ 8 ∧ f.hdr.linkSeq ≠ (d.port k).rxSeq) := by simpa using hbad
  simp only [Dev.frameDiscard, hmode, hup, if_pos hbad', true_and]

section Replay

variable {d : Dev} {k : Nat} (hwaiting : (d.port k).unacked ≠ [])
include hwaiting

theorem replay_again (hfew : (d.port k).replays < 16) :
    d.replay k = (((d.setPort k { d.port k with
      sent := ((d.port k).unacked.map Wire.mortar).reverse ++ (d.port k).sent, replays := (d.port k).replays + 1
      lastProgress := d.now }).bump Fld.FAB_P_REPLAYS_count k 1).windowEvent (40 + k) 1).txBytes k
        (sumN ((d.port k).unacked.map frameBytes)) := by
  simp only [Dev.replay, List.isEmpty_iff, hwaiting, if_false, ge_iff_le, Nat.not_le.2 hfew]

theorem replay_gives_up (hmany : 16 ≤ (d.port k).replays) : d.replay k = d.linkDown k := by
  simp only [Dev.replay, List.isEmpty_iff, hwaiting, if_false, ge_iff_le, hmany, if_true]

theorem replayTimeout_replays (hmode : (d.port k).modeActive = 1) (hup : (d.port k).linkUp = true) :
    d.replayTimeout k = (d.advanceTo ((d.port k).lastProgress + 10000)).replay k := by
  have hsome : (!(d.port k).unacked.isEmpty) = true := by simpa using hwaiting
  simp only [Dev.replayTimeout, hmode, hup, hsome, and_self, if_true]

end Replay

theorem linkDown_up {d : Dev} {k : Nat} (hup : (d.port k).linkUp = true) (hempty : (d.port k).queued = []) :
    d.linkDown k = (d.setPort k { Port.idle with
      powered := (d.port k).powered, modeActive := (d.port k).modeActive, signal := (d.port k).signal, sent := (d.port k).sent
      delivered := (d.port k).delivered, lastSync := (d.port k).lastSync }).bump Fld.FAB_P_LINK_DOWNS_count k 1 := by
  simp only [Dev.linkDown, hup, if_true, hempty, List.filter_nil, List.foldl_nil]

/-- Settles O51: each clause is one branch of its row, with the port as it was before the row. -/
theorem linksRun : Obligations.LinksRun := by
  refine ⟨?_, fun x now seq p i h => acknowledge_found now p h, ?_, ?_, ?_, ?_, ?_, ?_, ?_⟩
  · rintro s _ k f _ _ rfl hserves rfl hmode hup hcrc hkind hlen rfl
    refine ⟨fun hop => act_to (fun d => d.linkAck k f) hserves ?_, fun hop => act_to (fun d => d.linkNak k f) hserves ?_⟩
    · simp only [Dev.linkAck, linkGood_op hmode hup hcrc hkind hlen hop, if_true, Dev.modPort]
    · simp only [Dev.linkNak, linkGood_op hmode hup hcrc hkind hlen hop, if_true, Dev.modPort]
  · rintro s _ k _ _ rfl hserves rfl hmode hup rfl
    refine act_to (fun d => d.linkSend k) hserves ?_
    simp only [Dev.linkSend, hmode, hup, and_self, if_true, ge_iff_le]
  · rintro d k nak _ rfl
    rfl
  · rintro s _ k f _ rfl hserves rfl hmode hup hbad
    exact act_to (fun d => d.frameDiscard k f) hserves (frameDiscard_naks hmode hup hbad)
  · rintro s _ _ k _ rfl hserves rfl hmode hup hwaiting hfew rfl
    refine act_to (fun d => d.replayTimeout k) hserves ((replayTimeout_replays hwaiting hmode hup).trans ?_)
    rw [replay_again (by rwa [Dev.advanceTo_port]) (by rwa [Dev.advanceTo_port]), Dev.advanceTo_port]
  · rintro s _ _ k _ rfl hserves rfl hmode hup hwaiting hmany rfl
    refine act_to (fun d => d.replayTimeout k) hserves ((replayTimeout_replays hwaiting hmode hup).trans ?_)
    exact replay_gives_up (by rwa [Dev.advanceTo_port]) (by rwa [Dev.advanceTo_port])
  · rintro s _ k _ rfl hserves rfl hup hempty
    exact act_to (fun d => d.linkDown k) hserves (linkDown_up hup hempty)
  · rintro s _ k _ rfl hserves rfl hpowered hmode hdown
    refine act_to (fun d => d.linkIsUp k) hserves ?_
    simp only [Dev.linkIsUp, hpowered, hmode, hdown, Bool.not_false, and_self, if_true]

end Sys2Proof.Machine
end

section
/-! PROOF. The fabric domain (R379 to R394). -/

namespace Sys2Proof.Machine

/-! ## Messages -/

theorem onDisc_ok {d : Dev} {typ hop : Nat} {p : Bytes} (act : Dev → Dev) (hhop : d.discHop hop = true) (hok : discOk typ p = true) :
    d.onDisc typ hop p act = act (d.discTaken hop p) := by
  simp only [Dev.onDisc, hhop, hok, Bool.not_true, Bool.false_eq_true, if_false, if_true]

theorem onDisc_bad {d : Dev} {typ hop : Nat} {p : Bytes} (act : Dev → Dev) (hhop : d.discHop hop = true) (hbad : discOk typ p = false) :
    d.onDisc typ hop p act = d.discTaken hop p := by
  simp only [Dev.onDisc, hhop, hbad, Bool.not_true, Bool.false_eq_true, if_false]

theorem helloSend_changed {d : Dev} {nv : Nv} {hop : Nat} (hhop : d.discHop hop = true)
    (hnew : NMap.get? d.fab.dom.said hop = none) :
    d.helloSend nv hop =
      let b := (d.raiseSeq.hello nv.identityDigest nv.listVersion hop).bytes
      let d2 := d.raiseSeq.sendDisc hop b
      d2.withDom { d2.fab.dom with said := NMap.set d2.fab.dom.said hop (d2.now, b) } := by
  simp only [Dev.helloSend, hhop, hnew, Bool.not_true, Bool.false_eq_true, if_false]

theorem fetchList_current {d : Dev} {inForce hop : Nat} {h : Hello} (hlist : h.list ≤ inForce) : d.fetchList inForce hop h = d :=
  if_pos hlist

/-- A HELLO of a neighbour that the device has not known. -/
theorem helloTaken_new {d d0 : Dev} {nv : Nv} {hop : Nat} {p : Bytes} (hhop : d.discHop hop = true) (hok : discOk 1 p = true)
    (hd0 : d0 = d.discTaken hop p) (hnew : NMap.get? d0.fab.dom.neighbours hop = none) (hlist : (helloOf p).list ≤ nv.listVersion) :
    d.helloTaken nv hop p =
      let h := helloOf p
      let d1 := (d0.withDom { d0.fab.dom with
        neighbours := NMap.set d0.fab.dom.neighbours hop ⟨h, d0.now, d0.now⟩
        seqAt := if d0.fab.dom.seq < h.seq then d0.now else d0.fab.dom.seqAt
        seq := max d0.fab.dom.seq h.seq }).noteBest nv.identityDigest
      Dev.reportIfChanged d0
        (if d1.role = 0 ∧ d1.parent nv.identityDigest = some hop then d1.follow h (d0.fab.dom.seq < h.seq) else d1)
        nv.identityDigest := by
  rw [Dev.helloTaken, onDisc_ok _ hhop hok, ← hd0]
  simp only [hnew, fetchList_current hlist]

section Reports

variable {d d0 : Dev} {nv : Nv} {hop : Nat} {p : Bytes} (hhop : d.discHop hop = true) (hok : discOk 2 p = true)
  (hother : slice p 8 32 ≠ nv.identityDigest) (hd0 : d0 = (d.discTaken hop p).recordReport hop p)
include hhop hok hother hd0

theorem reportTaken_relayed {k : Nat} (hparent : d0.parent nv.identityDigest = some k) : d.reportTaken nv hop p = d0.sendDisc k p := by
  simp only [Dev.reportTaken, onDisc_ok _ hhop hok, hother, if_false, ← hd0, hparent]

theorem reportTaken_manager (hparent : d0.parent nv.identityDigest = none) (hrole : d0.role = 1) (hside : d0.side = 1) :
    d.reportTaken nv hop p = d0.assignStep nv.inForce nv.identityDigest := by
  simp only [Dev.reportTaken, onDisc_ok _ hhop hok, hother, if_false, ← hd0, hparent, hrole, hside, and_self, if_true]

end Reports

theorem assignTaken_target {d : Dev} {nv : Nv} {hop : Nat} {p : Bytes} (hhop : d.discHop hop = true) (hok : discOk 3 p = true)
    (htarget : slice p 16 32 = nv.identityDigest) : d.assignTaken nv hop p = (d.discTaken hop p).adoptAddress p := by
  simp only [Dev.assignTaken, onDisc_ok _ hhop hok, htarget, if_true]

theorem assignTaken_relayed {d : Dev} {nv : Nv} {hop : Nat} {p : Bytes} {m : Member} (hhop : d.discHop hop = true)
    (hok : discOk 3 p = true) (hother : slice p 16 32 ≠ nv.identityDigest)
    (hmember : (d.discTaken hop p).fab.dom.members.find? (fun m => m.digest = slice p 16 32) = some m) :
    d.assignTaken nv hop p = (d.discTaken hop p).sendDisc m.via p := by
  simp only [Dev.assignTaken, onDisc_ok _ hhop hok, hother, if_false, hmember]

theorem adoptAddress_same {d : Dev} {p : Bytes} {a : Nat} (h : d.addr = 0 ∨ d.addr = a) (ha : a = leAt p 4 4 % 4096) :
    d.adoptAddress p =
      let d1 := (d.setFld Fld.FAB_ADDR_addr 0 (BitVec.ofNat 64 a)).setFld Fld.FAB_MGR_manager_addr 0
        (BitVec.ofNat 64 (leAt p 4 4 / 4096 % 4096))
      (d1.setFld Fld.FAB_EPOCH_domain_epoch 0 (BitVec.ofNat 64 (max (leAt p 8 4) (d1.fld Fld.FAB_EPOCH_domain_epoch 0)))).setFld
        Fld.FAB_WEIGHT_total 0 (BitVec.ofNat 64 (leAt p 12 4)) := by
  have hkeeps : ¬ (d.addr ≠ 0 ∧ d.addr ≠ a) := by omega
  simp only [Dev.adoptAddress, ← ha, if_neg hkeeps]

theorem listAsked_answers {d : Dev} {nv : Nv} {hop : Nat} {p : Bytes} (hhop : d.discHop hop = true) (hok : discOk 4 p = true)
    (hversion : leAt p 4 4 = nv.listVersion) (hlist : nv.listVersion ≠ 0) (hchunk : leAt p 8 2 < ceilDiv nv.list.length 240) :
    d.listAsked nv hop p = (d.discTaken hop p).sendDisc hop
      (leBytes 1 5 ++ leBytes 1 1 ++ leBytes 2 0 ++ leBytes 4 (leAt p 4 4) ++ leBytes 2 (leAt p 8 2)
        ++ leBytes 2 (ceilDiv nv.list.length 240) ++ leBytes 4 0 ++ (nv.list.drop (240 * leAt p 8 2)).take 240) := by
  rw [Dev.listAsked, onDisc_ok _ hhop hok]
  exact if_pos ⟨hlist, hversion, hchunk⟩

section Lists

variable {d d0 : Dev} {nv : Nv} {hop : Nat} {p : Bytes} {f g : ListFetch} (hhop : d.discHop hop = true) (hok : discOk 5 p = true)
  (hd0 : d0 = d.discTaken hop p) (hfetch : d0.fab.dom.fetching = some f) (hfrom : f.hop = hop) (hversion : leAt p 4 4 = f.version)
  (hchunk : leAt p 8 2 < leAt p 10 2) (hnew : f.chunks.any (fun c => c.1 = leAt p 8 2) = false)
  (hg : g = { f with chunks := f.chunks ++ [(leAt p 8 2, p.drop 16)] })
include hhop hok hd0 hfetch hfrom hversion hchunk hnew hg

theorem listData_asks (hmore : g.next < leAt p 10 2) :
    d.listData nv hop p = ((d0.withDom { d0.fab.dom with fetching := some g }).askList hop f.version g.next, nv) := by
  have htaken : ¬ (d.discHop hop = false ∨ discOk 5 p = false ∨ f.hop ≠ hop ∨ leAt p 4 4 ≠ f.version) := by simp [hhop, hok, hfrom, hversion]
  subst hg
  simp only [Dev.listData, onDisc_ok _ hhop hok, ← hd0, hfetch, if_neg htaken, hchunk, hnew, Bool.not_false, and_self, if_true, hmore]

theorem listData_complete (hlast : leAt p 10 2 ≤ g.next) :
    d.listData nv hop p = d0.listArrived nv f.version
      ((List.range (leAt p 10 2)).flatMap (fun i => ((g.chunks.find? (fun c => c.1 = i)).map (·.2)).getD [])) := by
  have htaken : ¬ (d.discHop hop = false ∨ discOk 5 p = false ∨ f.hop ≠ hop ∨ leAt p 4 4 ≠ f.version) := by simp [hhop, hok, hfrom, hversion]
  subst hg
  simp only [Dev.listData, onDisc_ok _ hhop hok, ← hd0, hfetch, if_neg htaken, hchunk, hnew, Bool.not_false, and_self, if_true,
    if_neg (Nat.not_lt.2 hlast)]

end Lists

theorem listArrived_adopted {d : Dev} {nv : Nv} {bytes : Bytes} {l : MList} (hlist : listOf bytes = some l) (hside : d.side = 1)
    (hnewer : nv.listVersion < l.version) (hlen : bytes.length = listSize bytes + sigSize) (hsigned : nv.listSigned bytes = true) :
    d.listArrived nv l.version bytes =
      ((d.withDom { d.fab.dom with fetching := none }).extend 3 4 (sha256 bytes), { nv with list := bytes }) := by
  have hside' : (d.withDom { d.fab.dom with fetching := none }).side = 1 := hside
  simp only [Dev.listArrived, hlist, hside', hnewer, hlen, hsigned, and_self, if_true]

/-- Settles O52: each clause is the action of a message that is taken, or of a HELLO that is sent. -/
theorem domainMessages : Obligations.DomainMessages := by
  refine ⟨?_, ?_, ?_, ?_, ?_, ?_, ?_, ?_, ?_, ?_⟩
  · rintro s _ _ hop _ rfl hserves hhop hnew rfl rfl
    exact act_to (fun d => d.helloSend s.nv hop) hserves (helloSend_changed hhop hnew)
  · rintro s _ hop p rfl hserves hhop
    refine ⟨fun hbad => ?_, fun hbad => ?_, fun hbad => ?_, fun hbad => ?_⟩
    · refine (domainRow_serves (f := fun d nv => d.helloTaken nv hop p) hserves).trans ?_
      rw [Dev.helloTaken, onDisc_bad _ hhop hbad]
    · exact act_to (fun d => d.reportTaken s.nv hop p) hserves (onDisc_bad _ hhop hbad)
    · refine (domainRow_serves (f := fun d nv => d.assignTaken nv hop p) hserves).trans ?_
      rw [Dev.assignTaken, onDisc_bad _ hhop hbad]
    · exact act_to (fun d => d.listAsked s.nv hop p) hserves (onDisc_bad _ hhop hbad)
  · rintro s _ d0 _ _ hop p _ _ rfl hserves hhop hok rfl rfl hd0 hnew rfl rfl hlist
    refine (domainRow_serves (f := fun d nv => d.helloTaken nv hop p) hserves).trans ?_
    rw [helloTaken_new hhop hok hd0 hnew hlist]
    rfl
  · rintro s _ d0 hop p k rfl hserves hhop hok hother hd0 hparent
    exact act_to (fun d => d.reportTaken s.nv hop p) hserves (reportTaken_relayed hhop hok hother hd0 hparent)
  · rintro s _ d0 hop p rfl hserves hhop hok hother hd0 hparent hrole hside
    exact act_to (fun d => d.reportTaken s.nv hop p) hserves (reportTaken_manager hhop hok hother hd0 hparent hrole hside)
  · rintro s _ hop p rfl hserves hhop hok htarget
    refine (domainRow_serves (f := fun d nv => d.assignTaken nv hop p) hserves).trans ?_
    rw [assignTaken_target hhop hok htarget]
  · exact fun d p a h ha => adoptAddress_same h ha
  · rintro s _ hop p m rfl hserves hhop hok hother hmember
    refine (domainRow_serves (f := fun d nv => d.assignTaken nv hop p) hserves).trans ?_
    rw [assignTaken_relayed hhop hok hother hmember]
  · rintro s _ hop p _ _ _ rfl hserves hhop hok rfl rfl rfl hversion hlist hchunk
    exact act_to (fun d => d.listAsked s.nv hop p) hserves (listAsked_answers hhop hok hversion (hversion ▸ hlist) hchunk)
  · rintro s _ d0 hop p f _ _ rfl hserves hhop hok hd0 hfetch hfrom hversion rfl rfl hchunk hnew g hg
    have hrow := actNv_serves (f := fun d nv => d.listData nv hop p) hserves
    refine ⟨fun hmore => hrow.trans ?_, ?_⟩
    · rw [listData_asks hhop hok hd0 hfetch hfrom hversion hchunk hnew hg hmore]
      rfl
    · rintro _ l _ hlast rfl hlist hside hsame hnewer hlen hsigned rfl
      refine hrow.trans ?_
      rw [listData_complete hhop hok hd0 hfetch hfrom hversion hchunk hnew hg hlast, ← hsame,
        listArrived_adopted hlist hside hnewer hlen hsigned]
      rfl

/-! ## Roles -/

theorem neighbourGone_known {d d0 : Dev} {nv : Nv} {hop : Nat} {n : Neighbour} (hknown : NMap.get? d.fab.dom.neighbours hop = some n)
    (hd0 : d0 = if d.discHop hop then d.advanceTo (n.heard + 3 * d.helloNs) else d) :
    d.neighbourGone nv hop = Dev.reportIfChanged d0 ((d0.withDom { d0.fab.dom with
      neighbours := NMap.erase d0.fab.dom.neighbours hop, said := NMap.erase d0.fab.dom.said hop
      members := d0.fab.dom.members.filter (fun m => m.via ≠ hop)
      fetching := d0.fab.dom.fetching.filter (fun f => f.hop ≠ hop) }).noteBest nv.identityDigest) nv.identityDigest := by
  simp only [Dev.neighbourGone, hknown, ← hd0]

theorem managerChosen_settled {d d1 d2 : Dev} {nv : Nv} {c : Cand} {t : Nat} (hbest : d.best nv.identityDigest = some c)
    (hsince : d.fab.dom.bestSince = some t) (heligible : d.eligible = true) (hme : c.digest = nv.identityDigest) (hrole : d.role = 0)
    (hd1 : d1 = d.advanceTo (t + d.settleNs))
    (hd2 : d2 = if d1.addr ≠ 0 then d1 else d1.setFld Fld.FAB_ADDR_addr 0 (BitVec.ofNat 64
      ((lowestFree (((d1.nodes nv.identityDigest).map Node.addr).filter (fun a => a ≠ 0))).getD 0))) :
    d.managerChosen nv =
      let d3 := d2.setFld Fld.FAB_MGR_manager_addr 0 (BitVec.ofNat 64 d2.addr)
      ((d3.withDom { d3.fab.dom with routes := [] }).govern nv).raiseSeq := by
  simp only [Dev.managerChosen, hbest, hsince, heligible, hme, hrole, and_self, if_true, ← hd1, ← hd2]

theorem managerGone_ranked {d : Dev} {nv : Nv} {c : Cand} (hrole : d.role = 0) (hbest : d.best nv.identityDigest = some c)
    (hother : c.digest ≠ nv.identityDigest) :
    d.managerGone nv =
      let d1 := d.advanceTo (d.fab.dom.seqAt + d.managerNs)
      let d2 := ((d1.withDom { d1.fab.dom with dropped := (c.digest, d1.fab.dom.seq) :: d1.fab.dom.dropped }).bump
        Fld.FAB_ELECTIONS_count 0 1).setFld Fld.FAB_MGR_manager_addr 0 0
      let d3 := d2.setSideTo (if (d2.candidates nv.identityDigest).isEmpty then 2 else 0)
      Dev.reportIfChanged d1 (d3.noteBest nv.identityDigest) nv.identityDigest := by
  have hlost : ((d.best nv.identityDigest).filter (fun c => c.digest ≠ nv.identityDigest)).map (·.digest) = some c.digest := by
    simp [hbest, Option.filter, hother]
  simp only [Dev.managerGone, hrole, hlost, ne_eq, not_true_eq_false, reduceCtorEq, false_and, or_self, if_false, Option.toList_some,
    List.map_cons, List.map_nil, List.cons_append, List.nil_append]

/-- Settles O53: each clause is one branch of its row, with the times that the branch waits for. -/
theorem domainRoles : Obligations.DomainRoles := by
  refine ⟨?_, ?_, ?_, ?_, ?_, ?_⟩
  · rintro s _ d0 _ hop n _ rfl hserves hknown rfl hd0 rfl
    exact act_to (fun d => d.neighbourGone s.nv hop) hserves (neighbourGone_known hknown hd0)
  · rintro s _ d1 d2 _ c t rfl hserves hbest hsince heligible hme hrole hd1 hd2 rfl
    refine (domainRow_serves (f := fun d nv => d.managerChosen nv) hserves).trans ?_
    rw [managerChosen_settled hbest hsince heligible hme hrole hd1 hd2]
  · rintro s _ _ _ _ c _ rfl hserves hrole rfl hbest hother rfl rfl rfl
    exact act_to (fun d => d.managerGone s.nv) hserves (managerGone_ranked hrole hbest hother)
  · rintro s _ rfl hserves hrole
    refine (domainRow_serves (f := fun d nv => d.sideDecided nv) hserves).trans ?_
    rw [Dev.sideDecided, if_neg hrole]
  · rintro s _ rfl hserves hrole hside
    exact act_to Dev.leaseEnded hserves (if_pos ⟨hrole, hside⟩)
  · rintro s _ _ hop n _ _ rfl hserves hrole hside hknown rfl rfl rfl
    refine (domainRow_serves (f := fun d nv => d.rejoined nv hop) hserves).trans ?_
    have hjoins : s.dev.role = 1 ∧ s.dev.side = 1 ∧ (NMap.get? s.dev.fab.dom.neighbours hop).isSome = true :=
      ⟨hrole, hside, by rw [hknown]; rfl⟩
    rw [Dev.rejoined, if_pos hjoins]

end Sys2Proof.Machine
end

section
/-! PROOF. Supply, resets and boot (R396 to R411, R437, R438, R460, R470, R474). -/

namespace Sys2Proof.Machine

/-- The row of an event that decides for itself when it acts. -/
theorem always_to {s : State} {d' : Dev} (f : Dev → Dev) (h : f s.dev = d') : s.always f = .next (s.withDev d') := by
  rw [always_next, h]

theorem always_same {s : State} (f : Dev → Dev) (h : f s.dev = s.dev) : s.always f = .next s := always_to f h

/-! ## The input -/

theorem powerOn_cold {d : Dev} (hheld : d.pins.holdPhase2 = false) (hoff : d.pins.powerGood = false) :
    d.powerOn =
      let x := d.coldReset d.boot.causeSource (d.now + 10000000)
      { x with pins := { x.pins with powerGood := true, standby := true, vinMv := 48000 } } := by
  simp only [Dev.powerOn, hheld, hoff, Bool.false_eq_true, if_false]

theorem brownOut_short {d : Dev} {us : Nat} (st : Bool) (h : us < 50) : d.brownOut us st = d := if_pos (Or.inl h)

section BrownOut

variable {d : Dev} {us : Nat} (hlong : 50 ≤ us) (hgood : d.pins.powerGood = true)
include hlong hgood

theorem brownOut_phase2 (hphase : d.boot.phase = 2) (hhalted : d.boot.halted = false) (hrun : d.pwr.state = .run) :
    d.brownOut us true =
      let x := d.restartPhase2 1 (d.now + 1000 * us)
      { x with pins := { x.pins with holdPhase2 := true, vinMv := 35000 } } := by
  have hlive : d.live = true := by simp [Dev.live, hgood, hrun]
  simp only [Dev.brownOut, Nat.not_lt.2 hlong, hgood, hphase, hhalted, hrun, hlive, reduceCtorEq, Bool.not_true, Bool.not_false,
    Bool.false_eq_true, or_self, false_and, and_self, if_false, if_true]

theorem brownOut_off {st : Bool} (hphase : d.boot.phase ≠ 2) (hstate : d.pwr.state ≠ .off) :
    d.brownOut us st = ({ d with now := d.now + 1000 * us } : Dev).railsOff 1 35000 st := by
  simp only [Dev.brownOut, Nat.not_lt.2 hlong, hgood, hphase, hstate, Bool.not_true, Bool.false_eq_true, or_self, false_and, if_false]

end BrownOut

theorem standbyLoss_down {d : Dev} (h : d.pins.powerGood = false) :
    d.standbyLoss = { d.railsOff d.boot.causeSource 0 false with
      pins := { (d.railsOff d.boot.causeSource 0 false).pins with tripped := false } } := by
  simp only [Dev.standbyLoss, h, Bool.false_eq_true, if_false]

/-! ## Resets -/

theorem resetOrPhase2_device {d : Dev} (source t : Nat) (h : d.boot.phase ≠ 2 ∨ d.boot.halted = true) :
    d.resetOrPhase2 source t = d.deviceReset source t := by
  refine if_neg fun ⟨hphase, hhalted⟩ => ?_
  rw [Bool.not_eq_true'] at hhalted
  exact h.elim (fun h => h hphase) (fun h => by simp [h] at hhalted)

theorem resetPin_short {d : Dev} {ns : Nat} (h : ns < 120) : d.resetPin ns = d := if_pos (Or.inr (Or.inr h))

theorem resetPin_qualifies {d : Dev} {ns : Nat} (hgood : d.pins.powerGood = true) (hstate : d.pwr.state ≠ .off) (hlong : 200 ≤ ns)
    (hphase : d.boot.phase ≠ 2 ∨ d.boot.halted = true) : d.resetPin ns = d.deviceReset 3 (d.now + ns) := by
  have hlow : ¬ ns < 120 := by omega
  simp only [Dev.resetPin, hgood, hstate, hlow, Nat.not_lt.2 hlong, ge_iff_le, hlong, Bool.not_true, Bool.false_eq_true, or_self,
    if_false, true_or, if_true, resetOrPhase2_device _ _ hphase]

theorem watchdogExpires_restarts {d : Dev} (hserves : d.serves = true) (hon : d.fld Fld.RST_WDOG_enable 0 = 1) (hphase : 3 ≤ d.boot.phase) :
    d.watchdogExpires = d.deviceReset 6 (max d.now (d.boot.kick + 1000000 * d.fld Fld.RST_WDOG_timeout_ms 0)) := by
  simp only [Dev.serves, Bool.and_eq_true, Bool.not_eq_true'] at hserves
  obtain ⟨⟨-, hhalted⟩, hheld⟩ := hserves
  have hgotik : 2 ≤ d.boot.phase := by omega
  have hnot2 : d.boot.phase ≠ 2 := by omega
  simp only [Dev.watchdogExpires, hon, hgotik, hhalted, hheld, Bool.not_false, and_self, if_true, resetOrPhase2_device _ _ (Or.inl hnot2)]

section Writes

variable {d : Dev} {src : RegSource} {n : Nat} (hsource : d.resetSource src = some n)
include hsource

theorem resetWrite_go {v : Word} (hkey : v.toNat / 65536 = 0x5244) (hgo : v.toNat % 2 = 1) : d.resetWrite src v = d.deviceReset n d.now := by
  simp only [Dev.resetWrite, hsource, hkey, hgo, and_self, if_true]

theorem partResetWrite_one {p : Nat} (hp : p < 8) :
    d.partResetWrite src (BitVec.ofNat 32 (2 ^ p)) = (d.leaveIdle.recordReset 2 n Fld.RST_COUNTS_partition).partReset p := by
  have hbit : ∀ p < 8, setBitsOf (BitVec.ofNat 32 (2 ^ p)).toNat 8 = [p] := by decide
  simp only [Dev.partResetWrite, hsource, hbit p hp, List.foldl_cons, List.foldl_nil]

theorem blockResetWrite_known {v : Word} (hunit : v.toNat % 256 < blockUnits (v.toNat / 256 % 16)) :
    d.blockResetWrite src v =
      let y := (d.leaveIdle.recordReset 3 n Fld.RST_COUNTS_block).loseSides.blockWork (v.toNat / 256 % 16) (v.toNat % 256)
      { y with regs := y.regs.clear 1 (blockRegs (v.toNat / 256 % 16) (v.toNat % 256)) } := by
  simp only [Dev.blockResetWrite, hsource, hunit, if_true]

end Writes

/-- Gotik may write the register that restarts its watchdog. -/
theorem writeStatus_kick (d : Dev) : d.writeStatus .gotik Reg.RST_WDOG_KICK.off = Sts.ok := by
  have hmay : d.mayWriteReg .gotik Reg.RST_WDOG_KICK.off = true := by simp [Dev.mayWriteReg, Dev.resetSource]
  simp only [Dev.writeStatus, hmay, if_true]

/-- Settles O54: each event or write takes one branch of its row, and a reset gives its state by definition. -/
theorem resetsHappen : Obligations.ResetsHappen := by
  refine ⟨?_, ?_, ?_, ?_, ?_, ?_, ?_, ?_, ?_, ?_, ?_, ?_, ?_, ?_, ?_⟩
  · rintro s _ _ rfl hheld hoff rfl
    exact always_to Dev.powerOn (powerOn_cold hheld hoff)
  · rintro s _ us _ rfl hlong hgood hphase hhalted hrun rfl
    exact always_to (fun d => d.brownOut us true) (brownOut_phase2 hlong hgood hphase hhalted hrun)
  · rintro s _ us st rfl hlong hgood hphase hstate
    exact always_to (fun d => d.brownOut us st) (brownOut_off hlong hgood hphase hstate)
  · exact fun s us st h => always_same (fun d => d.brownOut us st) (brownOut_short st h)
  · rintro s _ mv us rfl hbelow hhigh hlong
    refine Eq.trans (if_neg (Bool.not_eq_true _ ▸ hbelow)) (always_to (fun d => d.overvoltage mv us) (if_pos ⟨hhigh, hlong⟩))
  · exact fun d src vin st => ⟨rfl, rfl, rfl, rfl⟩
  · rintro s _ rfl hoff
    exact always_to Dev.standbyLoss (standbyLoss_down hoff)
  · rintro s _ ns rfl hgood hstate hlong hphase
    exact always_to (fun d => d.resetPin ns) (resetPin_qualifies hgood hstate hlong hphase)
  · exact fun s ns h => always_same (fun d => d.resetPin ns) (resetPin_short h)
  · rintro s _ src n v hserves rfl hsource hkey hgo
    refine (regRow_serves (f := fun d => d.resetWrite src v) hserves).trans ?_
    rw [resetWrite_go hsource hkey hgo]
    rfl
  · rintro s _ src n p _ hserves rfl hsource hp rfl
    refine (regRow_serves (f := fun d => d.partResetWrite src (BitVec.ofNat 32 (2 ^ p))) hserves).trans ?_
    rw [partResetWrite_one hsource hp]
    rfl
  · rintro s _ src n v _ _ _ _ hserves rfl hsource rfl rfl hunit rfl rfl
    refine (regRow_serves (f := fun d => d.blockResetWrite src v) hserves).trans ?_
    rw [blockResetWrite_known hsource hunit]
    rfl
  · rintro s _ rfl hserves hon hphase
    exact act_to Dev.watchdogExpires hserves (watchdogExpires_restarts hserves hon hphase)
  · rintro s _ hserves rfl
    refine (regRow_serves (f := fun d => d.kick .gotik) hserves).trans ?_
    rw [writeStatus_kick]
    rfl
  · exact fun d cls src t => ⟨rfl, rfl, rfl, rfl, rfl⟩

/-! ## Boot -/

section Boot

variable {d : Dev} {nv : Nv}

theorem phase0_ok (h : d.booting 0 = true) : d.phase0 true = (d.phaseEnds 2000000).tagsDone.toPhase 1 := by
  simp only [Dev.phase0, h, if_true]

theorem phase0_bad (h : d.booting 0 = true) : d.phase0 false = (d.phaseEnds 2000000).halt := by
  simp only [Dev.phase0, h, if_true, Bool.false_eq_true, if_false]

theorem phase1_slot0 (h : d.booting 1 = true) (hok : nv.imageOk nv.slot0 = true) :
    d.phase1 nv = (d.phaseEnds 60000000).startGotik 0 nv.slot0 := by
  simp only [Dev.phase1, h, hok, if_true]

theorem phase1_slot1 (h : d.booting 1 = true) (hbad : nv.imageOk nv.slot0 = false) (hok : nv.imageOk nv.slot1 = true) :
    d.phase1 nv = (d.phaseEnds 60000000).startGotik 1 nv.slot1 := by
  simp only [Dev.phase1, h, hbad, hok, if_true, Bool.false_eq_true, if_false]

theorem phase1_halts (h : d.booting 1 = true) (hbad0 : nv.imageOk nv.slot0 = false) (hbad1 : nv.imageOk nv.slot1 = false) :
    d.phase1 nv = (d.phaseEnds 60000000).halt := by
  simp only [Dev.phase1, h, hbad0, hbad1, if_true, Bool.false_eq_true, if_false]

theorem phase2_booting (h : d.booting 2 = true) :
    d.phase2 nv = (((d.phaseEnds 80000000).loadOptions nv).measureRest nv).toPhase 3 := if_pos h

/-- The port groups that are requested, powered in early service. -/
def Dev.portsUp (d : Dev) : Dev :=
  (List.range 8).foldl (fun (d : Dev) p =>
    if d.domainWanted (32 + p) ∧ !d.pwr.on.testBit (32 + p) then
      ({ d with pwr := { d.pwr with on := d.pwr.on + 2 ^ (32 + p) } } : Dev).portOn p
    else d) d

theorem phase3_ok (h : d.booting 3 = true) : d.phase3 none = ((d.phaseEnds 150000000).portsUp.toPhase 4).settleDomains := by
  simp only [Dev.phase3, h, if_true]
  rfl

theorem phase3_bad (h : d.booting 3 = true) (k u : Nat) :
    d.phase3 (some (k, u)) = (d.phaseEnds 150000000).portsUp.deviceFault 3 k u := by
  simp only [Dev.phase3, h, if_true]
  rfl

section Training

variable (h : d.booting 4 = true) (hstate : d.pwr.state = .run ∨ d.pwr.state = .idle)
include h hstate

theorem trainingEnd_ok {d1 d2 : Dev} (hd1 : d1 = d.phaseEnds 1200000000)
    (hd2 : d2 = (d1.setMemWays (d1.fld Fld.RST_FULL_SERVICE_full_ways 0)).setFld Fld.MEM_PREFETCH_MODE_mode 0 0) :
    d.trainingEnd none =
      ((({ d2 with boot := { d2.boot with dramOpen := true } } : Dev).performHeld.toPhase 5).settleWalls).retryBlocks := by
  subst hd1 hd2
  exact if_pos ⟨h, hstate⟩

theorem trainingEnd_bad (k u : Nat) : d.trainingEnd (some (k, u)) = (d.phaseEnds 1200000000).deviceFault 4 k u :=
  if_pos ⟨h, hstate⟩

end Training

end Boot

/-- A FAULT with no command in flight leaves phase 6 and no held signal. -/
theorem deviceFault_idle {d : Dev} (ph k u : Nat) (h : d.sub.cmds = []) :
    (d.deviceFault ph k u).boot.phase = 6 ∧ (d.deviceFault ph k u).sub.heldSignals = [] := by
  simp [Dev.deviceFault, Dev.report, h, Dev.withRings]

/-- Settles O55: each boot event, in its phase, is one branch of its row. -/
theorem bootRuns : Obligations.BootRuns := by
  refine ⟨?_, fun d n => rfl, fun d => rfl, ?_, fun d slot img => rfl, ?_, ?_, ?_, fun d ph k u h => deviceFault_idle ph k u h⟩
  · rintro s _ _ rfl h rfl
    exact ⟨always_to (fun d => d.phase0 true) (phase0_ok h), always_to (fun d => d.phase0 false) (phase0_bad h)⟩
  · rintro s _ _ rfl h rfl
    exact ⟨fun hok => always_to (fun d => d.phase1 s.nv) (phase1_slot0 h hok),
      fun hbad hok => always_to (fun d => d.phase1 s.nv) (phase1_slot1 h hbad hok),
      fun hbad0 hbad1 => always_to (fun d => d.phase1 s.nv) (phase1_halts h hbad0 hbad1)⟩
  · rintro s _ _ _ rfl h rfl rfl
    exact always_to (fun d => d.phase2 s.nv) (phase2_booting h)
  · rintro s _ _ _ rfl h rfl rfl
    exact ⟨always_to (fun d => d.phase3 none) (phase3_ok h), fun k u => always_to (fun d => d.phase3 (some (k, u))) (phase3_bad h k u)⟩
  · rintro s _ _ _ _ rfl h hstate rfl rfl rfl
    refine ⟨always_to (fun d => (d.trainingEnd none).serveHeld s.nv) ?_, fun k u =>
      always_to (fun d => (d.trainingEnd (some (k, u))).serveHeld s.nv) ?_⟩
    · rw [trainingEnd_ok h hstate rfl rfl]
      rfl
    · rw [trainingEnd_bad h hstate]
      rfl

end Sys2Proof.Machine
end

section
/-! PROOF. Register fields, power states, and the walls' points (R415 to R432, R461, R470). -/

namespace Sys2Proof.Machine

/-! ## Fields of registers -/

theorem toNat_mask {n : Nat} (h : n < 64) : (((1 <<< n : Nat) : Wide) - 1).toNat = 2 ^ n - 1 := by
  have hlt : 2 ^ n < 2 ^ 64 := Nat.pow_lt_pow_right (by decide) h
  have hpos : 0 < 2 ^ n := Nat.two_pow_pos n
  have hone : (((1 <<< n : Nat) : Wide)).toNat = 2 ^ n := by
    rw [BitVec.natCast_eq_ofNat, BitVec.toNat_ofNat, Nat.one_shiftLeft, Nat.mod_eq_of_lt hlt]
  rw [BitVec.toNat_sub_of_le (by rw [BitVec.le_def, hone]; exact hpos), hone]
  rfl

theorem getLsbD_mask {n : Nat} (h : n < 64) (i : Nat) : (((1 <<< n : Nat) : Wide) - 1).getLsbD i = decide (i < n) := by
  rw [← BitVec.testBit_toNat, toNat_mask h, Nat.testBit_two_pow_sub_one]

/-- A field reads as the low bits of the value that it was set to. -/
theorem bitsN_setBits (v x : Wide) {hi lo : Nat} (hhi : hi < 63) (hlo : lo ≤ hi) :
    bitsN (setBits v hi lo x) hi lo = x.toNat % 2 ^ (hi - lo + 1) := by
  refine Nat.eq_of_testBit_eq fun i => ?_
  have hmask := getLsbD_mask (n := hi - lo + 1) (by omega)
  rw [bitsN, Nat.testBit_mod_two_pow, Nat.testBit_mod_two_pow, Nat.testBit_shiftRight, BitVec.testBit_toNat, BitVec.testBit_toNat]
  by_cases hin : i < hi - lo + 1
  · have hlow : lo + i < 64 := by omega
    have hge : ¬ lo + i < lo := by omega
    simp only [setBits, BitVec.getLsbD_or, BitVec.getLsbD_and, BitVec.getLsbD_not, BitVec.getLsbD_shiftLeft, hmask, hlow, hge,
      Nat.add_sub_cancel_left, hin, decide_true, decide_false, Bool.not_false, Bool.not_true, Bool.and_true, Bool.true_and,
      Bool.and_false, Bool.false_or]
  · simp only [hin, decide_false, Bool.false_and]

theorem NMap.get?_erase_self {α : Type} (m : NMap α) (k : Nat) : NMap.get? (NMap.erase m k) k = none := by
  induction m with
  | nil => rfl
  | cons e t ih =>
    by_cases he : e.1 = k
    · simpa [NMap.erase, he] using ih
    · simpa [NMap.erase, he, NMap.get?] using ih

theorem RegSt.get_put (r : RegSt) (off reset : Nat) (v : Wide) : (r.put off reset v).get off reset = v := by
  unfold RegSt.put RegSt.get
  split
  · next hreset => rw [NMap.getD, NMap.get?_erase_self, Option.getD_none, hreset]
  · rw [NMap.getD_set_self]

theorem Dev.fld_setFld {f : Fld} (d : Dev) (i : Nat) (v : Wide) (hhi : f.hi < 63) (hlo : f.lo ≤ f.hi) :
    (d.setFld f i v).fld f i = v.toNat % 2 ^ (f.hi - f.lo + 1) := by
  rw [Dev.fld, Dev.setFld, RegSt.get_put, bitsN_setBits _ _ hhi hlo]

/-! ## Writes of registers -/

@[simp] theorem Dev.leaveIdle_regs (d : Dev) : d.leaveIdle.regs = d.regs := by
  unfold Dev.leaveIdle
  split <;> rfl

@[simp] theorem Dev.touch_regs (d : Dev) (src : RegSource) (off : Nat) : (d.touch src off).regs = d.regs := by
  unfold Dev.touch
  split
  · exact d.leaveIdle_regs
  · rfl

/-- Which sources may write is held in registers. -/
theorem mayWriteReg_regs {d d' : Dev} (h : d'.regs = d.regs) (src : RegSource) (off : Nat) :
    d'.mayWriteReg src off = d.mayWriteReg src off := by
  have hmanager : ∀ a, d'.isManager a = d.isManager a := fun a => by rw [Dev.isManager, Dev.fld, h]; rfl
  have hgranted : ∀ a, d'.granted a = d.granted a := fun a => by rw [Dev.granted, Dev.fldW, h]; rfl
  simp only [Dev.mayWriteReg, Dev.mayWriteG, Dev.mayWrite, Dev.resetSource, hmanager, hgranted]

theorem writeStatus_touch (d : Dev) (src : RegSource) (off : Nat) : (d.touch src off).writeStatus src off = d.writeStatus src off := by
  rw [Dev.writeStatus, Dev.writeStatus, mayWriteReg_regs (d.touch_regs src off)]

theorem writeStatus_ok {d : Dev} {src : RegSource} {off : Nat} (h : (d.touch src off).mayWriteReg src off = true) :
    d.writeStatus src off = Sts.ok := by
  rw [← writeStatus_touch, Dev.writeStatus, if_pos h]

/-- A source that may write a register reaches it by the row of the write, and is answered OK. -/
theorem regRow_to {s : State} {src : RegSource} {off : Nat} {d' : Dev} (f : Dev → Dev) (hserves : s.dev.serves = true)
    (hmay : (s.dev.touch src off).mayWriteReg src off = true) (hf : f (s.dev.touch src off) = d') :
    s.regRow src off f = .next (s.withDev (d'.answered src off Sts.ok)) := by
  rw [regRow_serves hserves, hf, writeStatus_ok hmay]

/-! ## Entering and abandoning -/

theorem mayWriteG_of {d : Dev} {src : RegSource} (h : src = .gotik ∨ d.mayWrite src = true) : d.mayWriteG src = true := by
  rcases h with rfl | h
  · rfl
  · rw [Dev.mayWriteG, h, Bool.or_true]

section Enter

variable {d x : Dev} {src : RegSource} (st : PState) (hmay : d.mayWriteG src = true) (hx : x = d.leaveIdle)
include hmay hx

theorem enter_elsewhere (h : x.pwr.state ≠ .run ∨ x.pwr.entering.isSome = true) : d.enter src st = x.powerError 3 := by
  simp only [Dev.enter, hmay, if_true, ← hx, if_pos h]

theorem enter_busy (hrun : x.pwr.state = .run) (hent : x.pwr.entering = none) (hbusy : x.quiet = false) :
    d.enter src st = x.powerError 1 := by
  simp only [Dev.enter, hmay, if_true, ← hx, hrun, hent, hbusy, ne_eq, not_true_eq_false, Option.isSome_none, Bool.false_eq_true,
    or_self, if_false, Bool.not_false]

theorem enter_begins (hrun : x.pwr.state = .run) (hent : x.pwr.entering = none) (hquiet : x.quiet = true) :
    d.enter src st = { x with
      freeCtr := x.freeCtr + 1
      pwr := { x.pwr with entering := some (st, x.now + 40 * (9 + Config.freeNat x.freeCtr % 2492)) } } := by
  simp only [Dev.enter, hmay, if_true, ← hx, hrun, hent, hquiet, ne_eq, not_true_eq_false, Option.isSome_none, Bool.false_eq_true,
    or_self, if_false, Bool.not_true]
  rfl

end Enter

section Target

variable {d x : Dev} {src : RegSource} (hmay : d.mayWriteG src = true) (hx : x = d.leaveIdle)
include hmay hx

theorem targetRun_abandons (hent : x.pwr.entering.isSome = true) (hearly : x.inLostWindow = false) :
    d.targetRun src = x.abandonEntry := by
  simp only [Dev.targetRun, hmay, if_true, ← hx, hent, hearly, Bool.false_eq_true, if_false]

theorem targetRun_late (hent : x.pwr.entering.isSome = true) (hlate : x.inLostWindow = true) : d.targetRun src = x.powerError 3 := by
  simp only [Dev.targetRun, hmay, if_true, ← hx, hent, hlate]

theorem targetRun_wakes (hent : x.pwr.entering = none) (hsleep : x.pwr.state = .sleep) : d.targetRun src = x.startWake 8 0 := by
  simp only [Dev.targetRun, hmay, if_true, ← hx, hent, hsleep, Option.isSome_none, Bool.false_eq_true, if_false]

theorem targetRun_refused (hent : x.pwr.entering = none) (hrun : x.pwr.state = .run) : d.targetRun src = x.powerError 3 := by
  simp only [Dev.targetRun, hmay, if_true, ← hx, hent, hrun, Option.isSome_none, Bool.false_eq_true, if_false, reduceCtorEq]

end Target

/-! ## The state at W -/

theorem lastRound_none {d : Dev} (h : d.pwr.entering = none) : d.lastRound = d := by simp only [Dev.lastRound, h]

theorem lastRound_sleep {d : Dev} {w : Nat} (h : d.pwr.entering = some (.sleep, w)) : d.lastRound = d := by simp only [Dev.lastRound, h]

theorem lastRound_off {d : Dev} {w : Nat} (h : d.pwr.entering = some (.off, w)) (hdone : d.recPending = false) : d.lastRound = d := by
  simp only [Dev.lastRound, h, hdone, Bool.false_eq_true, if_false]

theorem stateReached_none {d : Dev} (nv : Nv) (asserted : Option WakeSource) (h : d.pwr.entering = none) :
    d.stateReached nv asserted = d := by
  simp only [Dev.stateReached, h]

theorem stateReached_sleep {d : Dev} {w : Nat} (nv : Nv) (h : d.pwr.entering = some (.sleep, w))
    (hquiet : (d.advanceTo w).sleepNow.levels.find? (fun x => !wakeEdge x && (d.advanceTo w).sleepNow.wakes .sleep x) = none) :
    d.stateReached nv none = (d.advanceTo w).sleepNow := by
  simp only [Dev.stateReached, h, Option.toList_none, List.nil_append, hquiet]

/-- In OFF only WAKE_N, where it is held low, wakes the device. -/
theorem wakes_off {d : Dev} {x : WakeSource} (h : d.wakes .off x = true) : x = .wakeN := by
  cases x <;> simp [Dev.wakes] at h ⊢

theorem stateReached_off {d : Dev} {w : Nat} (nv : Nv) (h : d.pwr.entering = some (.off, w))
    (hpin : (d.advanceTo w).pins.wakeLow = false) : d.stateReached nv none = (d.advanceTo w).offNow := by
  have hquiet : (d.advanceTo w).offNow.levels.find? (fun x => !wakeEdge x && (d.advanceTo w).offNow.wakes .off x) = none := by
    rw [List.find?_eq_none]
    intro x hx hwakes
    rw [Bool.and_eq_true] at hwakes
    have hpin' : (d.advanceTo w).offNow.pins.wakeLow = false := hpin
    have hx' := wakes_off hwakes.2
    simp [Dev.levels, hpin', hx'] at hx
  simp only [Dev.stateReached, h, Option.toList_none, List.nil_append, hquiet]

/-! ## Wakes and exits -/

theorem startWake_begins {d : Dev} (cause rewake : Nat) (h : d.pwr.waking = none) :
    d.startWake cause rewake =
      let x := ((d.setFld Fld.PWR_WAKE_CAUSE_from_state 0 (BitVec.ofNat 64 d.pwr.state.code)).setFld Fld.PWR_WAKE_CAUSE_rewake 0
        (BitVec.ofNat 64 rewake)).setFld Fld.PWR_WAKE_CAUSE_cause 0 (BitVec.ofNat 64 cause)
      { x.withPwr { x.pwr with waking := some x.now } with mem := { x.mem with tagInit := x.mem.tagInit || x.pwr.state = .sleep } } := by
  simp only [Dev.startWake, h, Option.isSome_none, Bool.false_eq_true, if_false]

theorem startWake_cause {d : Dev} {cause : Nat} (rewake : Nat) (h : d.pwr.waking = none) (hcause : cause < 16) :
    (d.startWake cause rewake).fld Fld.PWR_WAKE_CAUSE_cause 0 = cause := by
  rw [startWake_begins cause rewake h]
  have hread := fun x : Dev => x.fld_setFld (f := Fld.PWR_WAKE_CAUSE_cause) 0 (BitVec.ofNat 64 cause) (by decide) (by decide)
  refine (hread _).trans ?_
  rw [BitVec.toNat_ofNat, Nat.mod_eq_of_lt (by omega : cause < 2 ^ 64)]
  exact Nat.mod_eq_of_lt hcause

theorem wakeBy_starts {d : Dev} {w : WakeSource} (hent : d.pwr.entering = none) (hstate : d.pwr.state = .sleep ∨ d.pwr.state = .deep)
    (hwakes : d.wakes d.pwr.state w = true) : d.wakeBy w = d.startWake (wakeCode w) 0 := by
  simp only [Dev.wakeBy, hent, hstate, hwakes, and_self, if_true]

theorem wakeEvent_wakeN {d x : Dev} (hgood : d.pins.powerGood = true) (hstate : d.pwr.state = .sleep ∨ d.pwr.state = .deep)
    (hent : d.pwr.entering = none) (hon : d.fld Fld.PWR_WAKE_EN_wake_n 0 = 1)
    (hx : x = { d with pins := { d.pins with wakeLow := true } }) : d.wakeEvent .wakeN = x.startWake 1 0 := by
  have hpwr : x.pwr = d.pwr := by rw [hx]
  have hfld : x.fld Fld.PWR_WAKE_EN_wake_n 0 = 1 := by rw [hx]; exact hon
  have hoff : x.pwr.state ≠ .off := by
    rw [hpwr]
    rcases hstate with h | h <;> rw [h] <;> decide
  have hwakes : x.wakes x.pwr.state .wakeN = true := by
    rw [hpwr]
    rcases hstate with h | h <;> simp [Dev.wakes, h, hfld]
  have hseen : d.wakeEvent .wakeN = if x.pwr.state = .off then (if x.wakes .off .wakeN then x.offWake else x) else x.wakeBy .wakeN := by
    rw [hx]
    exact if_neg (by rw [hgood]; decide)
  rw [hseen, if_neg hoff, wakeBy_starts (by rw [hpwr, hent]) (by rwa [hpwr]) hwakes]
  rfl

theorem autoIdle_quiet {d : Dev} (hon : d.fld Fld.PWR_CTRL_auto_idle 0 = 1) (hrun : d.pwr.state = .run) (hent : d.pwr.entering = none)
    (hquiet : d.quiet = true) :
    d.autoIdle =
      let x := d.advanceTo (d.now + 1000 * d.fld Fld.PWR_CTRL_idle_us 0)
      { x.loseSides with pwr := { x.pwr with state := .idle, since := x.now } } :=
  if_pos ⟨hon, hrun, by rw [hent]; rfl, hquiet⟩

theorem deepTimer_expires {d : Dev} (hn : (d.fldW Fld.PWR_DEEP_TIMER_ao_cycles 0).toNat ≠ 0)
    (hstate : d.pwr.state = .sleep ∨ d.pwr.state = .deep) :
    d.deepTimer = ((d.advanceTo (d.pwr.since + 40 * (d.fldW Fld.PWR_DEEP_TIMER_ao_cycles 0).toNat)).setFld
      Fld.PWR_WAKE_PENDING_deep_timer 0 1).wakeBy .deepTimer := if_pos ⟨hn, hstate⟩

section DeepExit

variable {d : Dev} {nv : Nv} {t : Nat} {r : Retained} (hstate : d.pwr.state = .deep) (hwaking : d.pwr.waking = some t)
  (hset : d.pwr.retained = some r)
include hstate hwaking hset

theorem deepExit_resumes (h : sha256 (if r.slot = 0 then nv.slot0 else nv.slot1) = r.digest) :
    d.deepExit nv = ((d.outOfDeep r t).applyOptions nv r.options).restartTick := by
  simp only [Dev.deepExit, hstate, hwaking, hset, if_pos h]

theorem deepExit_resets (h : sha256 (if r.slot = 0 then nv.slot0 else nv.slot1) ≠ r.digest) : d.deepExit nv = d.deviceReset 6 d.now := by
  simp only [Dev.deepExit, hstate, hwaking, hset, if_neg h]

end DeepExit

theorem domainOn_wall {d : Dev} {t n : Nat} (hwaits : NMap.get? d.pwr.powering n = some t) (hn : n < 32) :
    d.domainOn n =
      let x := d.advanceTo t
      { x with pwr := { x.pwr with
        on := if x.pwr.on.testBit n then x.pwr.on else x.pwr.on + 2 ^ n, powering := NMap.erase x.pwr.powering n } } := by
  have hport : ¬ (32 ≤ n ∧ n < 40) := by omega
  simp only [Dev.domainOn, hwaits, if_neg hport]
  rfl

theorem thermTrip_cool {d : Dev} {c : Nat} (h : c < 110) : d.thermTrip c = d := if_neg fun ⟨hhot, _⟩ => by omega

/-- Settles O56: a write to PWR_CTRL.target, W, a wake source and an exit each take one branch of their row. -/
theorem powerStatesChange : Obligations.PowerStatesChange := by
  refine ⟨?_, ?_, ?_, ?_, ?_, ?_, ?_, ?_, ?_, ?_, ?_, ?_, fun d => ⟨rfl, rfl⟩, ?_, ?_, ?_, ?_⟩
  · rintro s _ x src i st hserves rfl hmay hx hi
    have hG := mayWriteG_of hmay
    have hto : ∀ {d'}, (s.dev.touch src Reg.PWR_CTRL.off).enter src st = d' →
        exec i s = .next (s.withDev (d'.answered src Reg.PWR_CTRL.off Sts.ok)) := by
      intro d' h
      obtain ⟨rfl, rfl⟩ | ⟨rfl, rfl⟩ | ⟨rfl, rfl⟩ := hi <;> exact regRow_to (fun d => d.enter src _) hserves hG h
    refine ⟨fun h => hto (enter_elsewhere st hG hx h), fun hrun hent hbusy => hto (enter_busy st hG hx hrun hent hbusy),
      fun hrun hent hquiet => ⟨_, ?_, ?_, hto (enter_begins st hG hx hrun hent hquiet)⟩⟩
    · have := Nat.mod_lt (Config.freeNat x.freeCtr) (show 2492 > 0 by decide)
      omega
    · omega
  · rintro s _ x src hserves rfl hmay hx
    have hG := mayWriteG_of hmay
    have hto : ∀ {d'}, (s.dev.touch src Reg.PWR_CTRL.off).targetRun src = d' →
        exec (.pwrTargetRun src) s = .next (s.withDev (d'.answered src Reg.PWR_CTRL.off Sts.ok)) :=
      fun h => regRow_to (fun d => d.targetRun src) hserves hG h
    exact ⟨fun hent hearly => hto (targetRun_abandons hG hx hent hearly), fun hent hlate => hto (targetRun_late hG hx hent hlate),
      fun hent hsleep => hto (targetRun_wakes hG hx hent hsleep), fun hent hrun => hto (targetRun_refused hG hx hent hrun)⟩
  · rintro s _ w rfl hent hquiet
    refine always_to (fun d => d.lastRound.stateReached s.nv none) ?_
    rw [lastRound_sleep hent, stateReached_sleep s.nv hent hquiet]
  · rintro s _ w rfl hent hdone hpin
    refine always_to (fun d => d.lastRound.stateReached s.nv none) ?_
    rw [lastRound_off hent hdone, stateReached_off s.nv hent hpin]
  · rintro s _ rfl hent
    refine always_same (fun d => d.lastRound.stateReached s.nv none) ?_
    rw [lastRound_none hent, stateReached_none s.nv none hent]
  · exact fun d => ⟨rfl, rfl, rfl, rfl, fun nv => ⟨rfl, rfl, rfl⟩⟩
  · rintro s _ _ rfl hserves hon hrun hent hquiet rfl
    exact act_to Dev.autoIdle hserves (autoIdle_quiet hon hrun hent hquiet)
  · rintro s _ rfl hserves hidle
    exact act_to Dev.leaveIdle hserves (if_pos hidle)
  · rintro s _ x rfl hgood hstate hent hon hx
    exact always_to (fun d => d.wakeEvent .wakeN) (wakeEvent_wakeN hgood hstate hent hon hx)
  · intro d cause rewake h
    refine ⟨by rw [startWake_begins cause rewake h]; rfl, fun hsleep => ?_, fun hcause => startWake_cause rewake h hcause⟩
    rw [startWake_begins cause rewake h]
    simp [hsleep]
  · rintro s _ t _ _ _ _ _ _ rfl hstate hwaking rfl rfl rfl rfl rfl rfl
    refine always_to (fun d => d.sleepExit.serveHeld s.nv) ?_
    simp only [Dev.sleepExit, hstate, hwaking]
    rfl
  · rintro s _ t r rfl hstate hwaking hset
    exact ⟨fun h => always_to (fun d => d.deepExit s.nv) (deepExit_resumes hstate hwaking hset h),
      fun h => always_to (fun d => d.deepExit s.nv) (deepExit_resets hstate hwaking hset h)⟩
  · rintro s _ _ rfl rfl hn hstate
    exact always_to Dev.deepTimer (deepTimer_expires hn hstate)
  · rintro s _ t n _ rfl hserves hwaits hn rfl
    exact act_to (fun d => d.domainOn n) hserves (domainOn_wall hwaits hn)
  · rintro s _ c rfl hhot hgood hstate
    exact always_to (fun d => d.thermTrip c) (if_pos ⟨hhot, hgood, hstate⟩)
  · exact fun s c h => always_same (fun d => d.thermTrip c) (thermTrip_cool h)

end Sys2Proof.Machine
end

section
/-! PROOF. DVFS and power capping (R429 to R432, R461), the recorder and the counters (R445 to R456). -/

namespace Sys2Proof.Machine

/-! ## Walls -/

theorem dvfsDone_reaches {d : Dev} {w : Nat} (hw : w < 12) (hchanging : (d.wall w).changing = true) :
    d.dvfsDone w = (if (d.wall w).capping then { d with pwr := { d.pwr with lastMove := d.now } } else d).setWall w
      { d.wall w with current := d.effective w, changing := false, capping := false } := by
  cases hcap : (d.wall w).capping
  · simp only [Dev.dvfsDone, hw, hchanging, hcap, and_self, if_true, Bool.false_eq_true, if_false]
  · simp only [Dev.dvfsDone, hw, hchanging, hcap, and_self, if_true]
    rfl

theorem awake_not {d : Dev} (h : d.pwr.state = .run ∨ d.pwr.state = .idle) : ¬ (d.pwr.state ≠ .run ∧ d.pwr.state ≠ .idle) :=
  fun ⟨hrun, hidle⟩ => h.elim hrun hidle

/-- A move of capping: the capped point of each wall that it names changes, and the samples begin anew. -/
def Dev.moveWalls (d : Dev) (cap : Dev → Nat → Nat) (ws : List Nat) : Dev :=
  let d3 := ws.foldl (fun (d : Dev) w => d.setWall w { d.wall w with cap := cap d w, capping := true }) d
  let d4 := (({ d3 with pwr := { d3.pwr with lastMove := d3.now } } : Dev).settleWalls).bump Fld.PWR_CAP_STEPS_count 0 1
  { d4 with pwr := { d4.pwr with walls := d4.pwr.walls.map (fun e => (e.1, { e.2 with capping := e.2.capping && e.2.changing })) } }

section Capping

variable {d d1 d2 : Dev} {m v : Nat} {ws : List Nat} (hstate : d.pwr.state = .run ∨ d.pwr.state = .idle)

include hstate in
theorem capMove_waits (hmoving : d.pwr.walls.any (fun e => e.2.capping) = true) : d.capMove m v = d.measuredW m := by
  simp only [Dev.capMove, if_neg (awake_not hstate), hmoving, if_true]

variable (hstill : d.pwr.walls.any (fun e => e.2.capping) = false) (hd1 : d1 = d.advanceTo (d.pwr.lastMove + 1000000))
  (hsome : ws ≠ [])
include hstate hstill hd1 hsome

theorem capMove_slower (hd2 : d2 = d1.measuredW m) (hover : d2.capMw v < 1000 * m)
    (hws : ws = (List.range 12).filter (fun w => d2.canSlow w)) : d.capMove m v = d2.moveWalls (fun d w => d.effective w + 1) ws := by
  have hempty : ws.isEmpty = false := by rwa [Bool.eq_false_iff, ne_eq, List.isEmpty_iff]
  simp only [Dev.capMove, if_neg (awake_not hstate), hstill, Bool.false_eq_true, if_false, ← hd1, ← hd2, gt_iff_lt, hover, if_true,
    decide_true, ← hws, hempty]
  simp only [Dev.moveWalls, Dev.withPwr]

theorem capMove_quicker (hd2 : d2 = (d1.measuredW m).withPwr { (d1.measuredW m).pwr with capExceeded := false })
    (hunder : 100000 * m < 95 * d2.capMw v)
    (hws : ws = (List.range 12).filter (fun w => d2.canQuicken w)) : d.capMove m v = d2.moveWalls (fun d w => (d.wall w).cap - 1) ws := by
  have hempty : ws.isEmpty = false := by rwa [Bool.eq_false_iff, ne_eq, List.isEmpty_iff]
  have hlimit : d2.capMw v = (d1.measuredW m).capMw v := by rw [hd2]; rfl
  rw [hlimit] at hunder
  have hnot : ¬ (d1.measuredW m).capMw v < 1000 * m := by omega
  simp only [Dev.capMove, if_neg (awake_not hstate), hstill, Bool.false_eq_true, if_false, ← hd1, gt_iff_lt, hnot, ← hd2,
    decide_false, hunder, decide_true, Bool.true_and, ← hws, hempty]
  simp only [Dev.moveWalls, Dev.withPwr]

end Capping

theorem overCap_exceeds {d d1 : Dev} {m v : Nat} (hstate : d.pwr.state = .run ∨ d.pwr.state = .idle)
    (hfloor : (List.range 12).all (fun w => !d.canSlow w) = true) (hover : d.capMw v < 1000 * m)
    (hd1 : d1 = d.advanceTo (d.pwr.lastMove + 10000000)) :
    d.overCap m v = { d1 with pwr := { d1.pwr with avgW := min m 1023, nowW := min m 1023, capExceeded := true } } := by
  rw [Dev.overCap, if_pos ⟨hstate, hfloor, hover⟩, ← hd1]
  rfl

/-- While every wall is forced its point is P7. -/
theorem effective_forced {d : Dev} (w : Nat) (h : d.pwr.forced = true) :
    d.effective w = max (max (d.fld Fld.PWR_WALL_target w) (d.wall w).cap) (max (if d.boot.phase < 5 then 4 else 0) 7) := by
  simp only [Dev.effective, h, if_true]

/-- Settles O57: a change of a wall, a move of capping, and a force each take one branch of their row. -/
theorem wallsMove : Obligations.WallsMove := by
  refine ⟨?_, ?_, ?_, ?_, ?_, ?_, ?_, fun d w h => effective_forced w h⟩
  · rintro s _ w _ rfl hserves hw rfl hchanging
    have hrow := dvfsDone_reaches hw hchanging
    refine ⟨fun hcap => act_to (fun d => d.dvfsDone w) hserves ?_, fun hcap => act_to (fun d => d.dvfsDone w) hserves ?_⟩
    · rwa [hcap, if_neg Bool.false_ne_true] at hrow
    · rwa [hcap, if_pos rfl] at hrow
  · rintro s _ d1 d2 m v ws rfl hserves hstate hstill hd1 hd2 hover hws hsome
    have hrow := capMove_slower hstate hstill hd1 hsome hd2 hover hws
    unfold Dev.moveWalls at hrow
    beta_reduce at hrow
    exact act_to (fun d => d.capMove m v) hserves hrow
  · rintro s _ d1 d2 m v ws rfl hserves hstate hstill hd1 hd2 hunder hws hsome
    have hrow := capMove_quicker hstate hstill hd1 hsome hd2 hunder hws
    unfold Dev.moveWalls at hrow
    beta_reduce at hrow
    exact act_to (fun d => d.capMove m v) hserves hrow
  · rintro s _ m v rfl hserves hstate hmoving
    exact act_to (fun d => d.capMove m v) hserves (capMove_waits hstate hmoving)
  · rintro s _ d1 m v rfl hserves hstate hfloor hover hd1
    exact act_to (fun d => d.overCap m v) hserves (overCap_exceeds hstate hfloor hover hd1)
  · rintro s _ m c rfl hserves hhot hfree hstate
    exact act_to (fun d => d.force m c) hserves (if_pos ⟨hhot, by rw [hfree]; rfl, hstate⟩)
  · rintro s _ m c rfl hserves hlow hcool hforced
    exact act_to (fun d => d.forceEnd m c) hserves (if_pos ⟨hlow, hcool, hforced⟩)

/-! ## The recorder and the counters -/

theorem recRound_held {d : Dev} (h : d.fld Fld.REC_CTRL_hold 0 = 1) : d.recRound = d :=
  if_neg fun ⟨_, hfree⟩ => by omega

/-- A round with one bin pending. -/
theorem applyRound_bin {d : Dev} {b n : Nat} (hext : d.meter.ext = []) (hbins : d.meter.bins = [(b, n)]) :
    d.applyRound = (((d.bump Fld.REC_HIST_bin b n).setFld Fld.REC_SEQ_seq 0
      ((d.bump Fld.REC_HIST_bin b n).fldW Fld.REC_SEQ_seq 0 + 2)).withMeter
        { d.meter with bins := [], ext := [], lastRound := d.now }) := by
  have hext' : (d.bump Fld.REC_HIST_bin b n).meter.ext = [] := hext
  simp only [Dev.applyRound, hbins, List.foldl_cons, List.foldl_nil, hext']
  rfl

theorem sample_one {d d1 : Dev} {x : Sample} {v : Int} (hd1 : d1 = d.advanceTo (d.meter.lastSample + 1000000))
    (hv : (d1.withMeter { d1.meter with lastSample := d1.now }).pairValue x = some v) :
    d.sample [x] = { d1 with meter := { d1.meter with
      lastSample := d1.now
      ext := NMap.set d1.meter.ext x.pair (min (NMap.getD d1.meter.ext x.pair (v, v)).1 v, max (NMap.getD d1.meter.ext x.pair (v, v)).2 v) } } := by
  simp only [Dev.sample, ← hd1, List.foldl_cons, List.foldl_nil, hv]
  rfl

section Hold

variable {d : Dev} {src : RegSource} (hmay : d.mayWrite src = true)
include hmay

theorem recHold_set (hfree : d.fld Fld.REC_CTRL_hold 0 = 0) :
    d.recHold src true = (d.setFld Fld.REC_CTRL_hold 0 1).withMeter { d.meter with holdAt := d.now } := by
  simp only [Dev.recHold, hmay, Bool.not_true, Bool.false_eq_true, if_false, hfree, if_true]

theorem recHold_release : d.recHold src false = d.setFld Fld.REC_CTRL_hold 0 0 := by
  simp only [Dev.recHold, hmay, Bool.not_true, Bool.not_false, Bool.false_eq_true, if_false, if_true]

end Hold

theorem count_stopped {d : Dev} (e n : Nat) (a : Attr) (h : d.fld Fld.PMC_CTRL_freeze 0 = 1 ∨ d.fld Fld.PMC_CTRL_enable 0 = 0) :
    d.count e n a = d := by
  have hoff : d.counting = false := by
    rcases h with h | h <;> simp [Dev.counting, h]
  simp only [Dev.count, hoff, Bool.false_eq_true, if_false]

/-- Settles O59: each row of the recorder and of the counters takes the one branch that its clause describes. -/
theorem recorderRuns : Obligations.RecorderRuns := by
  refine ⟨?_, fun d hext b n hbins => applyRound_bin hext hbins, ?_, ?_, ?_, ?_, ?_, ?_, ?_, fun d e n a h => count_stopped e n a h,
    ?_, ?_, ?_⟩
  · rintro s _ _ rfl hserves hpending hfree rfl
    exact act_to Dev.recRound hserves (if_pos ⟨hpending, hfree⟩)
  · rintro s _ rfl hserves hheld
    exact act_to Dev.recRound hserves (recRound_held hheld)
  · rintro s _ _ _ rfl hserves rfl rfl
    exact act_to Dev.windowEnd hserves rfl
  · rintro s _ d1 x v rfl hserves hd1 hv
    exact act_to (fun d => d.sample [x]) hserves (sample_one hd1 hv)
  · rintro s src _ hserves rfl hmay hfree
    exact regRow_to (fun d => d.recHold src true) hserves hmay (recHold_set hmay hfree)
  · rintro s src _ hserves rfl hmay
    exact regRow_to (fun d => d.recHold src false) hserves hmay (recHold_release hmay)
  · rintro s _ rfl hserves hheld
    exact act_to Dev.holdEnd hserves (if_pos hheld)
  · rintro s src v _ hserves rfl hmay
    exact regRow_to (fun d => d.pmcCtrl src v) hserves hmay (if_pos hmay)
  · rintro s p _ _ _ rfl hserves hp rfl rfl
    exact act_to (fun d => d.bwClose p) hserves (if_pos hp)
  · rintro s src v _ _ hserves rfl hmay rfl
    exact regRow_to (fun d => d.bwWrite src v) hserves hmay (if_pos hmay)
  · rintro s p _ _ _ rfl hserves hp hown hon hfull rfl rfl
    exact act_to (fun d => d.mirror p) hserves (if_pos ⟨hp, hown, hon, hfull⟩)

end Sys2Proof.Machine
end

section
/-! PROOF. Set-up registers, lake and tags: the statement on tags fails. -/

namespace Sys2Proof.Machine

/-- A brick whose pond is empty and whose side buffer holds a line. -/
def sidedBrick : Brick := { Brick.fresh with side := [⟨0, []⟩] }

/-- A device whose tags are being invalidated and whose map of bricks lists brick 0 twice: a change of brick 0 reaches the first
entry only. -/
def twinBricks : Dev :=
  { State.reset.dev with mem := { State.reset.dev.mem with tagInit := true }, bricks := [(0, sidedBrick), (0, sidedBrick)] }

theorem twinBricks_keeps_side : twinBricks.tagsDone.bricks.any (fun e => !e.2.side.isEmpty) = true := by decide +kernel

/-- Refutes O58: its clause on the end of a tag invalidation speaks of every device, and on one whose map lists brick 0 twice the
second entry keeps its side buffer. -/
theorem not_registersAct : ¬ Obligations.RegistersAct := by
  rintro ⟨-, -, -, -, htags, -⟩
  obtain ⟨-, -, -, -, hbricks⟩ := htags twinBricks rfl
  obtain ⟨e, he, hside⟩ := List.any_eq_true.1 twinBricks_keeps_side
  obtain ⟨-, hempty⟩ := hbricks e he
  simp [hempty] at hside

end Sys2Proof.Machine
end

section
/-! PROOF. Memory instructions of one lane (R80 to R89, R231 to R237): how a block is found and changed, and how an instruction of a
lane begins, runs and ends. -/

namespace Sys2Proof.Machine

/-! ## Resident blocks -/

theorem NMap.find?_set_present {α : Type} {p : Nat × α → Bool} {k : Nat} {v w : α} (hw : p (k, w) = true) :
    ∀ {m : NMap α}, NMap.rising m = true → m.find? p = some (k, v) → (NMap.set m k w).find? p = some (k, w) := by
  intro m hrising hfind
  induction m with
  | nil => simp at hfind
  | cons e t ih =>
    obtain ⟨k', v'⟩ := e
    obtain ⟨hlow, ht⟩ := NMap.rising_cons.1 hrising
    rw [List.find?_cons] at hfind
    cases hp : p (k', v') with
    | true =>
      rw [hp] at hfind
      obtain ⟨rfl, -⟩ := Prod.mk.inj (Option.some.inj hfind)
      simp [NMap.set, hw]
    | false =>
      rw [hp] at hfind
      have hk : k' < k := hlow _ (List.mem_of_find?_eq_some hfind)
      simp [NMap.set, Nat.not_lt.2 hk.le, hk.ne', hp, ih ht hfind]

theorem NMap.get?_of_mem {α : Type} {k : Nat} {v : α} : ∀ {m : NMap α}, NMap.rising m = true → (k, v) ∈ m → NMap.get? m k = some v := by
  intro m hrising hmem
  induction m with
  | nil => cases hmem
  | cons e t ih =>
    obtain ⟨k', v'⟩ := e
    obtain ⟨hlow, ht⟩ := NMap.rising_cons.1 hrising
    rcases List.mem_cons.1 hmem with h | h
    · obtain ⟨rfl, rfl⟩ := Prod.mk.inj h
      simp [NMap.get?]
    · have hk : k' < k := hlow _ h
      simp [NMap.get?, hk.ne, ih ht h]

theorem findBlock_isRef {d : Dev} {r : BlockRef} {n : Nat} {b : Block} (h : d.findBlock r = some (n, b)) : b.isRef r = true := by
  unfold Dev.findBlock at h
  split at h
  · next e _ =>
    obtain ⟨b', hb', hpair⟩ := Option.map_eq_some_iff.1 h
    obtain ⟨-, rfl⟩ := Prod.mk.inj hpair
    simpa using List.find?_some hb'
  · cases h

theorem findBlock_bref {d : Dev} {r : BlockRef} {n : Nat} {b : Block} (h : d.findBlock r = some (n, b)) : b.bref = r := by
  have href := findBlock_isRef h
  simp only [Block.isRef, Bool.and_eq_true, decide_eq_true_eq] at href
  obtain ⟨⟨hring, hserial⟩, hindex⟩ := href
  rw [Block.bref, hring, hserial, hindex]

/-- A change of blocks that keeps their references. -/
def KeepsRef (f : Block → Block) : Prop := ∀ b r, (f b).isRef r = b.isRef r

theorem find?_map_block {r : BlockRef} {f : Block → Block} {b : Block} (hf : KeepsRef f) :
    ∀ {l : List Block}, l.find? (fun x => x.isRef r) = some b →
      (l.map (fun x => if x.isRef r then f x else x)).find? (fun x => x.isRef r) = some (f b) := by
  intro l h
  induction l with
  | nil => simp at h
  | cons x t ih =>
    rw [List.find?_cons] at h
    cases hx : x.isRef r with
    | true =>
      rw [hx] at h
      obtain rfl := Option.some.inj h
      simp [hx, hf x r]
    | false =>
      rw [hx] at h
      simp [hx, ih h]

theorem findBlock_modBlock {d : Dev} {r : BlockRef} {n : Nat} {b : Block} {f : Block → Block} (hf : KeepsRef f)
    (hrising : NMap.rising d.bricks = true) (h : d.findBlock r = some (n, b)) :
    (d.modBlock n r f).findBlock r = some (n, f b) := by
  rw [Dev.findBlock] at h
  split at h
  · next e he =>
    obtain ⟨b', hb', hpair⟩ := Option.map_eq_some_iff.1 h
    obtain ⟨rfl, rfl⟩ := Prod.mk.inj hpair
    have hbrick : d.brick e.1 = e.2 := by
      rw [Dev.brick, NMap.getD, NMap.get?_of_mem hrising (List.mem_of_find?_eq_some he), Option.getD_some]
    have hfound := find?_map_block hf hb'
    have hany : (e.2.blocks.map (fun x => if x.isRef r then f x else x)).any (fun x => x.isRef r) = true :=
      List.any_eq_true.2 ⟨_, List.mem_of_find?_eq_some hfound, by simpa using List.find?_some (p := fun x : Block => x.isRef r) hfound⟩
    have hset := NMap.find?_set_present (p := fun (e : Nat × Brick) => e.2.blocks.any (fun b => b.isRef r)) (k := e.1)
      (w := { e.2 with blocks := e.2.blocks.map (fun x => if x.isRef r then f x else x) }) hany hrising he
    simp only [Dev.findBlock, Dev.modBlock, Dev.modBrick, Dev.setBrick, hbrick, hset, hfound, Option.map_some]
  · cases h

theorem modBlock_modBlock {d : Dev} {r : BlockRef} {n : Nat} {f g : Block → Block} (hf : KeepsRef f) :
    (d.modBlock n r f).modBlock n r g = d.modBlock n r (g ∘ f) := by
  have hstep : (fun x : Block => if x.isRef r then g x else x) ∘ (fun x => if x.isRef r then f x else x)
      = fun x => if x.isRef r then (g ∘ f) x else x := by
    funext x
    cases hx : x.isRef r <;> simp [hx, hf x r]
  simp only [Dev.modBlock, Dev.modBrick, Dev.setBrick_brick, List.map_map, hstep]
  simp only [Dev.setBrick, NMap.set_set]

/-! ## Instructions in progress -/

/-- A block with one lane of an instruction replaced. -/
def Block.setLane (id thread : Nat) (l : LaneRun) (b : Block) : Block :=
  { b with paths := b.paths.map (fun p => if p.id = id then
    { p with lanes := p.lanes.map (fun x => if x.thread = thread then l else x) } else p) }

/-- A block without an instruction. -/
def Block.dropPath (id : Nat) (b : Block) : Block := { b with paths := b.paths.filter (fun p => p.id ≠ id) }

theorem keepsRef_setLane (id thread : Nat) (l : LaneRun) : KeepsRef (Block.setLane id thread l) := fun _ _ => rfl

theorem keepsRef_withPath (p : PathRun) : KeepsRef (fun b => b.withPath p) := fun _ _ => rfl

theorem dropPath_setLane (id thread : Nat) (l : LaneRun) : Block.dropPath id ∘ Block.setLane id thread l = Block.dropPath id := by
  funext b
  have hpaths : ∀ ps : List PathRun, (ps.map (fun p => if p.id = id then
      { p with lanes := p.lanes.map (fun x => if x.thread = thread then l else x) } else p)).filter (fun p => p.id ≠ id)
        = ps.filter (fun p => p.id ≠ id) := by
    intro ps
    induction ps with
    | nil => rfl
    | cons p t ih =>
      by_cases hp : p.id = id
      · simpa [hp] using ih
      · simpa [hp] using ih
  simp only [Function.comp_apply, Block.dropPath, Block.setLane, hpaths]

/-- A new instruction is found by its number. -/
theorem find?_withPath {b : Block} {p : PathRun} (h : b.numbered) (hid : p.id = b.pathNo) :
    (b.withPath p).paths.find? (fun q => q.id = b.pathNo) = some p := by
  have hold : b.paths.find? (fun q => q.id = b.pathNo) = none :=
    List.find?_eq_none.2 fun q hq => by simpa using Nat.ne_of_lt (h q hq)
  rw [Block.withPath, List.find?_append, hold, Option.none_or, List.find?_singleton, if_pos (by simpa using hid)]

/-- With its one lane replaced the new instruction is found all the same. -/
theorem find?_setLane {b : Block} {p : PathRun} {l l2 : LaneRun} (h : b.numbered) (hid : p.id = b.pathNo) (hlanes : p.lanes = [l]) :
    ((b.withPath p).setLane b.pathNo l.thread l2).paths.find? (fun q => q.id = b.pathNo) = some { p with lanes := [l2] } := by
  have hold : b.paths.find? ((fun q => decide (q.id = b.pathNo)) ∘ (fun p => if p.id = b.pathNo then
      { p with lanes := p.lanes.map (fun x => if x.thread = l.thread then l2 else x) } else p)) = none :=
    List.find?_eq_none.2 fun q hq => by simp [Nat.ne_of_lt (h q hq)]
  rw [Block.setLane, Block.withPath, List.map_append, List.find?_append, List.find?_map, hold]
  simp [hid, hlanes]

/-! ## Running an instruction -/

/-- A block whose instructions run: it has not exited, and no PREEMPT saves it. -/
def Dev.Goes (d : Dev) (b : Block) : Prop := b.done = false ∧ ((d.ring b.ring).saving && b.stage = .compute) = false

theorem withBlock_found {d : Dev} {n : Nat} {b : Block} (f : Nat → Block → Dev) (hfind : d.findBlock b.bref = some (n, b))
    (hgoes : d.Goes b) : d.withBlock b.bref f = f n b := by
  obtain ⟨hdone, hsaving⟩ := hgoes
  have hstop : (b.done || ((d.ring b.bref.ring).saving && b.stage = .compute)) = false := by
    rw [hdone, Bool.false_or]
    exact hsaving
  simp only [Dev.withBlock, hfind, hstop, Bool.false_eq_true, if_false]

/-- A new instruction runs: each of its lanes in turn, and then it ends where it can. -/
theorem startPath_runs {d d1 : Dev} {n : Nat} {b : Block} {cls : StorageClass} {op : PathOp} {size : Nat} {lanes : List LaneRun}
    {p : PathRun} (hp : p = ⟨b.pathNo, cls, op, size, none, lanes⟩) (hd1 : d1 = d.modBlock n b.bref (fun b => b.withPath p))
    (hholds : d1.Holds n (b.withPath p)) (hnumbered : b.numbered) (hgoes : d.Goes b) :
    d.startPath n b cls op size lanes =
      (((lanes.map (·.thread)).foldl (fun d t => d.runLane b.bref b.pathNo t) d1).finishPath b.bref b.pathNo).endFaulted b.ring
        b.serial := by
  have hgoes1 : d1.Goes (b.withPath p) := by
    rw [hd1]
    exact hgoes
  have hrun : d.startPath n b cls op size lanes = d1.runPath b.bref b.pathNo := by
    rw [hd1, hp]
    rfl
  have hfound := find?_withPath hnumbered (show p.id = b.pathNo by rw [hp])
  rw [hrun, Dev.runPath]
  refine (withBlock_found (b := b.withPath p) _ hholds.2 hgoes1).trans ?_
  simp only [hfound]
  rw [hp]
  rfl

/-- One lane of the new instruction is carried on. -/
theorem runLane_withPath {d d2 : Dev} {n : Nat} {b : Block} {p : PathRun} {l l2 : LaneRun} (hid : p.id = b.pathNo)
    (hremote : p.remote = none) (hlanes : p.lanes = [l]) (hnumbered : b.numbered) (hholds : d.Holds n (b.withPath p))
    (hlane : Dev.laneOn ⟨n, b.withPath p, d.blockReq n (b.withPath p) engBrick .none, b.pathNo, p.size, l.thread⟩ p.op
      (((d.cmd? b.ring b.serial).map Cmd.ownRanges).getD []) 64 d l = (d2, l2)) :
    d.runLane b.bref b.pathNo l.thread = d2.modBlock n b.bref (Block.setLane b.pathNo l.thread l2) := by
  have hfind : d.findBlock b.bref = some (n, b.withPath p) := hholds.2
  have hfound := find?_withPath hnumbered hid
  have hthread : p.lanes.find? (fun x => x.thread = l.thread) = some l := by simp [hlanes]
  have hlane' : Dev.laneOn ⟨n, b.withPath p, d.blockReq n (b.withPath p) engBrick .none, b.pathNo, p.size, l.thread⟩ p.op
      (((d.cmd? b.bref.ring b.bref.serial).map Cmd.ownRanges).getD []) 64 d l = (d2, l2) := hlane
  simp only [Dev.runLane, hfind, hfound, hthread, hremote, hlane']
  rfl

/-- An instruction of one lane is complete: it leaves its block, and the lane gets its value. -/
theorem finishPath_one {d : Dev} {n : Nat} {b : Block} {r : BlockRef} {id : Nat} {p : PathRun} {l : LaneRun}
    (hfind : d.findBlock r = some (n, b)) (hfound : b.paths.find? (fun q => q.id = id) = some p) (hlanes : p.lanes = [l])
    (himage : l.image = none) (hdone : ∀ x ∈ l.parts, x.state = .done) :
    d.finishPath r id = match l.result p.op with
      | some v => (d.modBlock n r (Block.dropPath id)).give n r l.thread v
      | none => d.modBlock n r (Block.dropPath id) := by
  have hcomplete : p.complete = true := by
    simp only [PathRun.complete, hlanes, List.all_cons, List.all_nil, himage, Option.isNone_none, Bool.true_and, Bool.and_true,
      List.all_eq_true, decide_eq_true_eq]
    exact hdone
  simp only [Dev.finishPath, hfind, hfound, hcomplete, if_true, hlanes, List.foldl_cons, List.foldl_nil]
  rfl

/-- An instruction of one lane whose requests are complete at once ends at once. -/
theorem startPath_ends {d0 d d2 : Dev} {n : Nat} {b : Block} {cls : StorageClass} {op : PathOp} {size : Nat} {l l2 : LaneRun} {y : LaneAt}
    (hnumbered : b.numbered) (hgoes : d0.Goes b) (hone : d0.oneLane n b cls op size l = (d, y)) (hholds : d.Holds n y.block)
    (hlane : Dev.laneOn y op (((d.cmd? b.ring b.serial).map Cmd.ownRanges).getD []) 64 d l = (d2, l2)) (hholds2 : d2.Holds n y.block)
    (himage : l2.image = none) (hdone : ∀ p ∈ l2.parts, p.state = .done) (hthread : l2.thread = l.thread) :
    d0.startPath n b cls op size [l] = d2.laneEnds y (l2.result op) := by
  obtain ⟨rfl, rfl⟩ := Prod.mk.inj hone
  have hrun := startPath_runs (lanes := [l]) rfl rfl hholds hnumbered hgoes
  have hlaneRun := runLane_withPath rfl rfl rfl hnumbered hholds hlane
  have hfind := findBlock_modBlock (keepsRef_setLane b.pathNo l.thread l2) hholds2.1 hholds2.2
  have hfound := find?_setLane (l2 := l2) hnumbered (p := ⟨b.pathNo, cls, op, size, none, [l]⟩) rfl rfl
  have hends := finishPath_one hfind hfound rfl himage hdone
  rw [modBlock_modBlock (keepsRef_setLane _ _ _), dropPath_setLane, hthread] at hends
  rw [hrun]
  simp only [List.map_cons, List.map_nil, List.foldl_cons, List.foldl_nil]
  rw [hlaneRun]
  refine Eq.trans (congrArg (fun d : Dev => d.endFaulted b.ring b.serial) hends) ?_
  cases l2.result op <;> rfl

end Sys2Proof.Machine
end

section
/-! PROOF. Loads and stores of lanes (R80, R81, R172 to R174, R231 to R237). -/

namespace Sys2Proof.Machine

/-! ## A request of one part, performed here -/

theorem slice_self (bs : Bytes) : slice bs 0 bs.length = bs := by simp [slice]

/-- A part that lies in one page stays as it is. -/
theorem cut_self {p : PartRun} (h : p.len ≤ p.data.length) : p.cut p.va p.len = p := by
  have hlength : (if p.data.length > p.len then p.data.length else p.len) = p.data.length := by
    split <;> omega
  simp only [PartRun.cut, hlength, BitVec.sub_self, BitVec.toNat_ofNat, Nat.zero_mod, slice_self]

/-- A part that is done on this device, with the bytes it has. -/
def PartRun.ended (p : PartRun) (bs : Bytes) : PartRun := { p with data := bs, issued := p.len, state := .done }

/-- A request of one part that is performed at once, no image access: its part is done, and no fault is recorded. -/
theorem tryParts_here {d d1 d2 : Dev} {x : LaneAt} {op : PathOp} {atom : Option LaneAtomic} {p q : PartRun} {leaf : Wide} {a : Nat}
    (htodo : p.state = .todo) (hissued : p.issued = 0) (hlen : p.len ≤ p.data.length)
    (hplace : PartHere d x op.access p.va p.len d1 leaf a) (hpart : d1.herePart x op atom p leaf a = (d2, q)) :
    d.tryParts x op atom [p] = (d2, [q]) := by
  obtain ⟨level, hsplit, hhere, hallowed⟩ := hplace
  have hpages : d.partPages x op.access p = (d1, [(p, .ok leaf level)]) := by
    simp only [Dev.partPages, hissued, Nat.lt_irrefl, if_false, hsplit, List.map_cons, List.map_nil, cut_self hlen]
  have htry : d1.tryPart x op atom p (.ok leaf level) = (d2, q, none) := by
    simp only [Dev.tryPart, hhere, hallowed, Bool.false_eq_true, if_false, hpart]
  simp only [Dev.tryParts, List.foldl_cons, List.foldl_nil, htodo, ne_eq, not_true_eq_false, if_false, hpages, htry, List.nil_append,
    List.map_cons, List.map_nil]

theorem laneOn_here {d d1 d2 : Dev} {x : LaneAt} {op : PathOp} {own : List (Nat × Nat)} {l : LaneRun} {p q : PartRun} {leaf : Wide}
    {a : Nat} (himage : l.image = none) (hparts : l.parts = [p]) (htodo : p.state = .todo) (hissued : p.issued = 0)
    (hlen : p.len ≤ p.data.length) (hplace : PartHere d x op.access p.va p.len d1 leaf a)
    (hpart : d1.herePart x op l.atom p leaf a = (d2, q)) :
    Dev.laneOn x op own 64 d l = (d2, { l with parts := [q] }) := by
  have hdoes : l.does op = op := by simp [LaneRun.does, himage]
  have htry : d.tryParts x (l.does op) l.atom l.parts = (d2, [q]) := by
    rw [hdoes, hparts]
    exact tryParts_here htodo hissued hlen hplace hpart
  rw [Dev.laneOn]
  simp only [htry, himage]

theorem herePart_load {d d2 : Dev} {x : LaneAt} {atom : Option LaneAtomic} {p : PartRun} {leaf : Wide} {a : Nat} {bs : Bytes}
    (h : d.hereLoad x leaf a p.len = (d2, .ok, bs)) : d.herePart x .load atom p leaf a = (d2, p.ended bs) := by
  simp only [Dev.herePart, h]
  rfl

theorem herePart_store {d d2 : Dev} {x : LaneAt} {atom : Option LaneAtomic} {p : PartRun} {leaf : Wide} {a : Nat}
    (h : d.hereStore x leaf a p.data = (d2, .ok)) : d.herePart x .store atom p leaf a = (d2, p.ended p.data) := by
  simp only [Dev.herePart, h]
  rfl

/-! ## Lanes as they begin -/

theorem together_one {b : Block} {t : Nat} (h : b.runs t = true) : b.together [t] = true := by
  simp [Block.together, h, List.eraseDups_cons]

theorem freshen_one {α β : Type} (d : Dev) (l : α) (f : α → Nat → β) : d.freshen [l] f = (d.fresh.2, [f l d.freeCtr]) := rfl

theorem freshen_ring {α β : Type} (d : Dev) (l : List α) (f : α → Nat → β) (r : Nat) : (d.freshen l f).1.ring r = d.ring r := by
  simp only [Dev.freshen]
  induction l generalizing d with
  | nil => rfl
  | cons x t ih => exact ih d.fresh.2

/-- A block that runs goes on where the device's rings are the same. -/
theorem resident_goes {s : State} {r : BlockRef} {n : Nat} {b : Block} {d : Dev} (h : Resident s r n b)
    (hring : d.ring b.ring = s.dev.ring b.ring) : d.Goes b := by
  obtain ⟨-, hfind, hdone, hsaving⟩ := h
  rw [← findBlock_bref hfind] at hsaving
  exact ⟨hdone, by rw [hring]; exact hsaving⟩

theorem accessLane_part {l : LaneAccess} {store : Bool} {size free : Nat} (himage : l.image = none) (hsize : size ≠ 0) :
    (accessLane l store size free).parts = [if store then .fresh l.addr size l.data else .reading l.addr size] := by
  simp [accessLane, himage, hsize]

/-- KERNEL_LOAD_STORE to memory or an image begins an instruction of the lanes that act. -/
theorem loadStore_memory {s : State} {n : Nat} {b : Block} {x : PathAccess} (hres : Resident s x.ref n b)
    (htogether : b.together (x.lanes.map (·.thread)) = true) (hformed : accessFormed x = true)
    (hcls : x.cls ∈ [StorageClass.buffer, .physical, .image]) (hevict : x.evict = none) :
    exec (.kernelLoadStore x) s = .next (s.withDev (s.dev.memoryAccess n b x)) := by
  refine act_to (fun d => d.loadStore x) hres.1 (block_to _ hres ?_)
  simp only [htogether, hformed, Bool.and_self, if_true, hevict]
  have hclass : x.cls = .buffer ∨ x.cls = .physical ∨ x.cls = .image := by simpa using hcls
  rcases hclass with h | h | h <;> simp only [h]

/-- KERNEL_LOAD_STORE of one lane to memory or an image. -/
theorem loadStore_one {s : State} {n : Nat} {b : Block} {x : PathAccess} {l : LaneAccess} {op : PathOp} (hres : Resident s x.ref n b)
    (hlanes : x.lanes = [l]) (hruns : b.runs l.thread = true) (hacts : x.store = true → b.acting l.thread = true)
    (hformed : accessFormed x = true) (hcls : x.cls ∈ [StorageClass.buffer, .physical, .image]) (hevict : x.evict = none)
    (hop : op = if x.store then .store else .load) :
    exec (.kernelLoadStore x) s = .next (s.withDev
      (s.dev.fresh.2.startPath n b x.cls op x.size [accessLane l x.store x.size s.dev.freeCtr])) := by
  rw [loadStore_memory hres (by rw [hlanes]; exact together_one hruns) hformed hcls hevict, Dev.memoryAccess, ← hop]
  have hact : x.lanes.filter (fun l => !x.store || b.acting l.thread) = [l] := by
    rw [hlanes, List.filter_cons_of_pos, List.filter_nil]
    cases hstore : x.store with
    | false => rfl
    | true => simpa using hacts hstore
  rw [hact, freshen_one]

theorem accessFormed_one {x : PathAccess} {l : LaneAccess} (hlanes : x.lanes = [l]) (himage : l.image = none)
    (hcls : x.cls ∈ [StorageClass.buffer, .physical]) (hdata : x.store = true → l.data.length = x.size) : accessFormed x = true := by
  have hclass : x.cls ≠ .image := by
    rintro h
    simp [h] at hcls
  cases hstore : x.store with
  | false => simp [accessFormed, hlanes, himage, hclass, hstore]
  | true => simp [accessFormed, hlanes, himage, hclass, hdata hstore]

theorem mem_memoryClasses {c : StorageClass} (h : c ∈ [StorageClass.buffer, .physical]) : c ∈ [StorageClass.buffer, .physical, .image] := by
  simp only [List.mem_cons, List.not_mem_nil, or_false] at h ⊢
  exact h.elim .inl fun h => .inr (.inl h)

/-! ## The statement -/

theorem loadStore_workgroup {s : State} {n : Nat} {b : Block} {x : PathAccess} (hres : Resident s x.ref n b)
    (htogether : b.together (x.lanes.map (·.thread)) = true) (hcls : x.cls = .workgroup) (hevict : x.evict = none)
    (hlanes : ∀ l ∈ x.lanes, l.image = none ∧ l.addr.toNat + x.size ≤ b.lsBytes ∧ (x.store = true → l.data.length = x.size)) :
    exec (.kernelLoadStore x) s = .next (s.withDev (x.lanes.foldl (fun d l =>
      if x.store then d.modBrick n (fun y => { y with ls := y.ls.write (b.lsBase + l.addr.toNat) l.data })
      else d.give n b.bref l.thread (laneWords ((d.brick n).ls.read (b.lsBase + l.addr.toNat) x.size))) s.dev)) := by
  have hformed : accessFormed x = true := by
    simp only [accessFormed, List.all_eq_true]
    intro l hl
    obtain ⟨himage, -, hdata⟩ := hlanes l hl
    cases hstore : x.store with
    | false => simp [himage, hcls]
    | true => simp [himage, hcls, hdata hstore]
  refine act_to (fun d => d.loadStore x) hres.1 (block_to _ hres ?_)
  simp only [htogether, hformed, Bool.and_self, if_true, hevict, hcls]
  refine List.foldl_ext _ _ _ fun d l hl => ?_
  obtain ⟨-, hfits, -⟩ := hlanes l hl
  simp only [Dev.localAccess, hfits, decide_true, if_true, Dev.lsWrite, Dev.lsRead]

theorem loadStore_load_here {s : State} {n : Nat} {b : Block} {x : PathAccess} {l : LaneAccess} {d : Dev} {y : LaneAt} {d1 : Dev}
    {leaf : Wide} {a : Nat} {d2 : Dev} {bs : Bytes} (hres : Resident s x.ref n b) (hnumbered : b.numbered) (hlanes : x.lanes = [l])
    (hruns : b.runs l.thread = true) (hcls : x.cls ∈ [StorageClass.buffer, .physical]) (hevict : x.evict = none)
    (hstore : x.store = false) (hsize : x.size ≠ 0) (himage : l.image = none)
    (hone : s.dev.fresh.2.oneLane n b x.cls .load x.size (accessLane l false x.size s.dev.freeCtr) = (d, y))
    (hholds : d.Holds n y.block) (hplace : PartHere d y accRead l.addr x.size d1 leaf a)
    (hload : d1.hereLoad y leaf a x.size = (d2, .ok, bs)) (hholds2 : d2.Holds n y.block) :
    exec (.kernelLoadStore x) s = .next (s.withDev (d2.laneEnds y (some (laneWords bs)))) := by
  have hformed := accessFormed_one hlanes himage hcls (by simp [hstore])
  have hlane := laneOn_here (op := .load) (own := (((d.cmd? b.ring b.serial).map Cmd.ownRanges).getD [])) himage
    (accessLane_part (store := false) (free := s.dev.freeCtr) himage hsize) rfl rfl
    (by simp [PartRun.reading, PartRun.fresh]) hplace (herePart_load (p := PartRun.reading l.addr x.size) hload)
  rw [loadStore_one (op := .load) hres hlanes hruns (by simp [hstore]) hformed (mem_memoryClasses hcls) hevict (by simp [hstore]),
    hstore, startPath_ends hnumbered (resident_goes (d := s.dev.fresh.2) hres rfl) hone hholds hlane hholds2 himage (by simp [PartRun.ended]) rfl]
  simp [LaneRun.result, PartRun.ended, accessLane]

theorem loadStore_store_here {s : State} {n : Nat} {b : Block} {x : PathAccess} {l : LaneAccess} {d : Dev} {y : LaneAt} {d1 : Dev}
    {leaf : Wide} {a : Nat} {d2 : Dev} (hres : Resident s x.ref n b) (hnumbered : b.numbered) (hlanes : x.lanes = [l])
    (hruns : b.runs l.thread = true) (hacts : b.acting l.thread = true) (hcls : x.cls ∈ [StorageClass.buffer, .physical])
    (hevict : x.evict = none) (hstore : x.store = true) (hsize : x.size ≠ 0) (hdata : l.data.length = x.size) (himage : l.image = none)
    (hone : s.dev.fresh.2.oneLane n b x.cls .store x.size (accessLane l true x.size s.dev.freeCtr) = (d, y))
    (hholds : d.Holds n y.block) (hplace : PartHere d y accWrite l.addr x.size d1 leaf a)
    (hwrite : d1.hereStore y leaf a l.data = (d2, .ok)) (hholds2 : d2.Holds n y.block) :
    exec (.kernelLoadStore x) s = .next (s.withDev (d2.laneEnds y none)) := by
  have hformed := accessFormed_one hlanes himage hcls fun _ => hdata
  have hlane := laneOn_here (op := .store) (own := (((d.cmd? b.ring b.serial).map Cmd.ownRanges).getD [])) himage
    (accessLane_part (store := true) (free := s.dev.freeCtr) himage hsize) rfl rfl
    hdata.ge hplace (herePart_store (p := PartRun.fresh l.addr x.size l.data) hwrite)
  rw [loadStore_one (op := .store) hres hlanes hruns (fun _ => hacts) hformed (mem_memoryClasses hcls) hevict (by simp [hstore]),
    hstore, startPath_ends hnumbered (resident_goes (d := s.dev.fresh.2) hres rfl) hone hholds hlane hholds2 himage (by simp [PartRun.ended]) rfl]
  rfl

theorem access_bad {e : TexEnv} {g : ImageArgs} {op : PathOp} {ws : List Word} {ib : Bytes} (hbytes : e.bytes g.desc 32 = .ok ib)
    (hbad : (imageD ib).ok = false) : e.access g op ws = .ok .bad := by
  simp [TexEnv.access, hbytes, hbad, bind, Except.bind, pure, Except.pure]

theorem access_load {e : TexEnv} {g : ImageArgs} {ws : List Word} {ib : Bytes} {t : Bytes × List (Wide × Nat)}
    (hbytes : e.bytes g.desc 32 = .ok ib) (hok : (imageD ib).ok = true) (hsampler : g.sampler = none)
    (hhas : (imageD ib).has g.x g.y g.layer g.level g.sample = true)
    (htexel : e.texel (imageD ib) g.x g.y g.layer g.level g.sample = .ok t) :
    e.access g .load ws = .ok (.value ((imageD ib).load t.1) t.2) := by
  simp [TexEnv.access, hbytes, hok, hsampler, hhas, htexel, bind, Except.bind, pure, Except.pure]

theorem access_store_beyond {e : TexEnv} {g : ImageArgs} {ws : List Word} {ib : Bytes} (hbytes : e.bytes g.desc 32 = .ok ib)
    (hok : (imageD ib).ok = true) (hhas : (imageD ib).has g.x g.y g.layer g.level g.sample = false) :
    e.access g .store ws = .ok .nothing := by
  simp [TexEnv.access, hbytes, hok, hhas, bind, Except.bind, pure, Except.pure]

/-- Settles O22: a lane's request in one page is one part, which is performed and done at once, so that the instruction ends; any
other instruction runs lane by lane from where it begins. -/
theorem lanesLoadAndStore : Obligations.LanesLoadAndStore := by
  refine ⟨fun _ _ _ _ => loadStore_workgroup, fun _ _ _ _ _ _ _ _ _ _ _ _ => loadStore_load_here,
    fun _ _ _ _ _ _ _ _ _ _ _ => loadStore_store_here, ?_, ?_, fun _ _ _ _ _ => access_bad, ?_, fun _ _ _ _ _ => access_load,
    fun _ _ _ _ => access_store_beyond⟩
  · intro s n b x d f op p hres htogether hformed hcls hevict hop hfresh hp hholds hnumbered
    have hring : d.ring b.ring = s.dev.ring b.ring := by
      rw [← freshen_ring s.dev _ (fun l k => accessLane l x.store x.size k) b.ring, hfresh]
    rw [loadStore_memory hres htogether hformed hcls hevict, Dev.memoryAccess, hfresh, ← hop]
    exact congrArg (fun d => Host.Outcome.next (s.withDev d)) (startPath_runs hp rfl hholds hnumbered (resident_goes hres hring))
  · intro s n b x l op d y d2 l2 hres hnumbered hlanes hruns hacts hformed hcls hevict hop hone hholds hlane hholds2 himage hdone hthread
    rw [loadStore_one hres hlanes hruns (fun _ => hacts) hformed (by simp [hcls]) hevict hop, hcls,
      startPath_ends hnumbered (resident_goes (d := s.dev.fresh.2) hres rfl) hone hholds hlane hholds2 himage hdone hthread]
  · intro d y l
    simp only [Dev.imageEnds]

end Sys2Proof.Machine
end

section
/-! PROOF. Atomics of lanes (R64, R84 to R88). -/

namespace Sys2Proof.Machine

/-- Every atomic instruction is one row, with its operation and operands. -/
theorem exec_atomic {s : State} {i : Instr} {op : AtomOp} {x : AtomicArgs} (h : atomicOf i = some (op, x)) :
    exec i s = s.act (fun d => d.atomicRow op x) := by
  cases i <;> simp only [atomicOf, Option.some.injEq, Prod.mk.injEq, reduceCtorEq] at h <;> obtain ⟨rfl, rfl⟩ := h <;> rfl

/-- The checks of an atomic instruction that precede the one on alignment (R84, R85). -/
def atomicFormed (op : AtomOp) (x : AtomicArgs) (b : Block) : Prop :=
  b.together (x.lanes.map (·.thread)) = true ∧ op.sizeOk x.size = true ∧
    (∀ l ∈ x.lanes, l.image.isSome = decide (x.cls = .image)) ∧ (x.cls = .image → x.size = 4 ∧ op ≠ .fadd)

theorem atomicFormed_iff {op : AtomOp} {x : AtomicArgs} {b : Block} :
    (b.together (x.lanes.map (·.thread)) && op.sizeOk x.size && x.lanes.all (fun l => l.image.isSome = decide (x.cls = .image)) &&
      (!decide (x.cls = .image) || (x.size = 4 && op ≠ .fadd))) = true ↔ atomicFormed op x b := by
  simp only [atomicFormed, Bool.and_eq_true, List.all_eq_true, decide_eq_true_eq, Bool.or_eq_true, Bool.not_eq_true',
    decide_eq_false_iff_not, and_assoc, or_iff_not_imp_left, not_not]

/-- An atomic of one lane passes the checks: away from images, or on an image with its operand size and operation. -/
theorem atomicFormed_one {op : AtomOp} {x : AtomicArgs} {b : Block} {l : LaneAtomic} (hlanes : x.lanes = [l])
    (hruns : b.runs l.thread = true) (hsize : op.sizeOk x.size = true) (himage : l.image.isSome = decide (x.cls = .image))
    (hkind : x.cls = .image → x.size = 4 ∧ op ≠ .fadd) : atomicFormed op x b := by
  refine ⟨?_, hsize, ?_, hkind⟩
  · rw [hlanes]
    exact together_one hruns
  · simpa [hlanes] using himage

/-- One misaligned address among the lanes' ends the dispatch, with nothing written (R86). -/
theorem atomic_misaligned {s : State} {i : Instr} {op : AtomOp} {x : AtomicArgs} {n : Nat} {b : Block}
    (hrow : atomicOf i = some (op, x)) (hres : Resident s x.ref n b) (hformed : atomicFormed op x b) (hcls : x.cls ≠ .image)
    (hbad : ∃ l ∈ x.lanes, l.addr.toNat % x.size ≠ 0) :
    exec i s = .next (s.withDev (s.dev.endDispatch b.ring b.serial Sts.misalignedAtomic b.index n)) := by
  rw [exec_atomic hrow]
  refine act_to (fun d => d.atomicRow op x) hres.1 (block_to _ hres ?_)
  have hany : (x.lanes.any (fun l => l.addr.toNat % x.size ≠ 0) && !decide (x.cls = .image)) = true := by
    simpa [hcls] using hbad
  simp only [atomicFormed_iff.2 hformed, hany, if_true, Dev.endByBlock]

/-- What an atomic of one acting lane does once the checks hold (R64, R84, R85). -/
def Dev.oneAtomic (d : Dev) (n : Nat) (b : Block) (op : AtomOp) (x : AtomicArgs) (l : LaneAtomic) : Dev :=
  let onLocal := fun (cluster : Bool) =>
    let r := d.atomicLocal n b cluster x.size op l
    if op = .store then r.1 else r.1.give n b.bref l.thread (atomValue x.size r.2)
  match x.cls with
  | .workgroup => onLocal false
  | .clusterLocal => onLocal true
  | .buffer | .physical | .image => d.fresh.2.startPath n b x.cls (.atomic op) x.size [atomicLane l x.size d.freeCtr]
  | _ => d

theorem atomic_one {s : State} {i : Instr} {op : AtomOp} {x : AtomicArgs} {n : Nat} {b : Block} {l : LaneAtomic}
    (hrow : atomicOf i = some (op, x)) (hres : Resident s x.ref n b) (hlanes : x.lanes = [l]) (hacts : b.acting l.thread = true)
    (hformed : atomicFormed op x b) (haligned : x.cls ≠ .image → l.addr.toNat % x.size = 0) :
    exec i s = .next (s.withDev (s.dev.oneAtomic n b op x l)) := by
  rw [exec_atomic hrow]
  refine act_to (fun d => d.atomicRow op x) hres.1 (block_to _ hres ?_)
  have hnone : (x.lanes.any (fun l => l.addr.toNat % x.size ≠ 0) && !decide (x.cls = .image)) = false := by
    by_cases himage : x.cls = .image
    · simp [himage]
    · simp [hlanes, haligned himage]
  have hhelpers : x.lanes.filter (fun l => !b.acting l.thread) = [] := by simp [hlanes, hacts]
  have hacting : x.lanes.filter (fun l => b.acting l.thread) = [l] := by simp [hlanes, hacts]
  simp only [atomicFormed_iff.2 hformed, hnone, if_true, Bool.false_eq_true, if_false, hhelpers, hacting, List.foldl_nil,
    List.foldl_cons, freshen_one]
  rfl

/-- The local store of an atomic: the block's own, or a peer's in its cluster; the byte in it (R64). -/
def Dev.AtomicPlace (d : Dev) (n : Nat) (b : Block) (x : AtomicArgs) (o : Nat) (place : Nat × Block × Nat) : Prop :=
  (x.cls = .workgroup ∧ o + x.size ≤ b.lsBytes ∧ place = (n, b, o)) ∨
    (x.cls = .clusterLocal ∧ d.clusterPlace b o x.size = some place)

/-- The word that an atomic finds in a local store. -/
def Dev.lsWord (d : Dev) (m : Nat) (p : Block) (o size : Nat) : Nat := leNat ((d.brick m).ls.read (p.lsBase + o) size)

/-- The device with an atomic's result in a local store, where it has one. -/
def Dev.lsPut (d : Dev) (m : Nat) (p : Block) (o size : Nat) (result : Option Nat) : Dev :=
  match result with
  | some v => d.modBrick m (fun y => { y with ls := y.ls.write (p.lsBase + o) (leBytes size v) })
  | none => d

/-- An atomic on a local store: the word it leaves, and what it found (R64, R85). -/
theorem atomicLocal_eq {d : Dev} {n : Nat} {b : Block} {op : AtomOp} {x : AtomicArgs} {l : LaneAtomic} {m o : Nat} {p : Block}
    (hplace : d.AtomicPlace n b x l.addr.toNat (m, p, o)) :
    d.atomicLocal n b (decide (x.cls = .clusterLocal)) x.size op l =
      (d.lsPut m p o x.size (op.result x.size (d.lsWord m p o x.size) l), d.lsWord m p o x.size) := by
  rcases hplace with ⟨hcls, hfits, hsame⟩ | ⟨hcls, hpeer⟩
  · obtain ⟨rfl, rfl, rfl⟩ : m = n ∧ p = b ∧ o = l.addr.toNat := by simpa using hsame
    simp only [Dev.atomicLocal, hcls, reduceCtorEq, decide_false, Bool.false_eq_true, if_false, hfits, if_true, Dev.lsRead, Dev.lsWrite]
    rfl
  · simp only [Dev.atomicLocal, hcls, decide_true, if_true, hpeer, Dev.lsRead, Dev.lsWrite]
    rfl

theorem oneAtomic_local {d : Dev} {n : Nat} {b : Block} {op : AtomOp} {x : AtomicArgs} {l : LaneAtomic} {place : Nat × Block × Nat}
    (hplace : d.AtomicPlace n b x l.addr.toNat place) :
    d.oneAtomic n b op x l =
      if op = .store then (d.atomicLocal n b (decide (x.cls = .clusterLocal)) x.size op l).1
      else (d.atomicLocal n b (decide (x.cls = .clusterLocal)) x.size op l).1.give n b.bref l.thread
        (atomValue x.size (d.atomicLocal n b (decide (x.cls = .clusterLocal)) x.size op l).2) := by
  rcases hplace with ⟨hcls, -⟩ | ⟨hcls, -⟩ <;> simp only [Dev.oneAtomic, hcls, reduceCtorEq, decide_true, decide_false]

theorem oneAtomic_memory {d : Dev} {n : Nat} {b : Block} {op : AtomOp} {x : AtomicArgs} {l : LaneAtomic}
    (hcls : x.cls ∈ [StorageClass.buffer, .physical, .image]) :
    d.oneAtomic n b op x l = d.fresh.2.startPath n b x.cls (.atomic op) x.size [atomicLane l x.size d.freeCtr] := by
  have hclass : x.cls = .buffer ∨ x.cls = .physical ∨ x.cls = .image := by simpa using hcls
  rcases hclass with h | h | h <;> simp only [Dev.oneAtomic, h]

/-- The part of an atomic as it begins. -/
def atomicPart (va : Wide) (size : Nat) : PartRun := { PartRun.reading va size with data := List.replicate (max 4 size) 0 }

/-- An atomic at the home slice of this device's memory (R85). -/
theorem herePart_atomic {d d2 : Dev} {x : LaneAt} {op : AtomOp} {l : LaneAtomic} {p : PartRun} {leaf : Wide} {a m old : Nat}
    (hregion : regionOf a = .dram m)
    (hhome : (d.evictLine x.brick (a / 64)).atomicHome x.req.asker (bitsN leaf 7 6 ≠ 2) (some (bitsN leaf 53 52)) a x.size
      (fun old => op.result x.size old l) = (d2, .ok, old)) :
    d.herePart x (.atomic op) (some l) p leaf a =
      (d2.afterMax op x.size a .ok old, p.ended (leBytes (max 4 x.size) old)) := by
  simp only [Dev.herePart, Dev.hereAtomic, hregion, hhome]
  rfl

theorem atomicResult {op : AtomOp} {l : LaneAtomic} {size free old : Nat} {p : PartRun} :
    LaneRun.result { atomicLane l size free with parts := [p.ended (leBytes (max 4 size) old)] } (.atomic op) =
      if op = .store then none else some (atomValue size old) := by
  cases op <;> simp [LaneRun.result, atomicLane, PartRun.ended, atomValue]

/-- Settles O24: after the checks an atomic of one lane is either the local store's, or an instruction of one part that is performed
at the home slice at once. -/
theorem atomicsComplete : Obligations.AtomicsComplete := by
  refine ⟨?_, ?_, ?_, ?_⟩
  · rintro s i op x l n b m p o old d1 hrow hres hlanes hruns hacts hsize haligned himage hplace rfl rfl
    have hlocal : s.dev.AtomicPlace n b x l.addr.toNat (m, p, o) :=
      hplace.imp (fun ⟨hcls, hfits, hm, hp, ho⟩ => ⟨hcls, hfits, by rw [hm, hp, ho]⟩) id
    have hcls : x.cls ≠ .image := by
      rcases hlocal with ⟨h, -⟩ | ⟨h, -⟩ <;> simp [h]
    have hformed := atomicFormed_one hlanes hruns hsize (by simp [himage, hcls]) fun h => absurd h hcls
    rw [atomic_one hrow hres hlanes hacts hformed fun _ => haligned, oneAtomic_local hlocal, atomicLocal_eq hlocal]
    rfl
  · intro s i op x l n b d y d1 leaf a m d2 old hrow hres hnumbered hlanes hruns hacts hsize haligned himage hcls hone hholds hplace
      hregion hhome hholds2
    have hclass : x.cls ≠ .image := by
      rintro h
      simp [h] at hcls
    have hformed := atomicFormed_one hlanes hruns hsize (by simp [himage, hclass]) fun h => absurd h hclass
    obtain ⟨hbrick, hysize⟩ : y.brick = n ∧ y.size = x.size := by
      obtain ⟨-, rfl⟩ := Prod.mk.inj hone
      exact ⟨rfl, rfl⟩
    rw [← hbrick, ← hysize] at hhome
    have hparts : (atomicLane l x.size s.dev.freeCtr).parts = [atomicPart l.addr x.size] := by
      simp [atomicLane, himage, atomicPart]
    have hlane := laneOn_here (op := .atomic op) (own := (((d.cmd? b.ring b.serial).map Cmd.ownRanges).getD [])) himage hparts rfl rfl
      (by simp [atomicPart, PartRun.reading, PartRun.fresh]) hplace (herePart_atomic (p := atomicPart l.addr x.size) hregion hhome)
    rw [hysize] at hlane
    rw [atomic_one hrow hres hlanes hacts hformed fun _ => haligned, oneAtomic_memory (mem_memoryClasses hcls),
      startPath_ends hnumbered (resident_goes (d := s.dev.fresh.2) hres rfl) hone hholds hlane hholds2 himage
        (by simp [PartRun.ended]) rfl, atomicResult]
  · intro s i op x l n b d y d2 l2 hrow hres hnumbered hlanes hruns hacts hcls hsize4 hop hsize himage hone hholds hlane hholds2
      himage2 hdone hthread
    have hformed := atomicFormed_one hlanes hruns hsize (by simp [himage, hcls]) fun _ => ⟨hsize4, hop⟩
    rw [atomic_one hrow hres hlanes hacts hformed (absurd hcls), oneAtomic_memory (by simp [hcls]), hcls, hsize4,
      startPath_ends hnumbered (resident_goes (d := s.dev.fresh.2) hres rfl) hone hholds hlane hholds2 himage2 hdone hthread]
  · intro s i op x n b hrow hres htogether hsize hcls himages hbad
    exact atomic_misaligned hrow hres ⟨htogether, hsize, fun l hl => by simp [himages l hl, hcls], fun h => absurd h hcls⟩ hcls hbad

end Sys2Proof.Machine
end
